-- ==== Sys2Proof/Word.lean ====
section
/-! DEFINITION. The words of the module: byte, word, double word and their little-endian packing (R5, R6). -/

namespace Sys2Proof

/-- One byte (R6: byte 0 is at the lowest address). -/
abbrev Byte := BitVec 8

/-- "Word" alone means 32 bits (R5). -/
abbrev Word := BitVec 32

/-- A 64-bit register or address word. -/
abbrev DWord := BitVec 64

end Sys2Proof
end

