-- ==== Sys2Proof/Syntax.lean ====
section
/-! DEFINITION. The commands of the module: one constructor of Instr for each row of spec/opcode_table.json, with the operands each carries (descriptor fields by Tables 10.9 to 10.18). -/

namespace Sys2Proof

/-- The descriptor header of Table 10.9, less its opcode and phase. -/
structure Header where
  cmpl : Bool
  irq : Bool
  guard : Bool
  slot : Nat
  group : Nat
  tag : Nat
  pos : Nat
  tensorId : Nat
  layer : Nat
  deriving DecidableEq, Repr, Inhabited

/-- MATMUL body, Table 10.12. -/
structure MatmulBody where
  a : Nat
  b : Nat
  out : Nat
  aux : Nat
  saved : Nat
  weightId : Nat
  wcheck : Bool
  version : Nat
  accTile : Nat
  dwTile : Nat
  splitN : Nat
  start : Nat
  kind : Nat
  dir : Nat
  pass : Nat
  preload : Nat
  order : Bool
  shared : Bool
  close : Bool
  passThrough : Bool
  transA : Bool
  transB : Bool
  elemA : Bool
  elemB : Bool
  glen : Nat
  fileA : Nat
  fileB : Nat
  outMode : Bool
  rounding : Bool
  rngMode : Bool
  rowSrc : Bool
  rowBase : Nat
  scaleMode : Bool
  autoRetry : Bool
  underBits : Nat
  histBase : Nat
  fn : Nat
  fnDir : Bool
  alpha : Nat
  deriving DecidableEq, Repr, Inhabited

/-- VECOP body, Table 10.13. -/
structure VecopBody where
  vop : Nat
  fn : Nat
  k : Nat
  norm : Nat
  outMode : Bool
  rngMode : Bool
  stochastic : Bool
  in0 : Nat
  in1 : Nat
  in2 : Nat
  out0 : Nat
  out1 : Nat
  threshold : Nat
  s0 : Nat
  s1 : Nat
  file0 : Nat
  file1 : Nat
  file2 : Nat
  histBase : Nat
  stats : Bool
  deriving DecidableEq, Repr, Inhabited

/-- SCAN body, Table 10.14. -/
structure ScanBody where
  mode : Nat
  aMode : Bool
  reverse : Bool
  gateShift : Bool
  cinEn : Bool
  outMode : Bool
  chunkLen : Nat
  chunk : Nat
  nchunks : Nat
  a : Nat
  b : Nat
  out : Nat
  record : Nat
  cin : Nat
  foldOut : Nat
  deriving DecidableEq, Repr, Inhabited

/-- MOVE body, Table 10.15. -/
structure MoveBody where
  srcHost : Bool
  dstHost : Bool
  length : Nat
  src : Nat
  dst : Nat
  arg0 : Nat
  arg1 : Nat
  mark : Nat
  markFrac : Nat
  deriving DecidableEq, Repr, Inhabited

/-- REDUCE body, Table 10.17. -/
structure ReduceBody where
  bucket : Nat
  op : Nat
  word : Bool
  rank : Nat
  src : Nat
  plan : Nat
  backup : Nat
  backupEn : Bool
  dst : Nat
  deadline : Nat
  deadlineFrac : Nat
  deadlineEn : Bool
  deriving DecidableEq, Repr, Inhabited

/-- DISPATCH and COMBINE body, Table 10.17. -/
structure DispatchBody where
  tokens : Nat
  route : Nat
  weights : Nat
  out : Nat
  capacity : Nat
  policy : Nat
  k : Nat
  plan : Nat
  deriving DecidableEq, Repr, Inhabited

/-- UPDATE body, Table 10.17. -/
structure UpdateBody where
  weightId : Nat
  gsrc : Bool
  gword : Bool
  grad : Nat
  gradAddr : Nat
  hyper : Nat
  deriving DecidableEq, Repr, Inhabited

/-- STASH_SAVE body, Table 10.17. -/
structure StashSaveBody where
  src : Nat
  weightId : Nat
  recompute : Bool
  file : Nat
  deriving DecidableEq, Repr, Inhabited

/-- STASH_LOAD body, Table 10.17. -/
structure StashLoadBody where
  index : Nat
  clove : Nat
  release : Bool
  listEn : Bool
  list : Nat
  dst : Nat
  deriving DecidableEq, Repr, Inhabited

/-- GATE body, Table 10.18. -/
structure GateBody where
  mark : Nat
  frac : Nat
  pass : Bool
  deriving DecidableEq, Repr, Inhabited

/-- One wait of a DEPEND, Table 10.18. -/
structure Wait where
  seq : Nat
  stream : Nat
  allPrior : Bool
  valid : Bool
  deriving DecidableEq, Repr, Inhabited

/-- CALL body, Table 10.18. -/
structure CallBody where
  list : Nat
  slotEn : Bool
  slot : Nat
  posAdd : Nat
  deriving DecidableEq, Repr, Inhabited

/-- SCALE_COMMIT body, Table 10.18. -/
structure ScaleCommitBody where
  first : Nat
  count : Nat
  headroom : Nat
  dst : Nat
  deriving DecidableEq, Repr, Inhabited

/-- STEP_COMMIT body, Table 10.18. -/
structure StepCommitBody where
  vote : Nat
  veto : Bool
  plan : Nat
  deadline : Nat
  deadlineFrac : Nat
  deadlineEn : Bool
  deriving DecidableEq, Repr, Inhabited

/-- EVENT body, Table 10.18. -/
structure EventBody where
  addr : Nat
  value : Nat
  host : Bool
  writeEn : Bool
  irqEn : Bool
  vector : Nat
  deriving DecidableEq, Repr, Inhabited

/-- A descriptor as a stream holds it (Table 10.10): the opcode and its body. -/
inductive Desc where
  | nop
  | matmul (b : MatmulBody)
  | vecop (b : VecopBody)
  | scan (b : ScanBody)
  | move (kind : Nat) (b : MoveBody)
  | reduce (b : ReduceBody)
  | dispatch (b : DispatchBody)
  | combine (b : DispatchBody)
  | gate (b : GateBody)
  | depend (waits : List Wait)
  | barrier
  | call (b : CallBody)
  | update (b : UpdateBody)
  | stashSave (b : StashSaveBody)
  | stashLoad (b : StashLoadBody)
  | scaleCommit (b : ScaleCommitBody)
  | stepCommit (b : StepCommitBody)
  | event (b : EventBody)
  | reserved (opcode : Nat)
  deriving DecidableEq, Repr, Inhabited

/-- A memory unit of Table 13.5, by its unit code. -/
abbrev UnitId := Nat

/-- The first-setter record of R186. -/
structure FirstSetter where
  tally : Nat
  node : Nat
  layer : Nat
  tensor : Nat
  deriving DecidableEq, Repr, Inhabited

/-- The trailer of a bucket, Table 12.3, less the bucket number and what a root fills in. -/
structure Trailer where
  count : Nat
  expected : Nat
  nonfinite : Bool
  clipped : Bool
  short : Bool
  backupUsed : Bool
  twoPhase : Bool
  op : Nat
  word : Bool
  partialIn : Bool
  e : Int
  maxExp : Option Int
  tag : Nat
  tally : Nat
  elements : Nat
  clippedCount : Nat
  backups : Nat
  late : Nat
  first : Option FirstSetter
  deriving DecidableEq, Repr, Inhabited

/-- The token record of R313. -/
structure TokenRec where
  origin : Nat
  choice : Nat
  row : Nat
  expert : Nat
  epoch : Nat
  round : Nat
  deriving DecidableEq, Repr, Inhabited

/-- What one contribution of an upward input says of itself when its last chunk comes (R292, R302, R305). -/
structure InputMeta where
  count : Nat
  nonfinite : Bool
  clipped : Bool
  clippedCount : Nat
  maxExp : Option Int
  backupUsed : Bool
  partialIn : Bool
  backups : Nat
  late : Nat
  backupNode : Option Nat
  first : Option FirstSetter
  deriving DecidableEq, Repr, Inhabited

/-- A backup copy of R304, as it arrives whole. -/
structure BackupCopy where
  bucket : Nat
  standIn : Nat
  sender : Nat
  e : Int
  words : List Int
  info : InputMeta
  deriving DecidableEq, Repr, Inhabited

/-- A tally message of R226. -/
structure TallyMsg where
  pair : Nat
  frac : Nat
  rate : Nat
  sender : Nat
  master : Nat
  hop : Nat
  flags : Nat
  t2 : Nat
  t3 : Nat
  deriving DecidableEq, Repr, Inhabited

/-- What a flit's payload carries, by traffic class (R277, R299, R300, R313, R226, R334). -/
inductive Payload where
  | idle
  | frame (lane port node : Nat)
  | lctrl (code lane : Nat)
  | bytes (b : List Byte)
  | chunkUp (bucket tree : Nat) (words : List Int) (info : Option InputMeta)
  | chunkDown (bucket tree : Nat) (words : List Int) (trailer : Option Trailer)
  | grant (bucket tree n : Nat)
  | copy (c : BackupCopy)
  | shadowTrailer (bucket : Nat) (t : Trailer)
  | request (plan expert origin round count epoch : Nat)
  | allot (plan expert origin round count : Nat)
  | token (r : TokenRec) (row : List Byte)
  | output (r : TokenRec) (row : List Byte)
  | tally (kind : Nat) (m : TallyMsg)
  | error (lostLength : Nat)
  deriving DecidableEq, Repr, Inhabited

/-- What a receiver finds beside a flit's fields and payload: its CRC as it came, its reserved header bits (the three at 0x00 below
the five at 0x08), whether every codeword that it touches could be corrected, whether one that could not ends in it, and the symbols
that the FEC corrected in it (R276, R277, R422). -/
structure FlitCheck where
  crc : Nat
  res : Nat
  codeword : Bool
  lastBad : Bool
  corrected : Nat
  deriving DecidableEq, Repr, Inhabited

/-- What a request asks for, and the epoch of the home entry by which it was sent (R314, R319). -/
structure Ask where
  count : Nat
  epoch : Nat
  deriving DecidableEq, Repr, Inhabited

/-- A blade that feeds again, and its voltage in mV (R381). -/
structure BladeIn where
  bladeB : Bool
  mv : Nat
  deriving DecidableEq, Repr, Inhabited

/-- A flit, Table 11.3: the fields of its header, what its payload says, and the payload's bytes; those after them are 0. -/
structure Flit where
  kind : Nat
  vc : Nat
  eom : Bool
  laneSeq : Nat
  ackLane : Nat
  nak : Bool
  ackSeq : Nat
  dst : Nat
  src : Nat
  vcSeq : Nat
  length : Nat
  crVc : Nat
  crTotal : Nat
  ctx : Nat
  payload : Payload
  data : List Byte
  deriving DecidableEq, Repr, Inhabited

/-- What the start-up self-test finds failing (R345, R355, R401), and the blades' voltages as main power comes up (Table
15.9), mV. -/
structure StartFaults where
  cloves : List Nat
  banks : List (Nat × Nat)
  channels : List Nat
  tiles : List Nat
  canaries : List Nat
  engines : List Nat
  ucodeBad : Bool
  lt0Ok : Bool
  vinA : Nat
  vinB : Nat
  deriving DecidableEq, Repr, Inhabited

/-- What the governor and its monitors measure (R382, R385, R388, R389). -/
structure Sense where
  vinA : Nat
  vinB : Nat
  iinA : Nat
  iinB : Nat
  pin10us : Nat
  pin10ms : Nat
  pin60s : Nat
  jmax : Nat
  jdie : Nat
  hbmMax : Nat
  coolIn : Nat
  coolOut : Nat
  flow : Nat
  deriving DecidableEq, Repr, Inhabited

/-- The commands. `s` is a stream, `p` a port or a physical clove as its docstring's row says. -/
inductive Instr where
  | nop (s : Nat) (h : Header)
  | matmul (s : Nat) (h : Header) (b : MatmulBody)
  | bwdPair (s : Nat) (h : Header) (b : MatmulBody)
  | productTableMatmul (s : Nat) (h : Header) (b : MatmulBody)
  | vecop (s : Nat) (h : Header) (b : VecopBody)
  | scan (s : Nat) (h : Header) (b : ScanBody)
  | moveCopy (s : Nat) (h : Header) (b : MoveBody)
  | moveScaleFile (s : Nat) (h : Header) (b : MoveBody)
  | moveInt4Table (s : Nat) (h : Header) (b : MoveBody)
  | moveRowBank (s : Nat) (h : Header) (b : MoveBody)
  | moveSpline (s : Nat) (h : Header) (b : MoveBody)
  | moveGroup (s : Nat) (h : Header) (b : MoveBody)
  | moveWeightTable (s : Nat) (h : Header) (b : MoveBody)
  | moveStatSlot (s : Nat) (h : Header) (b : MoveBody)
  | snapshot (s : Nat) (h : Header) (b : MoveBody)
  | seed (s : Nat) (h : Header) (b : MoveBody)
  | keyseed (s : Nat) (h : Header) (b : MoveBody)
  | deliver (s : Nat) (h : Header) (b : MoveBody)
  | reduce (s : Nat) (h : Header) (b : ReduceBody)
  | dispatch (s : Nat) (h : Header) (b : DispatchBody)
  | combine (s : Nat) (h : Header) (b : DispatchBody)
  | gate (s : Nat) (h : Header) (b : GateBody)
  | depend (s : Nat) (h : Header) (w : List Wait)
  | barrier (s : Nat) (h : Header)
  | call (s : Nat) (h : Header) (b : CallBody)
  | update (s : Nat) (h : Header) (b : UpdateBody)
  | stashSave (s : Nat) (h : Header) (b : StashSaveBody)
  | stashLoad (s : Nat) (h : Header) (b : StashLoadBody)
  | scaleCommit (s : Nat) (h : Header) (b : ScaleCommitBody)
  | stepCommit (s : Nat) (h : Header) (b : StepCommitBody)
  | event (s : Nat) (h : Header) (b : EventBody)
  | descriptorTake (s : Nat)
  | completionEntryWrite (s : Nat)
  | itemHandout (pod : Nat)
  | workSteal (pod : Nat)
  | contextSwitch (clove : Nat) (exUnit : Nat) (readyMask : Nat)
  | tileWaitOpen (clove : Nat) (tile : Nat)
  | sharedMemberAdd (clove : Nat) (tile : Nat)
  | combinePartialReceive (clove : Nat) (tile : Nat)
  | stolenChunkReceive (clove : Nat) (tile : Nat)
  | tileDrain (clove : Nat)
  | drainPassEnd (clove : Nat)
  | redrainComplete (clove : Nat)
  | stashSaveResume (s : Nat)
  | updateStart (w : Nat)
  | voteResult (bucket : Nat) (nonfinite short : Bool) (first : FirstSetter)
  | streamEnable (s : Nat)
  | streamDisable (s : Nat)
  | streamResume (s : Nat)
  | streamAbort (s : Nat)
  | streamRestart (s : Nat)
  | stallDetect (s : Nat) (waitsFor : Nat)
  | sqDb (s : Nat) (value : Nat)
  | cqDb (s : Nat) (value : Nat)
  | eqDb (value : Nat)
  | msixModTimer (v : Nat)
  | msixUnmask (v : Nat)
  | glbIrqTest (value : Nat)
  | bar4Read (offset length : Nat)
  | bar4Write (offset : Nat) (data : List Byte)
  | hbmRowRemapDone (channel : Nat)
  | trackerEntryExpire (unit : UnitId) (addr : Nat)
  | scrubWindowOpen
  | scrubWindowClose
  | scrubForcedStart (hbm : Bool)
  | scrubForcedRate (hbm : Bool)
  | scrubPassComplete (hbm : Bool)
  | memInjArm (unit : UnitId) (value : Nat)
  | hbmRetire (value : Nat)
  | hbmMigrationDone (channel : Nat)
  | arrayFault (clove : Nat) (parity : Bool)
  | spareJoin (clove : Nat)
  | canaryRun (engine : Bool) (n : Nat) (ok : Bool)
  | canaryNow (clove : Nat) (ok : Bool)
  | quarReq (value : Nat)
  | lockstepMismatch (tile : Nat)
  | clockFault (tile : Nat)
  | tempDisagree (die : Nat) (hot : Nat)
  | linkAdderResidueFault (linkTile lane bucket : Nat)
  | updateResidueFault (tile : Nat) (w : Nat)
  | ucodeGo
  | ucodeApply
  | stewardSwitch
  | stewardRestartDone (ok : Bool)
  | quadEdge (a b : Bool)
  | zPulse
  | zMissing
  | serialFrame (ftype flags epoch count frac crc : Nat)
  | fabricTick (port : Nat) (m : TallyMsg)
  | fabricPing (port : Nat) (m : TallyMsg)
  | fabricEcho (port : Nat) (m : TallyMsg)
  | pingTimer
  | tickSendTimer
  | pairFault (pair : Nat)
  | pairRestore (pair : Nat)
  | illegalLimit
  | illegalRecover
  | framesTimeout
  | holdoverExpire
  | tallyBusStamp
  | alarmFire (n : Nat)
  | gateRelease (s : Nat)
  | tallyCtrlSrc (src : Nat)
  | tallyPreset (pair : Nat)
  | tallyNowLoRead
  | almArm (n : Nat) (value : Nat)
  | almDisarm (n : Nat) (value : Nat)
  | tallyTestGo
  | tallyTestDone (pass : Nat)
  | portEnable (p : Nat)
  | portDisable (p : Nat)
  | portRetrain (p : Nat)
  | portDetect (p : Nat) (termination driver : Bool)
  | portTrainDone (p : Nat) (trained inverted : Nat) (arrived : List Nat)
  | portAlignDone (p : Nat) (locked : Nat)
  | identExchange (p : Nat) (node port : Nat)
  | portCreditDone (p : Nat) (credits : List Nat)
  | flitSend (p : Nat)
  | flitReceive (p : Nat) (lane : Nat) (f : Flit) (check : FlitCheck)
  | replayTimeout (p : Nat) (lane : Nat)
  | laneFailure (p : Nat) (lane : Nat)
  | laneFail (p : Nat) (lane : Nat)
  | recalReq (p : Nat) (lane : Nat)
  | recalAck (p : Nat) (lane : Nat)
  | recalDone (p : Nat) (lane : Nat)
  | portKeepExpire (p : Nat)
  | pmOwn (p : Nat) (lane : Nat)
  | pmInject (p : Nat) (lane : Nat)
  | bucketArm (bucket : Nat)
  | grantReceive (port bucket tree n : Nat)
  | reduceChunkReceive (port bucket tree : Nat) (words : List Int) (info : Option InputMeta)
  | resultChunkReceive (port bucket tree : Nat) (words : List Int) (trailer : Option Trailer)
  | reduceDeadline (bucket tree : Nat)
  | backupCopyReceive (c : BackupCopy)
  | copyHoldExpire (bucket standIn : Nat)
  | shadowTrailerReceive (bucket : Nat) (t : Trailer)
  | lnkBktWrite (value : Nat)
  | lnkBktCancel (bucket : Nat)
  | countResult (plan round : Nat) (counts : List Nat)
  | countTimeout (plan : Nat)
  | dispatchRequestReceive (plan expert origin round : Nat) (ask : Ask)
  | dispatchGrantReceive (plan expert round count : Nat)
  | tokenRecordReceive (r : TokenRec) (row : List Byte)
  | expertOutputReceive (r : TokenRec) (row : List Byte)
  | homeDataRead (linkTile : Nat)
  | homeDataWrite (linkTile : Nat) (value : Nat)
  | homeLoadGo (linkTile : Nat)
  | homeLoadDone (linkTile : Nat)
  | schedBwsplitWrite (value : Nat)
  | slotLenWrite (i : Nat) (value : Nat)
  | phaseInterlockWrite (value : Bool)
  | glbSnapStrobe (clear : Bool)
  | autoSnapshot
  | snapshotDistributed
  | registerWrite (addr size value : Nat)
  | clvBistGo (clove : Nat)
  | clvBistDone (clove : Nat) (fail : Nat)
  | hbmMbistGo (channel : Nat)
  | hbmMbistDone (channel : Nat) (rows : List Nat)
  | bypass
  | samplePreload (preload : List Nat) (pins : List Nat)
  | extest
  | idcode
  | clamp
  | highz
  | readVin
  | readIin
  | readPin
  | readTemperature1
  | readTemperature2
  | statusWord
  | statusInput
  | statusTemperature
  | clearFaults
  | auxPowerOn (okA okB : Bool)
  | mainPowerEnable (f : StartFaults)
  | resetN (f : StartFaults)
  | glbResetModule (value : Nat) (f : StartFaults)
  | glbResetHost (value : Nat)
  | functionLevelReset
  | hostPerst (level : Bool)
  | pcieLinkDown
  | lcCmd (cmd : List Byte) (f : StartFaults)
  | bladeLoss (bladeB : Bool) (mv : Nat) (reversed open_ : Bool)
  | bladeReturn (x : BladeIn)
  | supplyWarning (mv : Nat)
  | supplyQualStart
  | supplyRecover
  | clockReturnStep
  | brownOut
  | overVoltage
  | mainPowerRestart (f : StartFaults)
  | governorEvaluate (m : Sense)
  | currentLimitTrip
  | currentRestore
  | overcurrentReset
  | boostPlanArm (i : Nat) (arm : Bool)
  | boostStartMark (i : Nat) (m : Sense) (avg58 : Nat)
  | boostEndMark (i : Nat)
  | boostDurationExpire
  | govBoostEnWrite (v : Bool)
  | govCancel
  | wearLedgerUpdate
  | coolantOut (coolIn flow : Nat)
  | thermalThrottle (jmax hbmMax : Nat)
  | thermalShutdown
  | thermalRestart (cool : Bool) (f : StartFaults)
  | workItemComplete (clove ctx : Nat)
  | updateComplete (w : Nat)
  | scrubRead (unit : UnitId) (addr : Nat)
  | eyeMonitorBelowMargin (p lane height width : Nat)
  | qualificationAbandoned
  | aux3v3Loss
  | pcieLinkUp (rate width : Nat)
  | peppermillLock (p lane : Nat)
  | peppermillLostLock (p lane : Nat)
  deriving DecidableEq, Repr

end Sys2Proof
end

