-- ==== Sys2Proof/Decode.lean ====
section
/-! DEFINITION. The command a table word spells: spec/opcode_table.json gives no row any bits, so no word spells one. Descriptors are read from memory by Table 10.9 and its bodies in Machine/Descriptors.lean. -/

namespace Sys2Proof

/-- The command that a word of `nbits` bits spells by the table's bits. -/
def decodeTableWord (_nbits _w : Nat) : Option Instr := none

end Sys2Proof
end

