-- ==== Sys2Proof/Config.lean ====
section
/-! DEFINITION. What one module fixes, and the free values: constants without a body, of which nothing can be proved (log 4, log 10, log 12). -/

namespace Sys2Proof.Config

/-- R120, R124: core cycles since the seed load when the `n`-th FREE draw is made. A free value (log 4). -/
opaque freeCycles : Nat → Nat

/-- R408: the value the steward puts into LC_NONCE for the `n`-th time. A free value (log 12). -/
opaque nonce : Nat → BitVec 256

/-- R408, R365, R366, R398: whether an ECDSA P-384 signature over these bytes verifies against
the key named (0 Vienawick's, 1 the owner's). A free value (log 12). -/
opaque ecdsaOk : Nat → List (BitVec 8) → Bool

/-- R365: the version of the image at a module address, when its signature verifies. A free value (log 10). -/
opaque ucodeImage : Nat → Nat → Option Nat

/-- R410: the serial number of this module. -/
opaque serial : BitVec 64

/-- R400, R369: the version of the microcode bundled with the firmware image of a slot (0 A, 1 B) and a version. -/
opaque ucodeBundle : Nat → Nat → BitVec 16

/-- R398: the fused minimum firmware version. -/
opaque fwMinimum : BitVec 16

/-- R359, R367: whether the bytes of a steward command are the one that clears ledger entries: no rule gives its code. A free value
(log 132). -/
opaque clearsLedger : List (BitVec 8) → Bool

/-- R369: firmware versions of slots A and B as shipped. -/
opaque fwVersionA : BitVec 16
/-- As `fwVersionA`, for slot B. -/
opaque fwVersionB : BitVec 16

/-- R434, R410: silicon revision 1, the one the manual describes (log 12). -/
def siliconRevision : Nat := 1

/-- R242: the vendor ID under which the device ID stands: a free value. -/
opaque vendorId : BitVec 16

/-- R242: the device ID and the class code of function 0, the module's one function. -/
def deviceId : Nat := 0xAF16
def classCode : Nat := 0x120000

/-- R244: the size that the host has selected for the resizable BAR4, 1 GiB times this power of two. A free value (log 94). -/
opaque bar4Sel : Fin 7

/-- R376: the strap value that pins ADDR2 to ADDR0 give. -/
opaque strap : BitVec 3

/-- R288: the pair at which the module's own logic sets recalibration alarm `n` after it fired at a pair, or at reset after 0.
A free value (log 67). -/
opaque recalMark : Nat → Nat → BitVec 64

/-- R394: what a PMBus status command reports of faults the manual does not lay out. A free value (log 13). -/
opaque pmbusStatus : Nat → Nat → Nat

/-- R170: the rank of a free page, by its address, when the `n`-th stash entry takes its pages. A free value (log 18). -/
opaque pageRank : Nat → Nat → Nat

/-- R310: the group length code of the P3 products of a low-rank exchange. A free value (log 31). -/
opaque lowrankGlen : Nat

/-- R327: the byte offsets of the 64-bit words that entry `n` of table `k` takes in the stores of a tile sequencer: table 0 the groups,
1 the weights, 2 the statistics slots, 3 the bucket exponents. A free value (log 130). -/
opaque seqPlace : Nat → Nat → List Nat

/-- R277, R287, R300, R304, R305, R314, R226: byte `n` of a message of kind `k` with these fields, where no rule lays the message out. A
free value (log 64). -/
opaque msgByte : Nat → List Nat → Nat → BitVec 8

/-- Where a rule states no result for a value: the `n`-th such bit pattern drawn. A free value (log 4). -/
opaque freeWord : Nat → BitVec 64

end Sys2Proof.Config
end

