-- ==== Sys2Proof/Machine/Num.lean ====
section
/-! DEFINITION. Exact values and the one way to place a value among the codes of a format: dyadic and logarithmic numbers, log2 and 2^x to any precision, rounding positions (R39 to R44). -/

namespace Sys2Proof.Machine

/-- An IEEE value held exactly: `fin neg m e` is `±m·2^e` with `m ≠ 0`. -/
inductive Num where
  | nan (neg : Bool)
  | inf (neg : Bool)
  | zero (neg : Bool)
  | fin (neg : Bool) (m : Nat) (e : Int)
  deriving DecidableEq, Repr, Inhabited

/-- A decoded element: an IEEE value, or a logarithmic one, `±2^(l/2^23)` (R28 to R31). -/
inductive Val where
  | num (n : Num)
  | lg (neg : Bool) (l : Int)
  deriving DecidableEq, Repr, Inhabited

/-- The sign of a value, of a zero or a NaN too. -/
def Num.neg : Num → Bool
  | .nan s => s
  | .inf s => s
  | .zero s => s
  | .fin s _ _ => s

/-- The sign of a decoded element. -/
def Val.neg : Val → Bool
  | .num n => n.neg
  | .lg s _ => s

/-- `±m·2^e`, a zero of that sign when `m` is 0. -/
def mkNum (neg : Bool) (m : Nat) (e : Int) : Num :=
  if m = 0 then .zero neg else .fin neg m e

/-- `m·2^e` for a signed `m`; a zero is +0 (R74). -/
def ofInt (m : Int) (e : Int) : Num :=
  mkNum (decide (m < 0)) m.natAbs e

/-- The value with its sign turned; a NaN keeps its sign: DESIGN CHOICE, see log 102. -/
def Num.negate : Num → Num
  | .nan s => .nan s
  | .inf s => .inf (!s)
  | .zero s => .zero (!s)
  | .fin s m e => .fin (!s) m e

/-- Whether the value is an infinity or a NaN. -/
def Num.special : Num → Bool
  | .nan _ => true
  | .inf _ => true
  | _ => false

/-- IEEE 754 multiplication, exact; a NaN keeps its sign (R37, Table 3.2). DESIGN CHOICE, see log 102: the left one's when
both are NaN. -/
def Num.mul : Num → Num → Num
  | .nan s, _ => .nan s
  | _, .nan s => .nan s
  | .inf _, .zero _ => .nan false
  | .zero _, .inf _ => .nan false
  | .inf s, b => .inf (s != b.neg)
  | a, .inf s => .inf (a.neg != s)
  | .zero s, b => .zero (s != b.neg)
  | a, .zero s => .zero (a.neg != s)
  | .fin s m e, .fin t n f => .fin (s != t) (m * n) (e + f)

/-- The signed mantissa of a finite value at exponent `e`, for `e` at most its own. -/
def signedAt (neg : Bool) (m : Nat) (d : Int) : Int :=
  let v : Int := (m * 2 ^ d.toNat : Nat)
  if neg then -v else v

/-- IEEE 754 addition, exact: the zero rule of R74 and the NaN rule of R73. Outside the accumulator the left NaN's sign is a
DESIGN CHOICE, see log 102. -/
def Num.add : Num → Num → Num
  | .nan s, _ => .nan s
  | _, .nan s => .nan s
  | .inf s, .inf t => if s = t then .inf s else .nan false
  | .inf s, _ => .inf s
  | _, .inf s => .inf s
  | .zero s, .zero t => .zero (s && t)
  | .zero _, b => b
  | a, .zero _ => a
  | .fin s m e, .fin t n f =>
    let lo := min e f
    ofInt (signedAt s m (e - lo) + signedAt t n (f - lo)) lo

/-- Subtraction by adding the turned value. -/
def Num.sub (a b : Num) : Num := a.add b.negate

/-- Division: the quotient to 96 bits, with a last bit that tells an inexact one, so that any later
rounding to nearest is that of the exact quotient. -/
def Num.div : Num → Num → Num
  | .nan s, _ => .nan s
  | _, .nan s => .nan s
  | .inf _, .inf _ => .nan false
  | .zero _, .zero _ => .nan false
  | .inf s, b => .inf (s != b.neg)
  | a, .inf s => .zero (a.neg != s)
  | .zero s, b => .zero (s != b.neg)
  | a, .zero s => .inf (a.neg != s)
  | .fin s m e, .fin t n f =>
    let sh := 96 + Nat.log2 n
    let q := m * 2 ^ sh / n
    let r := m * 2 ^ sh % n
    mkNum (s != t) (2 * q + (if r = 0 then 0 else 1)) (e - f - sh - 1)

/-- Strict comparison by IEEE 754; false when either is a NaN (R38). -/
def Num.lt (a b : Num) : Bool :=
  match a, b with
  | .nan _, _ => false
  | _, .nan _ => false
  | .inf s, .inf t => s && !t
  | .inf s, _ => s
  | _, .inf t => !t
  | _, _ =>
    match a.sub b with
    | .fin s _ _ => s
    | _ => false

/-! ### log2 and 2^x -/

/-- Bits of a logarithm by repeated squaring: `x` in `[2^p, 2^(p+1))` stands for `x/2^p`; `b` further
bits are appended to `acc`. -/
def log2Bits (p : Nat) : Nat → Nat → Nat → Nat
  | 0, _, acc => acc
  | b + 1, x, acc =>
    let y := x * x / 2 ^ p
    if y ≥ 2 ^ (p + 1) then log2Bits p b (y / 2) (2 * acc + 1)
    else log2Bits p b y (2 * acc)

/-- `floor(2^b · log2 m)` for `m > 0`, and whether that is exact (`m` a power of two). -/
def log2Floor (m b : Nat) : Nat × Bool :=
  let l := Nat.log2 m
  if m = 2 ^ l then (l * 2 ^ b, true)
  else
    let p := 2 * b + 128
    (log2Bits p b (m * 2 ^ p / 2 ^ l) l, false)

/-- ln 2 with 512 fraction bits, truncated. -/
def ln2Bits : Nat := 0xb17217f7d1cf79abc9e3b39803f2f6af40f343267298b62d8a0d175b8baafa2be7b876206debac98559552fb4afa1b10ed2eae35c138214427573b291169b825

/-- ln 2 with 192 fraction bits, truncated. -/
def ln2At192 : Nat := 0xb17217f7d1cf79abc9e3b39803f2f6af40f343267298b62d

/-- Terms of the exponential series: `t` is the present term and `s` the sum, both with `p` fraction bits. -/
def expSeries (p y : Nat) : Nat → Nat → Nat → Nat → Nat
  | 0, _, _, s => s
  | f + 1, k, t, s =>
    let t' := t * y / 2 ^ p / k
    if t' = 0 then s else expSeries p y f (k + 1) t' (s + t')

/-- `e^(y/2^p)` with `p` fraction bits, for `0 ≤ y/2^p < 1`. -/
def expFix (p y : Nat) : Nat := expSeries p y 200 1 (2 ^ p) (2 ^ p)

/-- `2^(x/2^23)` with 160 fraction bits, for `x < 2^23`. -/
def exp2Frac (x : Nat) : Nat :=
  if x = 0 then 2 ^ 160
  else expFix 192 (x * ln2At192 / 2 ^ 23) / 2 ^ 32

/-! ### Positions and rounding -/

/-- A place among codes: its floor, the first 16 bits of its fraction, and whether nothing lies below them. -/
structure Pos where
  n : Int
  u : Nat
  exact : Bool
  deriving DecidableEq, Repr, Inhabited

/-- The place is an integer. -/
def Pos.whole (p : Pos) : Bool := p.u == 0 && p.exact

/-- R39 and R44: nearest with ties to even, or the choice by the 16 random bits `r`. -/
def roundPos (r : Option Nat) (p : Pos) : Int :=
  match r with
  | some r => if p.u + r < 65536 then p.n else p.n + 1
  | none =>
    if p.u < 32768 then p.n
    else if p.u > 32768 || !p.exact then p.n + 1
    else if p.n % 2 = 0 then p.n else p.n + 1

/-- R42: half a step above code `lim`, or further. -/
def beyondPos (lim : Int) (p : Pos) : Bool :=
  decide (p.n > lim) || (decide (p.n = lim) && decide (p.u ≥ 32768))

/-- A place from a fixed-point number with 16 fraction bits. -/
def posOf (x : Int) (exact : Bool) : Pos := ⟨x / 65536, (x % 65536).toNat, exact⟩

/-- The rounding position `t = 2^f · (log2 |x| − k)` of a finite non-zero value. -/
def logPos (f : Nat) (k : Int) : Val → Pos
  | .num (.fin _ m e) =>
    let (x, ex) := log2Floor m (f + 16)
    posOf ((x : Int) + (e - k) * 2 ^ (f + 16)) ex
  | .lg _ l =>
    let x := l * 2 ^ (f + 16)
    posOf (x / 2 ^ 23 - k * 2 ^ (f + 16)) (x % 2 ^ 23 = 0)
  | _ => ⟨0, 0, true⟩

/-- The binary exponent and the significand's place at `fb` fraction bits: the floor lies in `[2^fb, 2^(fb+1))`. -/
def sigPos (fb : Nat) : Val → Int × Pos
  | .num (.fin _ m e) =>
    let l := Nat.log2 m
    let y := m * 2 ^ (fb + 16)
    (e + l, posOf (y / 2 ^ l : Nat) (y % 2 ^ l = 0))
  | .lg _ l =>
    let x := (l % 2 ^ 23).toNat
    (l / 2 ^ 23, posOf (exp2Frac x * 2 ^ (fb + 16) / 2 ^ 160 : Nat) (x = 0))
  | _ => (0, ⟨0, 0, true⟩)

/-- `floor(log2 |x|)` of a finite non-zero value (Table 5.8). -/
def expOf (v : Val) : Int :=
  match v with
  | .num (.fin _ m e) => e + Nat.log2 m
  | .lg _ l => l / 2 ^ 23
  | _ => 0

/-- Round a significand to `fb` fraction bits with an unbounded exponent: the exponent and the integer significand. -/
def roundSig (fb : Nat) (r : Option Nat) (v : Val) : Int × Int :=
  let (e, p) := sigPos fb v
  let n := roundPos r p
  if n = 2 ^ (fb + 1) then (e + 1, 2 ^ fb) else (e, n)

/-- R51: the first `b` fraction bits of `2^(n/2^f)`, truncated, for `n < 2^f` and `f ≤ 23`. -/
def antilog (f n b : Nat) : Nat := exp2Frac (n * 2 ^ (23 - f)) * 2 ^ b / 2 ^ 160 - 2 ^ b

end Sys2Proof.Machine
end

