-- ==== Sys2Proof/Machine/Formats.lean ====
section
/-! DEFINITION. The number formats of the module: codes and roles (R26), decoding (R28 to R36, R96), conversion (R39 to R45, Table 2.8) and the bins it counts in. -/

namespace Sys2Proof.Machine

/-- The formats of Table 2.1. -/
inductive Fmt where
  | fp32 | bf16 | fp16 | e4m3 | e5m2 | int8 | int4z | int4t | lg4 | lg8 | lg16 | lg32
  deriving DecidableEq, Repr, Inhabited

/-- Table 2.1: the format of a 4-bit code; none for a reserved code. -/
def fmtOf : Nat → Option Fmt
  | 0x0 => some .fp32
  | 0x1 => some .bf16
  | 0x2 => some .fp16
  | 0x3 => some .e4m3
  | 0x4 => some .e5m2
  | 0x5 => some .int8
  | 0x6 => some .int4z
  | 0x7 => some .int4t
  | 0x8 => some .lg4
  | 0x9 => some .lg8
  | 0xA => some .lg16
  | 0xB => some .lg32
  | _ => none

/-- Table 2.1: bits of one element (of an LG32's high half). -/
def fmtBits : Fmt → Nat
  | .fp32 => 32
  | .bf16 | .fp16 | .lg16 | .lg32 => 16
  | .e4m3 | .e5m2 | .int8 | .lg8 => 8
  | .int4z | .int4t | .lg4 => 4

/-- Table 2.1: allowed as a weight operand. -/
def fmtWeight (f : Fmt) : Bool := f != .lg32

/-- Table 2.1: allowed as an activation or gradient operand. -/
def fmtActivation : Fmt → Bool
  | .int8 | .int4z | .int4t | .lg4 | .lg32 => false
  | _ => true

/-- Table 2.1: allowed as a drain output. -/
def fmtOutput : Fmt → Bool
  | .int8 | .int4z | .int4t | .lg32 => false
  | _ => true

/-- Table 2.1: takes a power-of-two group scale. -/
def fmtScaled : Fmt → Bool
  | .e4m3 | .e5m2 | .lg4 | .lg8 => true
  | _ => false

/-- An integer weight format of R35. -/
def fmtInteger : Fmt → Bool
  | .int8 | .int4z | .int4t => true
  | _ => false

/-- A logarithmic format. -/
def fmtLg : Fmt → Bool
  | .lg4 | .lg8 | .lg16 | .lg32 => true
  | _ => false

/-- R28 to R30: fraction bits of `L`. -/
def lgFrac : Fmt → Nat
  | .lg4 => 1
  | .lg8 => 3
  | _ => 7

/-- The `L` of the largest finite code (Tables 2.2 to 2.4). -/
def lgMax : Fmt → Int
  | .lg4 => 3
  | .lg8 => 62
  | _ => 16381

/-- The `L` of the zero code. -/
def lgZero : Fmt → Int
  | .lg4 => -4
  | .lg8 => -64
  | _ => -16384

/-- Table 2.6: exponent bits. -/
def fpExpBits : Fmt → Nat
  | .fp16 | .e5m2 => 5
  | .e4m3 => 4
  | _ => 8

/-- Table 2.6: fraction bits. -/
def fpFrac : Fmt → Nat
  | .fp32 => 23
  | .bf16 => 7
  | .fp16 => 10
  | .e4m3 => 3
  | _ => 2

/-- Table 2.6: bias. -/
def fpBias (f : Fmt) : Int := 2 ^ (fpExpBits f - 1) - 1

/-- Table 2.6: an infinity exists. -/
def fpHasInf (f : Fmt) : Bool := f != .e4m3

/-- Exponent of the largest finite magnitude. -/
def fpEMax : Fmt → Int
  | .e4m3 => 8
  | f => fpBias f

/-- Integer significand, at `fpFrac` fraction bits, of the largest finite magnitude. -/
def fpTop : Fmt → Int
  | .e4m3 => 14
  | f => 2 ^ (fpFrac f + 1) - 1

/-- Exponent of the smallest normal magnitude. -/
def fpEMin (f : Fmt) : Int := 1 - fpBias f

/-! ### Decoding -/

/-- What scales the elements of a group: an exponent, a zero block or a NaN block (Table 5.1), an FP16
scale and zero point, or a table of FP16 values (R35). -/
inductive Scale where
  | pow (k : Int)
  | zeroBlock
  | nanBlock
  | affine (a : Nat) (z : Int)
  | table (entries : List Nat)
  deriving DecidableEq, Repr, Inhabited

/-- Table 5.1: the scale of an 8-bit group scale code. -/
def scaleOfCode (c : Nat) : Scale :=
  if c = 0 then .zeroBlock else if c = 0xFF then .nanBlock else .pow ((c : Int) - 127)

/-- Two's complement reading of the low `w` bits. -/
def signedOf (w x : Nat) : Int :=
  let y := x % 2 ^ w
  if y ≥ 2 ^ (w - 1) then (y : Int) - 2 ^ w else y

/-- Two's complement writing into `w` bits. -/
def bitsOf (w : Nat) (x : Int) : Nat := (x % 2 ^ w).toNat

/-- The sign bit of an element's code. -/
def codeSign (f : Fmt) (c : Nat) : Bool := c / 2 ^ (fmtBits f - 1) % 2 = 1

/-- The signed logarithm field `L` of an LG code. -/
def codeL (f : Fmt) (c : Nat) : Int := signedOf (fmtBits f - 1) c

/-- R36: the code is a subnormal of a floating-point format. -/
def isSubnormal (f : Fmt) (c : Nat) : Bool :=
  if fmtLg f || fmtInteger f then false
  else c / 2 ^ fpFrac f % 2 ^ fpExpBits f = 0 && c % 2 ^ fpFrac f != 0

/-- R34, R36, R37: the value of a floating-point code, times `2^k`; a subnormal is a zero of its sign. -/
def decodeFp (f : Fmt) (c : Nat) (k : Int) : Num :=
  let s := codeSign f c
  let e := c / 2 ^ fpFrac f % 2 ^ fpExpBits f
  let m := c % 2 ^ fpFrac f
  if e = 0 then .zero s
  else if e = 2 ^ fpExpBits f - 1 && f != .e4m3 then
    if m = 0 then .inf s else .nan s
  else if e = 15 && m = 7 && f = .e4m3 then .nan s
  else .fin s (2 ^ fpFrac f + m) ((e : Int) - fpBias f - fpFrac f + k)

/-- R28 to R31: the value of an LG code with group-scale exponent `k`. -/
def decodeLg (f : Fmt) (c : Nat) (k : Int) : Val :=
  let s := codeSign f c
  let l := codeL f c
  if l = lgZero f then .num (.zero s)
  else if f = .lg8 && l = 63 then .num (.nan s)
  else if f != .lg4 && f != .lg8 && l = 16382 then .num (.nan s)
  else if f != .lg4 && f != .lg8 && l = 16383 then .num (.inf s)
  else .lg s (l * 2 ^ (23 - lgFrac f) + k * 2 ^ 23)

/-- The FP16 scale of an integer operand, or the table entry that code `c` selects, is subnormal and flushed (R35, R36). -/
def scaleSubnormal (c : Nat) (sc : Scale) : Bool :=
  match sc with
  | .affine a _ => isSubnormal .fp16 a
  | .table es => isSubnormal .fp16 (es.getD (c % 16) 0)
  | _ => false

/-- The decoded entries of a table form (R35); none for another scale. -/
def tableOf (sc : Scale) : List Num :=
  match sc with
  | .table es => es.map (fun e => decodeFp .fp16 e 0)
  | _ => []

/-- R35: the integer `q − z` of an integer code. -/
def intOf (f : Fmt) (c : Nat) (z : Int) : Int :=
  match f with
  | .int8 => signedOf 8 c - z
  | _ => ((c % 16 : Nat) : Int) - z

/-- The `decode` routine: the exact value of one element (R28 to R36, R96). An element of a zero block or
NaN block keeps its own sign bit. -/
def decodeElem (f : Fmt) (c : Nat) (sc : Scale) : Val :=
  match sc with
  | .zeroBlock => .num (.zero (codeSign f c))
  | .nanBlock => .num (.nan (codeSign f c))
  | .affine a z =>
    let d := intOf f c z
    match decodeFp .fp16 a 0, d with
    | .nan s, _ => .num (.nan s)
    | x, d => .num (x.mul (ofInt d 0))
  | .table es => .num (decodeFp .fp16 (es.getD (c % 16) 0) 0)
  | .pow k => if fmtLg f then decodeLg f c k else .num (decodeFp f c k)

/-! ### Conversion -/

/-- How an element counts (Tables 2.8 and 5.8); `bin e` carries `floor(log2 |y|)`. -/
inductive Bin where
  | zero
  | flushed
  | saturated
  | inf
  | nan
  | bin (e : Int)
  deriving DecidableEq, Repr, Inhabited

/-- An LG code from its sign and `L`. -/
def encodeLg (f : Fmt) (s : Bool) (l : Int) : Nat :=
  bitsOf (fmtBits f - 1) l + (if s then 2 ^ (fmtBits f - 1) else 0)

/-- A floating-point code from its sign, exponent and integer significand. -/
def encodeFp (f : Fmt) (s : Bool) (e n : Int) : Nat :=
  ((e + fpBias f) * 2 ^ fpFrac f + (n - 2 ^ fpFrac f)).toNat + (if s then 2 ^ (fmtBits f - 1) else 0)

/-- The zero code of a sign. -/
def zeroCode (f : Fmt) (s : Bool) : Nat :=
  if fmtLg f then encodeLg f s (lgZero f) else if s then 2 ^ (fmtBits f - 1) else 0

/-- Table 2.7: the canonical NaN of a sign; LG4 has none and takes its zero code (Table 2.8). -/
def nanCode (f : Fmt) (s : Bool) : Nat :=
  match f with
  | .lg4 => zeroCode .lg4 s
  | .lg8 => encodeLg .lg8 s 63
  | .lg16 | .lg32 => encodeLg .lg16 s 16382
  | .e4m3 => 0x7F + (if s then 0x80 else 0)
  | f => (2 ^ fpExpBits f - 1) * 2 ^ fpFrac f + 2 ^ (fpFrac f - 1) + (if s then 2 ^ (fmtBits f - 1) else 0)

/-- The largest finite code of a sign. -/
def largestCode (f : Fmt) (s : Bool) : Nat :=
  if fmtLg f then encodeLg f s (lgMax f) else encodeFp f s (fpEMax f) (fpTop f)

/-- The format has an infinity. -/
def hasInf : Fmt → Bool
  | .lg4 | .lg8 | .e4m3 => false
  | _ => true

/-- The infinity of a sign, for a format that has one. -/
def infCode (f : Fmt) (s : Bool) : Nat :=
  if fmtLg f then encodeLg f s 16383
  else (2 ^ fpExpBits f - 1) * 2 ^ fpFrac f + (if s then 2 ^ (fmtBits f - 1) else 0)

/-- Whether a finite non-zero value at group exponent `k` lies beyond the largest code (R42). -/
def beyond (f : Fmt) (k : Int) (v : Val) : Bool :=
  if fmtLg f then beyondPos (lgMax f) (logPos (lgFrac f) k v)
  else
    let (e, p) := sigPos (fpFrac f) v
    decide (e - k > fpEMax f) || (decide (e - k = fpEMax f) && beyondPos (fpTop f) p)

/-- Conversion of a finite non-zero value that is not beyond the largest code (R39, R41, R42, R44). -/
def convertWithin (f : Fmt) (k : Int) (r : Option Nat) (v : Val) : Nat × Bin :=
  let s := v.neg
  if fmtLg f then
    let n := min (roundPos r (logPos (lgFrac f) k v)) (lgMax f)
    if n ≤ lgZero f then (zeroCode f s, .flushed) else (encodeLg f s n, .bin (expOf v))
  else
    let (e, n) := roundSig (fpFrac f) r v
    let e := e - k
    if e > fpEMax f || (e = fpEMax f && n > fpTop f) then (largestCode f s, .bin (expOf v))
    else if e < fpEMin f then (zeroCode f s, .flushed)
    else (encodeFp f s e n, .bin (expOf v))

/-- The routines `to_lg` and `to_fp`: the code of `v` in format `f` with group exponent `k`, STRICT or SAT,
rounding by `r` (R39 to R45, Table 2.8), and what it counts as. -/
def convert (f : Fmt) (k : Int) (strict : Bool) (r : Option Nat) (v : Val) : Nat × Bin :=
  let s := v.neg
  match v with
  | .num (.nan _) => (nanCode f s, .nan)
  | .num (.inf _) =>
    if hasInf f then (infCode f s, .inf)
    else if strict then (nanCode f s, .inf) else (largestCode f s, .inf)
  | .num (.zero _) => (zeroCode f s, .zero)
  | _ =>
    if beyond f k v then
      if !strict then (largestCode f s, .saturated)
      else if hasInf f then (infCode f s, .inf) else (nanCode f s, .nan)
    else convertWithin f k r v

/-! ### Scales of output groups -/

/-- The smallest integer `n` with `|v| ≤ λ·2^n` (R108); λ is the format's largest finite magnitude. -/
def smallestScale (f : Fmt) (v : Val) : Int :=
  if fmtLg f then
    let p := logPos (lgFrac f) 0 v
    let c := (if p.whole then p.n else p.n + 1);
    -((lgMax f - c) / 2 ^ lgFrac f)
  else
    let (e, p) := sigPos (fpFrac f) v
    if p.n < fpTop f || (p.n = fpTop f && p.whole) then e - fpEMax f else e - fpEMax f + 1

/-- A scale exponent held to −126..127. -/
def clampScale (n : Int) : Int := max (-126) (min 127 n)

/-- R117: `|v| < λ·2^q`. -/
def belowLambda (f : Fmt) (q : Int) (v : Val) : Bool :=
  let n := smallestScale f v
  decide (n ≤ q) &&
    !(if fmtLg f then
        let p := logPos (lgFrac f) q v
        p.whole && p.n = lgMax f
      else
        let (e, p) := sigPos (fpFrac f) v
        p.whole && p.n = fpTop f && e - q = fpEMax f)

/-- The FP32 word as a value. -/
def fp32Num (w : Nat) : Num := decodeFp .fp32 w 0

/-- R112: `|v|` as FP32 rounded towards +∞, held within the normal range; 0 for what is not finite and non-zero. -/
def maxAbsOf (v : Val) : Nat :=
  match v with
  | .num (.nan _) => 0
  | .num (.inf _) => 0
  | .num (.zero _) => 0
  | _ =>
    let (e, p) := sigPos 23 v
    let n := if p.whole then p.n else p.n + 1
    let (e, n) := if n = 2 ^ 24 then (e + 1, 2 ^ 23) else (e, n)
    if e > 127 then 0x7F7FFFFF else if e < -126 then 0x00800000 else encodeFp .fp32 false e n

/-- R127: a value rounded once to FP32, and whether it was flushed or became an infinity. -/
def roundFp32 (v : Val) : Nat × Bool × Bool :=
  match v with
  | .num (.nan s) => (nanCode .fp32 s, false, false)
  | .num (.inf s) => (infCode .fp32 s, false, false)
  | .num (.zero s) => (zeroCode .fp32 s, false, false)
  | _ =>
    let (e, n) := roundSig 23 none v
    if e > 127 then (infCode .fp32 v.neg, false, true)
    else if e < -126 then (zeroCode .fp32 v.neg, true, false)
    else (encodeFp .fp32 v.neg e n, false, false)

/-! ### Vector log words (R31, R128) -/

/-- The decoded value of a vector log word or LG32 word. -/
def logWordVal (w : Nat) : Val :=
  let s := w / 2 ^ 31 % 2 = 1
  let l := signedOf 15 (w / 2 ^ 16)
  if l = -16384 then .num (.zero s)
  else if l = 16382 then .num (.nan s)
  else if l = 16383 then .num (.inf s)
  else .lg s (l * 65536 + (w % 65536 : Nat))

/-- `L32` of the largest finite word (Table 6.1). -/
def logWordMax : Int := 1073610751

/-- `L32` of the smallest non-zero word (Table 6.1). -/
def logWordMin : Int := -1073676288

/-- A word from its sign and `L32`, which lies in the finite range. -/
def encodeLogWord (s : Bool) (l : Int) : Nat := bitsOf 31 l + (if s then 2 ^ 31 else 0)

/-- The canonical NaN, infinity and zero words. -/
def logNan (s : Bool) : Nat := 0x3FFE0000 + (if s then 2 ^ 31 else 0)
/-- The infinity word of a sign. -/
def logInf (s : Bool) : Nat := 0x3FFF0000 + (if s then 2 ^ 31 else 0)
/-- The zero word of a sign. -/
def logZero (s : Bool) : Nat := 0x40000000 + (if s then 2 ^ 31 else 0)

/-- R130, R41: the word of a finite `L32`, and whether it was flushed or became an infinity. -/
def logWordOf (s : Bool) (l : Int) : Nat × Bool × Bool :=
  if l > logWordMax then (logInf s, false, true)
  else if l < logWordMin then (logZero s, true, false)
  else (encodeLogWord s l, false, false)

/-- R128: a value as a vector log word, correctly rounded. Above the largest finite word it is the infinity of its sign and
counts as an overflow: DESIGN CHOICE, see log 104. -/
def toLogWord (v : Val) : Nat × Bool × Bool :=
  match v with
  | .num (.nan s) => (logNan s, false, false)
  | .num (.inf s) => (logInf s, false, false)
  | .num (.zero s) => (logZero s, false, false)
  | v => logWordOf v.neg (roundPos none (logPos 23 0 v))

end Sys2Proof.Machine
end

