-- ==== Sys2Proof/Machine/Array.lean ====
section
/-! DEFINITION. The product array and the accumulator, bit by bit: product logs (R47 to R49), lane adder and antilog (R50, R51), group register (R52 to R56), multi-pass modes (R60, R61), product-table mode (R66), accumulator additions (R70 to R74), chains and trees (R84, R85). -/

namespace Sys2Proof.Machine

/-- An element at the array's edge: its product log's class, sign and mag, and its value without scale. -/
structure Elem where
  num : Num
  mag : Int
  deriving DecidableEq, Repr, Inhabited

/-- Product modes of a MATMUL (R46, R60, R61, R66). -/
inductive ArrayMode where
  | p1 | p2Log | p2Linear | p3 | table
  deriving DecidableEq, Repr, Inhabited

/-- R49: FP32 significands are cut to 19 fraction bits before the logarithm. -/
def cutFp32 (f : Fmt) : Num → Num
  | .fin s m e => if f = .fp32 then .fin s (m / 16) (e + 4) else .fin s m e
  | n => n

/-- A logarithmic value as a dyadic one to 160 bits, the last bit telling an inexact one: what the table
builder of R66 multiplies, whose one rounding to FP32 it decides. -/
def logNum (s : Bool) (l : Int) : Num :=
  let x := (l % 2 ^ 23).toNat
  .fin s (2 * exp2Frac x + (if x = 0 then 0 else 1)) (l / 2 ^ 23 - 161)

/-- R47 to R49 and Table 3.1: an element of format `f` as the array takes it. The group scale of a
power-of-two format, and an FP16 scale, are left to the group boundary (R56); a zero block's and a NaN
block's elements are zeros and NaNs of their own sign (R96). -/
def entryConvert (f : Fmt) (c : Nat) (sc : Scale) : Elem :=
  match sc with
  | .zeroBlock => ⟨.zero (codeSign f c), 0⟩
  | .nanBlock => ⟨.nan (codeSign f c), 0⟩
  | .affine _ z =>
    let n := ofInt (intOf f c z) 0
    ⟨n, roundPos none (logPos 14 0 (.num n))⟩
  | .table es =>
    let n := decodeFp .fp16 (es.getD (c % 16) 0) 0
    ⟨n, roundPos none (logPos 14 0 (.num n))⟩
  | .pow _ =>
    if fmtLg f then
      match decodeLg f c 0 with
      | .lg s l => ⟨logNum s l, l / 512⟩
      | .num n => ⟨n, 0⟩
    else
      let n := decodeFp f c 0
      ⟨n, roundPos none (logPos 14 0 (.num (cutFp32 f n)))⟩

/-- R56: what a group's scale contributes to σ. -/
def sigmaOf : Scale → Num
  | .pow k => .fin false 1 k
  | .affine a _ => decodeFp .fp16 a 0
  | _ => .fin false 1 0

/-- R50, R51: a P1 product of two finite non-zero product logs. -/
def lanePl (neg : Bool) (sum : Int) : Num :=
  let f := (sum % 16384).toNat
  let i := f / 128
  let j := f % 128
  let s := if j = 0 then 2 ^ 16 + antilog 7 i 16
    else (2 ^ 17 + antilog 7 i 17) * (2 ^ 17 + antilog 14 j 17) / 2 ^ 18
  .fin neg s (sum / 16384 - 16)

/-- R60: a P2 product of an LG pair, 24 fraction bits. -/
def laneLog24 (neg : Bool) (sum : Int) : Num :=
  let i := (sum % 16384).toNat / 128
  .fin neg (2 ^ 24 + antilog 7 i 24) (sum / 16384 - 24)

/-- Nearest multiple, ties to even, of a signed number: the quotient. -/
def nearestMultiple (x : Int) (unit : Nat) : Int :=
  roundPos none (posOf (x * 65536 / unit) (x * 65536 % unit = 0))

/-- R61: the three parts of a significand held as an integer with 23 fraction bits. -/
def splitThree (m : Nat) : Int × Int × Int :=
  let a0 := nearestMultiple m 65536 * 65536
  let a1 := nearestMultiple (m - a0) 256 * 256
  (a0, a1, m - a0 - a1)

/-- A finite significand brought to 23 fraction bits, and its exponent. -/
def significand24 (m : Nat) (e : Int) : Nat × Int :=
  let l := Nat.log2 m
  (if l ≤ 23 then m * 2 ^ (23 - l) else m / 2 ^ (l - 23), e + l)

/-- R61: a P3 product, six terms added exactly and cut to 26 fraction bits. -/
def laneThree (neg : Bool) (ma : Nat) (ea : Int) (mb : Nat) (eb : Int) : Num :=
  let (sa, xa) := significand24 ma ea
  let (sb, xb) := significand24 mb eb
  let (a0, a1, a2) := splitThree sa
  let (b0, b1, b2) := splitThree sb
  let v := (a0 * b0 + a0 * b1 + a1 * b0 + a0 * b2 + a1 * b1 + a2 * b0).toNat
  let l := Nat.log2 v
  .fin neg (v / 2 ^ (l - 26)) (xa + xb - 46 + (l - 26 : Nat))

/-- R66: a product-table entry, rounded once to FP32 with a subnormal flushed; an overflow is IEEE 754's. -/
def tableEntry (a b : Num) : Num := fp32Num (roundFp32 (.num (a.mul b))).1

/-- Entries of the table of `a` that are flushed as it is formed (R66, R36). -/
def tableFlushes (entries : List Num) (a : Num) : Nat := entries.countP (fun b => (roundFp32 (.num (a.mul b))).2.1)

/-- Table 3.2 and the product of the mode. -/
def laneProduct (mode : ArrayMode) (a b : Elem) : Num :=
  match a.num, b.num with
  | .fin s ma ea, .fin t mb eb =>
    match mode with
    | .p1 => lanePl (s != t) (a.mag + b.mag)
    | .p2Log => laneLog24 (s != t) (a.mag + b.mag)
    | .p2Linear => .fin (s != t) (ma * mb) (ea + eb)
    | .p3 => laneThree (s != t) ma ea mb eb
    | .table => tableEntry a.num b.num
  | x, y => x.mul y

/-- R53: the largest exponent among the finite non-zero products. -/
def groupEMax : List Num → Option Int
  | [] => none
  | p :: ps =>
    match p, groupEMax ps with
    | .fin s m e, none => some (expOf (.num (.fin s m e)))
    | .fin s m e, some x => some (max (expOf (.num (.fin s m e))) x)
    | _, r => r

/-- R53: a product on the register's grid, cut towards zero. -/
def alignProduct (emax : Int) : Num → Int
  | .fin s m e =>
    let d := e - (emax - 48)
    let v : Int := (if 0 ≤ d then m * 2 ^ d.toNat else m / 2 ^ (-d).toNat : Nat)
    if s then -v else v
  | _ => 0

/-- The group register `W` (R53). -/
def groupW (emax : Int) (ps : List Num) : Int := (ps.map (alignProduct emax)).sum

/-- The sign of the first NaN product in reduction order. -/
def firstNan : List Num → Option Bool
  | [] => none
  | .nan s :: _ => some s
  | _ :: ps => firstNan ps

/-- Whether an infinite product of a sign occurs. -/
def hasInfOf (s : Bool) (ps : List Num) : Bool := ps.any (· == .inf s)

/-- R55, Table 3.4: the group's result before scales; none when every product is zero. -/
def groupResult (ps : List Num) : Option Num :=
  match firstNan ps with
  | some s => some (.nan s)
  | none =>
    if hasInfOf false ps && hasInfOf true ps then some (.nan false)
    else if hasInfOf false ps then some (.inf false)
    else if hasInfOf true ps then some (.inf true)
    else match groupEMax ps with
      | none => none
      | some e => some (ofInt (groupW e ps) (e - 48))

/-- R56: the group's result times σ. A σ of NaN hands over its own sign; a `W` of 0 adds +0 (R74) unless σ is infinite. -/
def applySigma (r σ : Num) : Num :=
  match r, σ with
  | _, .nan s => .nan s
  | .zero _, .fin _ _ _ => .zero false
  | .zero _, .zero _ => .zero false
  | .zero _, σ => (Num.zero false).mul σ
  | r, σ => r.mul σ

/-- What an addition into an accumulator element gives: its new word and the tile flags it sets. -/
structure AccAdd where
  word : Nat
  sat : Bool
  flush : Bool
  nonfinite : Bool
  deriving DecidableEq, Repr, Inhabited

/-- R70 to R74: one addition into an element, the present value as left operand. -/
def accAdd (w : Nat) (x : Num) : AccAdd :=
  match (fp32Num w).add x with
  | .nan s => ⟨nanCode .fp32 s, false, false, true⟩
  | .inf s => ⟨infCode .fp32 s, false, false, true⟩
  | .zero s => ⟨zeroCode .fp32 s, false, false, false⟩
  | .fin s m e =>
    match roundFp32 (.num (.fin s m e)) with
    | (c, fl, ov) => if ov then ⟨largestCode .fp32 s, true, false, false⟩ else ⟨c, false, fl, false⟩

/-- The values of a tile and what its additions set: row-major words, the sticky flags and the flushes counted. -/
structure TileSum where
  words : List Nat
  sat : Bool
  flush : Bool
  nonfinite : Bool
  flushes : Nat
  deriving DecidableEq, Repr, Inhabited

/-- A lane's sum: the element's word after each addition in turn, the flags ORed, the flushes counted. -/
def laneSum (w : Nat) (xs : List Num) : AccAdd × Nat :=
  xs.foldl
    (fun (a, n) x =>
      let r := accAdd a.word x
      (⟨r.word, a.sat || r.sat, a.flush || r.flush, a.nonfinite || r.nonfinite⟩,
        if r.flush then n + 1 else n))
    (⟨w, false, false, false⟩, 0)

/-- Consecutive groups of `g` elements, the last one shorter when it must be (R52). -/
def groupsOf {α : Type} (g : Nat) : Nat → List α → List (List α)
  | 0, _ => []
  | f + 1, l =>
    match l with
    | [] => []
    | _ => l.take g :: groupsOf g f (l.drop g)

/-- One lane over its groups: elements of the two operands and the scales σ of each group. -/
def laneGroups (mode : ArrayMode) (g : Nat) (as bs : List Elem) (σs : List Num) : List Num :=
  let ps := List.zipWith (laneProduct mode) as bs
  (List.zipWith (fun p σ => (groupResult p).map (applySigma · σ)) (groupsOf g ps.length ps) σs).filterMap id

/-- The sum of flags of a tile's lanes. -/
def tileOf (rs : List (AccAdd × Nat)) : TileSum :=
  ⟨rs.map (·.1.word), rs.any (·.1.sat), rs.any (·.1.flush), rs.any (·.1.nonfinite), (rs.map (·.2)).sum⟩

/-- R84, R85: two partial sums added element by element, `a` as left operand. -/
def addTiles (a b : TileSum) : TileSum :=
  let rs := List.zipWith (fun x y => accAdd x (fp32Num y)) a.words b.words
  ⟨rs.map (·.word), a.sat || b.sat || rs.any (·.sat), a.flush || b.flush || rs.any (·.flush),
    a.nonfinite || b.nonfinite || rs.any (·.nonfinite), rs.countP (·.flush)⟩

/-- R88: first group of chunk `c` of `n` over `g` groups. -/
def chunkStart (g n c : Nat) : Nat := c * g / n

/-- R58: operand pair kinds. -/
def logPair (a b : Fmt) : Bool := fmtLg a && fmtLg b
/-- R58: neither is logarithmic. -/
def linearPair (a b : Fmt) : Bool := !fmtLg a && !fmtLg b

/-- R62, Table 3.7: the pass count is permitted for the pair. -/
def passPermitted (pass : Nat) (a b : Fmt) (table : Bool) : Bool :=
  match pass with
  | 1 => true
  | 2 => !table && (logPair a b || (linearPair a b && a != .fp32 && b != .fp32))
  | 3 => !table && linearPair a b
  | _ => false

/-- The product mode of a permitted pass count. -/
def arrayMode (pass : Nat) (a b : Fmt) (table : Bool) : ArrayMode :=
  if table then .table
  else match pass with
    | 2 => if logPair a b then .p2Log else .p2Linear
    | 3 => .p3
    | _ => .p1

end Sys2Proof.Machine
end

