-- ==== Sys2Proof/Machine/VecArith.lean ====
section
/-! DEFINITION. Arithmetic of the vector and scan units: FP32 operations that count their flushes and overflows (R127), vector log words (R128, R130, R131), the row order of R135. -/

namespace Sys2Proof.Machine

/-- What an operation adds to its clove's counters: input flushes (R36), vector flushes and overflows (R127, R130). -/
structure VCount where
  inFlush : Nat
  flush : Nat
  ovf : Nat
  deriving DecidableEq, Repr, Inhabited

/-- A computation that counts. -/
abbrev VM := StateM VCount

/-- Hand on a rounded result, counting what it says. -/
def noteOut (r : Nat × Bool × Bool) : VM Nat := fun c =>
  (r.1, ⟨c.inFlush, c.flush + (if r.2.1 then 1 else 0), c.ovf + (if r.2.2 then 1 else 0)⟩)

/-- Count one flushed input. -/
def noteIn : VM Unit := fun c => ((), ⟨c.inFlush + 1, c.flush, c.ovf⟩)

/-- R127: one rounding to FP32. -/
def rnd (x : Num) : VM Nat := noteOut (roundFp32 (.num x))

/-- R127 addition. -/
def vAdd (a b : Nat) : VM Nat := rnd ((fp32Num a).add (fp32Num b))
/-- R127 subtraction. -/
def vSub (a b : Nat) : VM Nat := rnd ((fp32Num a).sub (fp32Num b))
/-- R127 multiplication. -/
def vMul (a b : Nat) : VM Nat := rnd ((fp32Num a).mul (fp32Num b))
/-- R127 fused multiply-add. Of NaNs, the product's sign stands, and Inf · 0 + NaN is the positive NaN: DESIGN CHOICE, see
log 102. -/
def vFma (a b c : Nat) : VM Nat := rnd (((fp32Num a).mul (fp32Num b)).add (fp32Num c))
/-- The same with the addend as left operand (R135). -/
def vFmaInto (c a b : Nat) : VM Nat := rnd ((fp32Num c).add ((fp32Num a).mul (fp32Num b)))
/-- R127 division. -/
def vDiv (a b : Nat) : VM Nat := rnd ((fp32Num a).div (fp32Num b))

/-- R127: MIN (`big` false) and MAX: a NaN gives NaN, −0 is less than +0. -/
def vPick (big : Bool) (a b : Nat) : Nat :=
  match fp32Num a, fp32Num b with
  | .nan s, _ => nanCode .fp32 s
  | _, .nan s => nanCode .fp32 s
  | .zero s, .zero _ => if s != big then a else b
  | x, y => if x.lt y = big then b else a

/-- R127, R133: an operand element, decoded exactly with its scale and rounded once to FP32; a subnormal
source is flushed and counted (R36). -/
def loadFp32 (f : Fmt) (c : Nat) (sc : Scale) : VM Nat := do
  if isSubnormal f c || scaleSubnormal c sc then noteIn
  noteOut (roundFp32 (decodeElem f c sc))

/-- R128: an operand element as a vector log word. -/
def loadLog (f : Fmt) (c : Nat) (sc : Scale) : VM Nat := do
  if isSubnormal f c || scaleSubnormal c sc then noteIn
  noteOut (toLogWord (decodeElem f c sc))

/-- The class of a log word's value as an IEEE one; a finite non-zero one stands as ±1. -/
def logClass (w : Nat) : Num :=
  match logWordVal w with
  | .num n => n
  | .lg s _ => .fin s 1 0

/-- The word of a zero, infinite or NaN value. -/
def logSpecial : Num → Nat
  | .nan s => logNan s
  | .inf s => logInf s
  | n => logZero n.neg

/-- R130: LMUL. -/
def lMul (a b : Nat) : VM Nat :=
  match logWordVal a, logWordVal b with
  | .lg s l, .lg t m => noteOut (logWordOf (s != t) (l + m))
  | _, _ => pure (logSpecial ((logClass a).mul (logClass b)))

/-- R130: LDIV. -/
def lDiv (a b : Nat) : VM Nat :=
  match logWordVal a, logWordVal b with
  | .lg s l, .lg t m => noteOut (logWordOf (s != t) (l - m))
  | _, _ => pure (logSpecial ((logClass a).div (logClass b)))

/-- R130: LRECIP. -/
def lRecip (a : Nat) : VM Nat :=
  match logWordVal a with
  | .lg s l => noteOut (logWordOf s (-l))
  | _ => pure (logSpecial ((Num.fin false 1 0).div (logClass a)))

/-- R130: LSQRT. -/
def lSqrt (a : Nat) : VM Nat :=
  match logWordVal a with
  | .lg false l => noteOut (logWordOf false (roundPos none (posOf (l * 65536 / 2) true)))
  | .lg true _ => pure (logNan false)
  | .num (.inf true) => pure (logNan false)
  | .num n => pure (logSpecial n)

/-- Whether a finite value is an integer, and whether it is odd. -/
def intParity (m : Nat) (e : Int) : Bool × Bool :=
  if 0 ≤ e then (true, decide (e = 0) && decide (m % 2 = 1))
  else
    let d := (-e).toNat
    (decide (m % 2 ^ d = 0), decide (m % 2 ^ d = 0) && decide (m / 2 ^ d % 2 = 1))

/-- IEEE 754 pow where the base is a zero or an infinity: `big` tells that the magnitude grows without bound. -/
def powEdge (s odd big : Bool) : Nat :=
  if big then logInf (s && odd) else logZero (s && odd)

/-- R130: LPOW by the FP32 constant `c`; zero, infinite and NaN operands follow IEEE 754 pow. -/
def lPow (a c : Nat) : VM Nat :=
  match logWordVal a, fp32Num c with
  | _, .zero _ => pure 0
  | .lg false 0, _ => pure 0
  | .num (.nan s), _ => pure (logNan s)
  | _, .nan s => pure (logNan s)
  | .lg _ l, .inf t =>
    if l = 0 then pure 0
    else if decide (l > 0) != t then pure (logInf false) else pure (logZero false)
  | .num (.zero _), .inf t => pure (powEdge false false t)
  | .num (.inf _), .inf t => pure (powEdge false false (!t))
  | .num (.zero s), .fin t m e => pure (powEdge s (intParity m e).2 t)
  | .num (.inf s), .fin t m e => pure (powEdge s (intParity m e).2 (!t))
  | .num (.fin _ _ _), _ => pure 0
  | .lg s l, .fin t m e =>
    let (isInt, odd) := intParity m e
    if s && !isInt then pure (logNan false)
    else
      let x := if t then -(l * m) else l * m
      let p := if 0 ≤ e then posOf (x * 2 ^ e.toNat * 65536) true
        else posOf (x * 65536 / 2 ^ (-e).toNat) (x * 65536 % 2 ^ (-e).toNat = 0)
      noteOut (logWordOf (s && odd) (roundPos none p))

/-- R131: `2^23 · log2(1 ± 2^(−d/2^23))` rounded to the nearest integer, for `d ≥ 0` in units of 2^−23
(`d > 0` when the signs differ). -/
def gaussLog (differ : Bool) (d : Nat) : Int :=
  let q := d / 2 ^ 23
  let f := d % 2 ^ 23
  let x := if f = 0 then 2 ^ 160 / 2 ^ q else exp2Frac (2 ^ 23 - f) / 2 ^ (q + 1)
  let s := if differ then 2 ^ 160 - x else 2 ^ 160 + x
  let (y, ex) := log2Floor s 39
  roundPos none (posOf ((y : Int) - 160 * 2 ^ 39) ex)

/-- R131: LADD, correctly rounded. Beyond 26 binades the correction is below a quarter of a unit (R132). -/
def lAdd (a b : Nat) : VM Nat :=
  match logWordVal a, logWordVal b with
  | .lg s l, .lg t m =>
    if l = m && s != t then pure (logZero false)
    else
      let (hs, hl, lo) := if l ≥ m then (s, l, m) else (t, m, l)
      let d := (hl - lo).toNat
      if d > 26 * 2 ^ 23 then pure (encodeLogWord hs hl)
      else noteOut (logWordOf hs (hl + gaussLog (s != t) d))
  | .lg _ _, .num (.zero _) => pure a
  | .num (.zero _), .lg _ _ => pure b
  -- commutative (R131): of two NaNs the result is negative when both are. DESIGN CHOICE, see log 102
  | .num (.nan s), .num (.nan t) => pure (logNan (s && t))
  | _, _ => pure (logSpecial ((logClass a).add (logClass b)))

/-- R138: wexp, the log word of `2^δ`. -/
def wExp (δ : Nat) : VM Nat :=
  match fp32Num δ with
  | .nan s => pure (logNan s)
  | .inf s => pure (if s then logZero false else logInf false)
  | .zero _ => pure 0
  | .fin s m e =>
    let x : Int := if s then -(m : Int) else m
    let p := if 0 ≤ e + 23 then posOf (x * 2 ^ (e + 23).toNat * 65536) true
      else posOf (x * 65536 / 2 ^ (-(e + 23)).toNat) (x * 65536 % 2 ^ (-(e + 23)).toNat = 0)
    noteOut (logWordOf false (roundPos none p))

/-- R137: `vl`, an FP32 word as a vector log word. -/
def vlOf (w : Nat) : VM Nat := noteOut (toLogWord (.num (fp32Num w)))

/-- R137: `fp32`, a vector log word as an FP32 word. -/
def fp32Of (w : Nat) : VM Nat := noteOut (roundFp32 (logWordVal w))

/-- R138: fp32 of log2 of a word. -/
def log2Of (w : Nat) : VM Nat :=
  match logWordVal w with
  | .lg false l => rnd (ofInt l (-23))
  | .lg true _ => pure (nanCode .fp32 false)
  | .num (.zero _) => pure (infCode .fp32 true)
  | .num (.inf true) => pure (nanCode .fp32 false)
  | .num n => rnd n

/-! ### The row order of R135 -/

/-- Lane `l`'s elements of a row, in increasing index; `i` is the index of the row's first element. -/
def laneElems {α : Type} (l : Nat) : Nat → List α → List α
  | _, [] => []
  | i, x :: xs => if i % 256 = l then x :: laneElems l (i + 1) xs else laneElems l (i + 1) xs

/-- A lane's value over its elements. -/
def laneFold {α β : Type} (first : α → VM β) (next : β → α → VM β) : List α → VM (Option β)
  | [] => pure none
  | x :: xs => do
    let b ← first x
    let r ← xs.foldlM next b
    pure (some r)

/-- One level of the tree: neighbours combine, the lower lane's value as left operand; a lane with no
element passes nothing. -/
def treeLevel {β : Type} (comb : β → β → VM β) : List (Option β) → VM (List (Option β))
  | some a :: some b :: r => do
    let c ← comb a b
    let t ← treeLevel comb r
    pure (some c :: t)
  | a :: b :: r => do
    let t ← treeLevel comb r
    pure ((a.orElse fun _ => b) :: t)
  | l => pure l

/-- Eight levels over 256 lanes. -/
def treeLevels {β : Type} (comb : β → β → VM β) : Nat → List (Option β) → VM (List (Option β))
  | 0, l => pure l
  | n + 1, l => do
    let l' ← treeLevel comb l
    treeLevels comb n l'

/-- R135: a row reduction. -/
def rowReduce {α β : Type} (first : α → VM β) (next : β → α → VM β) (comb : β → β → VM β) (row : List α) :
    VM (Option β) := do
  let lanes ← (List.range 256).mapM fun l => laneFold first next (laneElems l 0 row)
  let t ← treeLevels comb 8 lanes
  pure ((t.head?).join)

/-- R135: a row's sum; 0 for an empty row. -/
def rowSum (xs : List Nat) : VM Nat := do
  let r ← rowReduce pure vAdd vAdd xs
  pure (r.getD 0)

/-- R135: a row's sum of products, each addition one FMA. -/
def rowDot (xs : List (Nat × Nat)) : VM Nat := do
  let r ← rowReduce (fun p => vMul p.1 p.2) (fun a p => vFmaInto a p.1 p.2) vAdd xs
  pure (r.getD 0)

/-- R135: a row's maximum. -/
def rowMax (xs : List Nat) : VM Nat := do
  let r ← rowReduce pure (fun a b => pure (vPick true a b)) (fun a b => pure (vPick true a b)) xs
  pure (r.getD 0)

/-- The FP32 word of −Inf. -/
def fpNegInf : Nat := 0xFF800000

/-- R138, pass 1: an element joins `(M, S)`. An element of −Inf gives exactly +0 and adds nothing; its wexp is not formed
against an `M` of −Inf. DEDUCED, see log 103. -/
def softStep (p : Nat × Nat) (z : Nat) : VM (Nat × Nat) := do
  let (m, s) := p
  if z = fpNegInf then return (m, s)
  let (m, s) ← (if (fp32Num m).lt (fp32Num z) then do
      let d ← vSub m z
      let w ← wExp d
      let s' ← lMul s w
      pure (z, s')
    else pure (m, s) : VM (Nat × Nat))
  let d ← vSub z m
  let w ← wExp d
  let s' ← lAdd s w
  pure (m, s')

/-- R138: two `(M, S)` pairs combine; one whose elements are all −Inf adds nothing, and one that holds a NaN keeps it. DEDUCED,
see log 103. -/
def softComb (p q : Nat × Nat) : VM (Nat × Nat) := do
  if p = (fpNegInf, logZero false) then return q
  if q = (fpNegInf, logZero false) then return p
  let m := vPick true p.1 q.1
  let d1 ← vSub p.1 m
  let w1 ← wExp d1
  let s1 ← lMul p.2 w1
  let d2 ← vSub q.1 m
  let w2 ← wExp d2
  let s2 ← lMul q.2 w2
  let s ← lAdd s1 s2
  pure (m, s)

/-- R138, pass 1 over a row of base-2 scores; a row that holds only −Inf gives NaN. -/
def softPass (zs : List Nat) : VM (Nat × Nat) := do
  let r ← rowReduce (fun z => softStep (fpNegInf, logZero false) z) softStep softComb zs
  let (m, s) := r.getD (fpNegInf, logZero false)
  pure (m, if m = fpNegInf then logNan false else s)

end Sys2Proof.Machine
end

