-- ==== Sys2Proof/Machine/Func.lean ====
section
/-! DEFINITION. The functions of Table 6.5 and their derivatives, correctly rounded to FP32 (R144 to R147): fixed-point evaluation to 512 bits, then one rounding. -/

namespace Sys2Proof.Machine

/-- Working precision of the functions. -/
def fnBits : Nat := 512

/-- 1 in fixed point. -/
def fxOne : Nat := 2 ^ 512

/-- 2/√π with 512 fraction bits. -/
def twoOverSqrtPi : Nat := 0x120dd750429b6d11ae3a914fed7fd8688281341d7587cea2e7342b06199cc416180eb39f0b24e1e2281806c12d98f35d77a3e9ddc91c394f0e9eedf0efffd84a2

/-- 1/√(2π) with 512 fraction bits. -/
def invSqrtTwoPi : Nat := 0x662114cf50d942343f2cf1402eae38bfd3829f30512706d8c0471b4802639d2e9df8ac55447d3db723f5d3abb374e88deb14277970be1513278e993445f08cff

/-- A finite magnitude as fixed point, truncated. -/
def fxOf (m : Nat) (e : Int) : Nat :=
  let d := e + 512
  if 0 ≤ d then m * 2 ^ d.toNat else m / 2 ^ (-d).toNat

/-- `e^(−y)` for a fixed-point `y ≥ 0`. -/
def fxExpNeg (y : Nat) : Nat :=
  let k := y / ln2Bits
  let r := y % ln2Bits
  fxOne * fxOne / expSeries 512 r 400 1 fxOne fxOne / 2 ^ k

/-- An inexact fixed-point value with `p` fraction bits: a last bit stands for what lies below. -/
def approx (neg : Bool) (m : Nat) (p : Nat) : Num := .fin neg (2 * m + 1) (-(p + 1 : Nat))

/-- `e^y` for a signed fixed-point exponent `y` of sign `neg`, as a number. -/
def expNum (neg : Bool) (y : Nat) : Num :=
  let k : Int := if neg then -((y + ln2Bits - 1) / ln2Bits : Nat) else (y / ln2Bits : Nat)
  let r := if neg then (y + ln2Bits - 1) / ln2Bits * ln2Bits - y else y % ln2Bits
  .fin false (2 * expSeries 512 r 400 1 fxOne fxOne + 1) (k - 513)

/-- The magnitude of a finite value is above an integer. -/
def aboveInt (m : Nat) (e : Int) (n : Nat) : Bool := decide (fxOf m e > n * fxOne)

/-- Terms of `Σ q^n / (1·3·…·(2n+1))`, `q` fixed point. -/
def oddSeries (q : Nat) : Nat → Nat → Nat → Nat → Nat
  | 0, _, _, s => s
  | f + 1, k, t, s =>
    let t' := t * q / fxOne / k
    if t' = 0 then s else oddSeries q f (k + 2) t' (s + t')

/-- `Φ(−x)` for a fixed-point `x ≥ 0`: 1/2 less the positive-term series of the error function. -/
def fxPhiNeg (x : Nat) : Nat :=
  let q := x * x / fxOne
  let s := oddSeries q 3000 3 fxOne fxOne
  fxOne / 2 - invSqrtTwoPi * fxExpNeg (q / 2) / fxOne * x / fxOne * s / fxOne

/-- `erf(x)/x` for a fixed-point `x ≥ 0`. -/
def fxErfRatio (x : Nat) : Nat :=
  let q := x * x / fxOne
  twoOverSqrtPi * fxExpNeg q / fxOne * oddSeries (2 * q) 3000 3 fxOne fxOne / fxOne

/-- log2 of a positive value in units of 2^−256: its floor, and whether exact. -/
def log2Num (m : Nat) (e : Int) : Int × Bool :=
  let (x, ex) := log2Floor m 256
  ((x : Int) + e * 2 ^ 256, ex)

/-- `ln(1 + u)` for a fixed-point `u` in (0, 1], as a number. -/
def lnOnePlus (u : Nat) : Num :=
  let (x, _) := log2Num (fxOne + u) (-512)
  ofInt ((2 * x + 1) * ln2Bits) (-(257 + 512))

/-- R145: `f(x)` for a finite non-zero `x = ±m·2^e`, before its rounding; the magnitudes past which a
function's rounding to FP32 no longer changes are cut off. -/
def fnFinite (fn : Nat) (α : Num) (s : Bool) (m : Nat) (e : Int) : Num :=
  let x : Num := .fin s m e
  let y := fxOf m e
  match fn with
  | 0x01 =>
    if aboveInt m e 200 then .fin false 1 (if s then -200 else 200)
    else if 0 ≤ e || m % 2 ^ (-e).toNat = 0 then
      .fin false 1 ((if s then -1 else 1) * (if 0 ≤ e then (m * 2 ^ e.toNat : Nat) else (m / 2 ^ (-e).toNat : Nat) : Int))
    else expNum s (y * ln2Bits / fxOne)
  | 0x02 => if aboveInt m e 200 then .fin false 1 (if s then -200 else 200) else expNum s y
  | 0x03 =>
    if s then .nan false
    else let (t, ex) := log2Num m e
      if ex then ofInt t (-256) else ofInt (2 * t + 1) (-257)
  | 0x04 =>
    if s then .nan false
    else let (t, ex) := log2Num m e
      if ex && t = 0 then .zero false else ofInt ((2 * t + 1) * ln2Bits) (-(257 + 512))
  | 0x05 =>
    if aboveInt m e 200 then (if s then .fin false 1 (-200) else approx false (fxOne - 2) 512)
    else
      let u := fxExpNeg y
      approx false ((if s then u else fxOne) * fxOne / (fxOne + u)) 512
  | 0x06 =>
    if aboveInt m e 40 then approx s (fxOne - 2) 512
    else
      let u := fxExpNeg (2 * y)
      approx s ((fxOne - u) * fxOne / (fxOne + u)) 512
  | 0x07 => if s then .zero false else x
  | 0x08 => if s then α.mul x else x
  | 0x09 =>
    if aboveInt m e 16 then (if s then .fin true 1 (-200) else x)
    else
      let p := fxPhiNeg y
      x.mul (approx false (if s then p else fxOne - p - 1) 512)
  | 0x0A =>
    if aboveInt m e 200 then (if s then .fin true 1 (-200) else x)
    else
      let u := fxExpNeg y
      x.mul (approx false ((if s then u else fxOne) * fxOne / (fxOne + u)) 512)
  | 0x0B =>
    if aboveInt m e 200 then (if s then .fin false 1 (-200) else x)
    else
      let t := lnOnePlus (fxExpNeg y)
      if s then t else x.add t
  | 0x0C => if aboveInt m e 10 then approx s (fxOne - 2) 512 else x.mul (approx false (fxErfRatio y) 512)
  | _ => x

/-- R145: `f` at the zeros, infinities and NaNs: the limit, a NaN for a NaN. -/
def fnSpecial (fn : Nat) (α x : Num) : Num :=
  match x with
  | .nan s => .nan s
  | .inf s =>
    match fn with
    | 0x01 | 0x02 | 0x0B | 0x07 => if s then .zero false else .inf false
    | 0x03 | 0x04 => if s then .nan false else .inf false
    | 0x05 => if s then .zero false else .fin false 1 0
    | 0x06 | 0x0C => .fin s 1 0
    | 0x08 => if s then α.mul x else x
    | 0x09 | 0x0A => if s then .zero true else .inf false
    | _ => x
  | .zero s =>
    match fn with
    | 0x01 | 0x02 => .fin false 1 0
    | 0x03 | 0x04 => .inf true
    | 0x05 => .fin false 1 (-1)
    | 0x07 => .zero false
    | 0x08 => α.mul (.zero s)
    | 0x0B => lnOnePlus fxOne
    | _ => x
  | x => x

/-- R146: the exact derivative at a finite non-zero `x`, before its rounding. -/
def derivFinite (fn : Nat) (α : Num) (s : Bool) (m : Nat) (e : Int) : Num :=
  let x : Num := .fin s m e
  let one : Num := .fin false 1 0
  let y := fxOf m e
  match fn with
  | 0x01 => (fnFinite 0x01 α s m e).mul (approx false ln2Bits 512)
  | 0x02 => fnFinite 0x02 α s m e
  | 0x03 => if s then .nan false else one.div (x.mul (approx false ln2Bits 512))
  | 0x04 => if s then .nan false else one.div x
  | 0x05 =>
    if aboveInt m e 200 then .fin false 1 (-200)
    else
      let u := fxExpNeg y
      let d := fxOne + u
      approx false (u * fxOne / d * fxOne / d) 512
  | 0x06 =>
    if aboveInt m e 100 then .fin false 1 (-200)
    else
      let u := fxExpNeg (2 * y)
      let d := fxOne + u
      approx false (4 * u * fxOne / d * fxOne / d) 512
  | 0x07 => if s then .zero false else one
  | 0x08 => if s then α else one
  | 0x09 =>
    if aboveInt m e 16 then (if s then .fin true 1 (-200) else one)
    else
      let p := fxPhiNeg y
      let t := y * (invSqrtTwoPi * fxExpNeg (y * y / fxOne / 2) / fxOne) / fxOne
      let v : Int := if s then (p : Int) - t else (fxOne : Int) - p + t
      ofInt (2 * v + 1) (-513)
  | 0x0A =>
    if aboveInt m e 200 then (if s then .fin true 1 (-200) else one)
    else
      let u := fxExpNeg y
      let σ := (if s then u else fxOne) * fxOne / (fxOne + u)
      let r := (if s then fxOne else u) * fxOne / (fxOne + u)
      let w : Int := if s then (fxOne : Int) - (y * r / fxOne : Nat) else (fxOne : Int) + (y * r / fxOne : Nat)
      ofInt (2 * ((σ : Int) * w / 2 ^ 512) + 1) (-513)
  | 0x0B =>
    if aboveInt m e 200 then (if s then .fin false 1 (-200) else one)
    else
      let u := fxExpNeg y
      approx false ((if s then u else fxOne) * fxOne / (fxOne + u)) 512
  | 0x0C => if aboveInt m e 12 then .fin false 1 (-200)
    else approx false (twoOverSqrtPi * fxExpNeg (y * y / fxOne) / fxOne) 512
  | _ => one

/-- R145, R146: the derivative at the zeros, infinities and NaNs: its limit, a NaN for a NaN. -/
def derivSpecial (fn : Nat) (α x : Num) : Num :=
  let one : Num := .fin false 1 0
  match x with
  | .nan s => .nan s
  | .inf s =>
    match fn with
    | 0x01 | 0x02 => if s then .zero false else .inf false
    | 0x03 | 0x04 => if s then .nan false else .zero false
    | 0x05 | 0x06 | 0x0C => .zero false
    | 0x07 => if s then .zero false else one
    | 0x08 => if s then α else one
    | 0x09 | 0x0A => if s then .zero true else one
    | 0x0B => if s then .zero false else one
    | _ => one
  | .zero _ =>
    match fn with
    | 0x01 => approx false ln2Bits 512
    | 0x03 | 0x04 => .inf false
    | 0x05 => .fin false 1 (-2)
    | 0x07 => .zero false
    | 0x08 => α
    | 0x09 | 0x0A | 0x0B => .fin false 1 (-1)
    | 0x0C => approx false twoOverSqrtPi 512
    | _ => one
  | _ => one

/-- A segment of a spline (R147): breakpoint, coefficients and 3·c3, FP32 words. -/
structure Segment where
  b : Nat
  c0 : Nat
  c1 : Nat
  c2 : Nat
  c3 : Nat
  c3x3 : Nat
  deriving DecidableEq, Repr, Inhabited

/-- R147 step 1: the last segment whose breakpoint is at most `x`, else the first. -/
def segmentOf (x : Num) : List Segment → Segment → Segment
  | [], cur => cur
  | g :: gs, cur => if x.lt (fp32Num g.b) then cur else segmentOf x gs g

/-- R147: a spline's value, or its derivative. A spline with no segment has none to take: NaN. -/
def splineAt (segs : List Segment) (deriv : Bool) (x : Nat) : VM Nat :=
  match segs with
  | [] => pure (nanCode .fp32 false)
  | g0 :: gs =>
    match fp32Num x with
    | .nan s => pure (nanCode .fp32 s)
    | .inf _ => pure (nanCode .fp32 false)
    | n => do
      let g := segmentOf n gs g0
      let u ← vSub x g.b
      if deriv then
        let c2x2 ← vMul 0x40000000 g.c2
        let a ← vFma g.c3x3 u c2x2
        vFma a u g.c1
      else
        let a ← vFma g.c3 u g.c2
        let b ← vFma a u g.c1
        vFma b u g.c0

/-- Whether a function code is a spline's, and which. -/
def splineIdx (fn : Nat) : Option Nat := if 0x0D ≤ fn ∧ fn ≤ 0x10 then some (fn - 0x0D) else none

/-- R144: the function code is listed. -/
def fnListed (fn : Nat) : Bool := decide (fn ≤ 0x10)

/-- R144: an output-recoverable code. -/
def fnOutput (fn : Nat) : Bool := [0x01, 0x02, 0x05, 0x06, 0x07, 0x08].contains fn

/-- R144: an α of LEAKY_RELU inside (0, 1). -/
def alphaOk (fn α : Nat) : Bool :=
  if fn = 0x08 then (Num.zero false).lt (fp32Num α) && (fp32Num α).lt (.fin false 1 0) else true

/-- R145: `f(x)` of Table 6.5, rounded to FP32. -/
def fnValue (fn : Nat) (α : Nat) (splines : List (List Segment)) (x : Nat) : VM Nat :=
  match splineIdx fn with
  | some k => splineAt (splines.getD k []) false x
  | none =>
    match fp32Num x with
    | .fin s m e => rnd (fnFinite fn (fp32Num α) s m e)
    | n => rnd (fnSpecial fn (fp32Num α) n)

/-- R146: `f′(x)`, rounded to FP32. -/
def fnDeriv (fn : Nat) (α : Nat) (splines : List (List Segment)) (x : Nat) : VM Nat :=
  match splineIdx fn with
  | some k => splineAt (splines.getD k []) true x
  | none =>
    match fp32Num x with
    | .fin s m e => rnd (derivFinite fn (fp32Num α) s m e)
    | n => rnd (derivSpecial fn (fp32Num α) n)

/-- Table 6.4: the factor of the last product, and the other factor, both FP32 words. -/
def outputFactors (fn : Nat) (α dy y : Nat) : VM (Nat × Nat) :=
  match fn with
  | 0x01 => do
    let p ← vMul dy y
    pure (p, 0x3F317218)
  | 0x02 => pure (dy, y)
  | 0x05 => do
    let t ← vSub 0x3F800000 y
    let u ← vMul y t
    pure (dy, u)
  | 0x06 => do
    let t ← rnd (((fp32Num y).negate.mul (fp32Num y)).add (.fin false 1 0))
    pure (dy, t)
  | 0x07 => pure (dy, if (Num.zero false).lt (fp32Num y) then 0x3F800000 else 0)
  | 0x08 => pure (dy, if (Num.zero false).lt (fp32Num y) then 0x3F800000 else α)
  | _ => pure (dy, 0x3F800000)

end Sys2Proof.Machine
end

