-- ==== Sys2Proof/Machine/State.lean ====
section
/-! DEFINITION. The state of the module as plain data, its faults and refusals, and the state at reset. An indexed collection is a list of (index, value) pairs, strictly rising, that lists only what differs from the reset value. -/

namespace Sys2Proof.Machine

/-- A sparse collection by number. -/
abbrev Sparse (α : Type) := List (Nat × α)

/-! ### Time and memory -/

/-- Reference time (R222, R418) and core time (R428). -/
structure TimeSt where
  /-- 800 MHz reference ticks since the last module reset. -/
  refTicks : Nat
  /-- Core time in thirty-seconds of a reference tick's core cycles: `clock/…` units (R428, log 2). -/
  coreUnits : Nat
  deriving DecidableEq, Repr, Inhabited

/-- What a memory unit holds besides its data (R329, R330, R346). -/
inductive UnitFault where
  | single
  | double
  | addr
  | poison
  deriving DecidableEq, Repr, Inhabited

/-- An entry of a CE tracker (R338). -/
structure Track where
  addr : Nat
  count : Nat
  firstMs : Nat
  deriving DecidableEq, Repr, Inhabited

/-- A remap entry: a spare word of a bank or a spare row of a channel (Table 13.10). -/
structure Remap where
  line : Nat
  valid : Bool
  origin : Nat
  deriving DecidableEq, Repr, Inhabited

/-- A scrub pass over one of the two memories (R343, R344). -/
structure Pass where
  running : Bool
  /-- It runs at the in-window rate inside and outside windows. -/
  atRate : Bool
  lastMs : Nat
  count : Nat
  deriving DecidableEq, Repr, Inhabited

/-- A channel in migration (R362). -/
structure Migration where
  channel : Nat
  targets : List Nat
  moved : Nat
  deriving DecidableEq, Repr, Inhabited

/-- HBM, the clove slices, and their integrity (chapter 13). -/
structure MemSt where
  /-- Bytes by module address (Table 10.3); an unlisted byte reads 0 (R403). -/
  data : List Host.Cell
  /-- Faults and poison, by unit address. -/
  faults : Sparse UnitFault
  /-- MEM_INJ of each memory unit, as 96 bits (Table 13.11). -/
  inj : Sparse Nat
  tracker : Sparse (List Track)
  remap : Sparse (List Remap)
  /-- Row copies in progress: (channel, row, entry). -/
  rowCopies : List (Nat × Nat × Nat)
  /-- Spare banks left of each link tile (Table 13.10), listed where not 8. -/
  bankSpares : Sparse Nat
  remapExhausted : List Nat
  /-- HBM_CH_STAT.state, listed where not IN_SERVICE. -/
  chState : Sparse Nat
  marked : List Nat
  migrating : List Migration
  migrationWaiting : List Nat
  /-- Channels whose data lies in the reserve, by their order among their stack's: 1 or 2 (R362). -/
  moved : Sparse Nat
  /-- Reference ticks plus one at the last MEM_CE and MEM_UE of each memory unit (R337). -/
  ceAt : Sparse Nat
  ueAt : Sparse Nat
  windowOpen : Bool
  sramPass : Pass
  hbmPass : Pass
  forcedSram : Bool
  forcedHbm : Bool
  /-- SELFTEST_STAT (Table 17.14): failing cloves, link-tile banks, channels, tiles. -/
  stCloves : List Nat
  stBanks : List Nat
  stChannels : List Nat
  stTiles : List Nat
  deriving DecidableEq, Repr, Inhabited

/-! ### Registers -/

/-- A phase record of Table 17.15; its cycles are a timer in `RegSt.ctr`. -/
structure Phase where
  start : Nat
  stop : Nat
  startFrac : Nat
  stopFrac : Nat
  startState : Nat
  stopState : Nat
  active : Bool
  deriving DecidableEq, Repr, Inhabited

/-- The snapshot's control (R416, Table 17.4). -/
structure SnapSt where
  busy : Bool
  clear : Bool
  stamp : Nat
  frac : Nat
  tstate : Nat
  auto : Bool
  seq : Nat
  deriving DecidableEq, Repr, Inhabited

/-- Registers held as written, counters and their readable copies (chapter 17). -/
structure RegSt where
  /-- Held bits of a 4-byte word, by BAR0 address, listed where they differ from reset. -/
  held : Sparse Nat
  /-- Live counters and timers, by BAR0 address. -/
  ctr : Sparse Nat
  /-- The copy that reads return. -/
  copy : Sparse Nat
  /-- The copy in distribution while busy. -/
  nextCopy : Sparse Nat
  /-- Overflow bits, by address of the overflow register. -/
  ovf : Sparse Nat
  snap : SnapSt
  phase : Sparse Phase
  phaseCopy : Sparse Phase
  phaseNext : Sparse Phase
  deriving DecidableEq, Repr, Inhabited

/-! ### Streams and the host interface -/

/-- A tensor entry as read from the tensor table (Table 10.11). -/
structure TEntry where
  base : Nat
  rows : Nat
  cols : Nat
  fmt : Nat
  ssrc : Nat
  glen : Nat
  axisRow : Bool
  timeMajor : Bool
  plane : Nat
  deriving DecidableEq, Repr, Inhabited

/-- A work item: its stream, descriptor and number, and its chunk (R83). -/
structure ItemId where
  stream : Nat
  seq : Nat
  n : Nat
  chunk : Nat
  deriving DecidableEq, Repr, Inhabited

/-- Where a taken descriptor stands (R193, R195). -/
inductive Life where
  /-- Taken, not yet dispatched. -/
  | held
  /-- A STASH_SAVE that waits for pages or an index (R172). -/
  | stashWait
  /-- A GATE that waits for its mark (R236), a DEPEND or a BARRIER. -/
  | waiting
  /-- Dispatched, not complete. -/
  | running
  | done
  deriving DecidableEq, Repr, Inhabited

/-- The bits of a completion entry (Table 10.19). -/
structure CFlags where
  scaleMiss : Bool
  nonfinite : Bool
  sat : Bool
  skipped : Bool
  dropped : Bool
  late : Bool
  outcome : Bool
  deriving DecidableEq, Repr, Inhabited

/-- Earlier members of a shared sequence, in issue order, on outputs `lo` to `hi` − 1 of a pod (R79). -/
structure Prior where
  pod : Nat
  lo : Nat
  hi : Nat
  seqs : List Nat
  deriving DecidableEq, Repr, Inhabited

/-- A taken descriptor in its stream's window. -/
structure Rec where
  seq : Nat
  /-- It came from the ring, not from a call list. -/
  ring : Bool
  hdr : Header
  desc : Desc
  life : Life
  status : Nat
  detail : Nat
  value : Nat
  flags : CFlags
  /-- Step tag at its issue (R186). -/
  step : Nat
  /-- Key seed at its dispatch (R258). -/
  key : Nat
  /-- Committed code of its statistics slot when it was dispatched (R107). -/
  code : Option Nat
  /-- Its own direction, or that of the last MATMUL its stream took (R429). -/
  dir : Nat
  /-- Tensor entries read at its dispatch (R254). -/
  tes : List (Option TEntry)
  /-- Work items, tiles or blocks still outstanding, and how many there were. -/
  left : Nat
  parts : Nat
  /-- Order of dispatch, among all streams. -/
  order : Nat
  /-- STEP_COMMITs the module had issued at its issue (R176). -/
  commitNo : Nat
  /-- Pods of its group at dispatch, ascending (R198), and the items cut for each so far (R199). -/
  pods : List Nat
  cuts : List Nat
  /-- Items, and chunks of each (R83). -/
  nItems : Nat
  nSplit : Nat
  /-- Earlier members of its shared sequences (R79). -/
  prior : List Prior
  /-- STASH_FULL raised in this wait (R170). -/
  fullRaised : Bool
  /-- Items a BARRIER waits for, once it has reached the head (R207). -/
  snap : Option (List ItemId)
  /-- Cloves quarantined while it was held (R174). -/
  lostIn : List Nat
  /-- Its combines run as trees, since a combine of it had begun when a position was lost (R88). -/
  tree : Bool
  deriving DecidableEq, Repr, Inhabited

/-- A call list being taken (R262); `caller` completes after its last descriptor. -/
structure Frame where
  addr : Nat
  left : Nat
  slotEn : Bool
  slot : Nat
  posAdd : Nat
  caller : Rec
  deriving DecidableEq, Repr, Inhabited

/-- Table 8.1. -/
inductive StreamState where
  | disabled
  | active
  | idle
  | halted
  | aborted
  deriving DecidableEq, Repr, Inhabited

/-- A shared sequence that is open (R79) on the tiles of index `tile` that hold outputs `lo` to `hi` − 1 of a pod: what their
entries record, and its members. -/
structure SharedSeq where
  tile : Nat
  pod : Nat
  lo : Nat
  hi : Nat
  pass : Nat
  splitN : Nat
  start : Nat
  order : Bool
  members : List Nat
  deriving DecidableEq, Repr, Inhabited

/-- One hardware stream and its rings (R192 to R194, R247). -/
structure Stream where
  state : StreamState
  produced : Nat
  taken : Nat
  retired : Nat
  seqNext : Nat
  seqRetired : Nat
  sqDb : Nat
  cqDb : Nat
  /-- The count of a doorbell that is held, until the descriptors it names are taken (R251). -/
  heldTo : Option Nat
  cqProduced : Nat
  cqConsumed : Nat
  cfgErr : Bool
  dbErr : Bool
  descErr : Bool
  full : Bool
  keySeed : Nat
  window : List Rec
  /-- Call lists being taken, innermost first. -/
  calls : List Frame
  /-- The last retired descriptor is a BARRIER (R208). -/
  lastBarrier : Bool
  /-- The last taken descriptor is a BARRIER of group 0 (R186). -/
  afterBarrier0 : Bool
  /-- First sequence number an abort cancelled (Table 8.3). -/
  cancelledFrom : Option Nat
  /-- Direction of the last MATMUL taken (R429). -/
  lastDir : Nat
  shared : List SharedSeq
  /-- Retired members of shared sequences that are not closed: their items may have to run again (R19, R79). -/
  kept : List Rec
  deriving DecidableEq, Repr, Inhabited

/-- An MSI-X vector (R271). -/
structure Vector where
  pending : Nat
  pba : Bool
  timing : Bool
  /-- Messages sent (model's own, log 3). -/
  sent : Nat
  deriving DecidableEq, Repr, Inhabited

/-- What AER logs (R243, R245, R273, Table 13.4): a kind, 1 an unsupported request, 2 an uncorrectable internal error, 3 an
error or poison in data read; and the request's header, a write or a read of `len` bytes at an address. -/
structure AerRec where
  kind : Nat
  write : Bool
  addr : Nat
  len : Nat
  deriving DecidableEq, Repr, Inhabited

/-- The bandwidth split (R210). -/
structure BwSplit where
  read : Nat
  write : Nat
  remote : Nat
  deriving DecidableEq, Repr, Inhabited

/-- A sequence slot's length register (R215, R216). -/
structure SlotLen where
  len : Nat
  limitRaised : Bool
  err : Bool
  deriving DecidableEq, Repr, Inhabited

/-- The host interface (chapters 08, 10). -/
structure HostSt where
  /-- Host memory (the host's own, log 5). -/
  mem : List Host.Cell
  /-- Host lines whose read answers an error (Table 10.24, log 5). -/
  bad : List Nat
  streams : Sparse Stream
  eqProduced : Nat
  eqConsumed : Nat
  eqDb : Nat
  eqOverflow : Bool
  /-- Events lost since the last entry written (Table 10.22). -/
  eqLost : Nat
  vectors : Sparse Vector
  aer : List AerRec
  rate : Nat
  width : Nat
  flit : Bool
  linkUp : Bool
  perstLow : Bool
  needReset : Bool
  bwsplit : BwSplit
  bwPending : Option BwSplit
  bwErr : Bool
  slotLen : Sparse SlotLen
  stashErr : Bool
  interlock : Bool
  interlockPending : Option Bool
  deriving DecidableEq, Repr, Inhabited

/-! ### Cloves and tiles -/

/-- What a work item is (R195, Table 8.2). -/
inductive ItemKind where
  | tile
  | shared
  | chunk
  | bwd
  | vecop
  | scan
  | fold
  deriving DecidableEq, Repr, Inhabited

/-- A work item in a pod's queue (R199). -/
structure QItem where
  id : ItemId
  kind : ItemKind
  prio : Nat
  /-- Ring position it is bound to (R83). -/
  bound : Option Nat
  tile : Nat
  /-- The pod in whose queue it was placed (R198), and which of that pod's outputs it forms. -/
  home : Nat
  slot : Nat
  /-- Token blocks whose dX a re-issued BWD_PAIR item need not form again, and blocks whose dW stands (R19). -/
  skip : List Nat
  dwDone : List Nat
  /-- Pod and ring position whose spare must run it: it was re-issued there (R19). -/
  on : Option (Nat × Nat)
  deriving DecidableEq, Repr, Inhabited

/-- A context of a clove (R203). -/
structure Ctx where
  item : QItem
  ready : Bool
  /-- Its products are complete and wait for the tile's port (R80), or for a member's tile (R87). -/
  formed : Bool
  /-- Taken by stealing (R201). -/
  stolen : Bool
  /-- Order of hand-out (R204). -/
  order : Nat
  /-- Token blocks done, for a BWD_PAIR (R160). -/
  next : Nat
  deriving DecidableEq, Repr, Inhabited

/-- Table 4.2. -/
inductive TileState where
  | free
  | open_
  | shared
  | combining
  | closing
  deriving DecidableEq, Repr, Inhabited

/-- What a tile holds: an output, or a BWD_PAIR's dX or dW block. -/
inductive TileUse where
  | out
  | dx (t : Nat)
  | dw (o : Nat)
  deriving DecidableEq, Repr, Inhabited

/-- An accumulator tile and its scoreboard entry (Table 4.1). -/
structure Tile where
  state : TileState
  stream : Nat
  /-- Sequence number of the operation whose additions are being taken; the register shows the low 16 bits of that
  descriptor's tag (log 22). -/
  owner : Nat
  pass : Nat
  splitN : Nat
  chunk : Nat
  order : Bool
  shared : Bool
  sat : Bool
  flush : Bool
  nonfinite : Bool
  /-- 4,096 FP32 words, row-major; empty while FREE. -/
  words : List Nat
  /-- The item that opened it, and the output as the last operation that added to it numbers it. -/
  item : QItem
  out : Nat
  use : TileUse
  /-- Chunks whose sum it holds while COMBINING (R84, R85). -/
  lo : Nat
  hi : Nat
  /-- Members of the shared sequence whose values are in (R80). -/
  members : List Nat
  deriving DecidableEq, Repr, Inhabited

/-- Statistics of converted elements (R111, Table 5.9). -/
structure Stats where
  bins : Sparse Nat
  zero : Nat
  flushed : Nat
  saturated : Nat
  inf : Nat
  nan : Nat
  maxAbs : Nat
  accSat : Bool
  accFlush : Bool
  accNonfinite : Bool
  overflow : Bool
  tiles : Nat
  missOver : Nat
  missUnder : Nat
  lateTiles : Nat
  code : Nat
  codeValid : Bool
  deriving DecidableEq, Repr, Inhabited

/-- A tile in the drain converter (R103): its first pass is written, or its redrain is under way. -/
structure Drain where
  tile : Nat
  redrain : Bool
  stats : Stats
  missOver : Bool
  missUnder : Bool
  deriving DecidableEq, Repr, Inhabited

/-- State of a stash entry (R171, R173, R174). -/
inductive StashState where
  | present
  | dropped
  | lost
  deriving DecidableEq, Repr, Inhabited

/-- An entry of a clove's stash table (R168 to R171, Table 7.3). -/
structure StashEntry where
  state : StashState
  tensor : Nat
  layer : Nat
  slot : Nat
  recompute : Bool
  inHbm : Bool
  step : Nat
  posFirst : Nat
  posLast : Nat
  rows : Nat
  cols : Nat
  weightId : Nat
  version : Nat
  length : Nat
  /-- Addresses of its pages, in order. -/
  pages : List Nat
  /-- Save order on its clove (R171). -/
  order : Nat
  deriving DecidableEq, Repr, Inhabited

/-- Where a clove sits (R17, R18): as built, in another clove's place, or in none. -/
inductive Seat where
  | asBuilt
  | replacing (clove : Nat)
  | out
  deriving DecidableEq, Repr, Inhabited

/-- BIST of a clove (Table 18.2). -/
structure Bist where
  busy : Bool
  pass : Bool
  aborted : Bool
  fail : Nat
  deriving DecidableEq, Repr, Inhabited

/-- One physical clove. -/
structure Clove where
  seat : Seat
  quarantined : Bool
  failedSpare : Bool
  mechanism : Nat
  /-- The quarantined clove whose place it is joining (R18). -/
  joining : Option Nat
  tiles : Sparse Tile
  /-- Tiles in the order in which they entered CLOSING (R103). -/
  closing : List Nat
  drain : Option Drain
  ctx : Sparse Ctx
  /-- Contexts that the array, the vector unit and the scan unit serve (R203). -/
  serving : Sparse Nat
  scaleFile : Sparse Nat
  int4 : Sparse Nat
  rowBank : Sparse Nat
  splines : Sparse (List Segment)
  seed : Nat
  /-- Recorded sources of store loads (R259): (store, first, count, source). -/
  sources : List (Nat × Nat × Nat × Nat)
  stash : Sparse StashEntry
  stashPages : Nat
  stashErr : Bool
  bist : Bist
  deriving DecidableEq, Repr, Inhabited

/-- A block that an update engine has computed and holds (R354): its number, the engine's tile, what it writes in order, and
what it counts (Table 7.8). -/
structure HeldBlock where
  block : Nat
  tile : Nat
  writes : List (Nat × List Byte)
  sat : Nat
  kept : Nat
  flushed : Nat
  deriving DecidableEq, Repr, Inhabited

/-- An entry of the weight table (R175). -/
structure Weight where
  addr : Nat
  version : Nat
  refs : Nat
  /-- 0 IDLE, 1 UPDATING, 2 SNAPSHOT. -/
  state : Nat
  registered : Bool
  /-- Step tag of its last UPDATE. -/
  lastStep : Option Nat
  /-- UPDATEs that wait or run: stream and sequence number, in order. -/
  updates : List (Nat × Nat)
  /-- Blocks of the running UPDATE that are computed and not written. -/
  held : List HeldBlock
  deriving DecidableEq, Repr, Inhabited

/-- A statistics slot (R113, Table 17.12). -/
structure SlotStat where
  code : Nat
  codeValid : Bool
  staged : Nat
  stagedValid : Bool
  outFmt : Nat
  histBase : Nat
  bound : Bool
  missSeen : Bool
  deriving DecidableEq, Repr, Inhabited

/-- Cloves, pods and compute tiles (chapters 04 to 08). -/
structure ComputeSt where
  cloves : Sparse Clove
  podQueue : Sparse (List QItem)
  /-- Entries 1 to 63 of the group table (R197). -/
  groups : Sparse Nat
  weights : Sparse Weight
  slots : Sparse SlotStat
  /-- Partial records: 4,096 · tile + slot (R113). -/
  partials : Sparse Stats
  tileOut : List Nat
  updateOut : List Nat
  ucodeWait : List Nat
  /-- STASH_SPILL raised since the last STEP_COMMIT (Table 7.4). -/
  spillSeen : Bool
  /-- Hand-outs and saves so far: the order of contexts and of stash entries. -/
  orderNo : Nat
  deriving DecidableEq, Repr, Inhabited

/-- A STEP_COMMIT the module has issued (R176, R188). -/
structure Commit where
  /-- Its number among those issued, from 1. -/
  no : Nat
  stream : Nat
  seq : Nat
  tag : Nat
  vote : Nat
  contributed : Bool
  /-- Its vote's result has come. -/
  answered : Bool
  finished : Bool
  /-- It completed with status OK and outcome COMMIT. -/
  committed : Bool
  deriving DecidableEq, Repr, Inhabited

/-- The step guard (R185 to R190). -/
structure StepSt where
  tag : Nat
  flags : Sparse Bool
  first : Sparse FirstSetter
  lastOutcome : Bool
  lastValid : Bool
  lastTag : Nat
  /-- STEP_COMMITs issued. -/
  issued : Nat
  commits : List Commit
  deriving DecidableEq, Repr, Inhabited

/-! ### Tally -/

/-- Table of R221. -/
inductive TState where
  | off
  | acquiring
  | tracking
  | holdover
  | lost
  | reverseHold
  deriving DecidableEq, Repr, Inhabited

/-- A stamp (R219): the pair and the fraction. -/
structure Stamp where
  pair : Nat
  frac : Nat
  deriving DecidableEq, Repr, Inhabited

/-- A count of the last 1.024 ms (R227): when, by how much, the pair before it, and when the count before it came. -/
structure CountRec where
  at_ : Nat
  step : Int
  before : Nat
  prev : Nat
  deriving DecidableEq, Repr, Inhabited

/-- The tally block (chapter 09), less the registers held as written. Times are reference ticks. -/
structure TallySt where
  /-- The present stamp. -/
  now : Stamp
  state : TState
  /-- A preset that waits for the next Z (R221). -/
  preset : Option Nat
  resync : Bool
  upstream : Bool
  /-- Flag bit 1 of the last message taken, for a relay (R224, R226). -/
  upReverse : Bool
  faultA : Bool
  faultB : Bool
  faultSer : Bool
  faultZ : Bool
  quadErr : Bool
  presetErr : Bool
  /-- TALLY_NOW_HI and TALLY_NOW_FRAC (R241). -/
  nowHi : Nat
  nowFrac : Nat
  /-- Levels of A and B as accepted (R222). -/
  a : Bool
  b : Bool
  /-- Counts since the last Z (R223). -/
  sinceZ : Nat
  /-- Counts of the last 1.024 ms and times of the last 17 counts, newest first (R227). -/
  counts : List CountRec
  edges : List Nat
  /-- Times of illegal transitions of the last 1.024 ms (R229). -/
  illegal : List Nat
  /-- Time at which the present state was entered. -/
  since : Nat
  /-- Counts that the source must still go up before the tally resumes: in REVERSE_HOLD, or held by a realignment
  (R223, R228). -/
  behind : Nat
  /-- Reverse depth now, and TALLY_REV_DEPTH. -/
  depth : Int
  revDepth : Nat
  /-- TALLY_REVERSED raised in this stay at pair 0 (R220). -/
  zeroRaised : Bool
  /-- The last two accepted stamps with their times, newest first (R225). -/
  stamps : List (Nat × Stamp)
  /-- Frames in a row that failed only the prediction, newest first (R224). -/
  failing : List (Nat × Stamp)
  /-- Frames accepted in a row while the source is acquired (R221, R231). -/
  accepted : Nat
  /-- Cause of the HOLDOVER, the time and stamp it runs from, and the rate in counts per ticks (R229, R230). -/
  cause : Nat
  holdAt : Nat
  holdFrom : Stamp
  rateN : Int
  rateD : Nat
  /-- Twice the last 8 measured delays, newest first, and the send time of the PING outstanding (R226). -/
  delays : List Nat
  pingAt : Option Nat
  /-- Hop count and master of the last message taken (R226). -/
  hop : Nat
  master : Nat
  testBusy : Bool
  testPass : Nat
  /-- A src written during the self-test (R437). -/
  srcPending : Option Nat
  /-- Last stamp on the tally bus (R232). -/
  bus : Stamp
  /-- The stamp of a preset in OFF is passing its marks; governor alarms that it passed (R238). -/
  forming : Bool
  passedOff : List Nat
  /-- The tally has been OFF or LOST and not TRACKING since: scheduled recalibration is deferred (R237, R238). -/
  deferRecal : Bool
  deriving DecidableEq, Repr, Inhabited

/-! ### Link ports -/

/-- A lane of a port, in both directions (R278, R279, Table 11.8). -/
structure Lane where
  /-- 0 data, 1 spare, 2 failed, 3 training (receive direction). -/
  role : Nat
  pair : Nat
  inverted : Bool
  recalPending : Bool
  eyeHeight : Nat
  eyeWidth : Nat
  rxNext : Nat
  nakDue : Bool
  /-- As `role`, for the send direction. -/
  txRole : Nat
  txNext : Nat
  /-- Replay buffer, oldest first. -/
  replay : List Flit
  /-- Resends from the oldest flit without progress (R279). -/
  resends : Nat
  /-- Flits at the end of the replay buffer that are to be resent (R279), and flits that go out on this lane before any other (R287). -/
  again : Nat
  todo : List Flit
  /-- NAKs sent for the flit expected now (R279, R286). -/
  naks : Nat
  /-- Flits sent since the lane's last FRAME flit (R276). -/
  slot : Nat
  deriving DecidableEq, Repr, Inhabited

/-- Peppermill on one lane (Table 18.2). -/
structure Pm where
  owned : Bool
  locked : Bool
  lostLock : Bool
  preempted : Bool
  refused : Bool
  /-- Bits inverted on request (model's own, log 3). -/
  injected : Nat
  /-- Eighths of bits compared and not yet a unit of PM_BITS. -/
  acc : Nat
  /-- Errors counted since the checker locked (R432). -/
  errs : Nat
  deriving DecidableEq, Repr, Inhabited

/-- Recalibration in progress on a port (R288): its lane and step. -/
structure Recal where
  lane : Nat
  step : Nat
  deriving DecidableEq, Repr, Inhabited

/-- A Berquel port (chapter 11), less the registers held as written. -/
structure Port where
  /-- Table 11.5 code. -/
  state : Nat
  lanes : Sparse Lane
  /-- The spare covers a failed lane, in the receive and in the send direction (R274, R287). -/
  spareFault : Bool
  txFault : Bool
  spareInUse : Bool
  miscabled : Bool
  txConflict : Bool
  permuted : Bool
  farNode : Nat
  farPort : Nat
  farValid : Bool
  /-- The identity sent in IDENT, and the pools sent in CREDIT (R283). -/
  sentIdent : Option (Nat × Nat)
  sentPools : List Nat
  /-- DATA flits that wait to be sent, by VC. -/
  queues : Sparse (List Flit)
  vcSeqTx : Sparse Nat
  /-- Credits the sender holds, by VC. -/
  credit : Sparse Nat
  vcSeqRx : Sparse Nat
  reorder : List Flit
  /-- Credits freed, by VC, modulo 4,096 (R282). -/
  freed : Sparse Nat
  /-- cr_total last seen from the neighbour, by VC. -/
  crSeen : Sparse Nat
  /-- Send lanes in the order of the rotation, and whose turn it is (R281, R287, R288). -/
  order : List Nat
  rotation : Nat
  ackRotation : Nat
  /-- Lane and flit of the last flit slot, and the 256 bytes it had on the wire (R277). -/
  sent : Option (Nat × Flit)
  wire : List Byte
  /-- Weighted round robin: the VC served and the slots it has left (R282). -/
  wrrVc : Nat
  wrrLeft : Nat
  /-- Flits that move to other lanes, before any from the queues (R287, R290). -/
  moved : List Flit
  /-- Flits kept since the port went down (Table 11.11). -/
  keeping : Bool
  /-- Messages of which a flit was lost, by VC, source and context (R334). -/
  broken : List (Nat × Nat × Nat)
  /-- Flits seen of each message under way, by VC, source and context (R334). -/
  inflow : List ((Nat × Nat × Nat) × Nat)
  /-- Flits of which the buffer line is known: received ones by VC and vc_seq, kept ones by lane and lane_seq (log 79). -/
  rxLine : List ((Nat × Nat) × Nat)
  txLine : List ((Nat × Nat) × Nat)
  recal : Option Recal
  /-- Send lane that a recalibration empties (R288). -/
  recalTx : Option Nat
  pm : Sparse Pm
  deriving DecidableEq, Repr, Inhabited

/-! ### Link tiles -/

/-- A bucket-exponent entry (R294). -/
structure BktEntry where
  em : Int
  valid : Bool
  op : Nat
  word : Bool
  n : Nat
  deriving DecidableEq, Repr, Inhabited

/-- A reduction plan as read at arming (Table 12.1). -/
structure Plan where
  kind : Nat
  trees : Nat
  expected : Nat
  localCount : Nat
  cur : Bool
  qValid : Bool
  step : Nat
  window : Nat
  /-- Per tree: parent port, height, child mask. -/
  parent : List Nat
  height : List Nat
  children : List Nat
  lowrank : List Nat
  deriving DecidableEq, Repr, Inhabited

/-- A local contribution of an instance (R292, R297). -/
structure LocalIn where
  stream : Nat
  seq : Nat
  layer : Nat
  tensor : Nat
  /-- Elements as read, 32 bits each. -/
  raw : List Nat
  /-- Words of the bucket, once the exponent is known. -/
  words : List Int
  /-- Clipped elements on each tree. -/
  clips : List Nat
  /-- Subnormal elements taken as zeros, on each tree (R36, R422). -/
  flushes : List Nat
  nonfinite : Bool
  maxExp : Option Int
  first : Option FirstSetter
  backup : Option Nat
  /-- Where its result goes; none for a vote, a count and a low-rank exchange. -/
  dst : Option Nat
  /-- Trees whose deadline had fired when it joined. -/
  missed : List Nat
  /-- Withdrawn by an abort (R308). -/
  gone : Bool
  /-- Step tag of its descriptor (R187). -/
  tag : Nat
  deriving DecidableEq, Repr, Inhabited

/-- What an instance is for. -/
inductive BucketUse where
  | reduce
  | vote
  | count
  | lowrank
  deriving DecidableEq, Repr, Inhabited

/-- A contribution that opens an instance, joins one or waits for one (R297). -/
structure Offer where
  bucket : Nat
  planNo : Nat
  plan : Plan
  op : Nat
  word : Bool
  elements : Nat
  use : BucketUse
  deadline : Option Stamp
  tag : Nat
  loc : LocalIn
  deriving DecidableEq, Repr, Inhabited

/-- A child's input on one tree (R301, R306). -/
structure ChildIn where
  port : Nat
  /-- Its part in the exchange of max exponents (R294). -/
  pre : Option InputMeta
  /-- Chunks delivered, in order. -/
  chunks : List (List Int)
  info : Option InputMeta
  /-- Taken by the deadline: from the copy, or missing. -/
  closed : Bool
  standIn : Option BackupCopy
  /-- Backup that its node registered (R305). -/
  backup : Option Nat
  /-- It has arrived late (R307). -/
  late : Bool
  deriving DecidableEq, Repr, Inhabited

/-- One tree of a bucket instance (R299 to R303). -/
structure TreeIn where
  inputs : List ChildIn
  /-- Chunks this module may still send up, and chunks granted to each child (R300). -/
  grants : Nat
  given : Nat
  /-- The grant that its parent sent on arming has come. -/
  granted : Bool
  sent : Nat
  preSent : Bool
  /-- Result of the exchange of max exponents. -/
  pre : Option (Option Int)
  /-- Result chunks, in order, and the tree's trailer. -/
  result : List (List Int)
  trailer : Option Trailer
  fired : Bool
  late : Nat
  partialIn : Bool
  deriving DecidableEq, Repr, Inhabited

/-- Table 12.2. -/
inductive BucketState where
  | free
  | waitArm
  | armed
  | collecting
  | result
  deriving DecidableEq, Repr, Inhabited

/-- A bucket instance (R297 to R309). -/
structure Bucket where
  state : BucketState
  planNo : Nat
  plan : Plan
  op : Nat
  word : Bool
  elements : Nat
  use : BucketUse
  twoPhase : Bool
  /-- None until the exchange of max exponents ends. -/
  e : Option Int
  locals : List LocalIn
  trees : List TreeIn
  copies : List BackupCopy
  /-- Shadow modules whose copies came for it (R304). -/
  askers : List Nat
  deadline : Option Stamp
  tag : Nat
  /-- An adder lane failed in it (R354). -/
  nonfinite : Bool
  deriving DecidableEq, Repr, Inhabited

/-- A low-rank exchange in progress (R310): FP32 matrices, row-major. -/
structure LowRank where
  stream : Nat
  seq : Nat
  bucket : Nat
  planNo : Nat
  plan : Plan
  rank : Nat
  rows : Nat
  cols : Nat
  dst : Nat
  word : Bool
  deadline : Option Stamp
  tag : Nat
  layer : Nat
  tensor : Nat
  backup : Option Nat
  m : List Nat
  /-- Ph and Ql, once the first exchange has ended. -/
  ph : List Nat
  ql : List Nat
  nonfinite : Bool
  deriving DecidableEq, Repr, Inhabited

/-- Where a token-choice stands at its origin (R314, Table 12.6). -/
inductive ChoiceState where
  | waiting
  | requested
  | sent
  | dropped
  | deferred
  /-- It moves on to the next round under SPILL. -/
  | moved
  deriving DecidableEq, Repr, Inhabited

/-- A token-choice of an origin: the number of its defer record, when it is a deferred one (R315). -/
structure Choice where
  held : Option Nat
  j : Nat
  row : Nat
  col : Nat
  expert : Nat
  round : Nat
  state : ChoiceState
  deriving DecidableEq, Repr, Inhabited

/-- A request at a home and its grant (R314). -/
structure HomeReq where
  plan : Nat
  expert : Nat
  origin : Nat
  round : Nat
  count : Nat
  /-- Epoch of the origin's home entry (R319). -/
  epoch : Nat
  granted : Option Nat
  deriving DecidableEq, Repr, Inhabited

/-- Requests still missing of one expert when a DISPATCH went on after its count timeout (Table 12.8): how many, and the
origins that were heard. -/
structure LateReq where
  stream : Nat
  seq : Nat
  plan : Nat
  expert : Nat
  round : Nat
  missing : Nat
  heard : List Nat
  deriving DecidableEq, Repr, Inhabited

/-- A row with its record: a granted row at a home (R316), or an output row at an origin (R317). -/
structure RowIn where
  tok : TokenRec
  data : List Byte
  deriving DecidableEq, Repr, Inhabited

/-- A dispatch plan entry (Table 12.5). -/
structure DispPlan where
  firstExpert : Nat
  experts : Nat
  countPlan : Nat
  countBucket : Nat
  defer : Nat
  deferCap : Nat
  deferOut : Nat
  timeout : Nat
  deriving DecidableEq, Repr, Inhabited

/-- A defer record (R315). -/
structure Deferred where
  tok : TokenRec
  data : List Byte
  weight : Nat
  deriving DecidableEq, Repr, Inhabited

/-- A DISPATCH in progress (R312 to R316). -/
structure DispOp where
  stream : Nat
  seq : Nat
  /-- Its receive buffer is reserved: bytes on each link tile (R212). -/
  armed : Bool
  buffers : List Nat
  planNo : Nat
  plan : DispPlan
  capacity : Nat
  policy : Nat
  k : Nat
  tokens : TEntry
  route : List (List Nat)
  weights : Option TEntry
  round : Nat
  choices : List Choice
  /-- Defer records that its first round places. -/
  held : List Deferred
  /-- Origins to expect per expert of the layer this round; none before the count result. -/
  expects : Option (List Nat)
  timedOut : Bool
  reqs : List HomeReq
  rows : List RowIn
  /-- Experts whose overflow event is raised (R315). -/
  raised : List Nat
  /-- No round follows; and its count has no other origin. -/
  ended : Bool
  alone : Bool
  deriving DecidableEq, Repr, Inhabited

/-- What a completed DISPATCH leaves for the COMBINE of its plan. -/
structure Placed where
  choices : List Choice
  held : List Deferred
  /-- Records of each slot's rows, in row order. -/
  slots : List (Nat × List TokenRec)
  deriving DecidableEq, Repr, Inhabited

/-- A COMBINE in progress (R317). -/
structure CombOp where
  stream : Nat
  seq : Nat
  armed : Bool
  buffers : List Nat
  planNo : Nat
  plan : DispPlan
  tokens : TEntry
  weights : TEntry
  out : TEntry
  placed : Placed
  rows : List RowIn
  deriving DecidableEq, Repr, Inhabited

/-- A message formed for another module and not yet cut into flits (log 6). -/
structure Msg where
  vc : Nat
  dst : Nat
  port : Option Nat
  ctx : Nat
  payload : Payload
  deriving DecidableEq, Repr, Inhabited

/-- The link tiles (chapter 12), less the registers held as written. -/
structure LinkSt where
  logical : Option Nat
  entries : Sparse BktEntry
  insts : Sparse Bucket
  /-- Contributions that wait for their bucket to be FREE, in order (R297). -/
  waiting : List Offer
  /-- Grants that came before their instance armed: bucket, tree, chunks. -/
  early : List (Nat × Nat × Nat)
  bktBusyErr : Bool
  /-- Reserved bytes of the reduction pool of each link tile (R300). -/
  redUsed : Sparse Nat
  heldCopies : List BackupCopy
  /-- Shadow REDUCEs that wait for their trailer: bucket, stream, seq. -/
  shadows : List (Nat × Nat × Nat)
  lowrank : List LowRank
  home : Sparse Nat
  /-- Loads of home entries that run: link tile, source, and first entry with count, as HOME_LOAD holds them. -/
  homeBusy : List (Nat × Nat × Nat)
  /-- HOME_DATA accesses that wait for a load: link tile and value written, none for a read. -/
  homeWaiting : List (Nat × Option Nat)
  slotRows : Sparse Nat
  /-- Link tiles whose LNK_POOL holds err, and credit_err. -/
  poolErr : List Nat
  creditErr : List Nat
  dimsErr : Bool
  /-- Adder lanes in service of each link tile (R425). -/
  addLanes : Sparse Nat
  addStopped : List Nat
  ops : List DispOp
  combines : List CombOp
  /-- Requests and outputs that came before their descriptor. -/
  earlyReqs : List HomeReq
  lateReqs : List LateReq
  earlyOuts : List RowIn
  /-- Experts of which an output was lost before its COMBINE (R333). -/
  lostOuts : List Nat
  /-- Defer lists and completed DISPATCHes, by plan. -/
  deferred : Sparse (List Deferred)
  placed : Sparse Placed
  /-- Plans whose new low-rank residuals wait for COMMIT (R311). -/
  residuals : List Nat
  msgs : List Msg
  deriving DecidableEq, Repr, Inhabited

/-! ### Safety, steward, life cycle -/

/-- What the steward's ledger keeps over power cycles (R20, R342, R359, R367, R387). -/
structure Ledger where
  quarantines : List (Nat × Nat)
  failedSpares : List Nat
  /-- Tiles out of service, each with its mechanism (R359). -/
  tilesOut : List (Nat × Nat)
  enginesOut : List Nat
  marked : List Nat
  retired : List Nat
  banksRetired : List (Nat × Nat)
  ports : List Nat
  /-- Link tiles that stopped adding (R354, R367). -/
  linksOut : List Nat
  /-- Residue failures of update engines: tile and time, in ms of `clock` (R354). -/
  residues : List (Nat × Nat)
  /-- Compute tiles (0 to 15) and link tiles (16 to 23) whose clock faults stopped the module (R360, R367). -/
  stops : List Nat
  /-- Reference milliseconds before the last module reset. -/
  clock : Nat
  reasons : Nat
  /-- Wear used, in half-milliseconds (R387). -/
  wear : Nat
  wearRaised : Bool
  deriving DecidableEq, Repr, Inhabited

/-- The steward (R365, R366, R398). -/
structure StewardSt where
  on : Bool
  booted : Bool
  recovery : Bool
  slot : Nat
  fallback : Bool
  restarting : Bool
  switchReq : Bool
  verA : Nat
  verB : Nat
  ucodeStatus : Nat
  /-- The version loaded. -/
  ucodeVersion : Nat
  /-- The last image that reached DONE, in the protected store (R400). -/
  ucodeStored : Option Nat
  ucodePending : Option Nat
  deriving DecidableEq, Repr, Inhabited

/-- Life cycle (R406 to R410). -/
structure LifeSt where
  state : Nat
  left : Nat
  nonceNo : Nat
  window : List Byte
  result : Nat
  /-- SHA-384 of the owner's public key (R407). -/
  ownerHash : List Byte
  deriving DecidableEq, Repr, Inhabited

/-- Safety (chapter 14) and the global block (chapter 16). -/
structure SafeSt where
  stop : Bool
  clockFault : Bool
  tempDisagree : Bool
  linkAddOut : Nat
  quarLog : List Nat
  ledger : Ledger
  steward : StewardSt
  life : LifeSt
  ready : Bool
  phase : Nat
  recovery : Bool
  pcieReduced : Bool
  deriving DecidableEq, Repr, Inhabited

/-! ### Power, governor, boost -/

/-- The window of a boost plan (R384 to R386). -/
structure BoostSt where
  opened : Bool
  entry : Nat
  openedAt : Nat
  closedAt : Option Nat
  lastReason : Nat
  lastLen : Nat
  /-- Per plan entry: status and reason (Table 15.22). -/
  status : Sparse Nat
  reason : Sparse Nat
  deriving DecidableEq, Repr, Inhabited

/-- Supplies, governor and thermal control (chapter 15). -/
structure PowerSt where
  aux : Bool
  main : Bool
  ok : Bool
  cause : Nat
  mateA : Bool
  mateB : Bool
  polarityA : Bool
  polarityB : Bool
  bladeLostA : Bool
  bladeLostB : Bool
  currentTrip : Bool
  vinA : Nat
  vinB : Nat
  bus : Nat
  iinA : Nat
  iinB : Nat
  pin10ms : Nat
  pin60s : Nat
  /-- Steps of 25 MHz, 0x20 to 0x4A (Table 15.20). -/
  clock : Nat
  /-- The clock that the governor allows (R379, R382). -/
  allowed : Nat
  limiter : Nat
  warning : Bool
  qualifying : Bool
  /-- Blades that are absent or lost now (R381). -/
  outA : Bool
  outB : Bool
  /-- A blade was lost in the present dip: its limits wait for the recovery (R396). -/
  lostInDip : Bool
  coolantOut : Bool
  /-- Start of the dip and of its qualification, µs (R379). -/
  dipStart : Nat
  qualStart : Nat
  returning : Bool
  tripHold : Bool
  thermal : Bool
  shutdown : Bool
  jmax : Nat
  jdie : Nat
  coolIn : Nat
  coolOut : Nat
  flow : Nat
  maxClock : Nat
  boost : BoostSt
  pmbusFault : Nat
  deriving DecidableEq, Repr, Inhabited

/-! ### Test -/

/-- MBIST of a channel (Table 18.2). -/
structure Mbist where
  busy : Bool
  pass : Bool
  refused : Bool
  rows : Nat
  deriving DecidableEq, Repr, Inhabited

/-- JTAG and MBIST (chapter 18). -/
structure TestSt where
  /-- The instruction register is 8 bits wide (R434). -/
  jtagIr : BitVec 8
  jtagCells : List Nat
  mbist : Sparse Mbist
  deriving DecidableEq, Repr, Inhabited

/-! ### The whole -/

/-- What a command that reads answers (log 3). -/
inductive Resp where
  | none
  | word (w : Nat)
  | bytes (b : List Byte)
  | unsupported
  | poisoned
  deriving DecidableEq, Repr, Inhabited

/-- The module and the queue of commands that wait for it, first in, first out. -/
structure State where
  pending : List Instr
  resp : Resp
  /-- Picks a fresh free value of Config each time one is drawn (log 4). -/
  free : Nat
  time : TimeSt
  mem : MemSt
  reg : RegSt
  host : HostSt
  comp : ComputeSt
  step : StepSt
  tally : TallySt
  ports : Sparse Port
  link : LinkSt
  safe : SafeSt
  power : PowerSt
  test : TestSt
  deriving DecidableEq, Repr

/-- Why the module stops on a command. -/
inductive Fault where
  /-- The command names a unit the module does not have (a stream above 63, a port above 47, ...): raised by the
  meanings through `onUnit`; no sender of R1 to R7 can send it. Safe. -/
  | noSuchUnit
  deriving DecidableEq, Repr

/-- Why the model has no meaning for a command. -/
inductive Refusal where
  /-- Not modelled yet: raised by an arm of `exec` alone. Safe. -/
  | notModelled (mnemonic : String)
  deriving DecidableEq, Repr

/-! ### Reset -/

/-- A pass that has not run. -/
def Pass.idle : Pass := ⟨false, false, 0, 0⟩

/-- Memory with nothing listed. -/
def MemSt.empty : MemSt :=
  ⟨[], [], [], [], [], [], [], [], [], [], [], [], [], [], [], false, Pass.idle, Pass.idle, false, false, [], [], [], []⟩

/-- Registers at their reset values, counters 0. -/
def RegSt.empty : RegSt := ⟨[], [], [], [], [], ⟨false, false, 0, 0, 0, false, 0⟩, [], [], []⟩

/-- A stream at reset. -/
def Stream.empty : Stream :=
  ⟨.disabled, 0, 0, 0, 0, 0, 0, 0, none, 0, 0, false, false, false, false, 0, [], [], false, false, none, 0, [], []⟩

/-- A vector at reset. -/
def Vector.empty : Vector := ⟨0, false, false, 0⟩

/-- The reset split of R210. -/
def BwSplit.reset : BwSplit := ⟨16, 8, 8⟩

/-- A slot's length at reset (Table 17.6). -/
def SlotLen.reset : SlotLen := ⟨1048576, false, false⟩

/-- The host interface at reset: PERST low and the link down (log 9). -/
def HostSt.empty : HostSt :=
  ⟨[], [], [], 0, 0, 0, false, 0, [], [], 0, 0, false, false, true, false, BwSplit.reset, none, false, [], false, true, none⟩

/-- A FREE tile. -/
def Tile.empty : Tile :=
  ⟨.free, 0, 0, 0, 0, 0, false, false, false, false, false, [], ⟨⟨0, 0, 0, 0⟩, .tile, 0, none, 0, 0, 0, [], [], none⟩, 0, .out, 0, 0, []⟩

/-- Statistics of nothing. -/
def Stats.empty : Stats := ⟨[], 0, 0, 0, 0, 0, 0, false, false, false, false, 0, 0, 0, 0, 0, false⟩

/-- The seed a reset loads (R120). -/
def resetSeed : Nat := 0x9E3779B97F4A7C15

/-- A clove at reset: its built place, stores 0, every tile FREE, the seed of R120. -/
def Clove.empty : Clove :=
  ⟨.asBuilt, false, false, 0, none, [], [], none, [], [], [], [], [], [], resetSeed, [], [], 0, false,
    ⟨false, false, false, 0⟩⟩

/-- An unregistered weight entry. -/
def Weight.empty : Weight := ⟨0, 0, 0, 0, false, none, [], []⟩

/-- A statistics slot at reset. -/
def SlotStat.empty : SlotStat := ⟨0, false, 0, false, 0, 0, false, false⟩

/-- Cloves, pods and tiles at reset. -/
def ComputeSt.empty : ComputeSt := ⟨[], [], [], [], [], [], [], [], [], false, 0⟩

/-- The step guard at reset. -/
def StepSt.empty : StepSt := ⟨0, [], [], false, false, 0, 0, []⟩

/-- The stamp 0. -/
def Stamp.zero : Stamp := ⟨0, 0⟩

/-- The tally at reset: src NONE, pair 0 (R221). -/
def TallySt.empty : TallySt :=
  { now := Stamp.zero, state := .off, preset := none, resync := false, upstream := false, upReverse := false, faultA := false,
    faultB := false, faultSer := false, faultZ := false, quadErr := false, presetErr := false, nowHi := 0,
    nowFrac := 0, a := false, b := false, sinceZ := 0, counts := [], edges := [], illegal := [], since := 0,
    behind := 0, depth := 0, revDepth := 0, zeroRaised := false, stamps := [], failing := [], accepted := 0,
    cause := 0, holdAt := 0, holdFrom := Stamp.zero, rateN := 0, rateD := 1, delays := [], pingAt := none, hop := 0,
    master := 0, testBusy := false, testPass := 0, srcPending := none, bus := Stamp.zero, forming := false, passedOff := []
    deferRecal := true }

/-- A lane at reset. -/
def Lane.empty : Lane := ⟨0, 0, false, false, 0, 0, 0, false, 0, 0, [], 0, 0, [], 0, 0⟩

/-- Lane `n` at reset: lane 8 is the spare, in both directions (Table 0.4). -/
def Lane.at_ (n : Nat) : Lane := if n = 8 then { Lane.empty with role := 1, txRole := 1 } else Lane.empty

/-- Peppermill at reset. -/
def Pm.empty : Pm := ⟨false, false, false, false, false, 0, 0, 0⟩

/-- A port at reset: DISABLED. -/
def Port.empty : Port :=
  { state := 0, lanes := [], spareFault := false, txFault := false, spareInUse := false, miscabled := false, txConflict := false,
    permuted := false, farNode := 0, farPort := 0, farValid := false, sentIdent := none, sentPools := [],
    queues := [], vcSeqTx := [], credit := [],
    vcSeqRx := [], reorder := [], freed := [], crSeen := [], order := [], rotation := 0, ackRotation := 0,
    sent := none, wire := [], wrrVc := 1, wrrLeft := 0, moved := [], keeping := false, broken := [], inflow := [], rxLine := [],
    txLine := [], recal := none, recalTx := none, pm := [] }

/-- A bucket entry at reset: invalid (R403). -/
def BktEntry.empty : BktEntry := ⟨0, false, 0, false, 0⟩

/-- A plan of nothing. -/
def Plan.empty : Plan := ⟨0, 1, 0, 0, false, false, 0, 0, [], [], [], []⟩

/-- A FREE bucket. -/
def Bucket.empty : Bucket :=
  ⟨.free, 0, Plan.empty, 0, false, 0, .reduce, false, none, [], [], [], [], none, 0, false⟩

/-- Nothing placed. -/
def Placed.empty : Placed := ⟨[], [], []⟩

/-- The link tiles at reset. -/
def LinkSt.empty : LinkSt :=
  { logical := none, entries := [], insts := [], waiting := [], early := [], bktBusyErr := false, redUsed := [],
    heldCopies := [], shadows := [], lowrank := [], home := [], homeBusy := [], homeWaiting := [],
    slotRows := [], poolErr := [], creditErr := [], dimsErr := false, addLanes := [], addStopped := [],
    ops := [], combines := [], earlyReqs := [], lateReqs := [], earlyOuts := [], lostOuts := [], deferred := [], placed := [], residuals := [], msgs := [] }

/-- A new module's ledger (log 11). -/
def Ledger.empty : Ledger := ⟨[], [], [], [], [], [], [], [], [], [], [], 0, 0, 0, false⟩

/-- The steward before auxiliary power (log 9, log 10). -/
def StewardSt.empty : StewardSt :=
  ⟨false, false, false, 0, false, false, false, Config.fwVersionA.toNat, Config.fwVersionB.toNat, 0,
    (Config.ucodeBundle 0 Config.fwVersionA.toNat).toNat, none, none⟩

/-- Safety and the global block at reset; the life-cycle state is IN_SERVICE with 30 transitions left (log 12). -/
def SafeSt.empty : SafeSt :=
  ⟨false, false, false, 0, [], Ledger.empty, StewardSt.empty, ⟨2, 30, 0, [], 0, []⟩, false, 0, false, true⟩

/-- No boost window. -/
def BoostSt.empty : BoostSt := ⟨false, 0, 0, none, 0, 0, [], []⟩

/-- Power before either supply is there (log 9); the clock's base is 0x40. -/
def PowerSt.empty : PowerSt :=
  { aux := false, main := false, ok := false, cause := 0, mateA := false, mateB := false,
    polarityA := false, polarityB := false, bladeLostA := false, bladeLostB := false, currentTrip := false,
    vinA := 0, vinB := 0, bus := 0, iinA := 0, iinB := 0, pin10ms := 0, pin60s := 0, clock := 0x40, allowed := 0x40, limiter := 0,
    warning := false, qualifying := false, outA := true, outB := true, lostInDip := false, coolantOut := false, dipStart := 0, qualStart := 0,
    returning := false, tripHold := false, thermal := false, shutdown := false, jmax := 0,
    jdie := 0, coolIn := 0, coolOut := 0, flow := 0, maxClock := 0x40, boost := BoostSt.empty, pmbusFault := 0 }

/-- Test logic at reset (log 14). -/
def TestSt.empty : TestSt := ⟨3, [], []⟩

/-- The module right after reset, with no command waiting. -/
def State.reset : State :=
  { pending := [], resp := .none, free := 0, time := ⟨0, 0⟩, mem := MemSt.empty, reg := RegSt.empty,
    host := HostSt.empty, comp := ComputeSt.empty, step := StepSt.empty, tally := TallySt.empty, ports := [],
    link := LinkSt.empty, safe := SafeSt.empty, power := PowerSt.empty, test := TestSt.empty }

end Sys2Proof.Machine
end

