-- ==== Sys2Proof/Machine/Ops.lean ====
section
/-! DEFINITION. The shared operations: sparse collections, bytes of memory, register words, counters, events, interrupts and the step flags. -/

namespace Sys2Proof.Machine

/-! ### Sparse collections -/

/-- The value at number `k`, `d` where none is listed. -/
def sget {α : Type} (d : α) (l : Sparse α) (k : Nat) : α :=
  match l.find? (fun p => p.1 == k) with
  | some p => p.2
  | none => d

/-- `l` with `v` at number `k`; the value `d` of an unlisted number is never listed. -/
def sset {α : Type} [DecidableEq α] (d : α) (l : Sparse α) (k : Nat) (v : α) : Sparse α :=
  l.filter (fun p => decide (p.1 < k)) ++ (if v = d then [] else [(k, v)]) ++ l.filter (fun p => decide (k < p.1))

/-- `l` with `f` applied to the value at `k`. -/
def smod {α : Type} [DecidableEq α] (d : α) (l : Sparse α) (k : Nat) (f : α → α) : Sparse α :=
  sset d l k (f (sget d l k))

/-- The canonical form of a sparse collection: numbers strictly rising, the value `d` nowhere listed. -/
abbrev Canon {α : Type} (d : α) (l : Sparse α) : Prop :=
  l.Pairwise (fun p q => p.1 < q.1) ∧ ∀ p ∈ l, p.2 ≠ d

/-! ### Numbers and bits -/

/-- Bits `hi` to `lo` of `n`. -/
def bitsAt (n hi lo : Nat) : Nat := (n >>> lo) % 2 ^ (hi + 1 - lo)

/-- Bit `i` of `n`. -/
def bitAt (n i : Nat) : Bool := n.testBit i

/-- 1 for true. -/
def b2n (b : Bool) : Nat := if b then 1 else 0

/-- `n` as a signed number of `w` bits. -/
def signedN (w n : Nat) : Int := if n < 2 ^ (w - 1) then (n : Int) else (n : Int) - 2 ^ w

/-- The `w` bits of an integer. -/
def wrapN (w : Nat) (i : Int) : Nat := (i % 2 ^ w).toNat

/-- `a` later than `b` by R193. -/
def laterSeq (a b : Nat) : Bool :=
  let d := (a + 2 ^ 32 - b % 2 ^ 32) % 2 ^ 32
  decide (1 ≤ d) && decide (d < 2 ^ 31)

/-- The difference of two 32-bit counts (R251). -/
def sub32 (a b : Nat) : Nat := (a + 2 ^ 32 - b % 2 ^ 32) % 2 ^ 32

/-- The largest value of a counter (R415). -/
def max32 : Nat := 0xFFFFFFFF

/-! ### Bytes -/

/-- The `n` bytes of `v`, least significant first. -/
def leBytes : Nat → Nat → List Byte
  | 0, _ => []
  | n + 1, v => BitVec.ofNat 8 v :: leBytes n (v / 256)

/-- The number that bytes spell, least significant first. -/
def leNat : List Byte → Nat
  | [] => 0
  | b :: bs => b.toNat + 256 * leNat bs

/-- The byte at address `a`: an unlisted byte reads 0 (R403; of host memory, log 5). -/
def byteAt (m : List Host.Cell) (a : Nat) : Byte := sget 0#8 m a

/-- The bytes from `a` on, `n` of them. -/
def bytesAt (m : List Host.Cell) (a n : Nat) : List Byte :=
  let part := m.filter (fun p => decide (a ≤ p.1) && decide (p.1 < a + n))
  (List.range n).map (fun i => byteAt part (a + i))

/-- The number in `n` bytes from `a` on. -/
def numAt (m : List Host.Cell) (a n : Nat) : Nat := leNat (bytesAt m a n)

/-- The cells that list `bs` from `a` on; a 0 is not listed. -/
def cellsOf : Nat → List Byte → List Host.Cell
  | _, [] => []
  | a, b :: bs => if b = 0#8 then cellsOf (a + 1) bs else (a, b) :: cellsOf (a + 1) bs

/-- `m` with the bytes `bs` from `a` on. -/
def putBytes (m : List Host.Cell) (a : Nat) (bs : List Byte) : List Host.Cell :=
  m.filter (fun p => decide (p.1 < a)) ++ cellsOf a bs ++ m.filter (fun p => decide (a + bs.length ≤ p.1))

/-- Memory is in its canonical form. -/
abbrev Memory.wf (m : List Host.Cell) : Prop := Canon 0#8 m

/-! ### Field updates -/

def modMem (s : State) (f : MemSt → MemSt) : State := { s with mem := f s.mem }
def modReg (s : State) (f : RegSt → RegSt) : State := { s with reg := f s.reg }
def modHost (s : State) (f : HostSt → HostSt) : State := { s with host := f s.host }
def modComp (s : State) (f : ComputeSt → ComputeSt) : State := { s with comp := f s.comp }
def modStep (s : State) (f : StepSt → StepSt) : State := { s with step := f s.step }
def modTally (s : State) (f : TallySt → TallySt) : State := { s with tally := f s.tally }
def modLink (s : State) (f : LinkSt → LinkSt) : State := { s with link := f s.link }
def modSafe (s : State) (f : SafeSt → SafeSt) : State := { s with safe := f s.safe }
def modPower (s : State) (f : PowerSt → PowerSt) : State := { s with power := f s.power }
def modTest (s : State) (f : TestSt → TestSt) : State := { s with test := f s.test }

def stream (s : State) (i : Nat) : Stream := sget Stream.empty s.host.streams i
def setStream (s : State) (i : Nat) (v : Stream) : State :=
  modHost s (fun h => { h with streams := sset Stream.empty h.streams i v })
def modStream (s : State) (i : Nat) (f : Stream → Stream) : State := setStream s i (f (stream s i))

def clove (s : State) (p : Nat) : Clove := sget Clove.empty s.comp.cloves p
def setClove (s : State) (p : Nat) (v : Clove) : State :=
  modComp s (fun c => { c with cloves := sset Clove.empty c.cloves p v })
def modClove (s : State) (p : Nat) (f : Clove → Clove) : State := setClove s p (f (clove s p))

def tile (s : State) (p t : Nat) : Tile := sget Tile.empty (clove s p).tiles t
def setTile (s : State) (p t : Nat) (v : Tile) : State :=
  modClove s p (fun c => { c with tiles := sset Tile.empty c.tiles t v })

def weight (s : State) (w : Nat) : Weight := sget Weight.empty s.comp.weights w
def setWeight (s : State) (w : Nat) (v : Weight) : State :=
  modComp s (fun c => { c with weights := sset Weight.empty c.weights w v })

def slotStat (s : State) (i : Nat) : SlotStat := sget SlotStat.empty s.comp.slots i
def setSlotStat (s : State) (i : Nat) (v : SlotStat) : State :=
  modComp s (fun c => { c with slots := sset SlotStat.empty c.slots i v })

def port (s : State) (p : Nat) : Port := sget Port.empty s.ports p
def setPort (s : State) (p : Nat) (v : Port) : State := { s with ports := sset Port.empty s.ports p v }
def modPort (s : State) (p : Nat) (f : Port → Port) : State := setPort s p (f (port s p))

def bucket (s : State) (b : Nat) : Bucket := sget Bucket.empty s.link.insts b
def setBucket (s : State) (b : Nat) (v : Bucket) : State :=
  modLink s (fun l => { l with insts := sset Bucket.empty l.insts b v })
def modBucket (s : State) (b : Nat) (f : Bucket → Bucket) : State := setBucket s b (f (bucket s b))

/-- A command that names a unit the module has acts; one that names another unit stops (R7). -/
def onUnit (ok : Bool) (s : State) : Host.Outcome State Fault Refusal :=
  if ok then .next s else .fault .noSuchUnit

/-! ### Register words (chapter 17) -/

/-- Block bases of Table 17.1. -/
def hostBase : Nat := 0x10000
def tallyBase : Nat := 0x100000
def govBase : Nat := 0x200000
def portBase (p : Nat) : Nat := 0x400000 + 0x1000 * p
def chanBase (c : Nat) : Nat := 0x800000 + 0x400 * c
def cloveBase (p : Nat) : Nat := 0x1000000 + 0x4000 * p
def tileBase (t : Nat) : Nat := 0x3000000 + 0x10000 * t
def linkBase (k : Nat) : Nat := 0x3100000 + 0x10000 * k
def safeBase : Nat := 0x3800000

def ringReg (s off : Nat) : Nat := hostBase + 0x1000 + 0x40 * s + off
def cqReg (s off : Nat) : Nat := hostBase + 0x2000 + 0x40 * s + off
def almReg (n off : Nat) : Nat := tallyBase + 0x1000 + 16 * n + off
def laneReg (p n off : Nat) : Nat := portBase p + 0x100 + 0x20 * n + off
def pmReg (p n off : Nat) : Nat := portBase p + 0x400 + 0x40 * n + off

/-- Reset credits of VC `v` (Table 11.4). -/
def resetCredit (v : Nat) : Nat :=
  match v with
  | 0 => 64
  | 1 => 4096
  | 2 => 4096
  | 3 => 1024
  | 4 => 1024
  | 5 => 64
  | 6 => 64
  | _ => 256

/-- Owner code of an alarm (R234, Table 9.3). -/
def almOwner (n : Nat) : Nat := if n < 448 then 0 else if n < 480 then 1 else if n < 496 then 2 else 3

/-- Reset value of the held bits of the 4-byte word at a BAR0 address (the tables' reset columns; 0 where a table
gives none, log 8; the MSI-X mask bit, log 7). -/
def regReset (a : Nat) : Nat :=
  if a = 0x200 then 1000 <<< 12
  else if hostBase + 0x800 ≤ a ∧ a < hostBase + 0x800 + 0x10 * 65 ∧ a % 16 = 0 then 1
  else if a = hostBase + 0x3004 then 1000
  else if hostBase + 0x8000 ≤ a ∧ a < hostBase + 0x8000 + 16 * 65 ∧ a % 16 = 12 then 1
  else if a = tallyBase then (8 <<< 8) ||| (42 <<< 16)
  else if a = tallyBase + 8 then 10000
  else if a = govBase then 1
  else if portBase 0 ≤ a ∧ a < portBase 48 then
    let o := a % 0x1000
    if o = 0 then 0x10
    else if o = 8 then 0x3FFFFF
    else if o = 0x10 then 8 ||| (8 <<< 4) ||| (4 <<< 8) ||| (4 <<< 12) ||| (1 <<< 16)
    else if o = 0x14 then 20 ||| (0x20 <<< 8)
    else if 0x40 ≤ o ∧ o < 0x60 then resetCredit ((o - 0x40) / 4)
    else if 0x400 ≤ o ∧ o < 0x640 ∧ o % 0x40 = 0 then (5 <<< 1) ||| (1 <<< 4) ||| (1 <<< 5)
    else 0
  else if linkBase 0 ≤ a ∧ a < linkBase 8 then
    let o := a % 0x10000
    if o = 8 then 32 ||| (32 <<< 6) ||| (32 <<< 12)
    else if o = 0x18 then (384 + 384 * 2 ^ 11 + 192 * 2 ^ 22 + 48 * 2 ^ 33 + 16 * 2 ^ 44) % 2 ^ 32
    else if o = 0x1C then (384 + 384 * 2 ^ 11 + 192 * 2 ^ 22 + 48 * 2 ^ 33 + 16 * 2 ^ 44) / 2 ^ 32
    else 0
  else if a = safeBase + 0x68 then 1
  else 0

/-- The held bits of a register word. -/
def reg4 (s : State) (a : Nat) : Nat := sget (regReset a) s.reg.held a % 2 ^ 32

/-- The held bits of a 64-bit register. -/
def reg8 (s : State) (a : Nat) : Nat := reg4 s a + 2 ^ 32 * reg4 s (a + 4)

/-- Set the held bits of a register word. -/
def setReg4 (s : State) (a v : Nat) : State :=
  modReg s (fun r => { r with held := sset (regReset a) r.held a (v % 2 ^ 32) })

/-- Set the held bits of a 64-bit register. -/
def setReg8 (s : State) (a v : Nat) : State := setReg4 (setReg4 s a v) (a + 4) (v / 2 ^ 32)

/-! ### Counters (R415, R417) -/

/-- The overflow bit of a counter: the register that holds it and its place there (Table 17.2). -/
def ovfOf (a : Nat) : Nat × Nat :=
  if a = hostBase + 0x44 then (hostBase + 0x5C, 0)
  else if a = hostBase + 0x58 then (hostBase + 0x5C, 1)
  else if ringReg 0 0 ≤ a ∧ a < ringReg 64 0 then
    (a / 0x40 * 0x40 + 0x1C, if a % 0x40 = 0x14 then 0 else 1)
  else if tallyBase ≤ a ∧ a < tallyBase + 0x100 then
    let k := (a - tallyBase - 0x40) / 4
    (tallyBase + 0x5C, if k ≤ 3 then k else k - 1)
  else if a = govBase + 0x30 then (govBase + 0x38, 0)
  else if portBase 0 ≤ a ∧ a < portBase 48 then
    let o := a % 0x1000
    let b := a - o
    if o = 0x20 then (b + 0x30, 40)
    else if o = 0x24 then (b + 0x30, 41)
    else if o < 0x400 then (b + 0x30, 4 * ((o - 0x100) / 0x20) + (o % 0x20) / 4 - 1)
    else (b + 0x30, 42 + (o - 0x400) / 0x40)
  else if chanBase 0 ≤ a ∧ a < chanBase 512 then
    let o := a % 0x400
    (a - o + 0x18, if o = 0x1C then 4 else o / 4 - 2)
  else if cloveBase 0 ≤ a ∧ a < cloveBase 1216 then
    let o := a % 0x4000
    if o < 0x3000 then (a - o + 0x134, (o - 0x100) / 4) else (a - o + 0x3018, (o - 0x3000) / 4)
  else if tileBase 0 ≤ a ∧ a < tileBase 16 then
    (a - a % 0x10000 + 0x214, (a % 0x10000 - 0x200) / 4)
  else if linkBase 0 ≤ a ∧ a < linkBase 8 then
    let o := a % 0x10000
    if o < 0x3000 then (a - o + 0x203C, (o - 0x2000) / 4) else (a - o + 0x3018, (o - 0x3000) / 4)
  else if a = safeBase + 0x6C then (safeBase + 0x70, 0)
  else if a = safeBase + 0x2038 then (safeBase + 0x70, 1)
  else (safeBase + 0x70, 2)

/-- The live value of a counter. -/
def ctr (s : State) (a : Nat) : Nat := sget 0 s.reg.ctr a

/-- `n` occurrences of what a counter counts: it sticks at its largest value and sets its overflow bit. -/
def count (a n : Nat) (s : State) : State :=
  let v := ctr s a
  let w := v + n
  if n = 0 ∨ v = max32 then s
  else if w < max32 then modReg s (fun r => { r with ctr := sset 0 r.ctr a w })
  else
    modReg s (fun r => { r with
      ctr := sset 0 r.ctr a max32
      ovf := smod 0 r.ovf (ovfOf a).1 (fun b => b ||| 2 ^ (ovfOf a).2) })

/-- `n` more units of a timer (R415). -/
def timer (a n : Nat) (s : State) : State := modReg s (fun r => { r with ctr := smod 0 r.ctr a (· + n) })

/-! ### Time and tally -/

/-- Reference time in milliseconds and in microseconds. -/
def nowMs (s : State) : Nat := s.time.refTicks / 800000
def nowUs (s : State) : Nat := s.time.refTicks / 800

/-- The steward's time, which a module reset does not set back (R354, R366; log 84). -/
def stewardMs (s : State) : Nat := s.safe.ledger.clock + nowMs s

/-- The state code of TALLY_STAT (R221). -/
def tstateCode (t : TState) : Nat :=
  match t with
  | .off => 0
  | .acquiring => 1
  | .tracking => 2
  | .holdover => 3
  | .lost => 4
  | .reverseHold => 5

/-- `a` at or above `b` by R219. -/
def stampGe (a b : Stamp) : Bool := decide (b.pair < a.pair) || (decide (a.pair = b.pair) && decide (b.frac ≤ a.frac))

/-- `a` above `b` by R219. -/
def stampGt (a b : Stamp) : Bool := !stampGe b a

/-- Marks fire: the tally forms stamps, or a preset in OFF forms one (R237, R238). -/
def marksFire (s : State) : Bool :=
  s.tally.forming || (decide (s.tally.state ≠ .off) && decide (s.tally.state ≠ .lost))

/-! ### Reach -/

/-- A host access arrives: main power and the link are up, at a rate that carries more than configuration (R243). -/
def hostUp (s : State) : Bool :=
  s.power.main && s.host.linkUp && !s.host.perstLow && decide (2 ≤ s.host.rate)

/-- The host block takes writes: in safe stop it takes none (R414). -/
def hostBlock (s : State) : Bool := hostUp s && !s.safe.stop

/-- Doorbells, stream enables and the aperture work (R243). -/
def hostReady (s : State) : Bool := hostUp s && s.safe.ready

/-! ### Host memory and interrupts -/

/-- A write to host memory; with the link down it is dropped and counted (Table 10.24). -/
def hostWrite (a : Nat) (bs : List Byte) (s : State) : State :=
  if s.host.linkUp then modHost s (fun h => { h with mem := putBytes h.mem a bs })
  else count (hostBase + 0x58) 1 s

def vector (s : State) (v : Nat) : Vector := sget Vector.empty s.host.vectors v
def setVector (s : State) (v : Nat) (x : Vector) : State :=
  modHost s (fun h => { h with vectors := sset Vector.empty h.vectors v x })

/-- The mask bit of a vector, bit 0 of its table entry's last word (R271, log 7). -/
def masked (s : State) (v : Nat) : Bool := bitAt (reg4 s (hostBase + 0x8000 + 16 * v + 12)) 0

/-- A vector sends its message, or sets its PBA bit while it is masked (R271). -/
def sendVector (v : Nat) (s : State) : State :=
  let x := vector s v
  let y := { x with pending := 0, timing := false }
  if masked s v then setVector s v { y with pba := true }
  else if s.host.linkUp then setVector s v { y with sent := y.sent + 1 }
  else count (hostBase + 0x58) 1 (setVector s v y)

/-- The moderation count of a vector: a written 0 counts as 1 (R271). -/
def modCount (s : State) (v : Nat) : Nat :=
  let n := bitsAt (reg4 s (hostBase + 0x800 + 16 * v)) 7 0
  if n = 0 then 1 else n

/-- The moderation timer of a vector, µs. -/
def modTimer (s : State) (v : Nat) : Nat := bitsAt (reg4 s (hostBase + 0x800 + 16 * v)) 25 16

/-- One request of a vector (R270, R271). -/
def requestVector (v : Nat) (s : State) : State :=
  let x := vector s v
  let t := setVector s v { x with pending := x.pending + 1, timing := true }
  if modTimer s v = 0 ∨ modCount s v ≤ x.pending + 1 then sendVector v t else t

/-! ### Events (R268, R269) -/

/-- The module's logical node ID: NODE_ID until NODE_LOGICAL is written (R321). -/
def nodeId (s : State) : Nat := bitsAt (reg4 s (linkBase 0)) 15 0
def logicalNode (s : State) : Nat :=
  match s.link.logical with
  | some n => n
  | none => nodeId s

/-- The fields of an event that its raiser sets. -/
structure Ev where
  code : Nat
  unit : Nat := 0
  arg0 : Nat := 0
  arg1 : Nat := 0
  arg2 : Nat := 0
  /-- The first setter's tally, for STEP_NONFINITE. -/
  at_ : Option Nat := none

def eqSize (s : State) : Nat := 2 ^ bitsAt (reg4 s (hostBase + 0x38)) 4 0

/-- The phase of ring entry `n` of a ring of `size` entries (R248). -/
def ringPhase (n size : Nat) : Nat := if n / size % 2 = 0 then 1 else 0

/-- The 32 bytes of an event entry (Table 10.22). -/
def evBytes (s : State) (e : Ev) : List Byte :=
  let lost := min s.host.eqLost 0xFFFF
  leBytes 4 (e.code % 256 + 256 * ringPhase s.host.eqProduced (eqSize s) + 2 ^ 16 * lost)
    ++ leBytes 4 (logicalNode s % 2 ^ 16 + 2 ^ 16 * (e.unit % 2 ^ 16))
    ++ (match e.at_ with
        | some p => leBytes 8 p ++ leBytes 4 (256 * tstateCode s.tally.state)
        | none => leBytes 8 s.tally.now.pair ++ leBytes 4 (s.tally.now.frac + 256 * tstateCode s.tally.state))
    ++ leBytes 4 e.arg0 ++ leBytes 4 e.arg1 ++ leBytes 4 e.arg2

/-- The events that send vector 64 at once (R271). -/
def evUrgent (code : Nat) : Bool := code == 0x11 || code == 0x0C || code == 0x13 || code == 0x14

/-- Raise an event: an entry of the event ring, or a lost event when the ring is full; without a ring nothing is
written (R268, R401, Table 17.6). In safe stop the ring cannot be reached (R360). -/
def raiseEv (e : Ev) (s : State) : State :=
  let base := reg8 s (hostBase + 0x30) / 4096 * 4096
  if base = 0 ∨ s.safe.stop then s
  else if sub32 s.host.eqProduced s.host.eqConsumed ≥ eqSize s then
    count (hostBase + 0x44) 1 (modHost s (fun h => { h with eqOverflow := true, eqLost := h.eqLost + 1 }))
  else
    let t := hostWrite (base + 32 * (s.host.eqProduced % eqSize s)) (evBytes s e) s
    let u := modHost t (fun h => { h with eqProduced := (h.eqProduced + 1) % 2 ^ 32, eqLost := 0 })
    let v := requestVector 64 u
    if evUrgent e.code && decide ((vector v 64).pending ≠ 0) then sendVector 64 v else v

/-! ### The step flags (R185, R186) -/

/-- The sticky flag of the parity of a step tag. -/
def stepFlag (s : State) (tag : Nat) : Bool := sget false s.step.flags (tag % 2)

/-- Set the sticky flag of step `tag`; the first setter in a step is latched. -/
def setStepFlag (tag layer tensor : Nat) (s : State) : State :=
  if stepFlag s tag then s
  else modStep s (fun x => { x with
    flags := sset false x.flags (tag % 2) true
    first := sset default x.first (tag % 2) ⟨s.tally.now.pair, logicalNode s, layer, tensor⟩ })

end Sys2Proof.Machine
end

