-- ==== Sys2Proof/Machine/Descriptors.lean ====
section
/-! DEFINITION. A descriptor read from its 64 bytes: header (Table 10.9), opcode (Table 10.10) and bodies (Tables 10.12 to 10.18). -/

namespace Sys2Proof.Machine

/-- The 4-byte word and the 8-byte word of a descriptor at an offset. -/
def word4 (b : List Byte) (o : Nat) : Nat := leNat ((b.drop o).take 4)
def word8 (b : List Byte) (o : Nat) : Nat := leNat ((b.drop o).take 8)

/-- The opcode, the phase bit and the header. -/
def headerOf (b : List Byte) : Nat × Bool × Header :=
  let w := word4 b 0
  let t := word4 b 12
  (bitsAt w 7 0, bitAt w 8,
    { cmpl := bitAt w 9, irq := bitAt w 10, guard := bitAt w 11, slot := bitsAt w 13 12, group := bitsAt w 21 16
      tag := word4 b 4, pos := bitsAt (word4 b 8) 19 0, tensorId := bitsAt t 11 0, layer := bitsAt t 27 12 })

def matmulOf (b : List Byte) : MatmulBody :=
  let a := word4 b 0x10
  let c := word4 b 0x14
  let d := word4 b 0x18
  let e := word4 b 0x1C
  let f := word4 b 0x20
  let g := word4 b 0x24
  let h := word4 b 0x28
  let k := word4 b 0x2C
  { a := bitsAt a 15 0, b := bitsAt a 31 16, out := bitsAt c 15 0, aux := bitsAt c 31 16, saved := bitsAt d 15 0
    weightId := bitsAt d 27 16, wcheck := bitAt d 28, version := bitsAt e 7 0, accTile := bitsAt e 14 8
    dwTile := bitsAt e 22 16, splitN := bitsAt e 27 24, start := bitsAt e 31 28, kind := bitsAt f 1 0
    dir := bitsAt f 3 2, pass := bitsAt f 5 4, preload := bitsAt f 7 6, order := bitAt f 8, shared := bitAt f 9
    close := bitAt f 10, passThrough := bitAt f 11, transA := bitAt f 12, transB := bitAt f 13, elemA := bitAt f 14
    elemB := bitAt f 15, glen := bitsAt f 17 16, fileA := bitsAt g 11 0, fileB := bitsAt g 23 12
    outMode := bitAt h 0, rounding := bitAt h 1, rngMode := bitAt h 2, rowSrc := bitAt h 3, rowBase := bitsAt h 15 4
    scaleMode := bitAt h 16, autoRetry := bitAt h 17, underBits := bitsAt h 21 18, histBase := bitsAt k 7 0
    fn := bitsAt k 12 8, fnDir := bitAt k 13, alpha := word4 b 0x30 }

def vecopOf (b : List Byte) : VecopBody :=
  let a := word4 b 0x10
  let c := word4 b 0x14
  let d := word4 b 0x18
  let e := word4 b 0x1C
  let f := word4 b 0x28
  let g := word4 b 0x2C
  let h := word4 b 0x30
  { vop := bitsAt a 7 0, fn := bitsAt a 12 8, k := bitsAt a 22 16, norm := bitsAt a 25 24, outMode := bitAt a 26
    rngMode := bitAt a 27, stochastic := bitAt a 28, in0 := bitsAt c 15 0, in1 := bitsAt c 31 16
    in2 := bitsAt d 15 0, out0 := bitsAt d 31 16, out1 := bitsAt e 15 0, threshold := bitsAt e 31 16
    s0 := word4 b 0x20, s1 := word4 b 0x24, file0 := bitsAt f 11 0, file1 := bitsAt f 23 12, file2 := bitsAt g 11 0
    histBase := bitsAt h 7 0, stats := bitAt h 8 }

def scanOf (b : List Byte) : ScanBody :=
  let a := word4 b 0x10
  let c := word4 b 0x20
  { mode := bitsAt a 1 0, aMode := bitAt a 2, reverse := bitAt a 3, gateShift := bitAt a 4, cinEn := bitAt a 5
    outMode := bitAt a 6, chunkLen := bitsAt (word4 b 0x14) 20 0, chunk := word4 b 0x18
    nchunks := bitsAt (word4 b 0x1C) 15 0, a := bitsAt c 15 0, b := bitsAt c 31 16
    out := bitsAt (word4 b 0x24) 15 0, record := word8 b 0x28, cin := word8 b 0x30, foldOut := word8 b 0x38 }

def moveOf (b : List Byte) : MoveBody :=
  let a := word4 b 0x10
  { srcHost := bitAt a 8, dstHost := bitAt a 9, length := word4 b 0x14, src := word8 b 0x18, dst := word8 b 0x20
    arg0 := word4 b 0x28, arg1 := word4 b 0x2C, mark := word8 b 0x30, markFrac := bitsAt (word4 b 0x38) 7 0 }

def reduceOf (b : List Byte) : ReduceBody :=
  let a := word4 b 0x10
  let c := word4 b 0x14
  let d := word4 b 0x18
  let e := word4 b 0x30
  { bucket := bitsAt a 11 0, op := bitsAt a 14 12, word := bitAt a 15, rank := bitsAt a 22 16, src := bitsAt c 15 0
    plan := bitsAt c 31 16, backup := bitsAt d 15 0, backupEn := bitAt d 16, dst := word8 b 0x20
    deadline := word8 b 0x28, deadlineFrac := bitsAt e 7 0, deadlineEn := bitAt e 8 }

def dispatchOf (b : List Byte) : DispatchBody :=
  let a := word4 b 0x10
  let c := word4 b 0x14
  let d := word4 b 0x18
  { tokens := bitsAt a 15 0, route := bitsAt a 31 16, weights := bitsAt c 15 0, out := bitsAt c 31 16
    capacity := bitsAt d 15 0, policy := bitsAt d 17 16, k := bitsAt d 24 18, plan := bitsAt (word4 b 0x1C) 15 0 }

def updateOf (b : List Byte) : UpdateBody :=
  let a := word4 b 0x10
  { weightId := bitsAt a 11 0, gsrc := bitAt a 12, gword := bitAt a 13, grad := bitsAt (word4 b 0x14) 15 0
    gradAddr := word8 b 0x18, hyper := word8 b 0x20 }

def stashSaveOf (b : List Byte) : StashSaveBody :=
  let a := word4 b 0x10
  { src := bitsAt a 15 0, weightId := bitsAt a 27 16, recompute := bitAt a 28, file := bitsAt (word4 b 0x14) 11 0 }

def stashLoadOf (b : List Byte) : StashLoadBody :=
  let a := word4 b 0x10
  { index := bitsAt a 7 0, clove := bitsAt a 18 8, release := bitAt a 19, listEn := bitAt a 20
    list := bitsAt (word4 b 0x14) 11 0, dst := bitsAt (word4 b 0x18) 15 0 }

def gateOf (b : List Byte) : GateBody :=
  let a := word4 b 0x18
  { mark := word8 b 0x10, frac := bitsAt a 7 0, pass := bitAt a 8 }

def waitsOf (b : List Byte) : List Wait :=
  (List.range 4).map (fun w =>
    let x := word8 b (0x10 + 8 * w)
    { seq := bitsAt x 31 0, stream := bitsAt x 37 32, allPrior := bitAt x 38, valid := bitAt x 39 })

def callOf (b : List Byte) : CallBody :=
  let a := word4 b 0x10
  { list := bitsAt a 11 0, slotEn := bitAt a 12, slot := bitsAt a 14 13, posAdd := bitsAt (word4 b 0x14) 19 0 }

def scaleCommitOf (b : List Byte) : ScaleCommitBody :=
  let a := word4 b 0x10
  { first := bitsAt a 11 0, count := bitsAt a 24 12, headroom := bitsAt a 26 25, dst := word8 b 0x18 }

def stepCommitOf (b : List Byte) : StepCommitBody :=
  let a := word4 b 0x10
  let c := word4 b 0x20
  { vote := bitsAt a 11 0, veto := bitAt a 12, plan := bitsAt (word4 b 0x14) 15 0, deadline := word8 b 0x18
    deadlineFrac := bitsAt c 7 0, deadlineEn := bitAt c 8 }

def eventOf (b : List Byte) : EventBody :=
  let a := word4 b 0x20
  { addr := word8 b 0x10, value := word8 b 0x18, host := bitAt a 0, writeEn := bitAt a 1, irqEn := bitAt a 2
    vector := bitsAt a 9 3 }

/-- The descriptor of an opcode (Table 10.10). -/
def descOf (op : Nat) (b : List Byte) : Desc :=
  match op with
  | 0x00 => .nop
  | 0x01 => .matmul (matmulOf b)
  | 0x02 => .vecop (vecopOf b)
  | 0x03 => .scan (scanOf b)
  | 0x04 => .move (bitsAt (word4 b 0x10) 7 0) (moveOf b)
  | 0x05 => .reduce (reduceOf b)
  | 0x06 => .dispatch (dispatchOf b)
  | 0x07 => .combine (dispatchOf b)
  | 0x08 => .gate (gateOf b)
  | 0x09 => .depend (waitsOf b)
  | 0x0A => .barrier
  | 0x0B => .call (callOf b)
  | 0x0C => .update (updateOf b)
  | 0x0D => .stashSave (stashSaveOf b)
  | 0x0E => .stashLoad (stashLoadOf b)
  | 0x0F => .scaleCommit (scaleCommitOf b)
  | 0x10 => .stepCommit (stepCommitOf b)
  | 0x11 => .event (eventOf b)
  | n => .reserved n

/-- The opcode of a descriptor, as its completion entry shows it (Table 10.19). -/
def opcodeOf (d : Desc) : Nat :=
  match d with
  | .nop => 0x00
  | .matmul _ => 0x01
  | .vecop _ => 0x02
  | .scan _ => 0x03
  | .move _ _ => 0x04
  | .reduce _ => 0x05
  | .dispatch _ => 0x06
  | .combine _ => 0x07
  | .gate _ => 0x08
  | .depend _ => 0x09
  | .barrier => 0x0A
  | .call _ => 0x0B
  | .update _ => 0x0C
  | .stashSave _ => 0x0D
  | .stashLoad _ => 0x0E
  | .scaleCommit _ => 0x0F
  | .stepCommit _ => 0x10
  | .event _ => 0x11
  | .reserved n => n

end Sys2Proof.Machine
end

