-- ==== Sys2Proof/Machine/Streams.lean ====
section
/-! DEFINITION. Streams and their windows: status lines, phase records, and the completion of a descriptor. -/

namespace Sys2Proof.Machine

/-! ### Ring counts and status lines -/

def sqSize (s : State) (i : Nat) : Nat := 2 ^ bitsAt (reg4 s (ringReg i 8)) 4 0
def cqSize (s : State) (i : Nat) : Nat := 2 ^ bitsAt (reg4 s (cqReg i 8)) 4 0

/-- A doorbell value is held: it named descriptors whose slots were busy, and they are not taken yet (R251, Table 10.8). -/
def heldBit (s : State) (i : Nat) : Bool := (stream s i).heldTo.isSome

/-- State codes of Table 10.4. -/
def streamCode (x : StreamState) : Nat :=
  match x with
  | .disabled => 0
  | .active => 1
  | .idle => 2
  | .halted => 3
  | .aborted => 4

/-- The status line of a stream, 16 bytes (Table 10.4). -/
def lineBytes (s : State) (i : Nat) : List Byte :=
  let x := stream s i
  leBytes 4 x.taken ++ leBytes 4 x.retired ++ leBytes 4 x.seqRetired
    ++ leBytes 4 (streamCode x.state + 8 * b2n (heldBit s i))

/-- Write the status line of stream `i` when it differs from the one of `old` (R249). -/
def statusLine (old : State) (s : State) (i : Nat) : State :=
  if bitAt (reg4 s hostBase) 0 && decide (lineBytes old i ≠ lineBytes s i) then
    hostWrite (reg8 s (hostBase + 8) / 1024 * 1024 + 16 * i) (lineBytes s i) s
  else s

/-- Write every status line whose fields have changed since `old`. -/
def statusLines (old : State) (s : State) : State :=
  (s.host.streams.map (·.1) ++ old.host.streams.map (·.1)).dedup.foldl (statusLine old) s

/-! ### Phase records (R429) -/

/-- A record's operation is dispatched and not complete; a STASH_LOAD whose list runs is such a one. -/
def outstanding (r : Rec) : Bool :=
  match r.life, r.desc with
  | .running, _ => true
  | .stashWait, _ => true
  | .waiting, .stashLoad _ => true
  | _, _ => false

/-- Every record of every stream, callers of lists among them. -/
def allRecs (s : State) : List (Nat × Rec) :=
  s.host.streams.flatMap (fun p => (p.2.window ++ p.2.calls.map (·.caller)).map (fun r => (p.1, r)))

/-- A dispatched MATMUL of direction `d`, or an operation that counts with it. -/
def inDir (d : Nat) (r : Rec) : Bool :=
  outstanding r &&
    match r.desc with
    | .matmul b => b.dir == d
    | .vecop _ => r.dir == d
    | .scan _ => r.dir == d
    | .stashSave _ => r.dir == d
    | .stashLoad _ => r.dir == d
    | _ => false

/-- The phase number of a direction code. -/
def phaseOfDir (d : Nat) : Nat :=
  match d with
  | 0 => 0
  | 1 => 1
  | 2 => 4
  | _ => 5

/-- Phase `f` is active (R429); a vote that runs on after its stream's abort is outstanding until its result (R370). -/
def phaseActive (s : State) (f : Nat) : Bool :=
  match f with
  | 0 => (allRecs s).any (fun p => inDir 0 p.2)
  | 1 => (allRecs s).any (fun p => inDir 1 p.2)
  | 2 => (allRecs s).any (fun p => outstanding p.2 &&
      match p.2.desc with
      | .reduce _ => true
      | .stepCommit _ => true
      | _ => false) || s.step.commits.any (fun c => c.contributed && !c.answered)
  | 3 => s.comp.weights.any (fun w => w.2.state == 1)
  | 4 => (allRecs s).any (fun p => inDir 2 p.2)
  | 5 => (allRecs s).any (fun p => inDir 3 p.2)
  | _ => false

/-- A phase record at reset: IDLE alone is active. -/
def phaseReset (f : Nat) : Phase := ⟨0, 0, 0, 0, 0, 0, f == 6⟩

/-- A phase record before the first strobe. -/
def Phase.none : Phase := ⟨0, 0, 0, 0, 0, 0, false⟩

def phaseRec (s : State) (f : Nat) : Phase := sget (phaseReset f) s.reg.phase f

/-- Bring phase record `f` to activity `on`, stamped with the tally bus, in OFF with the value held (R237, R238,
R429). -/
def setPhase (on : Bool) (s : State) (f : Nat) : State :=
  let p := phaseRec s f
  if p.active = on then s
  else
    let b := if s.tally.state = .off then s.tally.now else s.tally.bus
    let c := tstateCode s.tally.state
    let q := if on then { p with active := true, start := b.pair, startFrac := b.frac, startState := c }
      else { p with active := false, stop := b.pair, stopFrac := b.frac, stopState := c }
    modReg s (fun r => { r with phase := sset (phaseReset f) r.phase f q })

/-- Bring every phase record up to date (R429). -/
def settlePhases (s : State) : State :=
  let on := (List.range 6).map (phaseActive s)
  let t := (List.range 6).foldl (fun u f => setPhase (on.getD f false) u f) s
  setPhase (!on.any id) t 6

/-- What every command that moves streams does last: status lines, then phase records. -/
def settle (old : State) (s : State) : State := settlePhases (statusLines old s)

/-! ### Records -/

def CFlags.none : CFlags := ⟨false, false, false, false, false, false, false⟩

def CFlags.or (a b : CFlags) : CFlags :=
  ⟨a.scaleMiss || b.scaleMiss, a.nonfinite || b.nonfinite, a.sat || b.sat, a.skipped || b.skipped,
    a.dropped || b.dropped, a.late || b.late, a.outcome || b.outcome⟩

/-- The record of sequence number `seq` of stream `i`: in its window, as the caller of a list, or kept for its shared
sequence. -/
def findRec (s : State) (i seq : Nat) : Option Rec :=
  ((stream s i).window ++ (stream s i).calls.map (·.caller) ++ (stream s i).kept).find? (fun r => r.seq == seq)

def modRecIn (seq : Nat) (f : Rec → Rec) (r : Rec) : Rec := if r.seq = seq then f r else r

/-- Change the record of `seq`. -/
def modRec (i seq : Nat) (f : Rec → Rec) (s : State) : State :=
  modStream s i (fun x => { x with
    window := x.window.map (modRecIn seq f)
    calls := x.calls.map (fun c => { c with caller := modRecIn seq f c.caller }) })

/-- Descriptor statuses (Table 10.20). -/
def stOK : Nat := 0
def stDescError : Nat := 1
def stMemUE : Nat := 2
def stStall : Nat := 3
def stTallyLost : Nat := 4

/-- DESC_ERROR details (Table 10.21). -/
inductive Detail where
  | opcode | phase | format | pass | scale | tile | align | range | version | seq | order | slot | carry | entry
  | handle | call | hyper | addr | group
  deriving DecidableEq, Repr

def detailCode (d : Detail) : Nat :=
  match d with
  | .opcode => 1
  | .phase => 2
  | .format => 3
  | .pass => 4
  | .scale => 5
  | .tile => 6
  | .align => 7
  | .range => 8
  | .version => 9
  | .seq => 10
  | .order => 11
  | .slot => 12
  | .carry => 13
  | .entry => 14
  | .handle => 15
  | .call => 16
  | .hyper => 17
  | .addr => 18
  | .group => 19

/-- Guard bit of a descriptor of R185 or R335: a guarded operation that fails with MEM_UE sets its step's flag. -/
def guardFlag (i seq : Nat) (s : State) : State :=
  match findRec s i seq with
  | some r => if r.hdr.guard then setStepFlag r.step r.hdr.layer r.hdr.tensorId s else s
  | none => s

/-- Complete the record of `seq`: its status stands, its flags are ORed with those already there. A record that is
complete already stays as it is. -/
def complete (i seq status detail value : Nat) (fl : CFlags) (s : State) : State :=
  modRec i seq (fun r =>
    if r.life = .done then r
    else { r with life := .done, status := status, detail := detail, value := value, flags := CFlags.or r.flags fl }) s

/-- Complete with status OK. -/
def completeOK (i seq : Nat) (s : State) : State := complete i seq stOK 0 0 CFlags.none s

/-- Complete with DESC_ERROR; the stream's first since desc_err was cleared raises the event (R267). -/
def completeErr (i seq : Nat) (d : Detail) (off : Nat) (s : State) : State :=
  match findRec s i seq with
  | none => s
  | some r =>
    if r.life = .done then s
    else
      let t := if (stream s i).descErr then s
        else raiseEv { code := 0x15, unit := i, arg0 := seq, arg1 := detailCode d, arg2 := r.hdr.tag }
          (modStream s i (fun x => { x with descErr := true }))
      complete i seq stDescError (detailCode d) off CFlags.none t

/-- Complete with MEM_UE; a guarded descriptor sets the flag of its step (R335). -/
def completeUE (i seq detail : Nat) (s : State) : State :=
  match findRec s i seq with
  | none => s
  | some r => if r.life = .done then s else complete i seq stMemUE detail 0 CFlags.none (guardFlag i seq s)

/-- OR flags into a record that is not complete. -/
def addFlags (i seq : Nat) (fl : CFlags) (s : State) : State :=
  modRec i seq (fun r => if r.life = .done then r else { r with flags := CFlags.or r.flags fl }) s

end Sys2Proof.Machine
end

