-- ==== Sys2Proof/Machine/Cloves.lean ====
section
/-! DEFINITION. Where cloves sit, the discard of tiles, the cancelling of work, quarantine, and tiles out of service (R17 to R21, R78, R88, R214, R357 to R360). -/

namespace Sys2Proof.Machine

/-! ### Seats -/

/-- The ring position, as (pod, place), in which clove `p` of a fault-free module sits; spares sit in none (R17). -/
def builtPos (p : Nat) : Option (Nat × Nat) :=
  let k := p % 76
  if k < 72 then some (6 * (p / 76) + k / 12, k % 12) else none

/-- The clove built into place `i` of pod `q`. -/
def builtAt (q i : Nat) : Nat := 76 * (q / 6) + 12 * (q % 6) + i

/-- A compute tile is out of service (R359). -/
def tileIsOut (s : State) (t : Nat) : Bool := s.comp.tileOut.contains t

/-- The ring position that clove `p` holds. -/
def ringPos (s : State) (p : Nat) : Option (Nat × Nat) :=
  if tileIsOut s (p / 76) then none
  else
    match (clove s p).seat with
    | .asBuilt => builtPos p
    | .replacing c => builtPos c
    | .out => none

/-- The clove at place `i` of pod `q`; none where the position is empty (R18, R21). -/
def cloveAt (s : State) (q i : Nat) : Option Nat :=
  if tileIsOut s (q / 6) then none
  else
    let b := builtAt q i
    if (clove s b).seat = .asBuilt then some b
    else ((List.range 4).map (fun k => 76 * (q / 6) + 72 + k)).find? (fun p => (clove s p).seat = .replacing b)

/-- A clove holds a ring position. -/
def inService (s : State) (p : Nat) : Bool := decide (p < 1216) && (ringPos s p).isSome

/-- The cloves of a pod, in ring order. -/
def podCloves (s : State) (q : Nat) : List Nat := (List.range 12).filterMap (cloveAt s q)

/-- The pods of a group, ascending (R197). -/
def groupPods (s : State) (g : Nat) : List Nat :=
  if g = 0 then (List.range 96).filter (fun q => !tileIsOut s (q / 6))
  else (List.range 96).filter (fun q => bitAt (sget 0 s.comp.groups g) q)

/-- A group that a descriptor may not name (R197, R359). -/
def badGroup (s : State) (g : Nat) : Bool :=
  let ps := groupPods s g
  ps.all (fun q => (podCloves s q).isEmpty) || (g != 0 && ps.any (fun q => tileIsOut s (q / 6)))

/-- The in-service cloves of a group. -/
def groupCloves (s : State) (g : Nat) : List Nat := (groupPods s g).flatMap (podCloves s)

/-- Active cloves of a compute tile (R21, SAFE_CAP). -/
def activeOf (s : State) (t : Nat) : Nat :=
  if tileIsOut s t then 0
  else
    let here := s.comp.cloves.filter (fun c => c.1 / 76 == t)
    72 - (here.filter (fun c => decide (c.1 % 76 < 72) && decide (c.2.seat ≠ .asBuilt))).length
      + (here.filter (fun c => decide (72 ≤ c.1 % 76) &&
          match c.2.seat with
          | .replacing _ => true
          | _ => false)).length

def activeCloves (s : State) : Nat := ((List.range 16).map (activeOf s)).foldl (· + ·) 0

/-- The core clocks run: main power is up and the module is not in safe stop (R360). -/
def coreRuns (s : State) : Bool := s.power.main && !s.safe.stop

/-! ### Ring positions -/

/-- Who is at a ring position: a clove, a spare that is joining, or nobody (R18, R21). -/
inductive Seated where
  | at_ (c : Nat)
  | joining
  | empty
  deriving DecidableEq, Repr

def seatAt (s : State) (q pos : Nat) : Seated :=
  match cloveAt s q pos with
  | some c => .at_ c
  | Option.none =>
    if (List.range 4).any (fun k => decide ((clove s (76 * (q / 6) + 72 + k)).joining = some (builtAt q pos))) then .joining
    else .empty

/-- Pods and positions as an item's binding sees them: a bound position that is empty binds nothing (R88). -/
def seatOf (s : State) (i : QItem) : Seated :=
  match i.bound with
  | some b => seatAt s i.home b
  | Option.none => .empty

/-- Where an item must run: on the spare of the position it was re-issued for (R19), else where it is bound. -/
def runSeat (s : State) (i : QItem) : Seated :=
  match i.on with
  | some x => seatAt s x.1 x.2
  | Option.none => seatOf s i

/-! ### Replacement (R367) -/

/-- A condition of Table 14.5 holds for the first time: the ledger keeps it, the pin and the event follow. -/
def replaceReq (bit : Nat) (s : State) : State :=
  if bitAt s.safe.ledger.reasons bit then s
  else
    let t := modSafe s (fun x => { x with ledger := { x.ledger with reasons := x.ledger.reasons ||| 2 ^ bit } })
    raiseEv { code := 0x14, arg0 := t.safe.ledger.reasons, arg1 := activeCloves t } t

/-! ### Tiles -/

/-- An item in no queue. -/
def QItem.none : QItem := ⟨⟨0, 0, 0, 0⟩, .tile, 0, Option.none, 0, 0, 0, [], [], Option.none⟩

/-- A context that holds no item. -/
def Ctx.none : Ctx := ⟨QItem.none, false, false, false, 0, 0⟩

def ctxOf (s : State) (p k : Nat) : Ctx := sget Ctx.none (clove s p).ctx k
def setCtx (s : State) (p k : Nat) (v : Ctx) : State :=
  modClove s p (fun c => { c with ctx := sset Ctx.none c.ctx k v })

/-- Contexts of a clove that hold no item (R203). -/
def freeCtxs (s : State) (p : Nat) : List Nat := (List.range 4).filter (fun k => (ctxOf s p k).order == 0)

/-- Discard a tile: FREE at once, without a drain (R78). -/
def discardTile (s : State) (p t : Nat) : State :=
  modClove s p (fun c => { c with
    tiles := sset Tile.empty c.tiles t Tile.empty
    closing := c.closing.filter (· != t)
    drain := match c.drain with
      | some d => if d.tile = t then Option.none else some d
      | Option.none => Option.none })

/-- Every tile that is not FREE, as (clove, tile, entry). -/
def allTiles (s : State) : List (Nat × Nat × Tile) :=
  s.comp.cloves.flatMap (fun c => c.2.tiles.map (fun t => (c.1, t.1, t.2)))

/-- Discard every tile that `f` picks. -/
def discardTiles (f : Nat × Nat × Tile → Bool) (s : State) : State :=
  ((allTiles s).filter f).foldl (fun u x => discardTile u x.1 x.2.1) s

/-! ### Items -/

/-- Put items at the front of a pod's queue (R19). -/
def requeue (s : State) (q : Nat) (l : List QItem) : State :=
  modComp s (fun c => { c with podQueue := smod [] c.podQueue q (l ++ ·) })

/-- The unit of an item: 0 array, 1 vector, 2 scan. -/
def unitOfItem (k : ItemKind) : Nat :=
  match k with
  | .vecop => 1
  | .scan => 2
  | .fold => 2
  | _ => 0

/-- The ready context of a unit that is served next: highest priority, then earliest handed out (R204). -/
def nextReadyIn (c : Clove) (u : Nat) : Option Nat :=
  (((c.ctx.filter (fun x => x.2.ready && decide (unitOfItem x.2.item.kind = u))).mergeSort (fun a b =>
    decide (b.2.item.prio < a.2.item.prio) ||
      (a.2.item.prio == b.2.item.prio && decide (a.2.order ≤ b.2.order)))).head?).map (·.1)

/-- A clove without the contexts that `f` picks: a unit that served one of them turns to the next ready one (R204). -/
def dropCtxs (f : QItem → Bool) (c : Clove) : Clove :=
  let d := { c with ctx := c.ctx.filter (fun k => !f k.2.item) }
  { d with serving := c.serving.filterMap (fun x =>
      if d.ctx.any (fun k => k.1 + 1 == x.2) then some x
      else (nextReadyIn d x.1).map (fun n => (x.1, n + 1))) }

/-- Drop queued items and contexts that `f` picks. -/
def dropItems (f : QItem → Bool) (s : State) : State :=
  modComp s (fun c => { c with
    podQueue := (c.podQueue.map (fun q => (q.1, q.2.filter (fun i => !f i)))).filter (fun q => !q.2.isEmpty)
    cloves := c.cloves.map (fun p => (p.1, if p.2.ctx.any (fun k => f k.2.item) then dropCtxs f p.2 else p.2)) })

/-- Cloves equal to the reset clove are not listed. -/
def tidyCloves (s : State) : State :=
  modComp s (fun c => { c with cloves := c.cloves.filter (fun p => decide (p.2 ≠ Clove.empty)) })

/-- The body of a MATMUL. -/
def matmulBody (r : Rec) : Option MatmulBody :=
  match r.desc with
  | .matmul b => some b
  | _ => Option.none

/-- A drain follows: the operation is ordinary, or carries the close mark (R79, R92). -/
def closes (b : MatmulBody) : Bool := !b.shared || b.close

/-- Earlier members of the shared sequence of an item's output, and those of every output (R79). -/
def priorOf (r : Rec) (i : QItem) : List Nat :=
  ((r.prior.find? (fun x => x.pod == i.home && decide (x.lo ≤ i.slot) && decide (i.slot < x.hi))).map (·.seqs)).getD []
def allPrior (r : Rec) : List Nat := (r.prior.flatMap (·.seqs)).dedup

/-- How a descriptor numbers output `slot` of pod `q` (R198). -/
def outNo (r : Rec) (q slot : Nat) : Nat := r.pods.idxOf q + slot * r.pods.length

/-- The kind of a descriptor's items (Table 8.2). -/
def itemKind (d : Desc) : ItemKind :=
  match d with
  | .matmul b => if b.kind = 1 then .bwd else if b.shared then .shared else if 1 < b.splitN then .chunk else .tile
  | .vecop _ => .vecop
  | .scan b => if b.mode = 1 then .fold else .scan
  | _ => .tile

/-- The priority of a stream (R196). -/
def prioOf (s : State) (i : Nat) : Nat := bitsAt (reg4 s (ringReg i 0xC)) 9 8

/-- Item `k` of those that place `j` of the pods gets: an output's chunks follow one another (R198). -/
def itemOf (s : State) (i : Nat) (r : Rec) (j q k : Nat) : QItem :=
  let n := max 1 r.nSplit
  let (start, tile) := match r.desc with
    | .matmul b => (b.start, b.accTile)
    | _ => (0, 0)
  ⟨⟨i, r.seq, j + k / n * r.pods.length, k % n⟩, itemKind r.desc, prioOf s i,
    if 1 < n then some ((start + k % n) % 12) else Option.none, tile, q, k / n, [], [], Option.none⟩

/-- Items that had contributed to a tile since its preload, in issue order (R19, R79): its members', for every chunk
whose sum it holds. -/
def tileItems (s : State) (t : Tile) : List QItem :=
  let chunk (c : Nat) : QItem := match t.use with
    | .dw _ => t.item
    | _ => { t.item with
        id := { t.item.id with chunk := c }
        bound := t.item.bound.map (fun b => (b + 12 + c - t.item.id.chunk) % 12) }
  let seqs := if t.members.isEmpty then [t.item.id.seq] else t.members
  (List.range (t.hi + 1 - t.lo)).flatMap (fun d => seqs.map (fun m =>
    let i := chunk (t.lo + d)
    let n := ((findRec s t.stream m).map (fun r => outNo r i.home i.slot)).getD i.id.n
    { i with id := { i.id with seq := m, n := if m = i.id.seq then i.id.n else n } }))

/-- Token blocks of a BWD_PAIR item (R160). -/
def tokenBlocks (r : Rec) : Nat :=
  match r.tes with
  | (some e) :: _ => (e.rows + 63) / 64
  | _ => 0

/-- The blocks of dY that chunk `c` of a BWD_PAIR covers (R161). -/
def bwdBlocks (r : Rec) (c : Nat) : Nat × Nat :=
  match r.tes with
  | (some e) :: _ =>
    let g := (e.cols + 63) / 64
    (chunkStart g (max 1 r.nSplit) c, chunkStart g (max 1 r.nSplit) (c + 1))
  | _ => (0, 0)

/-- Tiles of clove `p` that hold work of an item's output. -/
def tilesHere (s : State) (p : Nat) (i : QItem) : List Tile :=
  ((clove s p).tiles.map (·.2)).filter (fun t => t.item.id.stream == i.id.stream && t.item.home == i.home
    && t.item.slot == i.slot && (t.item.id.seq == i.id.seq || t.members.contains i.id.seq))

/-- A BWD_PAIR item of lost clove `p` as it runs again (R19): dX blocks formed and not lost there stand, and dW blocks
not lost there stand. `done` blocks had been formed. -/
def bwdAgain (s : State) (p done : Nat) (r : Rec) (i : QItem) : QItem :=
  let here := tilesHere s p i
  let lostX := here.filterMap (fun t =>
    match t.use with
    | .dx b => if t.lo ≤ i.id.chunk ∧ i.id.chunk ≤ t.hi then some b else Option.none
    | _ => Option.none)
  let lostW := here.filterMap (fun t =>
    match t.use with
    | .dw o => if t.item.id = i.id then some o else Option.none
    | _ => Option.none)
  let (o0, o1) := bwdBlocks r i.id.chunk
  { i with
    skip := (i.skip ++ List.range done).dedup.filter (fun b => !lostX.contains b)
    dwDone := (List.range o1).filter (fun o => decide (o0 ≤ o) && !lostW.contains o) }

/-- An item of lost clove `p` as it runs again. -/
def itemAgain (s : State) (p : Nat) (done : Option Nat) (i : QItem) : QItem :=
  match i.kind, findRec s i.id.stream i.id.seq with
  | .bwd, some r => bwdAgain s p (done.getD (tokenBlocks r)) r i
  | _, _ => i

/-- The original order of items: that in which their descriptors were dispatched, then that in which they were cut (R19,
R198). -/
def wasBefore (s : State) (a b : QItem) : Bool :=
  let key (i : QItem) : Nat := ((findRec s i.id.stream i.id.seq).map (·.order)).getD 0
  decide (key a < key b) || (key a == key b &&
    (decide (a.id.n < b.id.n) || (a.id.n == b.id.n && decide (a.id.chunk ≤ b.id.chunk))))

/-- The items that must run again when clove `p` is lost: those of its contexts, and those that had contributed to
its tiles (R19), each once, in order. -/
def lostItems (s : State) (p : Nat) : List QItem :=
  let fromCtx := (clove s p).ctx.map (fun k => itemAgain s p (some k.2.next) k.2.item)
  let fromTiles := (clove s p).tiles.flatMap (fun t => (tileItems s t.2).map (itemAgain s p Option.none))
  let all := fromCtx ++ fromTiles.filter (fun i => !fromCtx.any (fun j => j.id == i.id))
  (all.foldr (fun i l => if l.any (fun j => j.id == i.id) then l else i :: l) []).mergeSort (wasBefore s)

/-- Tiles of one output of a split reduction. -/
def tilesOfItem (s : State) (i : ItemId) (u : TileUse) : List (Nat × Nat × Tile) :=
  (allTiles s).filter (fun x => x.2.2.item.id.stream == i.stream && x.2.2.item.id.seq == i.seq
    && x.2.2.item.id.n == i.n && decide (x.2.2.use = u))

/-- Additions of shared members that are lost with a tile will be made again: a member that counts its additions and is
not complete waits for them anew. -/
def undoAdds (t : Tile) (s : State) : State :=
  t.members.foldl (fun w m =>
    modRec t.stream m (fun r =>
      match r.desc with
      | .matmul b => if r.life = .running ∧ b.shared ∧ !b.close then { r with left := r.left + (t.hi + 1 - t.lo) } else r
      | _ => r) w) s

/-- Discard tiles that are formed again. -/
def discardAgain (f : Nat × Nat × Tile → Bool) (s : State) : State :=
  discardTiles f (((allTiles s).filter f).foldl (fun w x => undoAdds x.2.2 w) s)

/-- Chunks of the outputs of an item's descriptor. -/
def chunksOf (s : State) (i : QItem) : Nat :=
  match findRec s i.id.stream i.id.seq with
  | some r => max 1 r.nSplit
  | Option.none => 1

/-- Re-issue an item of the lost clove on the spare that takes its position (R19, R88). -/
def reissueOn (q pos : Nat) (i : QItem) (s : State) : State := requeue s q [{ i with on := some (q, pos) }]

/-- Every tile of an output combines as a tree from now on (R86, R88). -/
def makeTree (i : ItemId) (u : TileUse) (s : State) : State :=
  (tilesOfItem s i u).foldl (fun w x => setTile w x.1 x.2.1 { x.2.2 with order := true }) s

/-- A descriptor and the earlier members of its shared sequences (R79). -/
def seqsOf (r : Rec) : List Nat := allPrior r ++ [r.seq]

/-- A tile of an operation of stream `i` whose members are `qs`. -/
def tileOf? (i : Nat) (qs : List Nat) (y : Tile) : Bool :=
  y.stream == i && (y.item.id.seq :: y.members).any (qs.contains ·)

/-- An operation and its members run again whole, as trees: every tile and item of theirs goes, and what had been cut is queued
again in its order (R88). -/
def redoWhole (i : Nat) (r : Rec) (s : State) : State :=
  let qs := seqsOf r
  let t := discardTiles (fun x => tileOf? i qs x.2.2) s
  let t := dropItems (fun j => j.id.stream == i && qs.contains j.id.seq) t
  let again (x : Rec) : Rec :=
    if qs.contains x.seq then { x with tree := true, left := if x.life = .running then x.parts else x.left } else x
  let t := modStream t i (fun y => { y with
    window := y.window.map again, kept := y.kept.map again
    calls := y.calls.map (fun c => { c with caller := again c.caller }) })
  (qs.filterMap (findRec s i)).foldl (fun u x => x.pods.zipIdx.foldl (fun w y =>
    modComp w (fun c => { c with podQueue := smod [] c.podQueue y.1 (fun l =>
      (((List.range (x.cuts.getD y.2 0)).map (itemOf s i x y.2 y.1)) ++ l).mergeSort (wasBefore s)) })) u) t

/-- A tile's split reduction runs on pod `q`, and position `pos` lies in its span (R83). -/
def spans (q pos : Nat) (y : Tile) : Bool :=
  decide (1 < y.splitN) && y.item.home == q &&
    match y.item.bound with
    | some b => decide ((pos + 24 - (b + 12 - y.item.id.chunk) % 12) % 12 < y.splitN)
    | Option.none => false

/-- The clove at position `pos` of pod `q` is a member of a split reduction of a descriptor (R83). -/
def memberAt (q pos : Nat) (r : Rec) (b : MatmulBody) : Bool :=
  decide (1 < r.nSplit) && (r.pods.take r.nItems).contains q && decide ((pos + 12 - b.start % 12) % 12 < r.nSplit)

/-- A combine of an operation has begun: a tile of it holds more than its own chunk, or an output is complete. -/
def begun (s : State) (i : Nat) (r : Rec) : Bool :=
  decide (r.left < r.parts) || (allTiles s).any (fun x => tileOf? i (seqsOf r) x.2.2 && decide (1 < x.2.2.splitN)
    && (decide (x.2.2.lo < x.2.2.hi) || decide (x.2.2.state = .closing)))

/-- Every output of an operation that is not drained yet is complete, on a clove other than `p`. -/
def allFinal (s : State) (p i : Nat) (r : Rec) : Bool :=
  decide (((allTiles s).filter (fun x => tileOf? i (seqsOf r) x.2.2 && decide (x.1 ≠ p)
    && decide (x.2.2.state = .closing))).length = r.left)

/-- The operations that run again whole when clove `p`, at position `pos` of pod `q`, is lost and its position stays empty:
those of which it is a member and whose combine has begun, less those whose every sum is final elsewhere (R88; log 108). -/
def runsAgain (s : State) (p q pos : Nat) : List (Nat × Rec) :=
  (allRecs s).filter (fun x => decide (x.2.life = .running) &&
    match matmulBody x.2 with
    | some b => closes b && memberAt q pos x.2 b && begun s x.1 x.2 && !allFinal s p x.1 x.2
    | Option.none => false)

/-- Position `pos` of pod `q` is lost and stays empty, `s0` being the state before (R88): an operation whose combine has begun
runs again whole as a tree; another output of a split reduction across the position combines as a tree. -/
def emptyPosition (s0 : State) (p q pos : Nat) (s : State) : State :=
  let whole := runsAgain s0 p q pos
  let t := whole.foldl (fun u x => redoWhole x.1 x.2 u) s
  let outs := ((((allTiles s0).map (·.2.2)).filter (fun y =>
    spans q pos y && !whole.any (fun x => tileOf? x.1 (seqsOf x.2) y))).map (fun y =>
      ({ y.item.id with chunk := 0 }, y.use))).dedup
  outs.foldl (fun u o => makeTree o.1 o.2 u) t

/-- Re-issue an item of the lost clove of pod `q` whose position stays empty (R88): an unsplit item on any clove of the pod;
a chunk where its own position puts it. -/
def reissueFree (q : Nat) (i : QItem) (s : State) : State :=
  if chunksOf s i ≤ 1 then requeue s q [{ i with bound := Option.none, home := q, on := Option.none }]
  else requeue s i.home [{ i with on := Option.none }]

/-! ### Wipes -/

/-- First module address of the slice of clove `p` (Table 10.3). -/
def sliceBase (p : Nat) : Nat := 2 ^ 40 + 0x2000000 * p

/-- The key of a unit in `MemSt.faults`: its unit code (Table 13.5) and its address there. -/
def faultKey (u a : Nat) : Nat := u * 2 ^ 44 + a

/-- Faults of unit `u` cleared. -/
def clearUnit (u : Nat) (m : MemSt) : MemSt :=
  { m with faults := m.faults.filter (fun f => !decide (f.1 / 2 ^ 44 = u)) }

/-- The clove wipe of Table 13.9: slice, accumulator store, stores, contexts and generators; stash entries of the
slice region are LOST, those in HBM stay (R174). -/
def wipeClove (p : Nat) (s : State) : State :=
  let t := modMem s (fun m => clearUnit (0x800 + p) (clearUnit p { m with
    data := m.data.filter (fun c => decide (c.1 < sliceBase p) || decide (sliceBase p + 0x2000000 ≤ c.1)) }))
  modClove t p (fun c => { c with
    tiles := [], closing := [], drain := Option.none, ctx := [], serving := [], scaleFile := [], int4 := []
    rowBank := [], splines := [], seed := resetSeed
    stash := c.stash.map (fun e => (e.1, if e.2.inHbm ∨ e.2.state = .dropped then e.2 else { e.2 with state := .lost, pages := [] })) })

/-! ### Quarantine -/

/-- The lowest spare of a compute tile that is not in use (R18, R359). -/
def freeSpare (s : State) (t : Nat) : Option Nat :=
  ((List.range 4).map (fun k => 76 * t + 72 + k)).find? (fun p =>
    let c := clove s p
    decide (c.seat = .asBuilt) && !c.quarantined && !c.failedSpare && c.joining.isNone)

/-- The built clove whose position a clove holds or is joining. -/
def seatOwner (s : State) (p : Nat) : Option Nat :=
  match (clove s p).joining with
  | some b => some b
  | Option.none =>
    match (clove s p).seat with
    | .asBuilt => if p % 76 < 72 then some p else Option.none
    | .replacing b => some b
    | .out => Option.none

/-- A QUAR_LOG entry (Table 14.7). -/
def quarEntry (s : State) (p mech spare : Nat) : Nat :=
  p + 2 ^ 11 * mech + 2 ^ 19 * spare + 2 ^ 31 + 2 ^ 32 * (s.tally.now.pair % 2 ^ 32)

/-- No stash entry. -/
def StashEntry.none : StashEntry := ⟨.present, 0, 0, 0, false, false, 0, 0, 0, 0, 0, 0, 0, 0, [], 0⟩

/-- The lowest free index of a clove's entry table (R170); entries in use have a save order above 0. -/
def freeIndex (s : State) (p : Nat) : Option Nat :=
  (List.range 256).find? (fun k => (sget StashEntry.none (clove s p).stash k).order == 0)

/-- One more, or one fewer, reference on a weight record (R181). -/
def addRef (w : Nat) (s : State) : State := setWeight s w { weight s w with refs := (weight s w).refs + 1 }
def dropRef (w : Nat) (s : State) : State := setWeight s w { weight s w with refs := (weight s w).refs - 1 }

/-- The clove whose slice holds module address `a` (Table 10.3). -/
def sliceOf (a : Nat) : Option Nat :=
  if 2 ^ 40 ≤ a ∧ (a - 2 ^ 40) / 0x2000000 < 1216 ∧ (a - 2 ^ 40) % 0x2000000 < 0x1C00000 then
    some ((a - 2 ^ 40) / 0x2000000)
  else Option.none

/-- The fields of the entry that a STASH_SAVE makes (Table 7.3). -/
def newEntry (s : State) (r : Rec) (b : StashSaveBody) (e : TEntry) : StashEntry :=
  ⟨.present, r.hdr.tensorId, r.hdr.layer, r.hdr.slot, b.recompute, false, r.step, r.hdr.pos,
    r.hdr.pos + e.rows - 1, e.rows, e.cols, b.weightId, (weight s b.weightId).version, 0, [], s.comp.orderNo + 1⟩

/-- Put an entry at an index, in the next save order. -/
def putEntry (p k : Nat) (e : StashEntry) (s : State) : State :=
  modComp (modClove s p (fun c => { c with stash := sset StashEntry.none c.stash k e }))
    (fun c => { c with orderNo := c.orderNo + 1 })

/-- A STASH_SAVE of a lost clove completes with its entry LOST, once an index is free (R174). -/
def lostEntry (p i : Nat) (r : Rec) (b : StashSaveBody) (e : TEntry) (s : State) : State :=
  match freeIndex s p with
  | Option.none => s
  | some k => complete i r.seq stOK 0 (k + 256 * p) CFlags.none
      (addRef b.weightId (putEntry p k { newEntry s r b e with state := .lost } s))

/-- A STASH_SAVE of a quarantined clove that waits: it completes with status OK and its entry is LOST (R174). With no
index free it goes on waiting for one. -/
def loseSave (p i : Nat) (r : Rec) (s : State) : State :=
  match r.desc, r.tes with
  | .stashSave b, (some e) :: _ => if sliceOf e.base = some p then lostEntry p i r b e s else s
  | _, _ => s

/-- A record that is held, or waits for stash space, notes the clove that is lost. -/
def noteLost (p : Nat) (r : Rec) : Rec :=
  if r.life = .held ∨ r.life = .stashWait then { r with lostIn := r.lostIn ++ [p] } else r

/-- Every STASH_SAVE of clove `p` that waits; one that is held will find that its clove was lost. -/
def loseSaves (p : Nat) (s : State) : State :=
  let t := ((allRecs s).filter (fun x => decide (x.2.life = .stashWait))).foldl (fun t x => loseSave p x.1 x.2 t) s
  modHost t (fun h => { h with streams := h.streams.map (fun x => (x.1, { x.2 with window := x.2.window.map (noteLost p) })) })

/-- A spare not in use that fails its canary or self-test is marked failed, not quarantined (R359). DEDUCED, see log 101. -/
def marksFailed (owner : Option Nat) (mech : Nat) : Bool := owner.isNone && (mech == 3 || mech == 7)

/-- Quarantine a clove (R18, R19, R21, R357, R358). -/
def quarantine (p mech : Nat) (s : State) : State :=
  let c := clove s p
  if c.quarantined ∨ tileIsOut s (p / 76) then s
  else
    let owner := seatOwner s p
    let items := lostItems s p
    let spare := match owner with
      | some _ => freeSpare (modClove s p (fun x => { x with quarantined := true })) (p / 76)
      | Option.none => Option.none
    let t := ((clove s p).tiles.map (·.2)).foldl (fun w x => undoAdds x w) s
    let t := wipeClove p (modClove t p (fun x => { x with
      quarantined := x.quarantined || !marksFailed owner mech, failedSpare := x.failedSpare || marksFailed owner mech
      mechanism := mech, seat := .out, joining := Option.none }))
    let t := modSafe t (fun x => { x with
      quarLog := (quarEntry s p mech (spare.getD 0x7FF) :: x.quarLog).take 64
      ledger := { x.ledger with quarantines := x.ledger.quarantines ++ [(p, mech)] } })
    let t := loseSaves p (raiseEv { code := 0x13, unit := p, arg0 := spare.getD 0xFFFF, arg1 := mech } t)
    match owner with
    | Option.none => t
    | some b =>
      let (q, pos) := (builtPos b).getD (0, 0)
      match spare with
      | some x =>
        let t := modClove t x (fun y => { y with
          joining := some b
          sources := c.sources
          seed := c.seed
          bist := if y.bist.busy then ⟨false, false, true, 0⟩ else y.bist })
        items.reverse.foldl (fun u i => reissueOn q pos i u) t
      | Option.none => replaceReq 0 (emptyPosition s p q pos (items.reverse.foldl (fun u i => reissueFree q i u) t))

/-! ### Cutting (R198, R199) -/

/-- Items that place `j` of its pods gets (R198). -/
def placeTotal (r : Rec) (j : Nat) : Nat := (r.nItems + r.pods.length - 1 - j) / r.pods.length * max 1 r.nSplit

/-- A dispatched descriptor has items that are not cut yet (R199). -/
def uncut (r : Rec) : Bool :=
  decide (r.life = .running) && (List.range r.pods.length).any (fun j => decide (r.cuts.getD j 0 < placeTotal r j))

/-- Cut items for place `j`, pod `q`, until its queue is full (R199): the state, and how many are now cut. -/
def cutPlace (i : Nat) (r : Rec) (first : Bool) (j q : Nat) (s : State) : State × Nat :=
  let done := r.cuts.getD j 0
  let total := placeTotal r j
  let n := min (256 - (sget [] s.comp.podQueue q).length) (total - done)
  let t := modComp s (fun c => { c with
    podQueue := smod [] c.podQueue q (· ++ (List.range n).map (fun k => itemOf s i r j q (done + k))) })
  (if done + n < total ∧ (first ∨ 0 < n) then count (tileBase (q / 6) + 0x210) 1 t else t, done + n)

/-- Cut what can be cut of one descriptor. -/
def cutRec (i seq : Nat) (first : Bool) (s : State) : State :=
  match findRec s i seq with
  | Option.none => s
  | some r =>
    let (t, cuts) := r.pods.zipIdx.foldl (fun (acc : State × List Nat) x =>
      let (u, n) := cutPlace i r first x.2 x.1 acc.1
      (u, acc.2 ++ [n])) (s, [])
    modRec i seq (fun x => { x with cuts := cuts }) t

/-- Places that have become free are filled, oldest descriptor first (R199). -/
def refill (s : State) : State :=
  (((allRecs s).filter (fun x => uncut x.2)).mergeSort (fun a b => decide (a.2.order ≤ b.2.order))).foldl
    (fun t x => cutRec x.1 x.2.seq false t) s

/-! ### Abort (R214) -/

/-- The contributions of stream `i` are withdrawn from an instance (R308): chunks already sent up stay added, and mark
the tree's result partial. -/
def withdraw (i : Nat) (b : Bucket) : Bucket :=
  if b.locals.any (fun x => x.stream == i && !x.gone) then
    { b with
      locals := b.locals.map (fun x => if x.stream = i then { x with gone := true } else x)
      trees := b.trees.map (fun t => { t with partialIn := t.partialIn || decide (0 < t.sent) }) }
  else b

/-- Cancel all work of stream `i`: items, contexts, tiles, waits, contributions and reservations. -/
def cancelWork (i : Nat) (s : State) : State :=
  let t := discardTiles (fun x => x.2.2.stream == i) s
  let t := tidyCloves (dropItems (fun j => j.id.stream == i) t)
  let t := modComp t (fun c => { c with
    weights := c.weights.map (fun w =>
      let mine := w.2.updates.head?.any (fun u => u.1 == i)
      (w.1, { w.2 with
        updates := w.2.updates.filter (fun u => u.1 != i)
        held := if mine then [] else w.2.held
        state := if mine ∧ w.2.state = 1 then 0 else w.2.state })) })
  let t := modStep t (fun x => { x with
    commits := x.commits.map (fun k => if k.stream = i ∧ !k.finished then { k with finished := true } else k) })
  modLink t (fun l => { l with
    insts := l.insts.map (fun b => (b.1, withdraw i b.2))
    waiting := l.waiting.filter (fun w => w.loc.stream != i)
    shadows := l.shadows.filter (fun w => w.2.1 != i)
    lowrank := l.lowrank.filter (fun w => w.stream != i)
    ops := l.ops.filter (fun o => o.stream != i), combines := l.combines.filter (fun o => o.stream != i) })

/-- Every taken descriptor that has not completed completes with STREAM_STALL, callers of lists among them, in
sequence order. -/
def stallRecs (x : Stream) : List Rec :=
  ((x.window ++ x.calls.map (·.caller)).mergeSort (fun a b => !laterSeq a.seq b.seq)).map (fun r =>
    if r.life = .done then r else { r with life := .done, status := stStall, detail := 0, value := 0 })

/-- The first descriptor that an abort cancels. -/
def firstOpen (x : Stream) : Option Nat :=
  (((x.window ++ x.calls.map (·.caller)).filter (fun r => decide (r.life ≠ .done))).mergeSort
    (fun a b => !laterSeq a.seq b.seq)).head?.map (·.seq)

/-- An UPDATE leaves its record's list; one that was running leaves the record IDLE. -/
def endUpdate (w i seq : Nat) (s : State) : State :=
  let x := weight s w
  let head := x.updates.head? = some (i, seq)
  setWeight s w { x with
    updates := x.updates.filter (fun u => u != (i, seq))
    held := if head then [] else x.held
    state := if head ∧ x.state = 1 then 0 else x.state }

/-- UPDATEs that waited for STEP_COMMIT `no` complete unexecuted (R176, R190). -/
def skipUpdates (no : Nat) (s : State) : State :=
  (allRecs s).foldl (fun t x =>
    match x.2.desc with
    | .update b =>
      if x.2.life = .running ∧ x.2.commitNo = no then
        complete x.1 x.2.seq stOK 0 0 { CFlags.none with skipped := true } (endUpdate b.weightId x.1 x.2.seq t)
      else t
    | _ => t) s

/-- Abort a stream (R214); UPDATEs of other streams that waited for a STEP_COMMIT of it complete unexecuted (R176). -/
def abortStream (i : Nat) (s : State) : State :=
  let x := stream s i
  let t := cancelWork i s
  let t := modStream t i (fun y => { y with
    state := .aborted
    window := stallRecs x
    calls := []
    -- a held part of a doorbell value is discarded (Table 10.24)
    produced := if sqSize s i < sub32 x.produced x.retired then (x.retired + sqSize s i) % 2 ^ 32 else x.produced
    heldTo := Option.none
    cancelledFrom := match x.cancelledFrom with
      | some c => some c
      | Option.none => firstOpen x
    shared := [], kept := [] })
  refill <| (s.step.commits.filter (fun k => k.stream == i && !k.finished)).foldl (fun u k => skipUpdates k.no u) t

/-- Streams that have work on a compute tile: an item to cut, a queued item, a context or a tile there. -/
def streamsOn (s : State) (t : Nat) : List Nat :=
  let queued := s.comp.podQueue.flatMap (fun q => if q.1 / 6 = t then q.2.map (fun i => i.id.stream) else [])
  let held := s.comp.cloves.flatMap (fun c => if c.1 / 76 = t then
    c.2.ctx.map (fun k => k.2.item.id.stream) ++ c.2.tiles.map (fun x => x.2.stream) else [])
  let waits := ((allRecs s).filter (fun x => uncut x.2 && x.2.pods.any (fun q => decide (q / 6 = t)))).map (·.1)
  ((queued ++ held ++ waits).dedup).mergeSort (fun a b => decide (a ≤ b))

/-- Votes go on without this module's contribution (R370). -/
def withdrawVotes (s : State) : State :=
  modLink s (fun l => { l with insts := l.insts.map (fun b =>
    (b.1, if b.2.use = .vote then (b.2.locals.map (·.stream)).foldl (fun x i => withdraw i x) b.2 else b.2)) })

/-- A compute tile leaves service (R359); a vote that runs is left to its deadline (R370). -/
def tileOutOfService (t mech : Nat) (s : State) : State :=
  if tileIsOut s t then s
  else
    let u := withdrawVotes ((streamsOn s t).foldl (fun w i => abortStream i w) s)
    let u := modComp u (fun c => { c with
      tileOut := c.tileOut ++ [t]
      partials := c.partials.filter (fun p => !decide (p.1 / 4096 = t))
      cloves := c.cloves.map (fun p => if p.1 / 76 = t then (p.1, { p.2 with
        stash := p.2.stash.map (fun e => (e.1, if e.2.inHbm ∨ e.2.state = .dropped then e.2 else { e.2 with state := .lost })) })
        else p) })
    let u := modSafe u (fun x => { x with
      quarLog := (quarEntry s (76 * t) mech 0x7FF :: x.quarLog).take 64
      ledger := { x.ledger with tilesOut := x.ledger.tilesOut ++ [(t, mech)] } })
    replaceReq 4 (raiseEv { code := 0x13, unit := 76 * t, arg0 := 0xFFFF, arg1 := mech } u)

/-! ### Safe stop (R360) -/

/-- Enabled ports go DOWN. -/
def portsDown (s : State) : State :=
  { s with ports := s.ports.map (fun p => (p.1, if p.2.state = 0 then p.2 else { p.2 with state := 1 })) }

/-- Every stream that is not DISABLED is aborted, and no completion is written: the windows are dropped. -/
def abortSilently (s : State) : State :=
  (s.host.streams.map (·.1)).foldl (fun u i =>
    if (stream u i).state = .disabled then u
    else modStream (abortStream i u) i (fun x => { x with window := [] })) s

/-- Safe stop. -/
def safeStop (s : State) : State :=
  let t := portsDown (abortSilently s)
  let t := modSafe t (fun x => { x with stop := true })
  replaceReq 6 t

end Sys2Proof.Machine
end

