-- ==== Sys2Proof/Machine/Memory.lean ====
section
/-! DEFINITION. Module memory and its integrity: units, corrected and uncorrectable errors, trackers, remaps, injection, and the reads and writes every requester makes (chapter 13). -/

namespace Sys2Proof.Machine

/-! ### Units (Table 13.1, Table 13.5) -/

def hbmEnd : Nat := 0xC000000000
def stackSize : Nat := 0xC00000000

/-- The HBM channel of a module address (R16). -/
def chanOf (a : Nat) : Nat := 32 * (a / stackSize) + a / 256 % 32

/-- The memory unit that holds a place of module memory. -/
def unitOf (a : Nat) : Nat := if a < hbmEnd then 0x2000 + chanOf a else (a - 2 ^ 40) / 0x2000000

/-- Bytes of a protected unit: an HBM half or a slice code word. -/
def unitSize (a : Nat) : Nat := if a < hbmEnd then 32 else 16

/-! ### Channels whose data has moved (R361, R362, log 24) -/

/-- Rows of 256-byte units of a channel below its stack's reserve, and the first reserve row that the first retirement
of a stack leaves with free units. -/
def liveRows : Nat := 5898240
def splitRow : Nat := liveRows + 190265

/-- Channels of a stack without those listed, ascending. -/
def others (l : List Nat) : List Nat := (List.range 32).filter (fun c => !l.contains c)

/-- The address of byte `low` of unit `row` of channel `ch` of stack `h` (R16). -/
def hbmPlace (h row ch low : Nat) : Nat := h * stackSize + row * 8192 + ch * 256 + low

/-- Where the first retirement of a stack puts unit `n` of channel `c`: (row, channel). -/
def firstPlace (c n : Nat) : Nat × Nat := (liveRows + n / 31, (others [c]).getD (n % 31) 0)

/-- Where the second retirement puts unit `n` of channel `d`, after channel `c`: the free units of the reserve,
ascending. -/
def secondPlace (c d n : Nat) : Nat × Nat :=
  let head := ((others [c]).drop 25).filter (· != d)
  let rest := others [c, d]
  if n < head.length then (splitRow, head.getD n 0)
  else
    let k := n - head.length
    (splitRow + 1 + k / 30, rest.getD (k % 30) 0)

/-- The channel of stack `h` whose retirement came `n`-th, as its number in the stack. -/
def movedChannel (s : State) (h n : Nat) : Option Nat :=
  (s.mem.moved.find? (fun x => decide (x.1 / 32 = h) && decide (x.2 = n))).map (fun x => x.1 % 32)

/-- The place that holds module address `a`: a unit of a RETIRED channel lies in its stack's reserve. -/
def phys (s : State) (a : Nat) : Nat :=
  if s.mem.moved.isEmpty || decide (hbmEnd ≤ a) then a
  else
    let h := a / stackSize
    let row := a % stackSize / 8192
    let ch := a / 256 % 32
    match movedChannel s h 1, movedChannel s h 2 with
    | some c, second =>
      let (r1, c1) := if ch = c ∧ row < liveRows then firstPlace c row else (row, ch)
      let (r2, c2) :=
        match second with
        | some d => if c1 = d ∧ (r1 < splitRow ∨ (r1 = splitRow ∧ decide (d ∈ (others [c]).take 25))) then secondPlace c d r1 else (r1, c1)
        | none => (r1, c1)
      hbmPlace h r2 c2 (a % 256)
    | none, _ => a

/-- The range of `n` bytes from `a`, in pieces that lie whole in one 256-byte unit: (address, bytes). -/
def pieces (a n : Nat) : List (Nat × Nat) :=
  if n = 0 then []
  else (List.range ((a + n - 1) / 256 - a / 256 + 1)).map (fun k =>
    let lo := max a ((a / 256 + k) * 256)
    (lo, min (a + n) ((a / 256 + k + 1) * 256) - lo))

/-- Bytes of module memory. -/
def memBytes (s : State) (a n : Nat) : List Byte :=
  if s.mem.moved.isEmpty then bytesAt s.mem.data a n
  else (pieces a n).flatMap (fun p => bytesAt s.mem.data (phys s p.1) p.2)

/-- Bytes put into module memory. -/
def memPut (a : Nat) (bs : List Byte) (s : State) : State :=
  if s.mem.moved.isEmpty then modMem s (fun m => { m with data := putBytes m.data a bs })
  else (pieces a bs.length).foldl (fun t p =>
    modMem t (fun m => { m with data := putBytes m.data (phys s p.1) ((bs.drop (p.1 - a)).take p.2) })) s

/-- What a range of module addresses is to a requester (R246, Table 10.24). -/
inductive Access where
  | ok
  | addr
  | lost
  deriving DecidableEq, Repr

/-- The slice of clove `p` to a requester. -/
def sliceAccess (s : State) (p : Nat) : Access :=
  let c := clove s p
  if tileIsOut s (p / 76) then .lost
  else if c.failedSpare then .addr
  else if c.quarantined then .lost
  else if inService s p then .ok
  else .addr

/-- A place of HBM lies in a channel that is RETIRED and whose data has no place in the reserve (Table 13.8; log 119). -/
def stranded (s : State) (a : Nat) : Bool :=
  let c := chanOf (phys s a)
  sget 0 s.mem.chState c == 2 && !s.mem.moved.any (fun x => x.1 == c)

/-- The range of `n` bytes from `a`. -/
def access (s : State) (a n : Nat) : Access :=
  if a + max n 1 ≤ hbmEnd then
    (if !s.mem.chState.isEmpty && (pieces a (max n 1)).any (fun p => stranded s p.1) then .lost else .ok)
  else
    match sliceOf a with
    | some p => if sliceOf (a + n - 1) = some p ∨ n = 0 then sliceAccess s p else .addr
    | none => .addr

/-! ### Counting and events (R337, R338) -/

/-- Register block base and counter offsets of a memory unit: CE, UE, tracker evictions, read-modify-writes. -/
def ceCtr (u : Nat) : Option Nat :=
  if u < 0x800 then some (cloveBase u + 0x3000)
  else if u < 0x1000 then some (cloveBase (u - 0x800) + 0x3008)
  else if u < 0x2000 then some (linkBase (u - 0x1000) + 0x3000)
  else if u < 0x3000 then some (chanBase (u - 0x2000) + 0x8)
  else none

def ueCtr (u : Nat) : Option Nat := (ceCtr u).map (· + 4)

def evictCtr (u : Nat) : Option Nat :=
  if u < 0x800 then some (cloveBase u + 0x3014)
  else if u < 0x1000 then some (cloveBase (u - 0x800) + 0x3014)
  else if u < 0x2000 then some (linkBase (u - 0x1000) + 0x3014)
  else if u < 0x3000 then some (chanBase (u - 0x2000) + 0x1C)
  else none

def rmwCtr (u : Nat) : Option Nat :=
  if u < 0x800 then some (cloveBase u + 0x3010)
  else if 0x2000 ≤ u ∧ u < 0x3000 then some (chanBase (u - 0x2000) + 0x14)
  else none

def countAt (a : Option Nat) (n : Nat) (s : State) : State :=
  match a with
  | some x => count x n s
  | none => s

/-- Raise MEM_CE, at most once a millisecond of the unit (R337). -/
def raiseCE (u a n : Nat) (s : State) : State :=
  let last := sget 0 s.mem.ceAt u
  if last ≠ 0 ∧ s.time.refTicks + 1 < last + 800000 then s
  else raiseEv { code := 0x10, unit := u, arg0 := a % 2 ^ 32, arg1 := a / 2 ^ 32, arg2 := n }
    (modMem s (fun m => { m with ceAt := sset 0 m.ceAt u (s.time.refTicks + 1) }))

/-- Raise MEM_UE, at most once a millisecond of the unit; `req` is the requester's kind and identity (R336, R337). -/
def raiseUE (u a req : Nat) (s : State) : State :=
  let last := sget 0 s.mem.ueAt u
  if last ≠ 0 ∧ s.time.refTicks + 1 < last + 800000 then s
  else raiseEv { code := 0x11, unit := u, arg0 := a % 2 ^ 32, arg1 := a / 2 ^ 32, arg2 := req }
    (modMem s (fun m => { m with ueAt := sset 0 m.ueAt u (s.time.refTicks + 1) }))

/-- Requesters of R336. -/
def reqClove (p : Nat) : Nat := p
def reqHost : Nat := 1 * 2 ^ 16
def reqRemote (n : Nat) : Nat := 2 * 2 ^ 16 + n
def reqScrub : Nat := 3 * 2 ^ 16
def reqLink (p : Nat) : Nat := 4 * 2 ^ 16 + p
def reqUpdate (t : Nat) : Nat := 5 * 2 ^ 16 + t
def reqSeq (t : Nat) : Nat := 6 * 2 ^ 16 + t
def reqStream (i : Nat) : Nat := 7 * 2 ^ 16 + i

/-! ### Remap (R339 to R341) -/

/-- The address a tracker follows: the SRAM line, or the HBM row, named by its lowest address (R338, log 24). -/
def trackedAddr (u a : Nat) : Nat :=
  if 0x2000 ≤ u ∧ u < 0x3000 then
    a / stackSize * stackSize + a % stackSize / 32768 * 32768 + a / 256 % 32 * 256
  else a / 64 * 64

/-- The bank of a unit's address: 256 KiB banks; the accumulator store's follow the slice's (Table 13.10). -/
def bankOf (u a : Nat) : Nat :=
  if u < 0x800 then (a - 2 ^ 40) % 0x2000000 / 0x40000
  else if u < 0x1000 then 112 + a / 0x40000
  else if u < 0x2000 then a / 0x40000
  else 0

/-- The key of a unit's bank in `MemSt.remap`; a clove's two units share one block. -/
def remapKey (u a : Nat) : Nat :=
  (if 0x800 ≤ u ∧ u < 0x1000 then u - 0x800 else u) * 2 ^ 16 + bankOf u a

/-- The line in its bank, or the row in its channel. -/
def lineOf (u a : Nat) : Nat :=
  if 0x2000 ≤ u ∧ u < 0x3000 then a % stackSize / 32768
  else if u < 0x800 then (a - 2 ^ 40) % 0x2000000 % 0x40000 / 64
  else a % 0x40000 / 64

/-- Faults of unit `u` whose address `f` picks, ascending: (address, fault). -/
def faultsOf (m : MemSt) (u : Nat) (f : Nat → Bool) : List (Nat × UnitFault) :=
  m.faults.filterMap (fun x => if x.1 / 2 ^ 44 = u ∧ f (x.1 % 2 ^ 44) then some (x.1 % 2 ^ 44, x.2) else none)

/-- The unit `a` of `u` holds fault `k`, or none. -/
def setFault (u a : Nat) (k : Option UnitFault) (s : State) : State :=
  modMem s (fun m => { m with
    faults := m.faults.filter (fun x => decide (x.1 < faultKey u a))
      ++ (match k with
          | some f => [(faultKey u a, f)]
          | none => [])
      ++ m.faults.filter (fun x => decide (faultKey u a < x.1)) })

/-- Bytes of a protected unit of memory unit `u` (Table 13.1). -/
def unitBytes (u : Nat) : Nat :=
  if u < 0x800 then 16 else if u < 0x1000 then 4 else if u < 0x2000 then 64 else if u < 0x3000 then 32 else 8

/-- The protected units that are poisoned with the one at `a`: every unit of an SRAM line, one half in HBM (R330). -/
def poisoned (u a : Nat) : List Nat :=
  if 0x2000 ≤ u ∧ u < 0x3000 then [a]
  else (List.range (64 / unitBytes u)).map (fun k => a / 64 * 64 + unitBytes u * k)

/-- The fault that unit `a` of `u` holds. -/
def faultIn (s : State) (u a : Nat) : Option UnitFault := (s.mem.faults.find? (fun x => x.1 == faultKey u a)).map (·.2)

/-- A unit with a single error is written back corrected; a unit poisoned since it was read stays so (R330). -/
def heal (u a : Nat) (s : State) : State := if faultIn s u a = some .single then setFault u a none s else s

/-- An uncorrectable error at unit address `a`: counted, raised, and poisoned (R329, R330, R337). -/
def reportUE (u a req : Nat) (s : State) : State :=
  raiseUE u a req ((poisoned u a).foldl (fun t b => setFault u b (some .poison) t) (countAt (ueCtr u) 1 s))

/-- A link-tile bank that has no remap word and no spare bank left keeps its addresses tracked (R341). -/
def bankExhausted (s : State) (u a : Nat) : Bool :=
  decide (0x1000 ≤ u) && decide (u < 0x2000) && decide (4 ≤ (sget [] s.mem.remap (remapKey u a)).length)
    && decide (sget 8 s.mem.bankSpares (u - 0x1000) = 0)

/-- A corrected error at unit address `a` is counted and tracked (R337, R338): the state, and whether its address has now
reached the threshold. -/
def trackCE (u a : Nat) (s : State) : State × Bool :=
  let s := countAt (ceCtr u) 1 s
  let t := trackedAddr u a
  let l := sget [] s.mem.tracker u
  let put (l : List Track) : State := modMem s (fun m => { m with tracker := sset [] m.tracker u l })
  let up := put (l.map (fun y => if y.addr = t then { y with count := y.count + 1 } else y))
  match l.find? (fun x => x.addr == t) with
  | some x =>
    if x.count + 1 ≠ 3 then (up, false)
    else if bankExhausted s u a then (up, true)
    else (put (l.filter (fun y => y.addr != t)), true)
  | none =>
    let new : Track := ⟨t, 1, nowMs s⟩
    if l.length < 32 then (raiseCE u a 1 (put (l ++ [new])), false)
    else
      let old := l.foldl (fun b y => min b y.firstMs) (nowMs s)
      let out := (l.find? (fun y => y.firstMs == old)).map (·.addr)
      (raiseCE u a 1 (countAt (evictCtr u) 1 (put (l.filter (fun y => some y.addr != out) ++ [new]))), false)

/-- What a copy finds in a unit: a single error is corrected, counted and tracked, poison is written on, and another error is
reported as scrub's and written poisoned (R337 to R340, R362; log 24). The addresses that reach the threshold are listed: their
remaps start after the copy (Table 13.12). -/
def copyFault (u : Nat) (x : State × List Nat) (f : Nat × UnitFault) : State × List Nat :=
  match f.2 with
  | .single =>
    let (t, hit) := trackCE u f.1 (heal u f.1 x.1)
    (t, if hit then x.2 ++ [f.1] else x.2)
  | .poison => x
  | _ => (reportUE u f.1 reqScrub x.1, x.2)

/-- A copy reads the units of `u` that `f` picks. -/
def copyUnits (u : Nat) (f : Nat → Bool) (s : State) : State × List Nat := (faultsOf s.mem u f).foldl (copyFault u) (s, [])

/-- Start migration of a channel, or leave it marked (R362). -/
def reserveOn (s : State) : Bool := bitAt (reg4 s (safeBase + 0x80)) 0

def chState (s : State) (c : Nat) : Nat := sget 0 s.mem.chState c

/-- Channels of a stack that are retired or migrating. -/
def retiredIn (s : State) (h : Nat) : Nat :=
  (s.mem.chState.filter (fun x => decide (x.1 / 32 = h) && decide (x.2 ≠ 0))).length

/-- Condition HBM of Table 14.5: 2 or more channels RETIRED, or marked without migration. -/
def hbmReason (s : State) : State :=
  let retired := (s.mem.chState.filter (fun x => decide (x.2 = 2))).map (·.1)
  let stuck := s.mem.marked.filter (fun c => decide (chState s c = 0) && !s.mem.migrationWaiting.contains c)
  if 2 ≤ ((retired ++ stuck).dedup).length then replaceReq 2 s else s

/-- Retire a channel live: it migrates, waits for the migration of its stack, or stays in service, marked (R362, R370). -/
def startMigration (c : Nat) (s : State) : State :=
  if chState s c ≠ 0 ∨ s.mem.migrationWaiting.contains c then s
  else if !reserveOn s ∨ 2 ≤ retiredIn s (c / 32) + (s.mem.migrationWaiting.filter (fun d => d / 32 == c / 32)).length then
    hbmReason (modSafe (modMem s (fun m => { m with
      marked := (m.marked ++ [c]).dedup, remapExhausted := (m.remapExhausted ++ [0x2000 + c]).dedup }))
      (fun x => { x with ledger := { x.ledger with marked := (x.ledger.marked ++ [c]).dedup } }))
  else if s.mem.chState.any (fun x => decide (x.1 / 32 = c / 32) && decide (x.2 = 1)) then
    modMem s (fun m => { m with migrationWaiting := m.migrationWaiting ++ [c] })
  else modMem s (fun m => { m with
    chState := sset 0 m.chState c 1, migrating := m.migrating ++ [⟨c, [], 0⟩] })

/-- Mark a channel for retirement (R341). -/
def markChannel (c : Nat) (s : State) : State :=
  let t := modMem s (fun m => { m with
    marked := (m.marked ++ [c]).dedup, remapExhausted := (m.remapExhausted ++ [0x2000 + c]).dedup })
  let t := modSafe t (fun x => { x with ledger := { x.ledger with marked := (x.ledger.marked ++ [c]).dedup } })
  startMigration c t

/-- Spare banks left of a link tile. -/
def bankSpares (s : State) (k : Nat) : Nat := sget 8 s.mem.bankSpares k

/-- A tracked address has reached the threshold: remap it, or act by R341; the copy into the remap word or the spare bank is
`remapAddr`'s. The state, and which units the copy reads. -/
def remapTo (u a : Nat) (s : State) : State × Option (Nat → Bool) :=
  let t := trackedAddr u a
  let key := remapKey u a
  let l := sget [] s.mem.remap key
  let bad := (faultsOf s.mem u (fun x => decide (trackedAddr u x = t))).any (fun f => decide (f.2 ≠ .single))
  let origin := if bad then 1 else 0
  if 0x2000 ≤ u ∧ u < 0x3000 then
    if l.length < 8 then
      (modMem s (fun m => { m with
        remap := sset [] m.remap key (l ++ [⟨lineOf u a, false, origin⟩])
        rowCopies := m.rowCopies ++ [(u - 0x2000, lineOf u a, l.length)] }), none)
    else (raiseCE u a 3 (markChannel (u - 0x2000) s), none)
  else if u < 0x2000 then
    if l.length < 4 then
      (raiseCE u a 3 (modMem s (fun m => { m with
        remap := sset [] m.remap key (l ++ [⟨lineOf u a, true, origin⟩]) })), some (fun x => decide (trackedAddr u x = t)))
    else if u < 0x1000 then (quarantine (if u < 0x800 then u else u - 0x800) 6 (raiseCE u a 3 s), none)
    else
      let k := u - 0x1000
      if bankSpares s k = 0 then
        (raiseCE u a 3 (modMem s (fun m => { m with remapExhausted := (m.remapExhausted ++ [u]).dedup })), none)
      else (raiseCE u a 3 (modSafe (modMem s (fun m => { m with
        bankSpares := sset 8 m.bankSpares k (bankSpares s k - 1), remap := sset [] m.remap key [] }))
        (fun x => { x with ledger := { x.ledger with banksRetired := x.ledger.banksRetired ++ [(k, bankOf u a)] } })),
        some (fun x => decide (bankOf u x = bankOf u a)))
  else (raiseCE u a 3 s, none)

/-- The same with its copy. Units that the copy has read hold no single error any more: remaps that start after it find none. -/
def remapAddr (u a : Nat) (s : State) : State :=
  match remapTo u a s with
  | (t, none) => t
  | (t, some f) =>
    let (w, hits) := copyUnits u f t
    hits.foldl (fun x b => (remapTo u b x).1) w

/-- A copy of an HBM row or channel: addresses that reach the threshold in it are remapped after it. -/
def copyHbm (u : Nat) (f : Nat → Bool) (s : State) : State :=
  let (w, hits) := copyUnits u f s
  hits.foldl (fun x b => remapAddr u b x) w

/-- A corrected error at unit address `a` (R329, R337, R338). -/
def reportCE (u a : Nat) (s : State) : State :=
  let (t, hit) := trackCE u a (if u < 0x2000 ∨ 0x3000 ≤ u then heal u a s else s)
  if hit then remapAddr u a t else t

/-- One unit with a fault is read, unless a copy or a wipe that the same read brought has cleared it. -/
def readFault (u req : Nat) (s : State) (f : Nat × UnitFault) : State :=
  if (faultIn s u f.1).isNone then s
  else if f.2 = .single then reportCE u f.1 s
  else reportUE u f.1 req s

/-! ### Reads and writes -/

/-- Faults that `n` bytes from place `a` meet: (unit, place, fault). -/
def faultsAt (m : MemSt) (a n : Nat) : List (Nat × Nat × UnitFault) :=
  m.faults.filterMap (fun x =>
    let u := x.1 / 2 ^ 44
    let b := x.1 % 2 ^ 44
    if (u < 0x800 ∨ (0x2000 ≤ u ∧ u < 0x3000)) ∧ b < a + n ∧ a < b + unitSize b then some (u, b, x.2) else none)

/-- Faults that a read of `n` bytes from module address `a` meets, in the order of the addresses. -/
def faultsIn (s : State) (a n : Nat) : List (Nat × Nat × UnitFault) :=
  if s.mem.moved.isEmpty then (faultsAt s.mem a n).mergeSort (fun p q => decide (p.2.1 ≤ q.2.1))
  else if s.mem.faults.isEmpty then []
  else (pieces a n).flatMap (fun p =>
    (faultsAt s.mem (phys s p.1) p.2).mergeSort (fun p q => decide (p.2.1 ≤ q.2.1)))

/-- A read's errors are counted and reported. -/
def checkRead (a n req : Nat) (s : State) : State :=
  (faultsIn s a n).foldl (fun t f => readFault f.1 req t (f.2.1, f.2.2)) s

/-- A read of `n` bytes meets an uncorrectable error. -/
def readBad (s : State) (a n : Nat) : Bool := (faultsIn s a n).any (fun f => decide (f.2.2 ≠ .single))

/-- Why a descriptor cannot read or write its memory. -/
inductive Fail where
  | desc (d : Detail) (off : Nat)
  | ue (detail : Nat)
  deriving DecidableEq, Repr

/-- A module read for a requester (R246, R329): the data, or the reason there is none. -/
def readMem (a n req : Nat) (s : State) : Except Fail (List Byte) × State :=
  match access s a n with
  | .addr => (.error (.desc .addr 0), s)
  | .lost => (.error (.ue 1), s)
  | .ok =>
    let t := checkRead a n req s
    if readBad s a n then (.error (.ue 1), t) else (.ok (memBytes s a n), t)

/-- Units that a write covers only in part, and all units it touches, as first addresses. -/
def touched (a n : Nat) : List Nat :=
  if n = 0 then []
  else
    let z := unitSize a
    (List.range ((a + n - 1) / z - a / z + 1)).map (fun k => (a / z + k) * z)

/-- Units that a write of `n` bytes at `a` covers only in part; it may keep the low four bits of its first byte, and the high
four of its last. -/
def partly (a n : Nat) (lo hi : Bool) : List Nat :=
  let z := unitSize a
  (touched a n).filter (fun b =>
    decide (b < a) || decide (a + n < b + z) || (lo && decide (b ≤ a)) || (hi && decide (a + n ≤ b + z)))

/-- Fault kinds of MEM_INJ (Table 13.11); a double fault at one position twice is none (log 25). -/
def injFault (v : Nat) : Option UnitFault :=
  match bitsAt v 2 1 with
  | 0 => some .single
  | 1 => if bitsAt v 13 4 = bitsAt v 23 14 then none else some .double
  | 2 => some .poison
  | _ => some .addr

/-- The MEM_INJ register that serves unit `u`. -/
def injKey (u : Nat) : Nat := if 0x800 ≤ u ∧ u < 0x1000 then u - 0x800 else u

/-- A whole-unit write at unit `u`, address `b`: its fault clears, and an injection armed for it is made (R330, R346). -/
def writeUnit (u : Nat) (s : State) (b : Nat) : State :=
  let v := sget 0 s.mem.inj (injKey u)
  let z := if u < 0x800 then 16 else if u < 0x1000 then 4 else if u < 0x2000 then 64 else 32
  if bitAt v 0 ∧ v / 2 ^ 32 / z * z = b then
    setFault u b (injFault v) (modMem s (fun m => { m with inj := sset 0 m.inj (injKey u) (v - 1) }))
  else setFault u b none s

/-- The read of a read-modify-write of unit `b`. -/
def rmwUnit (req : Nat) (s : State) (a : Nat) : State :=
  let b := phys s a
  let u := unitOf b
  (faultsOf s.mem u (fun x => decide (x = b))).foldl (readFault u req) (countAt (rmwCtr u) 1 s)

/-- The bytes of a write that keeps four bits of its first byte, or of its last, with those of `old` merged in (R332). -/
def mergeNibbles (lo hi : Bool) (old bs : List Byte) : List Byte :=
  let nib (h : Bool) (o b : Byte) : Byte := if h then (o &&& 0xF0#8) ||| (b &&& 0x0F#8) else (o &&& 0x0F#8) ||| (b &&& 0xF0#8)
  let front := if lo then bs.modify 0 (nib false (old.getD 0 0#8)) else bs
  if hi then front.modify (bs.length - 1) (nib true (old.getD (bs.length - 1) 0#8)) else front

/-- A write to module memory (R246, R332): none of it is made when a unit it covers in part is uncorrectable. `lo` keeps the low
four bits of the first byte, `hi` the high four of the last. -/
def writePart (a : Nat) (bs : List Byte) (lo hi : Bool) (req : Nat) (s : State) : Option Fail × State :=
  match access s a bs.length with
  | .addr => (some (.desc .addr 0), s)
  | .lost => (some (.ue 1), s)
  | .ok =>
    let part := partly a bs.length lo hi
    let t := part.foldl (rmwUnit req) s
    if part.any (fun b => readBad s b 1) then (some (.ue 1), t)
    else
      -- units that need no work keep none: only a fault there, or an armed injection, changes anything
      let busy := ((touched a bs.length).map (phys s)).filter (fun b =>
        !(faultsOf t.mem (unitOf b) (fun x => decide (x = b))).isEmpty || bitAt (sget 0 t.mem.inj (unitOf b)) 0)
      let t := busy.foldl (fun w b => writeUnit (unitOf b) w b) t
      (none, memPut a (if lo || hi then mergeNibbles lo hi (memBytes s a bs.length) bs else bs) t)

/-- A write of whole bytes. -/
def writeMem (a : Nat) (bs : List Byte) (req : Nat) (s : State) : Option Fail × State := writePart a bs false false req s

/-- AER logs a record (Table 10.1). -/
def logAer (kind : Nat) (write : Bool) (a n : Nat) (s : State) : State :=
  modHost s (fun h => { h with aer := h.aer ++ [⟨kind, write, a, n⟩] })

/-- A read of host memory for stream `i`: an error gives MEM_UE, unit 0x4000, and AER logs it (Table 10.24, R336); with the
link down every read is one (log 29). -/
def readHost (a n i : Nat) (s : State) : Except Fail (List Byte) × State :=
  if !s.host.linkUp then (.error (.ue 2), raiseUE 0x4000 a (reqStream i) s)
  else
  match s.host.bad.find? (fun b => decide (b < a + max n 1) && decide (a < b + 64)) with
  | some b => (.error (.ue 2), raiseUE 0x4000 (max a b) (reqStream i) (logAer 3 false a n s))
  | none => (.ok (bytesAt s.host.mem a n), s)

/-- Reads of a state that may fail. -/
abbrev MM (α : Type) := ExceptT Fail (StateM State) α

def mRead (a n req : Nat) : MM (List Byte) := fun s =>
  match readMem a n req s with
  | (.ok b, t) => (.ok b, t)
  | (.error e, t) => (.error e, t)

def mNum (a n req : Nat) : MM Nat := do
  let b ← mRead a n req
  pure (leNat b)

def mWrite (a : Nat) (bs : List Byte) (req : Nat) : MM Unit := fun s =>
  match writeMem a bs req s with
  | (none, t) => (.ok (), t)
  | (some e, t) => (.error e, t)

/-- A write that keeps four bits of its first byte or of its last. -/
def mWritePart (a : Nat) (bs : List Byte) (lo hi : Bool) (req : Nat) : MM Unit := fun s =>
  match writePart a bs lo hi req s with
  | (none, t) => (.ok (), t)
  | (some e, t) => (.error e, t)

def mHost (a n i : Nat) : MM (List Byte) := fun s =>
  match readHost a n i s with
  | (.ok b, t) => (.ok b, t)
  | (.error e, t) => (.error e, t)

def mMod (f : State → State) : MM Unit := fun s => (.ok (), f s)
def mGet : MM State := fun s => (.ok s, s)
def mFail {α : Type} (d : Detail) (off : Nat) : MM α := fun s => (.error (.desc d off), s)
def mUE {α : Type} (detail : Nat) : MM α := fun s => (.error (.ue detail), s)

/-! ### The stores of the tile sequencers (R327, Table 13.5) -/

/-- Faults in the words of entry `n` of table `k` of tile `t`'s sequencer. -/
def seqFaults (s : State) (k n t : Nat) : List (Nat × UnitFault) :=
  if s.mem.faults.isEmpty then [] else faultsOf s.mem (0x3000 + t) (fun a => (Config.seqPlace k n).contains a)

/-- The sequencer of tile `t` reads entry `n` of table `k`: an uncorrectable error there fails the descriptor that names it
(R329, R336; log 130). -/
def mTable (k n t : Nat) : MM Unit := fun s =>
  let l := seqFaults s k n t
  let w := l.foldl (readFault (0x3000 + t) (reqSeq t)) s
  if l.any (fun f => decide (f.2 ≠ .single)) then (.error (.ue 1), w) else (.ok (), w)

/-- Entry `n` of table `k` is written whole in every tile's copy: faults there clear (R330). -/
def writeTable (k n : Nat) (s : State) : State :=
  (List.range 16).foldl (fun t j => (seqFaults t k n j).foldl (fun w f => setFault (0x3000 + j) f.1 none w) t) s

/-- A descriptor fails with `d` where `bad` holds. -/
def mGuard (bad : Bool) (d : Detail) (off : Nat) : MM Unit := if bad then mFail d off else pure ()

/-- Run the work of descriptor `seq` of stream `i`; a failure completes it. -/
def runDesc (i seq : Nat) (w : MM Unit) (s : State) : State :=
  match w s with
  | (.ok _, t) => t
  | (.error (.desc d off), t) => completeErr i seq d off t
  | (.error (.ue k), t) => completeUE i seq k t

end Sys2Proof.Machine
end

