-- ==== Sys2Proof/Machine/Operands.lean ====
section
/-! DEFINITION. Operand forms: tensor entries (Table 10.11), the Z-blocked and TIME_MAJOR layouts (R156, R149), scale planes (R99), scale sources (R98, R134), and the reads and writes of blocks, rows and codes. -/

namespace Sys2Proof.Machine

/-! ### Tensor entries (R254) -/

/-- The entry that 32 bytes hold, and its valid bit. -/
def teOf (b : List Byte) : Bool × TEntry :=
  let w := leNat ((b.drop 16).take 4)
  (bitAt w 10,
    { base := leNat (b.take 8), rows := leNat ((b.drop 8).take 4), cols := leNat ((b.drop 12).take 4)
      fmt := bitsAt w 3 0, ssrc := bitsAt w 5 4, glen := bitsAt w 7 6, axisRow := bitAt w 8
      timeMajor := bitAt w 9, plane := leNat ((b.drop 24).take 8) })

/-- The compute tile whose sequencer handles a descriptor: that of the group's first pod (log 27). -/
def seqTile (s : State) (g : Nat) : Nat := ((groupPods s g).headD 0) / 6

/-- The entry of handle `h`, read from the tensor table; `off` is where the descriptor names it. -/
def readTE (g h off : Nat) : MM (Option TEntry) := do
  if h = 0xFFFF then pure none
  else
    let s ← mGet
    mGuard (decide (bitsAt (reg4 s (hostBase + 0x18)) 15 0 ≤ h)) .handle off
    let b ← mRead (reg8 s (hostBase + 0x10) / 32 * 32 + 32 * h) 32 (reqSeq (seqTile s g))
    let (valid, e) := teOf b
    mGuard (!valid) .handle off
    pure (some e)

/-- An entry that the descriptor must name. -/
def needTE (g h off : Nat) : MM TEntry := do
  match ← readTE g h off with
  | some e => pure e
  | none => mFail .handle off

/-- The format of an entry whose code is not reserved. -/
def eFmt (e : TEntry) : Fmt := (fmtOf e.fmt).getD .fp32

/-- The group length of a coded field (Table 10.11). -/
def glenOf (c : Nat) : Nat := 32 * 2 ^ c

def eGlen (e : TEntry) : Nat := glenOf e.glen

/-- Bits of one element. -/
def eBits (e : TEntry) : Nat := fmtBits (eFmt e)

def rowBlocks (e : TEntry) : Nat := (e.rows + 63) / 64
def colBlocks (e : TEntry) : Nat := (e.cols + 63) / 64

/-- The block number of block row `br` and block column `bc` (R156). -/
def blockNo (e : TEntry) (br bc : Nat) : Nat := br * colBlocks e + bc

/-- Bytes of a block. -/
def blockBytes (e : TEntry) : Nat := 512 * eBits e

/-- Bytes of the whole tensor. -/
def tensorBytes (e : TEntry) : Nat :=
  if e.timeMajor then (e.rows * e.cols * eBits e + 7) / 8 else rowBlocks e * colBlocks e * blockBytes e

/-- Bytes of its scale plane (R99). -/
def planeBytes (e : TEntry) : Nat :=
  rowBlocks e * colBlocks e * (if eGlen e = 128 then 64 else 4096 / eGlen e)

/-- The range of `n` bytes at `a` is one a descriptor may name (R246, Table 10.24). -/
def checkRange (a n off : Nat) : MM Unit := do
  let s ← mGet
  match access s a n with
  | .ok => pure ()
  | .addr => mFail .addr off
  | .lost => mUE 1

/-- Scale sources that Table 5.2 allows. -/
def sourceOk (f : Fmt) (ssrc : Nat) : Bool :=
  match ssrc with
  | 0 => !fmtInteger f
  | 1 => fmtScaled f
  | _ => fmtScaled f || fmtInteger f

/-- Checks of the fields of an entry that is read: its format in the role named, its source, group length and alignment (R26,
R98, R254, R157, R99). -/
def checkFields (e : TEntry) (role : Fmt → Bool) (off : Nat) : MM Unit := do
  mGuard (match fmtOf e.fmt with
    | some f => !role f
    | none => true) .format off
  mGuard (!sourceOk (eFmt e) e.ssrc) .scale off
  mGuard (decide (e.ssrc ≠ 0) && decide (e.glen = 3)) .format off
  mGuard (!e.timeMajor && decide (e.base % 4096 ≠ 0)) .align off
  mGuard (decide (e.ssrc = 1) && decide (e.plane % 64 ≠ 0)) .align off

/-- The bytes of an entry that is read, and of its scale plane, are ones that a descriptor may name (R246). -/
def checkReach (e : TEntry) (off : Nat) : MM Unit := do
  checkRange e.base (tensorBytes e) off
  if e.ssrc = 1 then checkRange e.plane (planeBytes e) off

/-- Checks of an entry that is read. -/
def checkIn (e : TEntry) (role : Fmt → Bool) (off : Nat) : MM Unit := do
  checkFields e role off
  checkReach e off

/-- Checks of an entry that is written (R26, R43, R106, R254, R157, R99, R246). -/
def checkOut (e : TEntry) (strict : Bool) (off : Nat) : MM Unit := do
  mGuard (match fmtOf e.fmt with
    | some f => !fmtOutput f
    | none => true) .format off
  mGuard (strict && decide (eFmt e = .lg4)) .format off
  mGuard (fmtScaled (eFmt e) && decide (2 ≤ e.glen)) .format off
  mGuard (!e.timeMajor && decide (e.base % 4096 ≠ 0)) .align off
  mGuard (fmtScaled (eFmt e) && decide (e.plane % 64 ≠ 0)) .align off
  checkRange e.base (tensorBytes e) off
  if fmtScaled (eFmt e) then checkRange e.plane (planeBytes e) off

/-- A shape that R441 gives. -/
def checkShape (e : TEntry) (rows cols off : Nat) : MM Unit :=
  mGuard (decide (e.rows ≠ rows) || decide (e.cols ≠ cols)) .range off

/-! ### Blocks (R27, R156) -/

/-- The codes that bytes hold, `s` bits each. -/
def unpackCodes (s : Nat) : List Byte → List Nat
  | [] => []
  | b :: r =>
    match s with
    | 4 => (b.toNat % 16) :: (b.toNat / 16) :: unpackCodes 4 r
    | 8 => b.toNat :: unpackCodes 8 r
    | 16 =>
      match r with
      | c :: r => (b.toNat + 256 * c.toNat) :: unpackCodes 16 r
      | [] => [b.toNat]
    | _ =>
      match r with
      | c :: d :: e :: r => (b.toNat + 256 * c.toNat + 65536 * d.toNat + 16777216 * e.toNat) :: unpackCodes 32 r
      | _ => [b.toNat]

/-- The bytes that hold codes of `s` bits. -/
def packCodes (s : Nat) : List Nat → List Byte
  | [] => []
  | c :: r =>
    match s with
    | 4 =>
      match r with
      | d :: r => BitVec.ofNat 8 (c % 16 + 16 * (d % 16)) :: packCodes 4 r
      | [] => [BitVec.ofNat 8 (c % 16)]
    | _ => leBytes (s / 8) c ++ packCodes s r

/-- The sub-tile index of row and column `i`, `j` of a block (R156). -/
def zIndex (i j : Nat) : Nat :=
  let a := i / 8
  let b := j / 8
  b % 2 + 2 * (a % 2) + 4 * (b / 2 % 2) + 8 * (a / 2 % 2) + 16 * (b / 4 % 2) + 32 * (a / 4 % 2)

/-- The place of element (`i`, `j`) among a block's 4,096. -/
def zPlace (i j : Nat) : Nat := 64 * zIndex i j + (i % 8) * 8 + j % 8

/-- The row and column of the element at place `p`. -/
def zRow (p : Nat) : Nat :=
  let z := p / 64
  8 * (z / 2 % 2 + 2 * (z / 8 % 2) + 4 * (z / 32 % 2)) + p % 64 / 8
def zCol (p : Nat) : Nat :=
  let z := p / 64
  8 * (z % 2 + 2 * (z / 4 % 2) + 4 * (z / 16 % 2)) + p % 8

/-- The byte address of element (`r`, `c`) of a Z-blocked tensor (R156). -/
def zAddr (e : TEntry) (r c : Nat) : Nat :=
  e.base + blockNo e (r / 64) (c / 64) * blockBytes e + zPlace (r % 64) (c % 64) * eBits e / 8

/-- The row-major codes of a block from its bytes. -/
def blockCodes (s : Nat) (b : List Byte) : Array Nat :=
  let v := (unpackCodes s b).toArray
  ((List.range 4096).map (fun n => v.getD (zPlace (n / 64) (n % 64)) 0)).toArray

/-- The bytes of a block from its row-major codes. -/
def blockBytesOf (s : Nat) (v : Array Nat) : List Byte :=
  packCodes s ((List.range 4096).map (fun p => v.getD (64 * zRow p + zCol p) 0))

/-- Codes of `n` elements of a TIME_MAJOR tensor from element number `k` (R149, R27). -/
def readRun (e : TEntry) (k n req : Nat) : MM (List Nat) := do
  let s := eBits e
  let lo := k * s / 8
  let hi := ((k + n) * s + 7) / 8
  let b ← mRead (e.base + lo) (hi - lo) req
  pure (((unpackCodes s b).drop (if s = 4 then k % 2 else 0)).take n)

/-- Write codes to a TIME_MAJOR tensor from element number `k`; a shared byte keeps its other nibble, so that its unit is read and
checked first (R332). -/
def writeRun (e : TEntry) (k req : Nat) (cs : List Nat) : MM Unit := do
  let s := eBits e
  if s = 4 then
    let n := k + cs.length
    mWritePart (e.base + k / 2) (packCodes 4 (List.replicate (k % 2) 0 ++ cs ++ List.replicate (n % 2) 0))
      (decide (k % 2 = 1)) (decide (n % 2 = 1)) req
  else mWrite (e.base + k * s / 8) (packCodes s cs) req

/-- The +0 code of an entry's format. -/
def zeroOf (e : TEntry) : Nat := zeroCode (eFmt e) false

/-- The row-major codes of block (`br`, `bc`). -/
def readBlock (e : TEntry) (br bc req : Nat) : MM (Array Nat) := do
  if e.timeMajor then
    let n := min 64 (e.cols - 64 * bc)
    let rows ← (List.range 64).mapM (fun i =>
      if 64 * br + i < e.rows then do
        let cs ← readRun e ((64 * br + i) * e.cols + 64 * bc) n req
        pure (cs ++ List.replicate (64 - n) (zeroOf e))
      else pure (List.replicate 64 (zeroOf e)))
    pure rows.flatten.toArray
  else
    let b ← mRead (e.base + blockNo e br bc * blockBytes e) (blockBytes e) req
    pure (blockCodes (eBits e) b)

/-- Write block (`br`, `bc`) from row-major codes, whose padding the caller has set to +0 (R105, R157). -/
def writeBlock (e : TEntry) (br bc req : Nat) (v : Array Nat) : MM Unit := do
  if e.timeMajor then
    let n := min 64 (e.cols - 64 * bc)
    (List.range 64).forM (fun i =>
      if 64 * br + i < e.rows then
        writeRun e ((64 * br + i) * e.cols + 64 * bc) req ((v.toList.drop (64 * i)).take n)
      else pure ())
  else mWrite (e.base + blockNo e br bc * blockBytes e) (blockBytesOf (eBits e) v) req

/-- The codes of row `r`. -/
def readRow (e : TEntry) (r req : Nat) : MM (List Nat) := do
  if e.timeMajor then readRun e (r * e.cols) e.cols req
  else
    let rows ← (List.range (colBlocks e)).mapM (fun bc =>
      (List.range 8).mapM (fun j => do
        let b ← mRead (zAddr e r (64 * bc + 8 * j)) (eBits e) req
        pure (unpackCodes (eBits e) b)))
    pure (rows.flatten.flatten.take e.cols)

/-- Write row `r`; a Z-blocked row's padding columns take +0 (R157). -/
def writeRow (e : TEntry) (r req : Nat) (cs : List Nat) : MM Unit := do
  if e.timeMajor then writeRun e (r * e.cols) req cs
  else
    let v := (cs ++ List.replicate (64 * colBlocks e - cs.length) (zeroOf e)).toArray
    (List.range (colBlocks e)).forM (fun bc =>
      (List.range 8).forM (fun j =>
        mWrite (zAddr e r (64 * bc + 8 * j))
          (packCodes (eBits e) ((List.range 8).map (fun k => v.getD (64 * bc + 8 * j + k) 0))) req))

/-! ### Scale planes (R99) -/

/-- The address and the bytes of the codes of a block. -/
def planeAt (e : TEntry) (br bc : Nat) : Nat × Nat :=
  let g := eGlen e
  if g = 128 then
    let b := if e.axisRow then blockNo e (br - br % 2) bc else blockNo e br (bc - bc % 2)
    (e.plane + 64 * b, 64)
  else (e.plane + blockNo e br bc * (4096 / g), 4096 / g)

def readCodes (e : TEntry) (br bc req : Nat) : MM (Array Nat) := do
  let (a, n) := planeAt e br bc
  let b ← mRead a n req
  pure (b.map (·.toNat)).toArray

def writeCodes (e : TEntry) (br bc req : Nat) (v : List Nat) : MM Unit :=
  mWrite (planeAt e br bc).1 (v.map (BitVec.ofNat 8)) req

/-- The place of group `g` of vector `v` among a block's codes. -/
def codePlace (glen v g : Nat) : Nat := if glen = 128 then v else v * (64 / glen) + g

/-- The vector and the group of element (`i`, `j`) of a block (R97, R99). -/
def vecGroup (axisRow : Bool) (glen i j : Nat) : Nat × Nat :=
  if axisRow then (j, i / glen) else (i, j / glen)

/-! ### Scales (R98, R100, R102) -/

/-- What scale file entry `n` of clove `p` is to an operand of format `f` (Table 5.4). -/
def fileScale (c : Clove) (f : Fmt) (n : Nat) : Scale :=
  let w := sget 0 c.scaleFile n
  match f with
  | .int8 => .affine (w % 65536) (signedOf 8 (w / 65536))
  | .int4z => .affine (w % 65536) (signedOf 8 (w / 65536))
  | .int4t => .table ((List.range 16).map (fun k => sget 0 c.int4 (16 * (w % 256) + k)))
  | _ => scaleOfCode (w % 256)

/-- The scale file entry of lane `v`, group `g` (Table 5.2). -/
def fileIdx (ssrc base v g : Nat) : Nat := if ssrc = 2 then base + 64 * g + v else base + g

/-- The scale of lane `v`, group `g`, whose plane codes, when the source is PLANE, are `codes`, at group `gb` there. -/
def laneScale (c : Clove) (e : TEntry) (base : Nat) (codes : Array Nat) (v g gb : Nat) : Scale :=
  match e.ssrc with
  | 0 => .pow 0
  | 1 => scaleOfCode (codes.getD (codePlace (eGlen e) v gb) 0)
  | _ => fileScale c (eFmt e) (fileIdx e.ssrc base v g)

/-- A block of an operand with the scale of each of its elements, as a block item reads it (R134). -/
def blockVals (c : Clove) (e : TEntry) (base : Nat) (v : Array Nat) (codes : Array Nat) : Array (Nat × Scale) :=
  ((List.range 4096).map (fun n =>
    let (u, g) := vecGroup e.axisRow (eGlen e) (n / 64) (n % 64)
    (v.getD n 0, laneScale c e base codes u g g))).toArray

/-- Read a block with its scales. -/
def readVals (p : Nat) (e : TEntry) (base br bc req : Nat) : MM (Array (Nat × Scale)) := do
  let v ← readBlock e br bc req
  let cs ← if e.ssrc = 1 then readCodes e br bc req else pure #[]
  let s ← mGet
  pure (blockVals (clove s p) e base v cs)

/-- A row with the scale of each of its elements, as a row item reads it (R134). -/
def rowVals (c : Clove) (e : TEntry) (base r : Nat) (cs : List Nat) (codes : List (Array Nat)) :
    List (Nat × Scale) :=
  let g := eGlen e
  cs.zipIdx.map (fun (x, col) =>
    let line := codes.getD (col / 64) #[]
    if e.axisRow then (x, laneScale c e base line (col % 64) (r % 64 / g) (r % 64 / g))
    else (x, laneScale c e base line (r % 64) (col / g) (col % 64 / g)))

/-- Read a row with its scales. -/
def readRowVals (p : Nat) (e : TEntry) (base r req : Nat) : MM (List (Nat × Scale)) := do
  let cs ← readRow e r req
  let lines ← if e.ssrc = 1 then (List.range (colBlocks e)).mapM (fun bc => readCodes e (r / 64) bc req) else pure []
  let s ← mGet
  pure (rowVals (clove s p) e base r cs lines)

/-- The largest scale file index a read of an entry reaches, its lanes and groups counted within a work item: a
whole block, or a whole row (R134). -/
def fileReach (e : TEntry) (base : Nat) (row : Bool) : Nat :=
  let g := eGlen e
  let rows := min 64 e.rows
  let cols := min 64 e.cols
  if e.axisRow then fileIdx e.ssrc base (cols - 1) ((rows - 1) / g)
  else fileIdx e.ssrc base (rows - 1) (((if row then e.cols else cols) - 1) / g)

/-- A FILE source that reaches beyond the scale file (R134). -/
def checkFile (e : TEntry) (base : Nat) (row : Bool) (off : Nat) : MM Unit :=
  mGuard (decide (2 ≤ e.ssrc) && decide (4095 < fileReach e base row)) .scale off

/-! ### What a MATMUL lane reads (R97, R158, R159) -/

/-- How a MATMUL reads one operand: the entry, whether a stored row is a lane (else a stored column is), the scale
file base, and scale_apply ELEMENT. -/
structure Port64 where
  e : TEntry
  laneRow : Bool
  base : Nat
  elem : Bool

/-- Lanes and reduction length of an operand as the array sees it. -/
def lanesOf (o : Port64) : Nat := if o.laneRow then o.e.rows else o.e.cols
def depthOf (o : Port64) : Nat := if o.laneRow then o.e.cols else o.e.rows

/-- An element with its group's exponent added to its product log (R159). -/
def elemScaled (f : Fmt) (c : Nat) (sc : Scale) : Elem :=
  match sc with
  | .pow k =>
    let x := entryConvert f c (.pow 0)
    match x.num with
    | .fin s m e => ⟨.fin s m (e + k), x.mag + k * 2 ^ 14⟩
    | n => ⟨n, 0⟩
  | other => entryConvert f c other

/-- One operand of an item: for each of 64 lanes its elements, and its scale factor per group. -/
structure Lanes where
  elems : List (List Elem)
  sigmas : List (List Num)
  /-- Subnormal codes, FP16 scales and table entries among them (R36; log 107). -/
  flushed : Nat
  /-- For a table form, the decoded entries of each lane's groups. -/
  tables : List (List (List Num))

/-- A stored block as it is delivered: lane `v`, step `k`. -/
def delivered (laneRow : Bool) (v k : Nat) : Nat := if laneRow then 64 * v + k else 64 * k + v

/-- Load lanes 64·`lb` to 64·`lb` + 63 over reduction steps `k0` to `k1` − 1, in groups of `g`; group numbers of FILE
sources count from `k0` (R98). -/
def loadLanes (p : Nat) (o : Port64) (g lb k0 k1 req : Nat) : MM Lanes := do
  let first := k0 / 64
  let blocks ← (List.range ((k1 + 63) / 64 - first)).mapM (fun n => do
    let (br, bc) := if o.laneRow then (lb, first + n) else (first + n, lb)
    let v ← readBlock o.e br bc req
    let cs ← if o.e.ssrc = 1 then readCodes o.e br bc req else pure #[]
    pure (v, cs))
  let s ← mGet
  let c := clove s p
  let f := eFmt o.e
  let bl := blocks.toArray
  let codeAt (v k : Nat) : Nat := (bl.getD (k / 64 - first) (#[], #[])).1.getD (delivered o.laneRow v (k % 64)) 0
  let groupScale (v j : Nat) : Scale :=
    let k := k0 + j * g
    laneScale c o.e o.base (bl.getD (k / 64 - first) (#[], #[])).2 v j (k % 64 / g)
  let elemScale (v k : Nat) : Scale :=
    let (i, j) := if o.laneRow then (v, k % 64) else (k % 64, v)
    let (u, n) := vecGroup o.e.axisRow (eGlen o.e) i j
    laneScale c o.e o.base (bl.getD (k / 64 - first) (#[], #[])).2 u n n
  let steps := (List.range (k1 - k0)).map (k0 + ·)
  let groups := List.range ((k1 - k0 + g - 1) / g)
  let lanes := (List.range 64).map (fun v =>
    if o.elem then steps.map (fun k => elemScaled f (codeAt v k) (elemScale v k))
    else
      let sc := (groups.map (groupScale v)).toArray
      steps.map (fun k => entryConvert f (codeAt v k) (sc.getD ((k - k0) / g) (.pow 0))))
  let sig := (List.range 64).map (fun v =>
    groups.map (fun j => if o.elem then Num.fin false 1 0 else sigmaOf (groupScale v j)))
  let flushes (v : Nat) : Nat :=
    let sc := (groups.map (groupScale v)).toArray
    let own := fun k => if o.elem then elemScale v k else sc.getD ((k - k0) / g) (.pow 0)
    if f = .int4t then steps.countP (fun k => scaleSubnormal (codeAt v k) (own k))
    else steps.countP (fun k => isSubnormal f (codeAt v k)) + sc.toList.countP (scaleSubnormal 0)
  let tables := if f = .int4t then (List.range 64).map (fun v => groups.map (fun j => tableOf (groupScale v j))) else []
  pure ⟨lanes, sig, ((List.range 64).map flushes).sum, tables⟩

/-- A weight block's version bytes are checked over blocks `(br, bc)` (R180): the version plane follows the tensor. -/
def checkVersions (e : TEntry) (want req off : Nat) (bs : List (Nat × Nat)) : MM Unit :=
  bs.forM (fun b => do
    let v ← mNum (e.base + rowBlocks e * colBlocks e * blockBytes e + blockNo e b.1 b.2) 1 req
    mGuard (decide (v ≠ want)) .version off)

end Sys2Proof.Machine
end

