-- ==== Sys2Proof/Machine/Flags.lean ====
section
/-! DEFINITION. What conversions record: bins and statistics (R111, R112, Table 5.9), group scales (R107, R108), misses (R117), statistics slots (R113), the conversion counters of a clove, and the random bits of R119 to R122. -/

namespace Sys2Proof.Machine

/-! ### Random bits -/

/-- One step of a generator (R119). -/
def xorStep (x : DWord) : DWord :=
  let x := x ^^^ (x <<< 13)
  let x := x ^^^ (x >>> 7)
  x ^^^ (x <<< 17)

/-- A linear map on 64 bits, as the images of its 64 unit words, applied to a word. -/
def linApply : List DWord → Nat → DWord → DWord
  | [], _, _ => 0#64
  | c :: cs, i, x => (if x.getLsbD i then c else 0#64) ^^^ linApply cs (i + 1) x

/-- The images of one step. -/
def stepMap : List DWord := (List.range 64).map (fun i => xorStep (BitVec.ofNat 64 (2 ^ i)))

/-- `n` steps from `x`, by squaring the map; `fuel` bounds the bits of `n`. -/
def advance : Nat → List DWord → Nat → DWord → DWord
  | 0, _, _, x => x
  | fuel + 1, m, n, x =>
    if n = 0 then x
    else advance fuel (m.map (linApply m 0)) (n / 2) (if n % 2 = 1 then linApply m 0 x else x)

/-- The output of generator `l`, loaded with seed `S`, `t` core cycles after the load (R120). -/
def freeBits (S l t : Nat) : Nat :=
  let seed := if S % 2 ^ 64 = 0 then resetSeed else S % 2 ^ 64
  (advance 128 stepMap (l * 2 ^ 55 + t) (BitVec.ofNat 64 seed)).toNat

/-- The hash of R121. -/
def keyedBits (K T e : Nat) : Nat :=
  let w := T % 4096 * 2 ^ 40 + e
  let z := BitVec.ofNat 64 (K + w * 0x9E3779B97F4A7C15)
  let z := (z ^^^ (z >>> 30)) * 0xBF58476D1CE4E5B9#64
  let z := (z ^^^ (z >>> 27)) * 0x94D049BB133111EB#64
  (z ^^^ (z >>> 31)).toNat

/-- The next free value: core cycles since the seed load, at which a pass or an item begins (log 4). -/
def drawCycle (s : State) : Nat × State := (Config.freeCycles s.free, { s with free := s.free + 1 })

/-- Bits of a 64-bit word for a drain lane and for a vector lane (R122). -/
def drainBits (x : Nat) : Nat := x % 65536
def vectorBits (x : Nat) : Nat := x / 2 ^ 48

/-! ### Statistics of converted elements -/

/-- A value is finite and not zero. -/
def finiteNonzero (y : Val) : Bool :=
  match y with
  | .num (.fin _ _ _) => true
  | .lg _ _ => true
  | _ => false

/-- One more of a count that sticks (R112). -/
def bump (n : Nat) : Nat × Bool := if n = max32 then (n, true) else (n + 1, false)

/-- The exponent bin of Table 5.8. -/
def expBin (histBase : Nat) (e : Int) : Nat := (max 0 (min 63 (e - signedN 8 histBase))).toNat

/-- One element joins the statistics. -/
def noteElem (histBase : Nat) (st : Stats) (y : Val) (b : Bin) : Stats :=
  let st := if finiteNonzero y then { st with maxAbs := max st.maxAbs (maxAbsOf y) } else st
  match b with
  | .zero =>
    let (n, o) := bump st.zero
    { st with zero := n, overflow := st.overflow || o }
  | .flushed =>
    let (n, o) := bump st.flushed
    { st with flushed := n, overflow := st.overflow || o }
  | .saturated =>
    let (n, o) := bump st.saturated
    { st with saturated := n, overflow := st.overflow || o }
  | .inf =>
    let (n, o) := bump st.inf
    { st with inf := n, overflow := st.overflow || o }
  | .nan =>
    let (n, o) := bump st.nan
    { st with nan := n, overflow := st.overflow || o }
  | .bin e =>
    let k := expBin histBase e
    let (n, o) := bump (sget 0 st.bins k)
    { st with bins := sset 0 st.bins k n, overflow := st.overflow || o }

/-- Two counts added (R112, R114). -/
def addCount (a b : Nat) : Nat × Bool := if max32 < a + b then (max32, true) else (a + b, false)

/-- Two statistics merged (R114); the code shown is that of the later drain. -/
def mergeStats (a b : Stats) : Stats :=
  let z := addCount a.zero b.zero
  let f := addCount a.flushed b.flushed
  let s := addCount a.saturated b.saturated
  let i := addCount a.inf b.inf
  let n := addCount a.nan b.nan
  let t := addCount a.tiles b.tiles
  let mo := addCount a.missOver b.missOver
  let mu := addCount a.missUnder b.missUnder
  let l := addCount a.lateTiles b.lateTiles
  let bs := (List.range 64).map (fun k => addCount (sget 0 a.bins k) (sget 0 b.bins k))
  { bins := (List.range 64).foldl (fun m k => sset 0 m k (bs.getD k (0, false)).1) []
    zero := z.1, flushed := f.1, saturated := s.1, inf := i.1, nan := n.1
    maxAbs := max a.maxAbs b.maxAbs
    accSat := a.accSat || b.accSat, accFlush := a.accFlush || b.accFlush
    accNonfinite := a.accNonfinite || b.accNonfinite
    overflow := a.overflow || b.overflow || z.2 || f.2 || s.2 || i.2 || n.2 || t.2 || mo.2 || mu.2 || l.2
      || bs.any (·.2)
    tiles := t.1, missOver := mo.1, missUnder := mu.1, lateTiles := l.1
    code := if b = Stats.empty then a.code else b.code
    codeValid := if b = Stats.empty then a.codeValid else b.codeValid }

/-- The statistics of a list of elements. -/
def statsOf (histBase : Nat) (l : List (Val × Bin)) : Stats :=
  l.foldl (fun st p => noteElem histBase st p.1 p.2) Stats.empty

/-- The record of Table 5.9, 320 bytes. -/
def recordBytes (slot outFmt histBase prop : Nat) (propValid : Bool) (st : Stats) : List Byte :=
  leBytes 4 (slot % 4096 + 2 ^ 12 * (outFmt % 16) + 2 ^ 16 * (histBase % 256) + 2 ^ 24 * b2n st.overflow
      + 2 ^ 25 * b2n st.accSat + 2 ^ 26 * b2n st.accFlush + 2 ^ 27 * b2n st.accNonfinite)
    ++ leBytes 4 st.maxAbs
    ++ leBytes 4 (st.code % 256 + 256 * (prop % 256) + 2 ^ 16 * b2n st.codeValid + 2 ^ 17 * b2n propValid)
    ++ leBytes 4 st.tiles ++ leBytes 4 st.missOver ++ leBytes 4 st.missUnder ++ leBytes 4 st.lateTiles ++ leBytes 4 0
    ++ (List.range 64).flatMap (fun k => leBytes 4 (sget 0 st.bins k))
    ++ leBytes 4 st.zero ++ leBytes 4 st.flushed ++ leBytes 4 st.saturated ++ leBytes 4 st.inf ++ leBytes 4 st.nan
    ++ List.replicate 12 0#8

/-- An Inf or NaN element was counted (R185). -/
def statsNonfinite (st : Stats) : Bool := decide (0 < st.inf + st.nan)

/-! ### Statistics slots (R113) -/

def partialRec (s : State) (t slot : Nat) : Stats := sget Stats.empty s.comp.partials (4096 * t + slot)

/-- Merge statistics into the partial record of tile `t`. -/
def mergePartial (t slot : Nat) (st : Stats) (s : State) : State :=
  modComp s (fun c => { c with partials := smod Stats.empty c.partials (4096 * t + slot) (fun a => mergeStats a st) })

/-- A drain or a counting VECOP names a slot: it must agree with the first since the last SCALE_COMMIT. -/
def slotAgrees (s : State) (slot outFmt histBase : Nat) : Bool :=
  let x := slotStat s slot
  !x.bound || (decide (x.outFmt = outFmt) && decide (x.histBase = histBase))

/-- Bind a slot to its first drain's format and histogram base. -/
def bindSlot (slot outFmt histBase : Nat) (s : State) : State :=
  let x := slotStat s slot
  if x.bound then s else setSlotStat s slot { x with bound := true, outFmt := outFmt, histBase := histBase }

/-- A drain into a slot, or a counting VECOP's results: checked against the slot's first since its last SCALE_COMMIT, which
this may be (R113). -/
def drainInto (slot outFmt histBase : Nat) : MM Unit := do
  let s ← mGet
  mGuard (!slotAgrees s slot outFmt histBase) .slot 0xC
  mMod (bindSlot slot outFmt histBase)

/-- The committed code of a slot that drains read: none when it is not valid, 0x00 or 0xFF (R107). -/
def committedCode (s : State) (slot : Nat) : Option Nat :=
  let x := slotStat s slot
  if x.codeValid ∧ x.code ≠ 0 ∧ x.code ≠ 0xFF then some x.code else none

/-! ### Scales of output groups -/

/-- The code that late mode gives a group (R108). -/
def lateCode (f : Fmt) (ys : List Val) : Nat :=
  match (ys.filter finiteNonzero).map (smallestScale f) with
  | [] => 0
  | n :: ns => (clampScale (ns.foldl max n) + 127).toNat

/-- The scale exponent of a written code; a group of code 0x00 converts with 0 (R108). -/
def codeExp (c : Nat) : Int := if c = 0 then 0 else (c : Int) - 127

/-- The elements of group `g` of vector `v` of a block, as places in row-major order. -/
def groupPlaces (axisRow : Bool) (glen v g : Nat) : List Nat :=
  (List.range glen).map (fun e => if axisRow then 64 * (g * glen + e) + v else 64 * v + g * glen + e)

/-- The vectors and groups of a block, in code order (R99); group length 32 or 64. -/
def blockGroups (glen : Nat) : List (Nat × Nat) :=
  (List.range 64).flatMap (fun v => (List.range (64 / glen)).map (fun g => (v, g)))

/-- Late codes of a block. -/
def lateCodes (f : Fmt) (axisRow : Bool) (glen : Nat) (ys : Array Val) : List Nat :=
  (blockGroups glen).map (fun p =>
    lateCode f ((groupPlaces axisRow glen p.1 p.2).map (fun n => ys.getD n (.num (.zero false)))))

/-- A code is a zero code of its format. -/
def isZeroCode (f : Fmt) (c : Nat) : Bool := c == zeroCode f false || c == zeroCode f true

/-- Delayed codes of a block: the committed code, or 0x00 where every output is a zero code (R107). -/
def delayedCodes (f : Fmt) (axisRow : Bool) (glen c : Nat) (out : Array Nat) : List Nat :=
  (blockGroups glen).map (fun p =>
    if (groupPlaces axisRow glen p.1 p.2).all (fun n => isZeroCode f (out.getD n 0)) then 0 else c)

/-- The scale exponent of each element of a block from its codes. -/
def exponents (axisRow : Bool) (glen : Nat) (codes : List Nat) : Array Int :=
  let cs := codes.toArray
  ((List.range 4096).map (fun n =>
    let (v, g) := vecGroup axisRow glen (n / 64) (n % 64)
    codeExp (cs.getD (codePlace glen v g) 0))).toArray

/-- Convert a block's elements, each with its exponent and random bits. -/
def convertBlock (f : Fmt) (strict : Bool) (ks : Nat → Int) (r : Nat → Option Nat) (ys : Array Val) :
    List (Nat × Bin) :=
  ys.toList.zipIdx.map (fun (y, n) => convert f (ks n) strict (r n) y)

/-- The over test of R117. -/
def missesOver (f : Fmt) (k : Int) (ys : Array Val) : Bool := ys.any (fun y => finiteNonzero y && beyond f k y)

/-- The under test of R117, on the tile's held maximum. -/
def missesUnder (f : Fmt) (k : Int) (u maxAbs : Nat) : Bool :=
  decide (0 < u) && decide (maxAbs ≠ 0) && belowLambda f (k - u) (.num (fp32Num maxAbs))

/-! ### A clove's counters (Table 17.10) -/

def countIn (p n : Nat) (s : State) : State := count (cloveBase p + 0x100) n s
def countAcc (p n : Nat) (s : State) : State := count (cloveBase p + 0x104) n s

/-- Vector flushes and overflows, and flushed inputs, of a computation. -/
def countVec (p : Nat) (c : VCount) (s : State) : State :=
  count (cloveBase p + 0x10C) c.ovf (count (cloveBase p + 0x108) c.flush (countIn p c.inFlush s))

/-- Outcomes of conversions that name no statistics slot. -/
def countConv (p : Nat) (l : List Bin) (s : State) : State :=
  let n (b : Bin) : Nat := l.countP (fun x => decide (x = b))
  count (cloveBase p + 0x11C) (n .nan) (count (cloveBase p + 0x118) (n .inf)
    (count (cloveBase p + 0x114) (n .saturated) (count (cloveBase p + 0x110) (n .flushed) s)))

/-- Run a counting computation on clove `p`. -/
def runVM {α : Type} (p : Nat) (w : VM α) (s : State) : α × State :=
  let (a, c) := w ⟨0, 0, 0⟩
  (a, countVec p c s)

/-- The same within a computation that may fail. -/
def mVM {α : Type} (p : Nat) (w : VM α) : MM α := fun s =>
  let (a, t) := runVM p w s
  (.ok a, t)

end Sys2Proof.Machine
end

