-- ==== Sys2Proof/Machine/Items.lean ====
section
/-! DEFINITION. Work items: cutting them into pod queues (R198, R199), hand-out and stealing (R199 to R201), contexts and the units that serve them (R203, R204), and the end of an operation (R78, R193). -/

namespace Sys2Proof.Machine

/-! ### Contexts -/

/-- Some enabled stream has priority 3 (R196). -/
def anyUrgent (s : State) : Bool :=
  s.host.streams.any (fun x => decide (x.2.state ≠ .disabled) && decide (prioOf s x.1 = 3))

/-- The context of clove `p` that an item of priority `prio` may take: the lowest free one, context 3 kept for
priority 3 when R196 says so; a clove in self-test takes none. -/
def freeCtx (s : State) (p prio : Nat) : Option Nat :=
  if (clove s p).bist.busy ∨ (s.comp.ucodeWait.contains (p / 76)) then none
  else (freeCtxs s p).find? (fun k => k != 3 || prio == 3 || !anyUrgent s)

/-- The context that a unit serves. -/
def servingOf (s : State) (p u : Nat) : Option Nat :=
  match sget 0 (clove s p).serving u with
  | 0 => none
  | k + 1 => some k

def setServing (p u : Nat) (k : Option Nat) (s : State) : State :=
  modClove s p (fun c => { c with serving := sset 0 c.serving u (match k with
    | some x => x + 1
    | none => 0) })

/-- The ready context of a unit of clove `p` that is served next (R204). -/
def nextReady (s : State) (p u : Nat) : Option Nat := nextReadyIn (clove s p) u

/-- A context is freed; the unit that served it takes the next ready one. -/
def freeContext (p k : Nat) (s : State) : State :=
  let u := unitOfItem (ctxOf s p k).item.kind
  let t := setCtx s p k Ctx.none
  if servingOf s p u = some k then setServing p u (nextReady t p u) t else t

/-! ### Tiles that an item needs (R77, R201, R212) -/

def tileFree (s : State) (p t : Nat) : Bool := decide ((tile s p t).state = .free)

/-- dY blocks whose dW an item forms: those of its chunk, less those that stand (R161, R165, R19). -/
def dwBlocks (r : Rec) (b : MatmulBody) (i : QItem) : List Nat :=
  let (o0, o1) := bwdBlocks r i.id.chunk
  if b.passThrough then [] else (List.range o1).filter (fun o => decide (o0 ≤ o) && !i.dwDone.contains o)

/-- The dW tile of block `o` of an item. -/
def dwTile (r : Rec) (b : MatmulBody) (i : QItem) (o : Nat) : Nat := b.dwTile + (o - (bwdBlocks r i.id.chunk).1)

/-- A tile holds an output of the pod and slot of an item, its chunk and its use. -/
def sameOutput (i : QItem) (u : TileUse) (t : Tile) : Bool :=
  t.stream == i.id.stream && t.item.home == i.home && t.item.slot == i.slot && t.item.id.chunk == i.id.chunk
    && decide (t.use = u)

/-- The tile of clove `p` in which a shared sequence of this item is open: the sequence's opener is an earlier
member (R79). -/
def sharedTile (s : State) (p : Nat) (r : Rec) (i : QItem) (u : TileUse) : Option Nat :=
  ((clove s p).tiles.find? (fun t => decide (t.2.state = .shared) && sameOutput i u t.2
    && (priorOf r i).contains t.2.item.id.seq)).map (·.1)

/-- An item of a MATMUL opens its tile, or its dX tiles: it is no later member of a shared sequence. -/
def opens (r : Rec) (b : MatmulBody) (i : QItem) : Bool := !b.shared || (priorOf r i).isEmpty

/-! ### Tiles that are FREE and kept (R87, R212) -/

/-- The clove at which a chunk's tile belongs: its member, or, when that position is empty, any clove of its pod. -/
def atHome (s : State) (p : Nat) (i : QItem) : Bool :=
  match seatOf s i with
  | .at_ c => c == p
  | _ => ((ringPos s p).map (·.1)) == some i.home

/-- The tile index that a chunk's sum takes in its member's store. -/
def namedTile (y : Tile) : Nat :=
  match y.use with
  | .dx t => y.item.tile + t % 4
  | _ => y.item.tile

/-- Tile `t` of clove `p` is kept for the sum of a chunk that is formed elsewhere, until it arrives (R87): tiles of a stolen
chunk that belong there, and the dX tiles of a stolen BWD_PAIR item. DEDUCED, see log 126. -/
def keptForSum (s : State) (p t : Nat) : List QItem :=
  ((allTiles s).filter (fun x => decide (1 < x.2.2.splitN) && !atHome s x.1 x.2.2.item
    && decide (seatOf s x.2.2.item = .at_ p) && namedTile x.2.2 == t)).map (·.2.2.item)
  ++ s.comp.cloves.flatMap (fun c => (c.2.ctx.filter (fun k => decide (k.2.item.kind = .bwd) && !atHome s c.1 k.2.item
    && decide (seatOf s k.2.item = .at_ p) && decide (k.2.item.tile ≤ t) && decide (t < k.2.item.tile + 4))).map (·.2.item))

/-- Items of clove `p` that took tile `t` at their hand-out and have not opened it: the dX tiles of a BWD_PAIR item (R161,
R212). -/
def keptForDx (s : State) (p t : Nat) : List QItem :=
  ((clove s p).ctx.filter (fun k =>
    match k.2.item.kind, findRec s k.2.item.id.stream k.2.item.id.seq with
    | .bwd, some r =>
      (matmulBody r).any (fun b => opens r b k.2.item && decide (b.accTile ≤ t) && decide (t < b.accTile + 4))
    | _, _ => false)).map (·.2.item)

/-- The stream of another item that holds tile `t` of clove `p` against item `i`: the tile is bound to it, or is kept for it. A
tile is not kept against an item that comes before the one whose sum belongs there. -/
def tileHolder (s : State) (p t : Nat) (i : QItem) : Option Nat :=
  if !tileFree s p t then some (tile s p t).stream
  else ((keptForDx s p t ++ (keptForSum s p t).filter (fun j => wasBefore s j i)).find? (fun j => j.id != i.id)).map
    (·.id.stream)

/-- Item `i` may take tile `t` of clove `p` (R77, R87, R212). -/
def tileFor (s : State) (p t : Nat) (i : QItem) : Bool := (tileHolder s p t i).isNone

/-- The first token block that a BWD_PAIR item forms. -/
def firstToken (i : QItem) (n : Nat) : Nat := ((List.range n).find? (fun t => !i.skip.contains t)).getD 0

/-- The tiles an item names are such that clove `p` can take it. -/
def tilesReady (s : State) (p : Nat) (r : Rec) (i : QItem) : Bool :=
  match matmulBody r with
  | none => true
  | some b =>
    match i.kind with
    | .shared => if opens r b i then tileFor s p i.tile i else (sharedTile s p r i .out).isSome
    | .bwd =>
      (dwBlocks r b i).all (fun o => tileFor s p (dwTile r b i o) i) &&
        (if opens r b i then (List.range 4).all (fun k => tileFor s p (b.accTile + k) i)
         else (sharedTile s p r i (.dx (firstToken i (tokenBlocks r)))).isSome)
    | _ => tileFor s p i.tile i

/-- The lowest-numbered FREE tile of a clove that an item may take. -/
def lowestFree (s : State) (p : Nat) (i : QItem) : Option Nat := (List.range 128).find? (fun t => tileFor s p t i)

/-- Where an item of pod `q` goes now: clove, context and tile index; none when it must wait (R199, R88). -/
def takerOf (s : State) (q : Nat) (i : QItem) : Option (Nat × Nat × Nat) :=
  match findRec s i.id.stream i.id.seq with
  | none => none
  | some r =>
    let take (p : Nat) : Option (Nat × Nat × Nat) :=
      match freeCtx s p i.prio with
      | some k => if tilesReady s p r i then some (p, k, i.tile) else none
      | none => none
    match runSeat s i with
    | .at_ c => take c
    | .joining => none
    | .empty =>
      if 1 < r.nSplit ∧ seatOf s i = .empty ∧ (i.kind = .chunk ∨ (i.kind = .shared ∧ priorOf r i = [])) then
        -- R88: the lowest occupied position that has a FREE tile
        match (podCloves s q).find? (fun p => (lowestFree s p i).isSome) with
        | some p =>
          match freeCtx s p i.prio, lowestFree s p i with
          | some k, some t => some (p, k, t)
          | _, _ => none
        | none => none
      else (podCloves s q).findSome? take

/-- A pod's queue in the order of hand-out: by priority, then by age. -/
def handOrder (s : State) (q : Nat) : List QItem :=
  (sget [] s.comp.podQueue q).mergeSort (fun a b => decide (b.prio ≤ a.prio))

/-- Take an item out of a pod's queue. -/
def unqueue (q : Nat) (i : QItem) (s : State) : State :=
  modComp s (fun c => { c with podQueue := smod [] c.podQueue q (fun l => l.filter (fun x => x.id != i.id)) })

/-! ### The end of an operation -/

/-- Dispatched members of the shared sequence of a descriptor, itself among them (R79). -/
def sharers (s : State) (i seq : Nat) : List Nat :=
  let mine := ((findRec s i seq).map allPrior).getD []
  ((stream s i).window.filter (fun r => decide (r.life = .running) &&
    (r.seq == seq || mine.contains r.seq || (allPrior r).contains seq))).map (·.seq)

/-- Drop the items and discard the tiles of a descriptor. -/
def dropWork (i seq : Nat) (s : State) : State :=
  let mine (j : QItem) : Bool := j.id.stream == i && j.id.seq == seq
  let held := s.comp.cloves.flatMap (fun c => (c.2.ctx.filter (fun k => mine k.2.item)).map (fun k => (c.1, k.1)))
  let t := held.foldl (fun u x => freeContext x.1 x.2 u) s
  let t := discardTiles (fun x => x.2.2.stream == i && (x.2.2.item.id.seq == seq || x.2.2.members.contains seq)) t
  tidyCloves (dropItems mine t)

/-- An operation stops on a failure: it completes with it, and with MEM_UE every other member of its shared sequence
that had added or waits to add (R78); their items and tiles go. -/
def stopOp (i seq : Nat) (f : Fail) (s : State) : State :=
  let all := sharers s i seq
  let t := match f with
    | .desc d off => completeErr i seq d off s
    | .ue k => completeUE i seq k s
  let t := all.foldl (fun u q => dropWork i q (completeUE i q 1 u)) (dropWork i seq t)
  refill (modStream t i (fun x => { x with shared := x.shared.filter (fun q => !q.members.any (all.contains ·)) }))

/-- Run an item's work; a failure stops its operation. -/
def runItem (i seq : Nat) (w : MM Unit) (s : State) : State :=
  match w s with
  | (.ok _, t) => t
  | (.error f, t) => stopOp i seq f t

/-- One item, tile or block of an operation is finished; the last completes it, and with a guard bit the non-finite results of a
VECOP or a SCAN set the flag of its step; a MATMUL's drains have set it (R185, R186). -/
def finishPart (i seq : Nat) (s : State) : State :=
  match findRec s i seq with
  | none => s
  | some r =>
    if r.life ≠ .running then s
    else if 1 < r.left then modRec i seq (fun x => { x with left := x.left - 1 }) s
    else
      let t := if r.flags.nonfinite ∧ (matmulBody r).isNone then guardFlag i seq s else s
      completeOK i seq (modRec i seq (fun x => { x with left := 0 }) t)

/-! ### Units and contexts (R203, R204) -/

/-- Give context `k` of clove `p` to an item; a unit that serves none serves it. -/
def giveCtx (p k : Nat) (i : QItem) (stolen : Bool) (s : State) : State :=
  let t := modComp s (fun c => { c with orderNo := c.orderNo + 1 })
  let t := setCtx t p k ⟨i, true, false, stolen, t.comp.orderNo, 0⟩
  let u := unitOfItem i.kind
  if (servingOf t p u).isNone then setServing p u (some k) t else t

/-- A unit meets a boundary with the contexts of `mask` ready: it keeps its context when that is ready and no
priority-3 context takes its place, else it turns to the next ready one (R196, R204). -/
def contextBoundary (p u mask : Nat) (s : State) : State :=
  let t := modClove s p (fun c => { c with ctx := c.ctx.map (fun x => (x.1, { x.2 with ready := bitAt mask x.1 })) })
  let cur := servingOf t p u
  let nxt := nextReady t p u
  let keep := match cur with
    | some k => (ctxOf t p k).ready && !(match nxt with
      | some n => decide ((ctxOf t p n).item.prio = 3) && decide ((ctxOf t p k).item.prio < 3)
      | none => false)
    | none => false
  if keep then t
  else
    let w := setServing p u nxt t
    match cur, nxt with
    | some a, some b => if a = b then w else count (cloveBase p + 0x130) 1 w
    | _, _ => w

def execContextSwitch (p u mask : Nat) (s : State) : Host.Outcome State Fault Refusal :=
  onUnit (decide (p < 1216) && decide (u < 3)) (contextBoundary p u mask s)

end Sys2Proof.Machine
end

