-- ==== Sys2Proof/Machine/Matmul.lean ====
section
/-! DEFINITION. MATMUL of every kind: its checks and dispatch (R62, R81, R83, R158 to R166, R255, R441), the opening of tiles (R77, R81, R82), products (R52 to R66), shared sequences (R79, R80), combines (R84 to R88), and the commands of its work items. -/

namespace Sys2Proof.Machine

/-! ### Reading a MATMUL -/

/-- The drain reads a saved tensor (R148). -/
def fusedBack (b : MatmulBody) : Bool := b.fn != 0 && b.fnDir

/-- The entries a MATMUL names: a, b, out, aux, saved (R255). -/
def matmulEntries (g : Nat) (b : MatmulBody) : MM (List (Option TEntry)) := do
  let pair := b.kind == 1
  let need (c : Bool) (h off : Nat) : MM (Option TEntry) :=
    if c then do
      let e ← needTE g h off
      pure (some e)
    else pure none
  let a ← need true b.a 0x10
  let w ← need true b.b 0x10
  let o ← need (closes b) b.out 0x14
  let x ← need (if pair then !b.passThrough else decide (2 ≤ b.preload)) b.aux 0x14
  let s ← need ((pair && !b.passThrough) || (closes b && fusedBack b)) b.saved 0x18
  pure [a, w, o, x, s]

def teAt (l : List (Option TEntry)) (k : Nat) : TEntry := ((l[k]?).join).getD default

/-- Outputs of a MATMUL in rows, reduction and columns: `M`, `K`, `N` (R441). -/
def matmulDims (b : MatmulBody) (l : List (Option TEntry)) : Nat × Nat × Nat :=
  let a := teAt l 0
  let w := teAt l 1
  if b.kind = 1 then (a.rows, a.cols, w.rows)
  else (if b.transA then a.cols else a.rows, if b.transA then a.rows else a.cols, if b.transB then w.rows else w.cols)

/-- Groups along the reduction (R52); for a BWD_PAIR, blocks of dY (R161). -/
def matmulGroups (b : MatmulBody) (l : List (Option TEntry)) : Nat :=
  let k := (matmulDims b l).2.1
  if b.kind = 1 then (k + 63) / 64 else (k + glenOf b.glen - 1) / glenOf b.glen

/-- The lane row of a tile of operand `A` is a stored row unless the operand is read transposed; `B` the other way. -/
def portA (b : MatmulBody) (e : TEntry) : Port64 := ⟨e, !b.transA, b.fileA, b.elemA⟩
def portB (b : MatmulBody) (e : TEntry) : Port64 := ⟨e, b.transB, b.fileB, b.elemB⟩

/-- FILE groups of `n` block-steps: groups run on from one block-step of an item to the next (R52, R98). -/
def stepGroups (glen n : Nat) : Nat := (64 * n + glen - 1) / glen

/-- Groups that a FILE source of an operand sees within a work item (R98). -/
def fileGroups (b : MatmulBody) (l : List (Option TEntry)) : Nat :=
  let n := max 1 b.splitN
  let g := matmulGroups b l
  let most := ((List.range n).map (fun c => chunkStart g n (c + 1) - chunkStart g n c)).foldl max 0
  if b.kind = 1 then stepGroups (glenOf b.glen) most else most

/-- The same for operand A: dY of a BWD_PAIR is also read along its tokens, by the dW steps (R160, R164). -/
def fileGroupsA (b : MatmulBody) (l : List (Option TEntry)) : Nat :=
  if b.kind = 1 ∧ !b.passThrough then max (fileGroups b l) (stepGroups (glenOf b.glen) (rowBlocks (teAt l 0)))
  else fileGroups b l

/-- ELEMENT and the source of an operand, its group length and its file reach (R98, R159, R255). -/
def checkOperand (b : MatmulBody) (e : TEntry) (elem : Bool) (base groups off : Nat) : MM Unit := do
  mGuard (elem && (decide (e.ssrc ≠ 1) || !fmtScaled (eFmt e))) .scale 0x20
  mGuard (decide (e.ssrc ≠ 0) && decide (e.glen ≠ b.glen)) .format 0x20
  mGuard (decide (2 ≤ e.ssrc) && decide (4095 < base + (if e.ssrc = 2 then 64 * (groups - 1) + 63 else groups - 1)))
    .scale off

/-- Formats of a saved tensor of a drain (R148). -/
def savedOk (f : Fmt) : Bool := fmtActivation f

/-- Formats of a preload source (Table 4.4). -/
def preloadOk (f : Fmt) : Bool :=
  match f with
  | .fp32 => true
  | .bf16 => true
  | .fp16 => true
  | .lg16 => true
  | _ => false

/-- Formats of dY (R163). -/
def gradOk (f : Fmt) : Bool :=
  match f with
  | .e5m2 => true
  | .lg8 => true
  | .lg16 => true
  | .bf16 => true
  | _ => false

/-- R144: a function code a drain or a VECOP takes, with its slope. -/
def checkFn (fn α off αoff : Nat) : MM Unit := do
  mGuard (!fnListed fn) .opcode off
  mGuard (!alphaOk fn α) .range αoff

/-- The checks of the fields alone. A row_base is checked only where the row-scale bank is named: DESIGN CHOICE, see log 142 (R103). -/
def checkMatmulFields (b : MatmulBody) : MM Unit := do
  mGuard (decide (b.kind = 3) || decide (b.glen = 3)) .opcode 0x20
  mGuard (decide (b.kind = 1) && decide (b.dir ≠ 1)) .format 0x20
  mGuard (decide (b.kind = 1) && decide (2 ≤ b.preload)) .opcode 0x20
  mGuard (!b.shared && decide (b.preload = 0)) .tile 0x20
  mGuard (decide (b.splitN = 0) || decide (12 < b.splitN) || decide (11 < b.start)) .tile 0x1C
  if closes b then
    checkFn b.fn b.alpha 0x2C 0x30
    mGuard (b.rowSrc && decide (4032 < b.rowBase)) .range 0x28

/-- A tensor that a MATMUL or its drain reads: it is Z-blocked (chapter 7, R156). DEDUCED, see log 99. -/
def checkBlockedIn (e : TEntry) (role : Fmt → Bool) (off : Nat) : MM Unit := do
  mGuard e.timeMajor .format off
  checkIn e role off

/-- A tensor that a drain writes: it is Z-blocked (chapter 7, R156). DEDUCED, see log 99. -/
def checkBlockedOut (e : TEntry) (strict : Bool) (off : Nat) : MM Unit := do
  mGuard e.timeMajor .format off
  checkOut e strict off

/-- Formats, sources, alignment, ranges and shapes of the operands (R26, R66, R163, R441). -/
def checkMatmulOperands (b : MatmulBody) (l : List (Option TEntry)) : MM Unit := do
  let a := teAt l 0
  let w := teAt l 1
  let (m, k, n) := matmulDims b l
  match b.kind with
  | 1 => checkBlockedIn a gradOk 0x10
  | 2 => checkBlockedIn a fmtActivation 0x10
  | _ => checkBlockedIn a fmtWeight 0x10
  checkBlockedIn w (if b.kind = 2 then (· == .int4t) else fmtWeight) 0x10
  mGuard (!passPermitted b.pass (eFmt a) (eFmt w) (b.kind = 2)) .pass 0x20
  if b.kind = 1 then
    mGuard (decide (w.cols ≠ k)) .range 0x10
    if !b.passThrough then
      let x := teAt l 4
      checkBlockedIn x fmtActivation 0x18
      checkShape x m n 0x18
      mGuard (decide (x.ssrc ≠ 0) && decide (x.glen ≠ b.glen)) .format 0x20
      mGuard (!passPermitted b.pass (eFmt x) (eFmt a) false) .pass 0x20
      -- no field gives X a scale file base: DESIGN CHOICE, see log 110
      mGuard (decide (2 ≤ x.ssrc)) .scale 0x18
      let d := teAt l 3
      mGuard (decide (fmtOf d.fmt ≠ some .fp32)) .format 0x14
      checkBlockedOut d false 0x14
      checkShape d n k 0x14
  else
    mGuard (decide ((if b.transB then w.cols else w.rows) ≠ k)) .range 0x10
    if 2 ≤ b.preload then
      let x := teAt l 3
      checkBlockedIn x preloadOk 0x14
      checkShape x (if b.preload = 2 then 1 else m) n 0x14
  checkOperand b a b.elemA b.fileA (fileGroupsA b l) 0x24
  checkOperand b w b.elemB b.fileB (fileGroups b l) 0x24

/-- The checks of the drain (R43, R103, R106, R113, R121, R148). -/
def checkMatmulDrain (h : Header) (b : MatmulBody) (l : List (Option TEntry)) : MM Unit := do
  let o := teAt l 2
  let (m, _, n) := matmulDims b l
  checkBlockedOut o b.outMode 0x14
  checkShape o m n 0x14
  mGuard (b.rounding && b.rngMode && decide (2 ^ 40 < o.rows * o.cols)) .range 0x28
  if fusedBack b then
    let x := teAt l 4
    checkBlockedIn x savedOk 0x18
    mGuard (decide (2 ≤ x.ssrc)) .scale 0x18
    checkShape x m n 0x18
  let s ← mGet
  mGuard (!slotAgrees s h.tensorId o.fmt b.histBase) .slot 0xC

/-- Pods that get an item of `n`. -/
def podsUsed (s : State) (g n : Nat) : List Nat := (groupPods s g).take n

/-- Occupied positions of a pod (R83). A position whose spare is joining counts as occupied: DEDUCED, see log 109. -/
def occupied (s : State) (q : Nat) : Nat := (List.range 12).countP (fun k => decide (seatAt s q k ≠ .empty))

/-- Splitting and tile ranges (R83, R161). -/
def checkMatmulTiles (h : Header) (b : MatmulBody) (l : List (Option TEntry)) (items : Nat) : MM Unit := do
  let s ← mGet
  mGuard (decide (matmulGroups b l < b.splitN)
    || (podsUsed s h.group items).any (fun q => decide (occupied s q < b.splitN))) .tile 0x1C
  if b.kind = 1 then
    let g := matmulGroups b l
    let w := ((List.range b.splitN).map (fun c => chunkStart g b.splitN (c + 1) - chunkStart g b.splitN c)).foldl max 0
    mGuard (decide (124 < b.accTile)) .tile 0x1C
    mGuard (decide (60 < w)) .tile 0x1C
    mGuard (!b.passThrough && (decide (128 < b.dwTile + w)
      || (decide (b.dwTile < b.accTile + 4) && decide (b.accTile < b.dwTile + w)))) .tile 0x1C

/-- A MATMUL that names its weight's version: with wcheck, and every BWD_PAIR (R175, R180). -/
def checksVersions (b : MatmulBody) : Bool := b.wcheck || b.kind == 1

/-- The version bytes of the weight blocks that an item reads, as it reads them (R180). -/
def checkBlocksRead (p : Nat) (b : MatmulBody) (l : List (Option TEntry)) (bs : List (Nat × Nat)) : MM Unit :=
  if checksVersions b then checkVersions (teAt l 1) b.version (reqClove p) 0x1C bs else pure ()

/-- Weight versions, as a MATMUL is dispatched (R175, R180). -/
def checkMatmulWeight (h : Header) (b : MatmulBody) (l : List (Option TEntry)) : MM Unit := do
  let s ← mGet
  mGuard (checksVersions b && !(weight s b.weightId).registered) .version 0x18
  if checksVersions b then
    let w := teAt l 1
    checkVersions w b.version (reqSeq (seqTile s h.group)) 0x1C
      ((List.range (rowBlocks w)).flatMap (fun r => (List.range (colBlocks w)).map (fun c => (r, c))))

/-- The pods of a group that `n` outputs use, and how many outputs each holds (R198). -/
def outsOf (s : State) (g n : Nat) : List (Nat × Nat) :=
  let ps := groupPods s g
  (podsUsed s g n).zipIdx.map (fun x => (x.1, (n + ps.length - 1 - x.2) / ps.length))

/-- The open shared sequences of a stream on the tiles of index `t` that hold the first outputs of some pods (R79). -/
def openSeqs (s : State) (i t : Nat) (os : List (Nat × Nat)) : List SharedSeq :=
  (stream s i).shared.filter (fun q => q.tile == t && os.any (fun o => o.1 == q.pod && decide (q.lo < o.2)))

/-- Outputs among those of `os` on which a sequence is open. -/
def openOuts (os : List (Nat × Nat)) (qs : List SharedSeq) : Nat :=
  (os.map (fun o => ((qs.filter (fun q => q.pod == o.1)).map (fun q => min q.hi o.2 - q.lo)).sum)).sum

/-- A shared member and the entry of its tile (R79, R91): a tile that an opener issued before has not opened yet counts as
open. DEDUCED, see log 111. -/
def checkShared (i g n : Nat) (b : MatmulBody) : MM Unit := do
  let s ← mGet
  if b.shared then
    let os := outsOf s g n
    let qs := openSeqs s i b.accTile os
    mGuard (if b.preload = 0 then decide (openOuts os qs < (os.map (·.2)).sum) else !qs.isEmpty) .tile 0x20
    mGuard (qs.any (fun q => decide (q.splitN ≠ b.splitN) || decide (q.start ≠ b.start))) .tile 0x1C
    mGuard (qs.any (fun q => q.order != b.order)) .tile 0x20
    mGuard (qs.any (fun q => decide (q.pass ≠ b.pass))) .pass 0x20

/-- A shared member joins the sequences of its tiles, or opens them; the close mark ends them there. Outputs beyond its own stay
as they are. -/
def joinShared (i seq g n : Nat) (b : MatmulBody) (s : State) : State :=
  if !b.shared then s
  else
    let os := outsOf s g n
    let qs := openSeqs s i b.accTile os
    let mine : List SharedSeq :=
      if b.preload = 0 then
        qs.map (fun q => { q with hi := min q.hi (((os.find? (fun (o : Nat × Nat) => o.1 == q.pod)).map Prod.snd).getD 0) })
      else os.map (fun o => ⟨b.accTile, o.1, 0, o.2, b.pass, b.splitN, b.start, b.order, []⟩)
    let beyond := (qs.zip mine).filterMap (fun x => if x.2.hi < x.1.hi then some { x.1 with lo := x.2.hi } else none)
    let t := modRec i seq (fun r => { r with
      prior := (mine.filter (fun q => !q.members.isEmpty)).map (fun q => ⟨q.pod, q.lo, q.hi, q.members⟩) }) s
    modStream t i (fun x => { x with
      shared := x.shared.filter (fun q => !qs.contains q) ++ beyond
        ++ (if b.close then [] else mine.map (fun q => { q with members := q.members ++ [seq] })) })

/-- Start a descriptor's items: `n` outputs of `k` chunks, `left` parts to finish; none at all completes it. The
committed code its drains will read is the one in force now, when it is dispatched (R107). DEDUCED, see log 96. -/
def startItems (i seq g n k left : Nat) (l : List (Option TEntry)) (s : State) : State :=
  let t := modComp s (fun c => { c with orderNo := c.orderNo + 1 })
  let ps := groupPods t g
  let t := modRec i seq (fun r => { r with
    life := .running, tes := l, nItems := n, nSplit := k, left := left, parts := left, pods := ps, cuts := ps.map (fun _ => 0)
    order := t.comp.orderNo, code := committedCode t r.hdr.tensorId }) t
  if left = 0 then completeOK i seq t else cutRec i seq true t

/-- Blocks of rows and columns of a MATMUL's output tiles. -/
def matmulBlocks (b : MatmulBody) (l : List (Option TEntry)) : Nat × Nat :=
  let (m, _, n) := matmulDims b l
  ((m + 63) / 64, (n + 63) / 64)

/-- Work items of a MATMUL: output tiles in row order; for a BWD_PAIR, block columns of dX (R160, R198). -/
def matmulItems (b : MatmulBody) (l : List (Option TEntry)) : Nat :=
  let (m, n) := matmulBlocks b l
  if b.kind = 1 then n else m * n

/-- Parts whose finish completes a MATMUL: drains, or the additions of a member that does not close. -/
def matmulParts (b : MatmulBody) (l : List (Option TEntry)) : Nat :=
  let (m, n) := matmulBlocks b l
  if b.kind = 1 then
    (if closes b then m * n else m * n * b.splitN)
      + (if b.passThrough then 0 else n * matmulGroups b l)
  else if closes b then m * n
  else m * n * b.splitN

/-- Dispatch a MATMUL. One that will drain binds its slot now, though it may be aborted before it does: DESIGN CHOICE, see log 127
(R113). -/
def dispatchMatmul (i seq : Nat) (h : Header) (b : MatmulBody) : MM Unit := do
  checkMatmulFields b
  let l ← matmulEntries h.group b
  checkMatmulOperands b l
  if closes b then checkMatmulDrain h b l
  checkMatmulTiles h b l (matmulItems b l)
  checkShared i h.group (matmulItems b l) b
  checkMatmulWeight h b l
  mMod (fun s =>
    let t := if closes b then bindSlot h.tensorId (teAt l 2).fmt b.histBase s else s
    startItems i seq h.group (matmulItems b l) b.splitN (matmulParts b l) l
      (joinShared i seq h.group (matmulItems b l) b t))

/-! ### Opening a tile -/

/-- Row and column block of item `n`. -/
def itemBlock (b : MatmulBody) (l : List (Option TEntry)) (n : Nat) : Nat × Nat :=
  let c := max 1 (matmulBlocks b l).2
  (n / c, n % c)

/-- Preload words of an output tile's chunk 0 (R81, R82), their conversions counted on the clove. -/
def preloadWords (p : Nat) (b : MatmulBody) (l : List (Option TEntry)) (n chunk : Nat) : MM (List Nat) := do
  if b.preload < 2 ∨ chunk ≠ 0 ∨ b.kind = 1 then pure (List.replicate 4096 0)
  else
    let x := teAt l 3
    let (br, bc) := itemBlock b l n
    let v ← readBlock x (if b.preload = 2 then 0 else br) bc (reqClove p)
    let codes := if b.preload = 2 then v.toList.take 64 else v.toList
    let f := eFmt x
    let ws := codes.map (fun c => convert .fp32 0 false none (decodeElem f c (.pow 0)))
    mMod (fun s => countConv p (ws.map (·.2)) (countIn p (codes.countP (isSubnormal f)) s))
    let w := ws.map (·.1)
    pure (if b.preload = 2 then (List.replicate 64 w).flatten else w)

/-- A word is an infinity or a NaN (R73, R82). -/
def wordSpecial (w : Nat) : Bool := (fp32Num w).special

/-- Write whole words of tile `t`: faults there clear, and an armed injection is made (R330, R346). -/
def preloadFaults (p t : Nat) (s : State) : State :=
  let u := 0x800 + p
  let lo := 16384 * t
  let v := sget 0 s.mem.inj (injKey u)
  let old := (faultsOf s.mem u (fun a => decide (lo ≤ a) && decide (a < lo + 16384))).map (·.1)
  let at_ := v / 2 ^ 32 / 4 * 4
  let hit := if bitAt v 0 ∧ lo ≤ at_ ∧ at_ < lo + 16384 then [at_] else []
  ((old ++ hit).dedup).foldl (writeUnit u) s

/-- An empty position lies in the span of a split reduction (R86); one whose spare is joining is not empty (R21). -/
def spanEmpty (s : State) (q start n : Nat) : Bool :=
  (List.range n).any (fun c => decide (seatAt s q ((start + c) % 12) = .empty))

/-- Open tile `t` of clove `p` for an item (R75, R77, R86). -/
def openTile (p t : Nat) (r : Rec) (b : MatmulBody) (i : QItem) (u : TileUse) (words : List Nat) (s : State) : State :=
  let dx := decide (i.kind = .bwd) && decide (u ≠ .out)
  let shared := b.shared && (match u with
    | .dw _ => false
    | _ => true)
  let split := match u with
    | .dw _ => 1
    | _ => max 1 r.nSplit
  setTile (preloadFaults p t s) p t
    { state := if shared then .shared else .open_, stream := i.id.stream, owner := i.id.seq, pass := b.pass
      splitN := split, chunk := if split = 1 then 0 else i.id.chunk
      order := decide (1 < split) && (b.order || r.tree || spanEmpty s i.home b.start split)
      shared := shared, sat := false, flush := false, nonfinite := words.any wordSpecial, words := words
      item := if dx then { i with skip := [], dwDone := [] } else i, out := i.id.n, use := u
      lo := if split = 1 then 0 else i.id.chunk, hi := if split = 1 then 0 else i.id.chunk, members := [] }

/-- Take an item to context `k` of clove `p`, with its tiles (R199, R201, R212). -/
def handOut (q : Nat) (i : QItem) (p k t : Nat) (stolen : Bool) (s : State) : State :=
  let w := giveCtx p k i stolen (unqueue q i s)
  match findRec w i.id.stream i.id.seq with
  | none => w
  | some r =>
    match matmulBody r with
    | none => w
    | some b =>
      runItem i.id.stream i.id.seq (match i.kind with
        | .bwd => mMod (fun x => (dwBlocks r b i).foldl (fun y o =>
            openTile p (dwTile r b i o) r b i (.dw o) (List.replicate 4096 0) y) x)
        | _ =>
          if i.kind = .shared ∧ !opens r b i then pure ()
          else do
            let ws ← preloadWords p b r.tes i.id.n i.id.chunk
            mMod (openTile p t r b i .out ws)) w

/-- A pod hands out the first item that can be taken (R199). -/
def podHandOut (q : Nat) (s : State) : State :=
  match (handOrder s q).findSome? (fun i => (takerOf s q i).map (fun x => (i, x))) with
  | some (i, p, k, t) => refill (handOut q i p k t false s)
  | none => s

def execItemHandout (q : Nat) (s : State) : Host.Outcome State Fault Refusal :=
  onUnit (decide (q < 96)) (settle s (podHandOut q s))

/-- Tiles that an item names: those it may wait for. -/
def namesTile (s : State) (i : QItem) (t : Nat) : Bool :=
  match (findRec s i.id.stream i.id.seq) with
  | none => false
  | some r =>
    match matmulBody r with
    | none => false
    | some b =>
      match i.kind with
      | .bwd => (dwBlocks r b i).any (fun o => dwTile r b i o == t) || (decide (b.accTile ≤ t) && decide (t < b.accTile + 4))
      | _ => i.tile == t

/-- The oldest waiting item that names a tile which is FREE takes it (R77). -/
def openWaiting (p t : Nat) (s : State) : State :=
  match ringPos s p with
  | none => s
  | some (q, _) =>
    if !tileFree s p t then s
    else
      match (handOrder s q).findSome? (fun i =>
        if namesTile s i t then
          match takerOf s q i with
          | some (c, k, u) => if c = p then some (i, k, u) else none
          | none => none
        else none) with
      | some (i, k, u) => refill (handOut q i p k u false s)
      | none => s

def execTileWaitOpen (p t : Nat) (s : State) : Host.Outcome State Fault Refusal :=
  onUnit (decide (p < 1216) && decide (t < 128)) (settle s (openWaiting p t s))

/-! ### Stealing (R200, R201) -/

/-- Table 8.2; an item that was re-issued on a spare stays there (R19, log 23). -/
def stealable (i : QItem) : Bool :=
  i.on.isNone && match i.kind with
  | .tile => true
  | .chunk => true
  | .bwd => true
  | .vecop => true
  | .scan => true
  | .shared => false
  | .fold => false

/-- The clove, of pod `q`, that takes a stolen item, and its context. -/
def thiefOf (s : State) (q : Nat) (i : QItem) : Option (Nat × Nat) :=
  match findRec s i.id.stream i.id.seq with
  | none => none
  | some r =>
    (podCloves s q).findSome? (fun p =>
      match freeCtx s p i.prio with
      | some k => if tilesReady s p r i then some (p, k) else none
      | none => none)

/-- An item that a pod may steal: no member of a shared sequence is (R201). -/
def mayBeStolen (s : State) (i : QItem) : Bool :=
  stealable i && ((findRec s i.id.stream i.id.seq).bind matmulBody).all (fun b => !b.shared)

/-- The item that pod `q` would steal: the newest stealable one of the first queue that holds two or more (R200). -/
def stealTarget (s : State) (q : Nat) : Option (Nat × QItem) :=
  (([1, 5, 2, 4, 3].map (fun d => q / 6 * 6 + (q % 6 + d) % 6)).find? (fun v =>
    decide (2 ≤ (sget [] s.comp.podQueue v).length))).bind (fun v =>
      ((sget [] s.comp.podQueue v).reverse.find? (mayBeStolen s)).map (fun i => (v, i)))

/-- A pod steals. -/
def podSteal (q : Nat) (s : State) : State :=
  if (handOrder s q).any (fun i => (takerOf s q i).isSome) then s
  else
    match (stealTarget s q).bind (fun x => (thiefOf s q x.2).map (fun y => (x.1, x.2, y))) with
    | some (v, i, p, k) =>
      refill (count (tileBase (q / 6) + 0x20C) 1 (handOut v i p k i.tile true s))
    | none => s

def execWorkSteal (q : Nat) (s : State) : Host.Outcome State Fault Refusal :=
  onUnit (decide (q < 96)) (settle s (podSteal q s))

/-! ### Products -/

/-- Group-steps that are skipped (R65, R202): one slice all zero, the other free of infinities and NaNs. An element counts as
zero when its value is: DEDUCED, see log 106. -/
def skipSteps (g : Nat) (a b : Lanes) : Nat :=
  let zero (l : List (List Elem)) : List Bool :=
    ((l.map (fun x => (groupsOf g x.length x).map (fun y => y.all (fun e => match e.num with
      | .zero _ => true
      | _ => false)))).foldl (fun acc x => match acc with
        | none => some x
        | some z => some (List.zipWith (· && ·) z x)) none).getD []
  let plain (l : List (List Elem)) : List Bool :=
    ((l.map (fun x => (groupsOf g x.length x).map (fun y => y.all (fun e => !e.num.special)))).foldl
      (fun acc x => match acc with
        | none => some x
        | some z => some (List.zipWith (· && ·) z x)) none).getD []
  let za := zero a.elems
  let zb := zero b.elems
  let pa := plain a.elems
  let pb := plain b.elems
  ((List.zipWith (· && ·) za pb).zip (List.zipWith (· && ·) zb pa)).countP (fun x => x.1 || x.2)

/-- Entries of product tables that are flushed as the table builder forms them: for each element of A, the table of each
lane's weight group (R66; log 107). -/
def productTableFlushes (g : Nat) (a b : Lanes) : Nat :=
  (b.tables.map (fun groups => (a.elems.map (fun row =>
    ((groupsOf g row.length row).zip groups).foldl (fun n x =>
      n + (x.1.map (fun e => tableFlushes x.2 e.num)).sum) 0)).sum)).sum

/-- The group values of 64 × 64 lanes, added in turn to the words of a tile. -/
def addProducts (mode : ArrayMode) (g : Nat) (a b : Lanes) (words : List Nat) : TileSum :=
  let w := words.toArray
  let bs := (b.elems.zip b.sigmas).toArray
  tileOf ((a.elems.zip a.sigmas).zipIdx.flatMap (fun (x, i) =>
    (List.range 64).map (fun j =>
      let y := bs.getD j ([], [])
      laneSum (w.getD (64 * i + j) 0) (laneGroups mode g x.1 y.1 (List.zipWith Num.mul x.2 y.2)))))

/-- A tile takes a sum: its words, its flags, and the flushes counted on its clove (R72, R95). -/
def takeSum (p t : Nat) (x : TileSum) (s : State) : State :=
  let y := tile s p t
  setTile (preloadFaults p t (countAcc p x.flushes s)) p t { y with
    words := x.words, sat := y.sat || x.sat, flush := y.flush || x.flush, nonfinite := y.nonfinite || x.nonfinite }

/-- Descriptors that an error in a tile's words fails: those that had added, and the members of their sequence. One that only
waits for the tile to become FREE opens it anew and stands: DEDUCED, see log 112. -/
def tileOwners (s : State) (y : Tile) : List (Nat × Nat) :=
  (((y.item.id.seq :: y.owner :: y.members).flatMap (fun q => q :: sharers s y.stream q)).dedup).map (fun q => (y.stream, q))

/-- A tile's words are read: corrected errors are counted; with an uncorrectable one the tile is discarded and its
operations complete with MEM_UE (R78, R329). The state, and whether the values stand. -/
def readTile (p t : Nat) (s : State) : State × Bool :=
  let u := 0x800 + p
  let l := faultsOf s.mem u (fun a => decide (16384 * t ≤ a) && decide (a < 16384 * t + 16384))
  let w := l.foldl (readFault u (reqClove p)) s
  if l.any (fun f => decide (f.2 ≠ .single)) then
    let v := (tileOwners s (tile s p t)).foldl (fun x o => stopOp o.1 o.2 (.ue 1) x) w
    (discardTile v p t, false)
  else (w, true)

/-- Where the operand of a block-step counts its FILE groups from (R98): the item's first block, `steps` block-steps
before. -/
def shiftFile (o : Port64) (glen steps : Nat) : Port64 :=
  let g := 64 * steps / glen
  { o with base := o.base + (if o.e.ssrc = 2 then 64 * g else g) }

/-- Products of one reduction range of one tile: its lanes' blocks, its steps, added to tile `t` of clove `p`. -/
def productsInto (p t : Nat) (mode : ArrayMode) (g : Nat) (oa ob : Port64) (la lb k0 k1 : Nat) : MM Unit := do
  let a ← loadLanes p oa g la k0 k1 (reqClove p)
  let b ← loadLanes p ob g lb k0 k1 (reqClove p)
  mMod (fun s =>
    let formed := if mode = .table then productTableFlushes g a b else 0
    let w := timer (cloveBase p + 0x238) (skipSteps g a b) (countIn p (a.flushed + b.flushed + formed) s)
    takeSum p t (addProducts mode g a b (tile w p t).words) w)

/-- The reduction range of chunk `c`. -/
def chunkRange (b : MatmulBody) (l : List (Option TEntry)) (c : Nat) : Nat × Nat :=
  let g := matmulGroups b l
  let n := max 1 b.splitN
  let k := (matmulDims b l).2.1
  (chunkStart g n c * glenOf b.glen, min k (chunkStart g n (c + 1) * glenOf b.glen))

/-- The products of an item of kind STANDARD or PRODUCT_TABLE. -/
def itemProducts (p t : Nat) (b : MatmulBody) (l : List (Option TEntry)) (i : QItem) : MM Unit := do
  let (br, bc) := itemBlock b l i.id.n
  let (k0, k1) := chunkRange b l i.id.chunk
  let a := teAt l 0
  let w := teAt l 1
  checkBlocksRead p b l ((List.range ((k1 + 63) / 64)).filterMap (fun k =>
    if k < k0 / 64 then none else some (if b.transB then (bc, k) else (k, bc))))
  productsInto p t (arrayMode b.pass (eFmt a) (eFmt w) (b.kind = 2)) (glenOf b.glen) (portA b a) (portB b w) br bc k0 k1

/-! ### Tiles that are complete -/

/-- A tile has its last value: COMBINING when its reduction is split, else CLOSING (R76). -/
def closeTile (p t : Nat) (s : State) : State :=
  let y := tile s p t
  if 1 < y.splitN then setTile s p t { y with state := .combining }
  else modClove (setTile s p t { y with state := .closing }) p (fun c => { c with closing := c.closing ++ [t] })

/-- The tile of clove `p` that an item adds to. -/
def itemTile (s : State) (p : Nat) (r : Rec) (i : QItem) (u : TileUse) : Option Nat :=
  ((clove s p).tiles.find? (fun t => (decide (t.2.state = .open_) || decide (t.2.state = .shared))
    && sameOutput i u t.2 && (t.2.item.id.seq == i.id.seq || (priorOf r i).contains t.2.item.id.seq))).map (·.1)

/-- Every earlier member of its sequence has added to the tile (R80). -/
def priorIn (r : Rec) (i : QItem) (y : Tile) : Bool := (priorOf r i).all (y.members.contains ·)

/-- A member, or an ordinary operation, has added its last value to tile `t`. -/
def added (p t : Nat) (r : Rec) (b : MatmulBody) (i : QItem) (s : State) : State :=
  let y := tile s p t
  let w := setTile s p t { y with owner := i.id.seq, out := i.id.n, members := if b.shared then y.members ++ [i.id.seq] else y.members }
  if closes b then closeTile p t w
  else finishPart i.id.stream r.seq w

/-- Add the values of an item of kind STANDARD or PRODUCT_TABLE, whose turn it is, and free its context. -/
def addItem (p k t : Nat) (r : Rec) (b : MatmulBody) (i : QItem) (s : State) : State :=
  let (w, ok) := readTile p t s
  if !ok then w
  else
    runItem i.id.stream r.seq (do
      itemProducts p t b r.tes i
      mMod (fun x => added p t r b i (freeContext p k x))) w

/-! ### BWD_PAIR (R160 to R166) -/

/-- Products of dX(t, i) over dY block columns `o0` to `o1` − 1. With a group length of 128 the two block-steps of a group are two sums,
each with its own Emax and its own addition to the accumulator, since each is a reduction of 64 (R160), while the scale file's groups
run on (R52): DESIGN CHOICE, see log 141. -/
def dxProducts (p tl : Nat) (b : MatmulBody) (l : List (Option TEntry)) (i : QItem) (t o0 o1 : Nat) : MM Unit := do
  let y := teAt l 0
  let w := teAt l 1
  let g := glenOf b.glen
  let k := y.cols
  let mode := arrayMode b.pass (eFmt y) (eFmt w) false
  (List.range (o1 - o0)).forM (fun d => do
    let lo := 64 * (o0 + d)
    checkBlocksRead p b l [(i.id.n, o0 + d)]
    productsInto p tl mode g (shiftFile ⟨y, true, b.fileA, b.elemA⟩ g d) (shiftFile ⟨w, true, b.fileB, b.elemB⟩ g d)
      t i.id.n lo (min k (lo + 64)))

/-- Products of dW(i, o) for token block `t`, with sums of 64 as in `dxProducts` (log 141): X read transposed, dY element-scaled when its source is PLANE (R164). -/
def dwProducts (p tl : Nat) (b : MatmulBody) (l : List (Option TEntry)) (i : QItem) (t o : Nat) : MM Unit := do
  let y := teAt l 0
  let x := teAt l 4
  let g := glenOf b.glen
  let mode := arrayMode b.pass (eFmt x) (eFmt y) false
  productsInto p tl mode g ⟨x, false, 0, false⟩ (shiftFile ⟨y, false, b.fileA, y.ssrc == 1⟩ g t) i.id.n o
    (64 * t) (min y.rows (64 * t + 64))

/-- dW products of token block `t`, every block of dW that the item forms. -/
def dwStep (p : Nat) (b : MatmulBody) (r : Rec) (i : QItem) (t : Nat) : MM Unit :=
  (dwBlocks r b i).forM (fun o => do
    let s ← mGet
    match itemTile s p r i (.dw o) with
    | none => pure ()
    | some tl =>
      let (w, ok) := readTile p tl s
      mMod (fun _ => w)
      if ok then dwProducts p tl b r.tes i t o else pure ())

/-- Close every dW tile of an item. -/
def closeDw (p : Nat) (r : Rec) (b : MatmulBody) (i : QItem) (s : State) : State :=
  (dwBlocks r b i).foldl (fun w o =>
    match itemTile w p r i (.dw o) with
    | some tl => closeTile p tl w
    | none => w) s

/-- One token block of a BWD_PAIR item: dX(t, i) over its chunk, then its dW steps; after the last block its dW tiles
close and its context is freed. It waits while its dX tile is not to be had (R161, R80). -/
def bwdStep (p k : Nat) (r : Rec) (b : MatmulBody) (c : Ctx) (s : State) : State :=
  let i := c.item
  let n := tokenBlocks r
  let t := c.next
  let last (w : State) : State := if t + 1 < n then w else freeContext p k (closeDw p r b i w)
  let change (f : Ctx → Ctx) (w : State) : State :=
    if (ctxOf w p k).order = 0 then w else setCtx w p k (f (ctxOf w p k))
  let step (w : State) : State := change (fun x => { x with next := t + 1 }) w
  let (o0, o1) := bwdBlocks r i.id.chunk
  if n ≤ t then last s
  else if i.skip.contains t then
    runItem i.id.stream r.seq (do
      dwStep p b r i t
      mMod (fun w => last (step w))) s
  else
    let opener := opens r b i
    let tl := if opener then (if tileFree s p (b.accTile + t % 4) then some (b.accTile + t % 4) else none)
      else sharedTile s p r i (.dx t)
    match tl with
    | none => s
    | some tl =>
      let s := if opener then openTile p tl r b i (.dx t) (List.replicate 4096 0) s else s
      if !opener ∧ !priorIn r i (tile s p tl) then setCtx s p k { c with formed := true }
      else
        let (w, ok) := readTile p tl s
        if !ok then w
        else
          runItem i.id.stream r.seq (do
            dxProducts p tl b r.tes i t o0 o1
            mMod (fun x => added p tl r b i (change (fun y => { y with formed := false }) x))
            dwStep p b r i t
            mMod (fun x => last (step x))) w

/-! ### The items' commands -/

/-- The products of a MATMUL item are complete (R203): its values enter the tile now, or, for a shared member whose
turn has not come, wait for the tile's port (R80). -/
def completeMatmulItem (p k : Nat) (r : Rec) (b : MatmulBody) (c : Ctx) (s : State) : State :=
  if c.item.kind = .bwd then bwdStep p k r b c s
  else
    match itemTile s p r c.item .out with
    | none => s
    | some t =>
      if b.shared ∧ !priorIn r c.item (tile s p t) then setCtx s p k { c with formed := true }
      else addItem p k t r b c.item s

/-- The context, of clove `p`, of a shared member whose values wait for tile `t` and whose turn it is. -/
def waitingMember (s : State) (p t : Nat) : Option (Nat × Ctx × Rec × MatmulBody) :=
  (clove s p).ctx.findSome? (fun x =>
    if x.2.formed then
      match findRec s x.2.item.id.stream x.2.item.id.seq with
      | some r =>
        match matmulBody r with
        | some b =>
          let u := if x.2.item.kind = .bwd then TileUse.dx x.2.next else .out
          if itemTile s p r x.2.item u = some t ∧ priorIn r x.2.item (tile s p t) then some (x.1, x.2, r, b) else none
        | none => none
      | none => none
    else none)

/-- A shared member's values are taken in their turn (R80). -/
def memberAdds (p t : Nat) (s : State) : State :=
  match waitingMember s p t with
  | some (k, c, r, b) => completeMatmulItem p k r b c s
  | none => s

def execSharedMemberAdd (p t : Nat) (s : State) : Host.Outcome State Fault Refusal :=
  onUnit (decide (p < 1216) && decide (t < 128)) (settle s (memberAdds p t s))

/-! ### Combines (R84 to R88) -/

/-- Two spans of a combine that are added next, in a chain or in a tree of `n` chunks (R84, R85). -/
def pairs (tree : Bool) (n : Nat) (a b c d : Nat) : Bool :=
  if tree then
    let w := b + 1 - a
    decide (w = 2 ^ Nat.log2 w) && decide (a % (2 * w) = 0) && decide (c = b + 1) && decide (d + 1 = min (a + 2 * w) n)
  else decide (a = 0) && decide (c = b + 1) && decide (d = c)

/-- The partial sum that a tile adds next: the tile that holds it (R84, R85). -/
def partnerOf (s : State) (p t : Nat) : Option (Nat × Nat × Tile) :=
  let y := tile s p t
  let all := tilesOfItem s y.item.id y.use
  let tree := all.any (fun x => x.2.2.order)
  if y.state ≠ .combining ∨ !atHome s p y.item then none
  else all.find? (fun x => decide (x.2.2.state = .combining) && atHome s x.1 x.2.2.item
    && pairs tree y.splitN x.2.2.lo x.2.2.hi y.lo y.hi)

/-- The sum a tile holds. -/
def sumOf (y : Tile) : TileSum := ⟨y.words, y.sat, y.flush, y.nonfinite, 0⟩

/-- A member receives a partial sum and adds it, the partial sum as left operand; the sender's tile becomes FREE, and
the destination with every chunk in is CLOSING. -/
def combineStep (p t : Nat) (s : State) : State :=
  match partnerOf s p t with
  | none => s
  | some (a, u, left) =>
    let (w, ok) := readTile a u s
    if !ok then w
    else
      let (w, ok) := readTile p t w
      if !ok then w
      else
        let y := tile w p t
        let x := addTiles (sumOf left) (sumOf y)
        let w := preloadFaults p t (discardTile (countAcc p x.flushes w) a u)
        let z := { y with words := x.words, sat := x.sat, flush := x.flush, nonfinite := x.nonfinite, lo := left.lo
                          order := y.order || left.order }
        if z.lo = 0 ∧ z.hi + 1 = z.splitN then
          modClove (setTile w p t { z with state := .closing }) p (fun c => { c with closing := c.closing ++ [t] })
        else setTile w p t z

def execCombinePartialReceive (p t : Nat) (s : State) : Host.Outcome State Fault Refusal :=
  onUnit (decide (p < 1216) && decide (t < 128)) (settle s (combineStep p t s))

/-- An item that comes before `i` is still queued for tile `t` of clove `p`. -/
def earlierQueued (s : State) (p t : Nat) (i : QItem) : Bool :=
  (sget [] s.comp.podQueue i.home).any (fun j => decide (runSeat s j = .at_ p) && namesTile s j t && j.id != i.id
    && wasBefore s j i)

/-- A chunk sum that a thief formed and that belongs in tile `t` of clove `p` (R87, R88), the tile being its to take: sums and
queued items take it in their order. DEDUCED, see log 126. -/
def stolenFor (s : State) (p t : Nat) : Option (Nat × Nat × Tile) :=
  (allTiles s).find? (fun x => decide (x.2.2.state = .combining) && !atHome s x.1 x.2.2.item &&
    match seatOf s x.2.2.item with
    | .at_ c => c == p && namedTile x.2.2 == t && tileFor s p t x.2.2.item && !earlierQueued s p t x.2.2.item
    | .joining => false
    | .empty => decide (((podCloves s x.2.2.item.home).find? (fun c => (lowestFree s c x.2.2.item).isSome)) = some p)
        && decide (lowestFree s p x.2.2.item = some t))

/-- A member's tile, once FREE, takes the chunk sum whole, without adding (R87). -/
def takeStolen (p t : Nat) (s : State) : State :=
  if !tileFree s p t then s
  else
    match stolenFor s p t with
    | some (a, u, y) =>
      let (w, ok) := readTile a u s
      if !ok then w else setTile (preloadFaults p t (discardTile w a u)) p t y
    | none => s

def execStolenChunkReceive (p t : Nat) (s : State) : Host.Outcome State Fault Refusal :=
  onUnit (decide (p < 1216) && decide (t < 128)) (settle s (takeStolen p t s))

end Sys2Proof.Machine
end

