-- ==== Sys2Proof/Machine/Drain.lean ====
section
/-! DEFINITION. The drain converter: stages of Table 5.5, delayed and late scales (R107, R108), misses and redrains (R116 to R118), fused functions (R148), and its commands. -/

namespace Sys2Proof.Machine

/-- The output block a tile drains to: its entry, block row and block column. -/
def drainTarget (r : Rec) (b : MatmulBody) (y : Tile) : TEntry × Nat × Nat :=
  match y.use with
  | .dx t => (teAt r.tes 2, t, y.out)
  | .dw o => (teAt r.tes 3, y.out, o)
  | .out => (teAt r.tes 2, (itemBlock b r.tes y.out).1, (itemBlock b r.tes y.out).2)

/-- A dW tile drains to FP32 as it stands and names no slot (R162). -/
def plainDrain (y : Tile) : Bool :=
  match y.use with
  | .dw _ => true
  | _ => false

/-- Stage 3 with direction BACKWARD: `y` times the derivative at the saved element, the product exact (R148). -/
def fusedBackward (fn α : Nat) (splines : List (List Segment)) (y : Num) (saved : Nat) : VM Num := do
  if fn = 0x01 then do
    let p ← rnd (y.mul (fp32Num saved))
    pure ((fp32Num p).mul (fp32Num 0x3F317218))
  else if fnOutput fn then do
    let q ← outputFactors fn α 0 saved
    pure (y.mul (fp32Num q.2))
  else do
    let d ← fnDeriv fn α splines saved
    pure (y.mul (fp32Num d))

/-- Stage 3 with direction FORWARD (R148). -/
def fusedForward (fn α : Nat) (splines : List (List Segment)) (y : Num) : VM Num := do
  let x ← rnd y
  let v ← fnValue fn α splines x
  pure (fp32Num v)

/-- Splines of a clove, in order; one that nothing has loaded is a single segment of zeros (log 8). -/
def splinesOf (c : Clove) : List (List Segment) :=
  (List.range 4).map (fun k => match sget [] c.splines k with
    | [] => [⟨0, 0, 0, 0, 0, 0⟩]
    | l => l)

/-- Stages 1 to 3 of every element of a tile, in row order; an element of padding is +0 (R105, R157, log 26). -/
def drainValues (p : Nat) (b : MatmulBody) (y : Tile) (e : TEntry) (br bc : Nat) (saved : Array Nat) : MM (Array Val) := do
  let s ← mGet
  let c := clove s p
  let plain := plainDrain y
  let vs ← mVM p (y.words.zipIdx.mapM (fun (w, n) => do
    let i := n / 64
    let j := n % 64
    if e.rows ≤ 64 * br + i ∨ e.cols ≤ 64 * bc + j then pure (Val.num (.zero false))
    else if plain then pure (Val.num (fp32Num w))
    else do
      let x := fp32Num w
      let x := if b.rowSrc then x.mul (fp32Num (sget 0 c.rowBank (b.rowBase + j))) else x
      if b.fn = 0 then pure (Val.num x)
      else if b.fnDir then do
        let v ← fusedBackward b.fn b.alpha (splinesOf c) x (saved.getD n 0)
        pure (Val.num v)
      else do
        let v ← fusedForward b.fn b.alpha (splinesOf c) x
        pure (Val.num v)))
  pure vs.toArray

/-- The saved elements beside a tile, as FP32 words (R127, R148). -/
def savedWords (p : Nat) (r : Rec) (b : MatmulBody) (y : Tile) (br bc : Nat) : MM (Array Nat) := do
  if plainDrain y || !fusedBack b then pure #[]
  else
    let x := teAt r.tes 4
    let vs ← readVals p x 0 br bc (reqClove p)
    let ws ← mVM p (vs.toList.mapM (fun v => loadFp32 (eFmt x) v.1 v.2))
    pure ws.toArray

/-- The random bits of each element of a pass: none when rounding is NEAREST, and none for an FP32 output that a row
scale brings to one rounding (R104, R121, R122). With a function in stage 3 between the two, stage 5 rounds by the
descriptor: DESIGN CHOICE, see log 117. -/
def drainRandom (p : Nat) (r : Rec) (b : MatmulBody) (y : Tile) (e : TEntry) (br bc : Nat) : MM (Nat → Option Nat) := do
  let s ← mGet
  if !b.rounding ∨ plainDrain y ∨ (eFmt e = .fp32 ∧ b.rowSrc ∧ b.fn = 0) then pure (fun _ => none)
  else if b.rngMode then
    pure (fun n => some (drainBits (keyedBits r.key r.hdr.tensorId ((64 * br + n / 64) * e.cols + 64 * bc + n % 64))))
  else
    let (t0, s1) := drawCycle s
    mMod (fun _ => s1)
    let seed := (clove s p).seed
    pure (fun n => some (drainBits (freeBits seed (n % 32) (t0 + 2 * (n / 64) + n % 64 / 32))))

/-- The committed code that a drain uses: none in late mode or for an unscaled output (R107, R116). -/
def drainCode (r : Rec) (b : MatmulBody) (e : TEntry) : Option Nat :=
  if fmtScaled (eFmt e) && !b.scaleMode then r.code else none

/-- One pass of a drain: output codes, group codes and statistics; `late` chooses scales from the tile (R107, R108). -/
def drainPass (b : MatmulBody) (y : Tile) (e : TEntry) (code : Option Nat) (late : Bool) (rnds : Nat → Option Nat)
    (ys : Array Val) : Array Nat × List Nat × Stats :=
  let f := if plainDrain y then .fp32 else eFmt e
  let scaled := fmtScaled f
  let g := eGlen e
  let first := if scaled && late then lateCodes f e.axisRow g ys else []
  let ks : Nat → Int := if !scaled then fun _ => 0
    else if late then
      let a := exponents e.axisRow g first
      fun n => a.getD n 0
    else fun _ => codeExp (code.getD 0)
  let out := convertBlock f b.outMode ks rnds ys
  let codes := (out.map (·.1)).toArray
  let plane := if !scaled then [] else if late then first else delayedCodes f e.axisRow g (code.getD 0) codes
  let st := statsOf b.histBase (ys.toList.zip (out.map (·.2)))
  (codes, plane, { st with
    accSat := y.sat, accFlush := y.flush, accNonfinite := y.nonfinite, tiles := 1
    lateTiles := b2n (scaled && late), code := code.getD 0, codeValid := code.isSome })

/-- Convert tile `t` of clove `p` once and write its block. -/
def drainOnce (p : Nat) (r : Rec) (b : MatmulBody) (y : Tile) (late : Bool) : MM (Array Val × Stats) := do
  let (e, br, bc) := drainTarget r b y
  if !plainDrain y then drainInto r.hdr.tensorId e.fmt b.histBase
  let saved ← savedWords p r b y br bc
  let ys ← drainValues p b y e br bc saved
  let rnds ← drainRandom p r b y e br bc
  let (codes, plane, st) := drainPass b y e (drainCode r b e) late rnds ys
  writeBlock e br bc (reqClove p) codes
  if fmtScaled (eFmt e) && !plainDrain y then writeCodes e br bc (reqClove p) plane
  pure (ys, st)

/-- The descriptor of a tile's drain: that of the operation whose additions closed it. -/
def drainRec (s : State) (y : Tile) : Option (Rec × MatmulBody) :=
  match findRec s y.stream y.owner with
  | some r => (matmulBody r).map (fun b => (r, b))
  | none => none

/-- A pass that starts in late mode: LATE, or no valid committed code (R107, R116). -/
def startsLate (r : Rec) (b : MatmulBody) (e : TEntry) : Bool := fmtScaled (eFmt e) && (drainCode r b e).isNone

/-- Misses of a delayed first pass (R117). -/
def missOf (r : Rec) (b : MatmulBody) (y : Tile) (e : TEntry) (ys : Array Val) (st : Stats) : Bool × Bool :=
  match drainCode r b e with
  | none => (false, false)
  | some c =>
    if plainDrain y then (false, false)
    else
      let k := codeExp c
      let over_ := missesOver (eFmt e) k ys
      (over_, !over_ && missesUnder (eFmt e) k b.underBits st.maxAbs)

/-- The drain converter takes the oldest CLOSING tile and makes its first pass (R103). -/
def startDrain (p : Nat) (s : State) : State :=
  let c := clove s p
  match c.drain, c.closing with
  | none, t :: _ =>
    let y := tile s p t
    match drainRec s y with
    | none => s
    | some (r, b) =>
      let (w, ok) := readTile p t s
      if !ok then w
      else
        let (e, _, _) := drainTarget r b y
        runItem y.stream r.seq (do
          let (ys, st) ← drainOnce p r b y (startsLate r b e)
          let (o, u) := missOf r b y e ys st
          mMod (fun x => modClove x p (fun k => { k with
            drain := some ⟨t, false, { st with missOver := b2n o, missUnder := b2n u }, o, u⟩ }))) w
  | _, _ => s

def execTileDrain (p : Nat) (s : State) : Host.Outcome State Fault Refusal :=
  onUnit (decide (p < 1216)) (settle s (startDrain p s))

/-- The tile is FREE, its statistics merged; elements in the Inf or NaN bin set the step's flag when the operation is guarded
(R185); the operation has one drain less to wait for (R111, R113, R118). The slot takes the drain's format as the drain ends,
whatever SCALE_COMMIT came between its passes: DESIGN CHOICE, see log 127. -/
def endDrain (p : Nat) (d : Drain) (r : Rec) (y : Tile) (s : State) : State :=
  let t := discardTile s p d.tile
  let t := match matmulBody r with
    | some b => if plainDrain y then t
      else mergePartial (p / 76) r.hdr.tensorId d.stats
        (bindSlot r.hdr.tensorId (drainTarget r b y).1.fmt b.histBase t)
    | none => t
  let t := addFlags y.stream r.seq { CFlags.none with
    scaleMiss := d.missOver || d.missUnder, nonfinite := statsNonfinite d.stats } t
  let t := if statsNonfinite d.stats then guardFlag y.stream r.seq t else t
  refill (finishPart y.stream r.seq t)

/-- SCALE_MISS, at a slot's first miss since its last SCALE_COMMIT (R118). -/
def raiseMiss (p t slot : Nat) (under_ : Bool) (s : State) : State :=
  let x := slotStat s slot
  if x.missSeen then s
  else raiseEv { code := 0x02, unit := p, arg0 := slot, arg1 := b2n under_, arg2 := t }
    (setSlotStat s slot { x with missSeen := true })

/-- The first pass has ended: a miss is decided (Table 5.10). -/
def passEnd (p : Nat) (s : State) : State :=
  match (clove s p).drain with
  | none => s
  | some d =>
    if d.redrain then s
    else
      let y := tile s p d.tile
      match drainRec s y with
      | none => s
      | some (r, b) =>
        let miss := d.missOver || d.missUnder
        let t := if miss then raiseMiss p d.tile r.hdr.tensorId d.missUnder s else s
        if miss ∧ b.autoRetry then modClove t p (fun c => { c with drain := some { d with redrain := true } })
        else endDrain p d r y t

def execDrainPassEnd (p : Nat) (s : State) : Host.Outcome State Fault Refusal :=
  onUnit (decide (p < 1216)) (settle s (passEnd p s))

/-- The redrain converts the tile in late mode, writes every line again, and ends (R118). -/
def redrain (p : Nat) (s : State) : State :=
  match (clove s p).drain with
  | none => s
  | some d =>
    if !d.redrain then s
    else
      let y := tile s p d.tile
      match drainRec s y with
      | none => s
      | some (r, b) =>
        let (w, ok) := readTile p d.tile s
        if !ok then w
        else
          runItem y.stream r.seq (do
            let (_, st) ← drainOnce p r b y true
            mMod (endDrain p { d with stats := { st with
              missOver := d.stats.missOver, missUnder := d.stats.missUnder } } r y)) w

def execRedrainComplete (p : Nat) (s : State) : Host.Outcome State Fault Refusal :=
  onUnit (decide (p < 1216)) (settle s (redrain p s))

end Sys2Proof.Machine
end

