-- ==== Sys2Proof/Machine/Vecop.lean ====
section
/-! DEFINITION. VECOP: its functions (Table 6.3, R133 to R144), checks and dispatch (R256, R441), and its items. -/

namespace Sys2Proof.Machine

/-! ### Functions of one element -/

/-- Operands of a function (Table 6.3); none for a reserved code. -/
def vopArity (v : Nat) : Option Nat :=
  if v ∈ [0x01, 0x02, 0x04, 0x05, 0x10, 0x11, 0x15, 0x23, 0x27, 0x30, 0x38, 0x39] then some 2
  else if v ∈ [0x03, 0x24, 0x31] then some 3
  else if v ∈ [0x06, 0x07, 0x12, 0x13, 0x14, 0x20, 0x21, 0x22, 0x25, 0x26, 0x28, 0x29, 0x32] then some 1
  else none

/-- A function that works on whole rows. -/
def vopRow (v : Nat) : Bool := decide (0x20 ≤ v) && decide (v ≤ 0x29)

/-- A function that takes a code of Table 6.5 (R144). -/
def vopFn (v : Nat) : Bool := v ∈ [0x07, 0x30, 0x31, 0x38, 0x39]

/-- A function whose operands are vector log words (R133). -/
def vopLog (v : Nat) : Bool := decide (0x10 ≤ v) && decide (v ≤ 0x15)

def fpVal (w : Nat) : Val := .num (fp32Num w)

/-- An exact product of two FP32 words. -/
def exactMul (a b : Nat) : Val := .num ((fp32Num a).mul (fp32Num b))

/-- One element of an element-wise function: its results in order, from operand words and random bits (R133, R139,
R142, R144, R146). -/
def vecElem (b : VecopBody) (splines : List (List Segment)) (x y z : Nat) (r : Nat) : VM (List Val) := do
  let fp (w : VM Nat) : VM (List Val) := do
    let v ← w
    pure [fpVal v]
  let lg (w : VM Nat) : VM (List Val) := do
    let v ← w
    pure [logWordVal v]
  match b.vop with
  | 0x01 => fp (vAdd x y)
  | 0x02 => fp (vMul x y)
  | 0x03 => fp (vFma x y z)
  | 0x04 => pure [fpVal (vPick false x y)]
  | 0x05 => pure [fpVal (vPick true x y)]
  | 0x06 => fp (vFma x b.s0 b.s1)
  | 0x07 => fp (fnValue b.fn b.s0 splines x)
  | 0x10 => lg (lMul x y)
  | 0x11 => lg (lDiv x y)
  | 0x12 => lg (lRecip x)
  | 0x13 => lg (lSqrt x)
  | 0x14 => lg (lPow x b.s0)
  | 0x15 => lg (lAdd x y)
  | 0x30 => do
    let f ← fnValue b.fn b.s0 splines x
    pure [exactMul f y]
  | 0x31 => do
    let f ← fnValue b.fn b.s0 splines y
    let d ← fnDeriv b.fn b.s0 splines y
    let t ← vMul x z
    pure [exactMul f x, exactMul t d]
  | 0x32 => pure [if b.threshold ≤ vectorBits r then exactMul x b.s0 else .num (.zero (fp32Num x).neg)]
  | 0x38 => do
    let (p, q) ← outputFactors b.fn b.s0 x y
    pure [exactMul p q]
  | 0x39 => do
    let d ← fnDeriv b.fn b.s0 splines y
    pure [exactMul x d]
  | _ => pure []

/-! ### Functions of a row -/

/-- R138's constants. -/
def log2e : Nat := 0x3FB8AA3B
def ln2Word : Nat := 0x3F317218

/-- 1/n correctly rounded (R137). -/
def invCount (n : Nat) : Nat := (roundFp32 (.num ((Num.fin false 1 0).div (mkNum false n 0)))).1

/-- rf of R137. -/
def rootFactor (v : Nat) : VM Nat := do
  let w ← vlOf v
  let w ← lRecip w
  let w ← lSqrt w
  fp32Of w

/-- RMSNORM (R137). -/
def rmsNorm (eps : Nat) (row g : List Nat) : VM (List Val) := do
  let q ← rowDot (row.map (fun x => (x, x)))
  let v ← vFma q (invCount row.length) eps
  let rf ← rootFactor v
  (row.zip g).mapM (fun p => do
    let t ← vMul p.1 rf
    let u ← vMul t p.2
    pure (fpVal u))

/-- LAYERNORM (R137). -/
def layerNorm (eps : Nat) (row g beta : List Nat) : VM (List Val) := do
  let n := invCount row.length
  let s ← rowSum row
  let mu ← vMul s n
  let d ← row.mapM (fun x => vSub x mu)
  let q ← rowDot (d.map (fun x => (x, x)))
  let v ← vFma q n eps
  let rf ← rootFactor v
  (row.zip (g.zip beta)).mapM (fun p => do
    let e ← vSub p.1 mu
    let t ← vMul e rf
    let u ← vFma t p.2.1 p.2.2
    pure (fpVal u))

/-- Base-2 scores and their `(M, S)` (R138). -/
def softScores (row : List Nat) : VM (List Nat × Nat × Nat) := do
  let zs ← row.mapM (fun x => vMul x log2e)
  let (m, s) ← softPass zs
  pure (zs, m, s)

/-- SOFTMAX (R138). -/
def softmax (row : List Nat) : VM (List Val) := do
  let (zs, m, s) ← softScores row
  zs.mapM (fun z => do
    let d ← vSub z m
    let w ← wExp d
    let q ← lDiv w s
    pure (logWordVal q))

/-- LOGSOFTMAX (R138). -/
def logSoftmax (row : List Nat) : VM (List Val) := do
  let (zs, m, s) ← softScores row
  let l ← log2Of s
  zs.mapM (fun z => do
    let d ← vSub z m
    let e ← vSub d l
    let f ← vMul e ln2Word
    pure (fpVal f))

/-- ROWLSE (R138). -/
def rowLse (row : List Nat) : VM (List Val) := do
  let (_, m, s) ← softScores row
  let l ← log2Of s
  let t ← vAdd m l
  let f ← vMul t ln2Word
  pure [fpVal f]

/-- SOFTMAX_BWD (R144). -/
def softmaxBwd (dy y : List Nat) : VM (List Val) := do
  let σ ← rowDot (dy.zip y)
  (dy.zip y).mapM (fun p => do
    let d ← vSub p.1 σ
    pure (exactMul p.2 d))

/-- A score ranks below another (R140). -/
def ranksBelow (a b : Nat) : Bool :=
  match fp32Num a, fp32Num b with
  | .nan _, .nan _ => false
  | .nan _, _ => true
  | _, .nan _ => false
  | x, y => x.lt y

/-- The `k` places of highest rank, in descending rank (R140). -/
def topPlaces (k : Nat) (row : List Nat) : List (Nat × Nat) :=
  (row.zipIdx.mergeSort (fun a b => !ranksBelow a.1 b.1)).take k

/-- TOPK: values and column indices (R140). -/
def topK (k norm : Nat) (row : List Nat) : VM (List Val × List Nat) := do
  let top := topPlaces k row
  let xs := top.map (·.1)
  let vals ← (match norm with
    | 1 =>
      match xs with
      | [] => pure []
      | x :: r => do
        let s ← r.foldlM vAdd x
        xs.mapM (fun v => do
          let q ← vDiv v s
          pure (fpVal q))
    | 2 => softmax xs
    | _ => pure (xs.map fpVal) : VM (List Val))
  pure (vals, top.map (·.2))

/-- Entry `r` of the table `G`: −ln(−ln((r + 0.5)/65,536)) rounded to FP32 (R141). -/
def gumbel (r : Nat) : Nat :=
  let (x, _) := log2Num (2 * r + 1) (-17)
  let l := ((-(2 * x + 1)) * ln2Bits).toNat / 2 ^ 257
  let (y, _) := log2Num l (-512)
  (roundFp32 (.num (ofInt (-((2 * y + 1) * ln2Bits)) (-(257 + 512))))).1

/-- The place of the largest score that is not NaN, the lower index among equals. -/
def bestPlace : List (Nat × Nat) → Option (Nat × Nat) → Option (Nat × Nat)
  | [], b => b
  | (s, c) :: r, b =>
    match fp32Num s with
    | .nan _ => bestPlace r b
    | _ =>
      match b with
      | none => bestPlace r (some (s, c))
      | some (t, d) => bestPlace r (if (fp32Num t).lt (fp32Num s) then some (s, c) else some (t, d))

/-- SAMPLE: the index chosen, none for a row of NaN scores only (R141). -/
def sampleRow (k invT : Nat) (bits : Nat → Nat) (row : List Nat) : VM (Option Nat) := do
  let part := if k = 0 then row.zipIdx else (topPlaces k row).mergeSort (fun a b => decide (a.2 ≤ b.2))
  let sc ← part.mapM (fun p => do
    let t ← vMul p.1 invT
    let u ← vAdd t (gumbel (vectorBits (bits p.2)))
    pure (u, p.2))
  pure ((bestPlace sc none).map (·.2))

/-! ### Checks and dispatch -/

/-- The words of a descriptor that name operand `n` and its file base, and result `n`. -/
def inOff (n : Nat) : Nat := if n < 2 then 0x14 else 0x18
def fileOff (n : Nat) : Nat := if n < 2 then 0x28 else 0x2C
def outOff (n : Nat) : Nat := if n = 0 then 0x18 else 0x1C

def vopIn (b : VecopBody) (n : Nat) : Nat := if n = 0 then b.in0 else if n = 1 then b.in1 else b.in2
def vopFile (b : VecopBody) (n : Nat) : Nat := if n = 0 then b.file0 else if n = 1 then b.file1 else b.file2
def vopOut (b : VecopBody) (n : Nat) : Nat := if n = 0 then b.out0 else b.out1

/-- Results of a function. -/
def vopOuts (v : Nat) : Nat := if v = 0x28 ∨ v = 0x31 then 2 else 1

/-- Shape of operand `n` (R441). -/
def vopInShape (v n rows cols : Nat) : Nat × Nat :=
  if n ≠ 0 ∧ (v = 0x23 ∨ v = 0x24) then (1, cols) else (rows, cols)

/-- Shape of the results (R441). -/
def vopOutShape (b : VecopBody) (rows cols : Nat) : Nat × Nat :=
  if b.vop ∈ [0x20, 0x21, 0x22, 0x29] then (rows, 1)
  else if b.vop = 0x28 then (rows, b.k) else (rows, cols)

/-- Result `n` holds indices, 32-bit unsigned integers (R140, R141). -/
def vopIndex (v n : Nat) : Bool := v == 0x29 || (v == 0x28 && n == 1)

/-- The checks of the fields alone (R133, R136, R140, R144). -/
def checkVopFields (b : VecopBody) : MM Unit := do
  mGuard ((vopArity b.vop).isNone) .opcode 0x10
  mGuard b.stochastic .format 0x10
  if vopFn b.vop then
    checkFn b.fn b.s0 0x10 0x20
    mGuard (decide (b.vop = 0x38) && b.fn != 0 && !fnOutput b.fn) .opcode 0x10
  mGuard (decide (b.vop = 0x28) && (decide (b.k = 0) || decide (64 < b.k) || decide (b.norm = 3))) .range 0x10
  mGuard (decide (b.vop = 0x29) && decide (64 < b.k)) .range 0x10

/-- One operand (R133, R134). -/
def checkVopIn (h : Header) (b : VecopBody) (n : Nat) : MM TEntry := do
  mGuard (decide (vopIn b n = 0xFFFF)) .format (inOff n)
  let e ← needTE h.group (vopIn b n) (inOff n)
  checkIn e fmtWeight (inOff n)
  checkFile e (vopFile b n) (vopRow b.vop) (fileOff n)
  pure e

/-- One result (R136, R140, R141). The indices of TOPK and SAMPLE go to a 32-bit tensor, format code 0x0: DESIGN CHOICE, see
log 105. -/
def checkVopOut (h : Header) (b : VecopBody) (n rows cols : Nat) : MM TEntry := do
  mGuard (decide (vopOut b n = 0xFFFF)) .format (outOff n)
  let e ← needTE h.group (vopOut b n) (outOff n)
  checkOut e b.outMode (outOff n)
  checkShape e rows cols (outOff n)
  mGuard (vopIndex b.vop n && decide (eFmt e ≠ .fp32)) .format (outOff n)
  mGuard (decide (b.vop = 0x28) && decide (n = 0) && !preloadOk (eFmt e)) .format (outOff n)
  mGuard (fmtScaled (eFmt e) && decide (cols % eGlen e ≠ 0)) .format (outOff n)
  pure e

/-- A statistics slot that counts every result takes one format (R113, R136). -/
def checkVopSlot (h : Header) (b : VecopBody) (outs : List TEntry) : MM Unit := do
  let s ← mGet
  let counted := (outs.zipIdx.filter (fun x => !vopIndex b.vop x.2)).map (·.1)
  mGuard (b.stats && (counted.any (fun e => !slotAgrees s h.tensorId e.fmt b.histBase)
    || counted.any (fun e => e.fmt != ((counted.head?).map (·.fmt)).getD 0))) .slot 0xC

/-- Dispatch a VECOP: items are 64 × 64 blocks, or rows (R198). -/
def dispatchVecop (i seq : Nat) (h : Header) (b : VecopBody) : MM Unit := do
  checkVopFields b
  let arity := (vopArity b.vop).getD 1
  let ins ← (List.range arity).mapM (checkVopIn h b)
  let e := ins.headD default
  mGuard (vopRow b.vop && (decide (e.cols = 0) || decide (2 ^ 20 < e.cols)
    || (decide (0x28 ≤ b.vop) && decide (65536 < e.cols)))) .range 0x14
  mGuard (decide (b.vop = 0x28) && decide (e.cols < b.k)) .range 0x10
  ins.zipIdx.forM (fun x =>
    let (r, c) := vopInShape b.vop x.2 e.rows e.cols
    checkShape x.1 r c (inOff x.2))
  let (r, c) := vopOutShape b e.rows e.cols
  let outs ← (List.range (vopOuts b.vop)).mapM (fun n => checkVopOut h b n r c)
  mGuard (decide (b.vop = 0x29 ∨ b.vop = 0x32) && b.rngMode && decide (2 ^ 40 < e.rows * e.cols)) .range 0x10
  checkVopSlot h b outs
  mMod (fun s =>
    let t := if b.stats ∧ b.vop ≠ 0x29 then bindSlot h.tensorId (outs.headD default).fmt b.histBase s else s
    let n := if vopRow b.vop then e.rows else rowBlocks e * colBlocks e
    startItems i seq h.group n 1 n ((ins ++ outs).map some) t)

/-! ### Items -/

/-- Elements of a block item that its lane has taken before the one in row `y`, column `x` of the block (R126): `first` is
the place in the tensor of the block's first element, `n` the columns it holds. -/
def laneTurn (cols first n y x : Nat) : Nat :=
  let lane := (first + y * cols + x) % 256
  (List.range y).countP (fun v => decide ((lane + 256 - (first + v * cols) % 256) % 256 < n))

/-- Random bits of the element in row `r`, column `c`, which its lane takes as its `turn`-th of an item that began at cycle
`t0`: a lane takes one element a cycle (R126, R143; log 4). -/
def vopBits (b : VecopBody) (rec : Rec) (seed cols t0 r c turn : Nat) : Nat :=
  if b.rngMode then keyedBits rec.key rec.hdr.tensorId (r * cols + c)
  else freeBits seed ((if vopRow b.vop then c else r * cols + c) % 256) (t0 + turn)

/-- Convert a run of results along a row, group by group, in late mode (R108, R136): codes, group codes, outcomes. -/
def convertRun (f : Fmt) (strict : Bool) (glen : Nat) (vs : List Val) : List (Nat × Bin) × List Nat :=
  if fmtScaled f then
    let gs := groupsOf glen vs.length vs
    let ks := gs.map (lateCode f)
    ((List.zipWith (fun g k => g.map (fun v => convert f (codeExp k) strict none v)) gs ks).flatten, ks)
  else (vs.map (fun v => convert f 0 strict none v), [])

/-- Results are counted into their slot, or in the clove's conversion counters, and tell of infinities and NaNs
(R136, R155). -/
def noteResults (i : Nat) (r : Rec) (b : VecopBody) (p : Nat) (l : List (Val × Bin)) (s : State) : State :=
  let t := if b.stats then mergePartial (p / 76) r.hdr.tensorId (statsOf b.histBase l) s else countConv p (l.map (·.2)) s
  addFlags i r.seq { CFlags.none with nonfinite := l.any (fun x => decide (x.2 = .inf) || decide (x.2 = .nan)) } t

/-- Results of format code `fmt` are counted into their slot, when they are counted there (R113, R136). -/
def countInto (r : Rec) (b : VecopBody) (fmt : Nat) : MM Unit :=
  if b.stats then drainInto r.hdr.tensorId fmt b.histBase else pure ()

/-- Draw the cycle at which an item with FREE bits begins. -/
def itemCycle (b : VecopBody) : MM Nat := do
  let s ← mGet
  if (b.vop = 0x29 ∨ b.vop = 0x32) ∧ !b.rngMode then do
    let (t0, s1) := drawCycle s
    mMod (fun _ => s1)
    pure t0
  else pure 0

/-- Write a block of results: codes, padded with +0, and group codes along its rows (R99, R136). -/
def writeBlockRows (p : Nat) (e : TEntry) (br bc : Nat) (rows : List (List (Nat × Bin) × List Nat)) : MM Unit := do
  let per := if fmtScaled (eFmt e) then 64 / eGlen e else 0
  let pad (l : List Nat) (n : Nat) (z : Nat) : List Nat := l ++ List.replicate (n - l.length) z
  let lines := rows.map (fun x => pad (x.1.map (·.1)) 64 (zeroOf e))
  let all := lines ++ List.replicate (64 - lines.length) (List.replicate 64 (zeroOf e))
  writeBlock e br bc (reqClove p) all.flatten.toArray
  if fmtScaled (eFmt e) then
    let cs := rows.map (fun x => pad x.2 per 0)
    mWrite (planeAt e br bc).1
      (((cs ++ List.replicate (64 - cs.length) (List.replicate per 0)).flatten).map (BitVec.ofNat 8)) (reqClove p)

/-- An element-wise item: one 64 × 64 block (R134). -/
def vecBlock (i p : Nat) (r : Rec) (b : VecopBody) (n : Nat) : MM Unit := do
  let arity := (vopArity b.vop).getD 1
  let ins := (List.range arity).map (teAt r.tes)
  let outs := (List.range (vopOuts b.vop)).map (fun k => teAt r.tes (arity + k))
  let e := teAt r.tes 0
  let br := n / max 1 (colBlocks e)
  let bc := n % max 1 (colBlocks e)
  let vs ← ins.zipIdx.mapM (fun x => readVals p x.1 (vopFile b x.2) br bc (reqClove p))
  let t0 ← itemCycle b
  let s ← mGet
  let c := clove s p
  let rows := min 64 (e.rows - 64 * br)
  let cols := min 64 (e.cols - 64 * bc)
  let load (k m : Nat) : VM Nat :=
    match vs[k]?, ins[k]? with
    | some a, some x =>
      let v := a.getD m (0, .pow 0)
      if vopLog b.vop then loadLog (eFmt x) v.1 v.2 else loadFp32 (eFmt x) v.1 v.2
    | _, _ => pure 0
  let res ← mVM p ((List.range rows).mapM (fun y => (List.range cols).mapM (fun x => do
    let m := 64 * y + x
    let a ← load 0 m
    let d ← load 1 m
    let g ← load 2 m
    let bits := if b.vop = 0x32 then vopBits b r c.seed e.cols t0 (64 * br + y) (64 * bc + x)
      (laneTurn e.cols (64 * br * e.cols + 64 * bc) cols y x) else 0
    vecElem b (splinesOf c) a d g bits)))
  outs.zipIdx.forM (fun o => do
    let vals := res.map (fun row => row.map (fun v => v.getD o.2 (.num (.zero false))))
    let conv := vals.map (convertRun (eFmt o.1) b.outMode (eGlen o.1))
    countInto r b o.1.fmt
    mMod (noteResults i r b p ((vals.zip conv).flatMap (fun x => x.1.zip (x.2.1.map (·.2)))))
    writeBlockRows p o.1 br bc conv)

/-- Write a row of results and its group codes; the last row's item writes the padding rows below it. -/
def writeResultRow (req : Nat) (e : TEntry) (row : Nat) (codes groups : List Nat) : MM Unit := do
  writeRow e row req codes
  let per := if fmtScaled (eFmt e) then 64 / eGlen e else 0
  let line (n : Nat) (l : List Nat) : MM Unit :=
    if per = 0 then pure ()
    else (List.range (colBlocks e)).forM (fun bc =>
      let part := (l.drop (per * bc)).take per
      mWrite ((planeAt e (n / 64) bc).1 + n % 64 * per)
        ((part ++ List.replicate (per - part.length) 0).map (BitVec.ofNat 8)) req)
  line row groups
  if row + 1 = e.rows ∧ !e.timeMajor then
    (List.range (64 * rowBlocks e - e.rows)).forM (fun k => do
      writeRow e (e.rows + k) req (List.replicate e.cols (zeroOf e))
      line (e.rows + k) [])

/-- The values of a row-wise function, less TOPK and SAMPLE. -/
def rowValues (b : VecopBody) (row x y : List Nat) : VM (List Val) := do
  match b.vop with
  | 0x20 => do
    let v ← rowSum row
    pure [fpVal v]
  | 0x21 => do
    let v ← rowMax row
    pure [fpVal v]
  | 0x22 => rowLse row
  | 0x23 => rmsNorm b.s0 row x
  | 0x24 => layerNorm b.s0 row x y
  | 0x25 => softmax row
  | 0x26 => logSoftmax row
  | _ => softmaxBwd row x

/-- Write values of row `n` to a result. -/
def putValues (i p : Nat) (r : Rec) (b : VecopBody) (e : TEntry) (n : Nat) (vals : List Val) : MM Unit := do
  let (conv, gs) := convertRun (eFmt e) b.outMode (eGlen e) vals
  countInto r b e.fmt
  mMod (noteResults i r b p (vals.zip (conv.map (·.2))))
  writeResultRow (reqClove p) e n (conv.map (·.1)) gs

/-- A row-wise item: one row (R134, R135). -/
def vecRow (i p : Nat) (r : Rec) (b : VecopBody) (n : Nat) : MM Unit := do
  let arity := (vopArity b.vop).getD 1
  let rows ← (List.range arity).mapM (fun k => do
    let e := teAt r.tes k
    let row := if k ≠ 0 ∧ (b.vop = 0x23 ∨ b.vop = 0x24) then 0 else n
    let vs ← readRowVals p e (vopFile b k) row (reqClove p)
    mVM p (vs.mapM (fun v => loadFp32 (eFmt e) v.1 v.2)))
  let out := teAt r.tes arity
  let row := rows.getD 0 []
  if b.vop = 0x28 then
    let (vals, idx) ← mVM p (topK b.k b.norm row)
    putValues i p r b out n vals
    writeResultRow (reqClove p) (teAt r.tes (arity + 1)) n idx []
  else if b.vop = 0x29 then
    let t0 ← itemCycle b
    let s ← mGet
    let seed := (clove s p).seed
    let cols := (teAt r.tes 0).cols
    let x ← mVM p (sampleRow b.k b.s0 (fun c => vopBits b r seed cols t0 n c (c / 256)) row)
    if x.isNone then mMod (addFlags i r.seq { CFlags.none with nonfinite := true })
    writeResultRow (reqClove p) out n [x.getD 0xFFFFFFFF] []
  else
    let vals ← mVM p (rowValues b row (rows.getD 1 []) (rows.getD 2 []))
    putValues i p r b out n vals

/-- A VECOP item is complete: its block or row is written and its context freed. -/
def completeVecItem (p k : Nat) (r : Rec) (b : VecopBody) (c : Ctx) (s : State) : State :=
  let i := c.item.id.stream
  runItem i r.seq (do
    if vopRow b.vop then vecRow i p r b c.item.id.n else vecBlock i p r b c.item.id.n
    mMod (fun t => refill (finishPart i r.seq (freeContext p k t)))) s

end Sys2Proof.Machine
end

