-- ==== Sys2Proof/Machine/Scan.lean ====
section
/-! DEFINITION. SCAN: LOCAL, FOLD and FULL (R149 to R152, R257), its carry records (Table 6.7), and WORK_ITEM_COMPLETE for every kind of item (R203). -/

namespace Sys2Proof.Machine

/-! ### Carry records -/

/-- The header of a carry record. -/
structure CarryHead where
  groups : Nat
  reverse : Bool
  nonfinite : Bool
  flushed : Bool
  first : Nat
  last : Nat
  chunk : Nat
  deriving DecidableEq, Repr

/-- Bytes of a record of `n` channels. -/
def carrySize (n : Nat) : Nat := 64 + 8 * n

def carryHeadOf (b : List Byte) : CarryHead :=
  let w := leNat (b.take 4)
  let at_ (o : Nat) : Nat := leNat ((b.drop o).take 4)
  ⟨bitsAt w 15 0, bitAt w 16, bitAt w 17, bitAt w 18, bitsAt (at_ 4) 19 0, bitsAt (at_ 8) 19 0, at_ 12⟩

/-- A record's bytes: header, then `P` and `H` of each channel. -/
def carryBytes (h : CarryHead) (ph : List (Nat × Nat)) : List Byte :=
  leBytes 4 (h.groups % 65536 + 2 ^ 16 * b2n h.reverse + 2 ^ 17 * b2n h.nonfinite + 2 ^ 18 * b2n h.flushed)
    ++ leBytes 4 (h.first % 2 ^ 20) ++ leBytes 4 (h.last % 2 ^ 20) ++ leBytes 4 h.chunk ++ List.replicate 48 0#8
    ++ ph.flatMap (fun x => leBytes 4 x.1 ++ leBytes 4 x.2)

/-- The words of a record of `n` channels at `a`. -/
def readCarry (p a n : Nat) : MM (CarryHead × List (Nat × Nat)) := do
  let b ← mRead a (carrySize n) (reqClove p)
  pure (carryHeadOf b, (List.range n).map (fun k =>
    (leNat ((b.drop (64 + 8 * k)).take 4), leNat ((b.drop (68 + 8 * k)).take 4))))

/-! ### Checks and dispatch -/

/-- A gate or input entry (R149, R257). -/
def checkScanIn (h : Header) (n : Nat) : MM TEntry := do
  let e ← needTE h.group n 0x20
  mGuard (!e.timeMajor) .format 0x20
  checkIn e fmtActivation 0x20
  mGuard (decide (2 ≤ e.ssrc)) .scale 0x20
  pure e

/-- Records of a FOLD agree in channel count and direction (R150). -/
def checkFold (h : Header) (b : ScanBody) : MM Unit := do
  mGuard (decide (b.nchunks = 0)) .range 0x1C
  let req := reqSeq (seqTile (← mGet) h.group)
  checkRange b.record 64 0x28
  let first ← mRead b.record 64 req
  let f := carryHeadOf first
  let n := 256 * f.groups
  checkRange b.record (carrySize n * b.nchunks) 0x28
  checkRange b.foldOut (carrySize n * b.nchunks) 0x38
  if b.cinEn then checkRange b.cin (carrySize n) 0x30
  let heads ← ((List.range b.nchunks).map (fun c => b.record + carrySize n * c) ++ (if b.cinEn then [b.cin] else [])).mapM
    (fun a => do
      let x ← mRead a 64 req
      pure (carryHeadOf x))
  mGuard (heads.any (fun x => decide (x.groups ≠ f.groups) || x.reverse != f.reverse)) .carry 0x28

/-- Dispatch a SCAN: one item. -/
def dispatchScan (i seq : Nat) (h : Header) (b : ScanBody) : MM Unit := do
  mGuard (decide (b.mode = 3)) .opcode 0x10
  mGuard (decide (b.chunkLen = 0) || decide (2 ^ 20 < b.chunkLen)) .range 0x14
  if b.mode = 1 then
    checkFold h b
    mMod (startItems i seq h.group 1 1 1 [])
  else
    let a ← checkScanIn h b.a
    let x ← checkScanIn h b.b
    checkShape x a.rows a.cols 0x20
    mGuard (decide (a.cols % 256 ≠ 0) || decide (65536 < a.cols)) .range 0x20
    mGuard (decide (a.rows < (b.chunk + 1) * b.chunkLen)) .range 0x18
    checkRange b.record (carrySize a.cols) 0x28
    let o ← if b.mode = 2 then do
        let e ← needTE h.group b.out 0x24
        mGuard (!e.timeMajor || !preloadOk (eFmt e) || (fmtOf e.fmt).isNone) .format 0x24
        checkOut e b.outMode 0x24
        checkShape e a.rows a.cols 0x24
        pure (some e)
      else pure none
    if b.mode = 2 ∧ b.cinEn then
      checkRange b.cin (carrySize a.cols) 0x30
      let c ← mRead b.cin 64 (reqSeq (seqTile (← mGet) h.group))
      let f := carryHeadOf c
      mGuard (decide (256 * f.groups ≠ a.cols) || f.reverse != b.reverse) .carry 0x30
    mMod (startItems i seq h.group 1 1 1 [some a, some x, o])

/-! ### The recurrence -/

/-- The state of one channel. -/
structure Chan where
  p : Nat
  h : Nat
  bad : Bool
  flushed : Bool

/-- A word is infinite or NaN. -/
def logSpecialWord (w : Nat) : Bool := (logClass w).special

/-- One step: the running product of gates, and `h` (R149). -/
def scanStep (c : Chan) (a b : Nat) : VM Chan := do
  let v0 ← get
  let p ← lMul c.p a
  let t ← lMul c.h a
  let h ← lAdd t b
  let v1 ← get
  pure ⟨p, h, c.bad || logSpecialWord p || logSpecialWord h, c.flushed || decide (v0.flush < v1.flush)⟩

/-- A gate as a vector log word (R149). -/
def gateWord (b : ScanBody) (e : TEntry) (v : Nat × Scale) : VM Nat := do
  if b.aMode then do
    let x ← loadFp32 (eFmt e) v.1 v.2
    wExp x
  else loadLog (eFmt e) v.1 v.2

/-- The gates of step `t`, with gate_shift those of `t + 1`; past the last step, +0 or the carry-in's `P` (R152). -/
def stepGates (p : Nat) (b : ScanBody) (e : TEntry) (cin : Option (List (Nat × Nat))) (t : Nat) : MM (List Nat) := do
  let row := if b.gateShift then t + 1 else t
  if row < e.rows then
    let vs ← readRowVals p e 0 row (reqClove p)
    mVM p (vs.mapM (gateWord b e))
  else
    match cin with
    | some ph => pure (ph.map (·.1))
    | none => pure (List.replicate e.cols (logZero false))

/-- A LOCAL or FULL item: steps in order, outputs and the chunk's record (R150). -/
def scanChunk (i p : Nat) (r : Rec) (b : ScanBody) : MM Unit := do
  let a := teAt r.tes 0
  let x := teAt r.tes 1
  let o := teAt r.tes 2
  let n := a.cols
  let cin ← if b.mode = 2 ∧ b.cinEn then do
      let c ← readCarry p b.cin n
      pure (some c.2)
    else pure none
  let lo := b.chunk * b.chunkLen
  let steps := (List.range b.chunkLen).map (lo + ·)
  let init := (List.range n).map (fun k => (⟨0, ((cin.bind (·[k]?)).map (·.2)).getD (logZero false), false, false⟩ : Chan))
  let (chans, nf) ← (if b.reverse then steps.reverse else steps).foldlM (fun (acc : List Chan × Bool) t => do
    let gs ← stepGates p b a cin t
    let vs ← readRowVals p x 0 t (reqClove p)
    let cs ← mVM p ((acc.1.zip (gs.zip vs)).mapM (fun c => do
      let w ← loadLog (eFmt x) c.2.2.1 c.2.2.2
      scanStep c.1 c.2.1 w))
    if b.mode = 2 then
      let out := cs.map (fun c => convert (eFmt o) 0 b.outMode none (logWordVal c.h))
      mMod (countConv p (out.map (·.2)))
      writeRun o (t * n) (reqClove p) (out.map (·.1))
      pure (cs, acc.2 || out.any (fun y => decide (y.2 = .inf) || decide (y.2 = .nan)))
    else pure (cs, acc.2)) (init, false)
  let bad := chans.any (·.bad)
  let head : CarryHead := ⟨n / 256, b.reverse, bad, chans.any (·.flushed), r.hdr.pos + lo,
    r.hdr.pos + lo + b.chunkLen - 1, b.chunk⟩
  mWrite b.record (carryBytes head (chans.map (fun c => (c.p, c.h)))) (reqClove p)
  mMod (addFlags i r.seq { CFlags.none with nonfinite := bad || nf })

/-- A FOLD item: carry-in records in increasing chunk order (R150). The positions of a record are those of the chunk it is for,
its flags what its own words and the FOLD so far show: DESIGN CHOICE, see log 129. -/
def scanFold (i p : Nat) (r : Rec) (b : ScanBody) : MM Unit := do
  let first ← mRead b.record 64 (reqClove p)
  let f := carryHeadOf first
  let n := 256 * f.groups
  let start ← if b.cinEn then do
      let c ← readCarry p b.cin n
      pure (c.2.map (·.2))
    else pure (List.replicate n (logZero false))
  let (_, bad, _) ← (List.range b.nchunks).foldlM (fun (acc : List Nat × Bool × Bool) c => do
    let (h, ph) ← readCarry p (b.record + carrySize n * c) n
    let bad := acc.1.any logSpecialWord
    let head : CarryHead := ⟨f.groups, f.reverse, bad, acc.2.2, h.first, h.last, b.chunk + c⟩
    mWrite (b.foldOut + carrySize n * c) (carryBytes head (acc.1.map (fun w => (0, w)))) (reqClove p)
    let cs ← mVM p ((acc.1.zip ph).mapM (fun x => scanStep ⟨0, x.1, false, false⟩ x.2.1 x.2.2))
    pure (cs.map (·.h), acc.2.1 || cs.any (·.bad), acc.2.2 || cs.any (·.flushed))) (start, false, false)
  mMod (addFlags i r.seq { CFlags.none with nonfinite := bad })

/-- A SCAN item is complete. -/
def completeScanItem (p k : Nat) (r : Rec) (b : ScanBody) (c : Ctx) (s : State) : State :=
  let i := c.item.id.stream
  runItem i r.seq (do
    if b.mode = 1 then scanFold i p r b else scanChunk i p r b
    mMod (fun t => refill (finishPart i r.seq (freeContext p k t)))) s

/-! ### WORK_ITEM_COMPLETE -/

/-- The work of context `k` of clove `p` is complete (R203). -/
def completeItem (p k : Nat) (s : State) : State :=
  let c := ctxOf s p k
  if c.order = 0 then s
  else
    match findRec s c.item.id.stream c.item.id.seq with
    | none => s
    | some r =>
      match r.desc with
      | .matmul b => completeMatmulItem p k r b c s
      | .vecop b => completeVecItem p k r b c s
      | .scan b => completeScanItem p k r b c s
      | _ => s

def execWorkItemComplete (p k : Nat) (s : State) : Host.Outcome State Fault Refusal :=
  onUnit (decide (p < 1216) && decide (k < 4)) (settle s (refill (completeItem p k s)))

end Sys2Proof.Machine
end

