-- ==== Sys2Proof/Machine/Moves.lean ====
section
/-! DEFINITION. MOVE of every kind (R258, Table 10.16), loads of clove stores and their recorded sources (R101, R102, R147, R259), generation snapshots (R183), SCALE_COMMIT (R114) and EVENT (R261). -/

namespace Sys2Proof.Machine

/-! ### Ends of a MOVE -/

/-- The requester of descriptors that run on no clove. -/
def mReq : MM Nat := do
  let s ← mGet
  pure (reqSeq (seqTile s 0))

/-- The range of a module end is one a descriptor may name. -/
def checkEnd (host : Bool) (a n off : Nat) : MM Unit := if host then pure () else checkRange a n off

/-- Read `n` bytes from the source of a MOVE of stream `i`. -/
def readSrc (i : Nat) (b : MoveBody) (n : Nat) : MM (List Byte) := do
  checkEnd b.srcHost b.src n 0x18
  if b.srcHost then mHost b.src n i else mRead b.src n (← mReq)

/-- Write bytes to the destination of a MOVE. -/
def writeDst (b : MoveBody) (bs : List Byte) : MM Unit := do
  if b.dstHost then mMod (hostWrite b.dst bs) else mWrite b.dst bs (← mReq)

/-- The numbers of `w` bytes each that bytes hold. -/
def wordsOf (w n : Nat) (bs : List Byte) : List Nat := (List.range n).map (fun k => leNat ((bs.drop (w * k)).take w))

/-! ### Clove stores -/

/-- Put words into a store from `first` on. -/
def putWords (l : Sparse Nat) (first : Nat) (ws : List Nat) : Sparse Nat :=
  ws.zipIdx.foldl (fun m x => sset 0 m (first + x.2) x.1) l

/-- The last source of each range of a store; a load of the whole of an earlier range replaces it (R259). -/
def noteSource (store first n src : Nat) (c : Clove) : Clove :=
  { c with sources := c.sources.filter (fun x =>
      !(decide (x.1 = store) && decide (first ≤ x.2.1) && decide (x.2.1 + x.2.2.1 ≤ first + n))) ++ [(store, first, n, src)] }

/-- Store numbers of R259, by MOVE kind; spline `k` is 4 + `k`. -/
def storeOfSpline (k : Nat) : Nat := 4 + k

/-- A source address as stream `i` recorded it: those of host memory lie above 2^64, by stream. -/
def sourceOf (i : Nat) (b : MoveBody) : Nat := b.src + (if b.srcHost then 2 ^ 64 * (1 + i) else 0)

/-- Row-scale bank words as they are written: a subnormal is a zero of its sign (R102). -/
def bankWord (w : Nat) : Nat := if isSubnormal .fp32 w then w / 2 ^ 31 * 2 ^ 31 else w

/-- The segments that bytes hold, each with 3·c3 (R147). -/
def segmentsOf (n : Nat) (bs : List Byte) : List Segment :=
  (List.range n).map (fun k =>
    let w (j : Nat) : Nat := leNat ((bs.drop (20 * k + 4 * j)).take 4)
    let c3x3 := (roundFp32 (.num ((Num.fin false 3 0).mul (fp32Num (w 4))))).1
    ⟨w 0, w 1, w 2, w 3, w 4, c3x3⟩)

/-- Breakpoints strictly increase. -/
def breaksRise : List Segment → Bool
  | a :: b :: l => (fp32Num a.b).lt (fp32Num b.b) && breaksRise (b :: l)
  | _ => true

/-- Load a store of clove `p` with bytes: `store` is 1 scale file, 2 INT4 tables, 3 row-scale bank, 4 to 7 splines. -/
def loadStore (store first n : Nat) (bs : List Byte) (p : Nat) (s : State) : State :=
  match store with
  | 1 => modClove s p (fun c => { c with scaleFile := putWords c.scaleFile first (wordsOf 4 n bs) })
  | 2 => modClove s p (fun c => { c with int4 := putWords c.int4 (16 * first) (wordsOf 2 (16 * n) bs) })
  | 3 =>
    let ws := wordsOf 4 n bs
    countIn p (ws.countP (isSubnormal .fp32))
      (modClove s p (fun c => { c with rowBank := putWords c.rowBank first (ws.map bankWord) }))
  | k => modClove s p (fun c => { c with splines := sset [] c.splines (k - 4) (segmentsOf n bs) })

/-- Spares that are joining a position of a group. -/
def joiningIn (s : State) (g : Nat) : List Nat :=
  (s.comp.cloves.filter (fun c => match c.2.joining with
    | some b => ((builtPos b).map (fun x => (groupPods s g).contains x.1)).getD false
    | none => false)).map (·.1)

/-- Load a store of every in-service clove of a group, and record the source; a spare that is joining there takes the
record, and loads the store when it joins. -/
def loadStores (g store first n src : Nat) (bs : List Byte) (s : State) : State :=
  let t := (groupCloves s g).foldl (fun t p =>
    modClove (loadStore store first n bs p t) p (noteSource store first n src)) s
  (joiningIn s g).foldl (fun u p => modClove u p (noteSource store first n src)) t

/-- Bytes of an entry of a store (Table 5.3, R147), and its entries. -/
def storeSize (store : Nat) : Nat × Nat :=
  match store with
  | 1 => (4, 4096)
  | 2 => (32, 256)
  | 3 => (4, 4096)
  | _ => (20, 64)

/-- MOVE SCALE_FILE, INT4_TABLE and ROW_BANK. -/
def moveStore (i : Nat) (h : Header) (kind : Nat) (b : MoveBody) : MM Unit := do
  let (w, top) := storeSize kind
  mGuard (decide (b.length = 0)) .range 0x14
  mGuard (decide (top < b.dst + b.length)) .range (if b.dst < top then 0x14 else 0x20)
  let bs ← readSrc i b (w * b.length)
  mMod (loadStores h.group kind b.dst b.length (sourceOf i b) bs)

/-- MOVE SPLINE. -/
def moveSpline (i : Nat) (h : Header) (b : MoveBody) : MM Unit := do
  mGuard (decide (b.length = 0) || decide (64 < b.length)) .range 0x14
  mGuard (decide (3 < b.arg0)) .range 0x28
  let bs ← readSrc i b (20 * b.length)
  mGuard (!breaksRise (segmentsOf b.length bs)) .range 0x18
  mMod (loadStores h.group (storeOfSpline b.arg0) 0 b.length (sourceOf i b) bs)

/-! ### Tables and seeds -/

/-- MOVE GROUP (R197). -/
def moveGroup (i : Nat) (b : MoveBody) : MM Unit := do
  mGuard (decide (b.arg0 = 0) || decide (63 < b.arg0)) .range 0x28
  let bs ← readSrc i b 16
  mMod (fun s => modComp (writeTable 0 b.arg0 s) (fun c => { c with groups := sset 0 c.groups b.arg0 (leNat bs % 2 ^ 96) }))

/-- A weight record as 128 bytes hold it (Table 7.6). -/
structure WRec where
  kind : Nat
  lg : Bool
  rows : Nat
  cols : Nat
  version : Nat
  high : Nat
  low : Nat
  m : Nat
  v : Nat
  copies : List Nat
  snapshot : Nat
  snapFmt : Nat

def wrecOf (b : List Byte) : WRec :=
  let w := word4 b 0
  { kind := bitsAt w 13 12, lg := bitAt w 14, rows := word4 b 4, cols := word4 b 8
    version := bitsAt (word4 b 0xC) 7 0, high := word8 b 0x10, low := word8 b 0x18, m := word8 b 0x20
    v := word8 b 0x28, copies := [word8 b 0x30, word8 b 0x38, word8 b 0x40].filter (· != 0)
    snapshot := word8 b 0x48, snapFmt := bitsAt (word4 b 0x50) 3 0 }

/-- A record of kind ADAPTER of a rank above 256 (R166, Table 7.6). -/
def adapterTooWide (r : WRec) : Bool := r.kind == 2 && decide (256 < min r.rows r.cols)

/-- Read the record of a registered weight. -/
def readWRec (w off : Nat) : MM WRec := do
  let s ← mGet
  mGuard (!(weight s w).registered) .version off
  let b ← mRead (weight s w).addr 128 (← mReq)
  mGuard (adapterTooWide (wrecOf b)) .range off
  pure (wrecOf b)

/-- MOVE WEIGHT_TABLE: register a record that lies in HBM (R175); an ADAPTER's rank is checked here: DEDUCED, see log 113. -/
def moveWeight (b : MoveBody) : MM Unit := do
  mGuard (decide (4095 < b.arg0)) .range 0x28
  mGuard (b.srcHost || decide (hbmEnd < b.src + 128)) .addr 0x18
  let bs ← mRead b.src 128 (← mReq)
  let r := wrecOf bs
  mGuard (adapterTooWide r) .range 0x18
  mMod (fun s => setWeight (writeTable 1 b.arg0 s) b.arg0 { weight s b.arg0 with
    addr := b.src, version := r.version, refs := 0, registered := true, lastStep := none })

/-- MOVE STAT_SLOT: the committed code and its valid bit (R115). -/
def moveStatSlot (b : MoveBody) : MM Unit := do
  mGuard (decide (4095 < b.arg0)) .range 0x28
  mMod (fun s => setSlotStat s b.arg0 { slotStat s b.arg0 with
    code := bitsAt b.arg1 7 0, codeValid := bitAt b.arg1 8 })

/-- The seed in use for a loaded seed (R120). -/
def seedUsed (v : Nat) : Nat := if v = 0 then resetSeed else v

/-- Pairs of in-service cloves of one tile with the same seed, of which one is loaded now (R123). -/
def seedPairs (s : State) (loaded : List Nat) : List (Nat × Nat) :=
  loaded.flatMap (fun p => ((List.range 76).map (fun k => p / 76 * 76 + k)).filterMap (fun o =>
    if o ≠ p ∧ inService s o ∧ (clove s o).seed = (clove s p).seed ∧ (p < o ∨ !loaded.contains o) then
      some (min p o, max p o)
    else none))

/-- MOVE SEED (R120, R123): seeds are compared when the whole load is in. DESIGN CHOICE, see log 118. -/
def moveSeed (i : Nat) (h : Header) (b : MoveBody) : MM Unit := do
  let bs ← readSrc i b 9728
  let seeds := (wordsOf 8 1216 bs).toArray
  mMod (fun s =>
    let loaded := (groupCloves s h.group).mergeSort (fun a b => decide (a ≤ b))
    let t := loaded.foldl (fun u p => modClove u p (fun c => { c with seed := seedUsed (seeds.getD p 0) })) s
    (seedPairs t loaded).foldl (fun u x => raiseEv { code := 0x08, unit := x.1 / 76, arg0 := x.1, arg1 := x.2 } u) t)

/-! ### Snapshots (R183) -/

/-- The high half of a record as a Z-blocked tensor (R31, R32). -/
def highEntry (r : WRec) (base : Nat) : TEntry :=
  ⟨base, r.rows, r.cols, (if r.lg then 0xA else 0x1), 0, 0, false, false, 0⟩

/-- Formats of a snapshot (Table 7.6). -/
def snapOk (f : Fmt) : Bool :=
  match f with
  | .bf16 => true
  | .lg16 => true
  | .lg8 => true
  | .e4m3 => true
  | _ => false

/-- The snapshot as a tensor: its version plane follows its blocks, its scale plane the version plane, at a line
(log 28). -/
def snapEntry (r : WRec) : TEntry :=
  let e : TEntry := ⟨r.snapshot, r.rows, r.cols, r.snapFmt, 0, 0, true, false, 0⟩
  { e with plane := (r.snapshot + tensorBytes e + rowBlocks e * colBlocks e + 63) / 64 * 64 }

/-- One block of a snapshot. -/
def snapBlock (src dst : TEntry) (br bc req : Nat) : MM Unit := do
  let v ← readBlock src br bc req
  let f := eFmt dst
  let ys := v.mapIdx (fun n c =>
    if src.rows ≤ 64 * br + n / 64 ∨ src.cols ≤ 64 * bc + n % 64 then Val.num (.zero false)
    else decodeElem (eFmt src) c (.pow 0))
  if fmtScaled f then
    let codes := lateCodes f true 32 ys
    let ks := exponents true 32 codes
    writeBlock dst br bc req ((convertBlock f false (fun n => ks.getD n 0) (fun _ => none) ys).map (·.1)).toArray
    writeCodes dst br bc req codes
  else
    writeBlock dst br bc req ((convertBlock f false (fun _ => 0) (fun _ => none) ys).map (·.1)).toArray

/-- MOVE SNAPSHOT. -/
def moveSnapshot (b : MoveBody) : MM Unit := do
  mGuard (decide (4095 < b.arg0)) .range 0x28
  let r ← readWRec b.arg0 0x28
  mGuard (match fmtOf r.snapFmt with
    | some f => !snapOk f
    | none => true) .opcode 0x28
  mGuard (decide (r.snapshot = 0)) .addr 0x28
  mGuard (decide (r.snapshot % 4096 ≠ 0) || decide (r.high % 4096 ≠ 0)) .align 0x28
  let src := highEntry r r.high
  let dst := snapEntry r
  let n := rowBlocks dst * colBlocks dst
  checkRange src.base (tensorBytes src) 0x28
  checkRange dst.base (tensorBytes dst + n) 0x28
  if fmtScaled (eFmt dst) then checkRange dst.plane (planeBytes dst) 0x28
  let s ← mGet
  let req ← mReq
  (List.range (rowBlocks dst)).forM (fun br => (List.range (colBlocks dst)).forM (fun bc => snapBlock src dst br bc req))
  mWrite (dst.base + tensorBytes dst) (List.replicate n (BitVec.ofNat 8 (weight s b.arg0).version)) req

/-! ### DELIVER (R239, R240) -/

/-- The delivered stamp is past its deadline, or the tally cannot say. -/
def deliverLate (s : State) (b : MoveBody) : Bool :=
  stampGt s.tally.bus ⟨b.mark, b.markFrac⟩ || decide (s.tally.state = .off) || decide (s.tally.state = .lost)

/-- The record of Table 9.5. -/
def deliverRec (s : State) (b : MoveBody) : List Byte :=
  leBytes 4 b.arg0
    ++ leBytes 4 (b2n (deliverLate s b) + 2 * b2n (decide (s.tally.state = .holdover))
      + 4 * b2n (decide (s.tally.state = .lost)) + 8 * b2n s.tally.resync)
    ++ leBytes 8 b.mark ++ leBytes 8 s.tally.bus.pair
    ++ leBytes 4 (b.markFrac % 256 + 256 * (s.tally.bus.frac % 256)) ++ leBytes 4 b.length

/-- MOVE DELIVER; whether it is late. -/
def moveDeliver (i : Nat) (b : MoveBody) : MM Bool := do
  checkEnd b.srcHost b.src b.length 0x18
  checkEnd b.dstHost b.dst (32 + b.length) 0x20
  let bs ← readSrc i b b.length
  let s ← mGet
  writeDst b (deliverRec s b ++ bs)
  let late := deliverLate s b
  mMod (fun t => if late then count (tallyBase + 0x4C) 1 t else t)
  pure late

/-- MOVE COPY. -/
def moveCopy (i : Nat) (b : MoveBody) : MM Unit := do
  checkEnd b.srcHost b.src b.length 0x18
  checkEnd b.dstHost b.dst b.length 0x20
  let bs ← readSrc i b b.length
  writeDst b bs

/-- Dispatch a MOVE: it is done whole, and completes. -/
def dispatchMove (i seq : Nat) (h : Header) (kind : Nat) (b : MoveBody) : MM Unit := do
  let late ← match kind with
    | 0x00 => do moveCopy i b; pure false
    | 0x01 => do moveStore i h 1 b; pure false
    | 0x02 => do moveStore i h 2 b; pure false
    | 0x03 => do moveStore i h 3 b; pure false
    | 0x04 => do moveSpline i h b; pure false
    | 0x05 => do moveGroup i b; pure false
    | 0x06 => do moveWeight b; pure false
    | 0x07 => do moveStatSlot b; pure false
    | 0x08 => do moveSnapshot b; pure false
    | 0x09 => do moveSeed i h b; pure false
    | 0x0A => do
      mMod (fun s => modStream s i (fun x => { x with keySeed := b.arg0 % 2 ^ 32 + 2 ^ 32 * (b.arg1 % 2 ^ 32) }))
      pure false
    | 0x0B => moveDeliver i b
    | _ => mFail .range 0x10
  mMod (complete i seq stOK 0 0 { CFlags.none with late := late })

/-! ### SCALE_COMMIT (R114) -/

/-- The merged record of a slot. -/
def mergedRec (s : State) (slot : Nat) : Stats :=
  (List.range 16).foldl (fun a t => mergeStats a (partialRec s t slot)) Stats.empty

/-- The proposal of a record: the smallest scale that holds its maximum, plus headroom (R114). For a format that takes no
scale λ is its largest finite magnitude: DESIGN CHOICE, see log 115. -/
def proposalOf (f : Fmt) (headroom maxAbs : Nat) : Option Nat :=
  if maxAbs = 0 then none
  else some (clampScale (smallestScale f (.num (fp32Num maxAbs)) + headroom) + 127).toNat

/-- A slot's record, its proposal, and the next free value: a slot into which nothing drained has no format and no
histogram base to show (log 4). -/
def slotRecord (s : State) (headroom slot : Nat) : List Byte × Option Nat :=
  let x := slotStat s slot
  let st := mergedRec s slot
  let w := (Config.freeWord (s.free + slot)).toNat
  let fmt := if x.bound then x.outFmt else w % 16
  let prop := proposalOf ((fmtOf fmt).getD .fp32) headroom st.maxAbs
  (recordBytes slot fmt (if x.bound then x.histBase else w / 16 % 256) (prop.getD 0) prop.isSome st, prop)

/-- Stage a slot's proposal and clear its partial records; its binding and its miss end (R113, R118). -/
def stageSlot (slot : Nat) (prop : Option Nat) (s : State) : State :=
  let x := slotStat s slot
  let t := setSlotStat s slot { x with
    staged := prop.getD x.staged, stagedValid := x.stagedValid || prop.isSome, bound := false, missSeen := false
    outFmt := 0, histBase := 0 }
  modComp t (fun c => { c with partials := c.partials.filter (fun p => decide (p.1 % 4096 ≠ slot)) })

/-- Dispatch a SCALE_COMMIT: its records are written and it completes. A destination that does not lie in HBM gives
DESC_ERROR, detail ADDR: DESIGN CHOICE, see log 116. -/
def dispatchScaleCommit (i seq : Nat) (b : ScaleCommitBody) : MM Unit := do
  mGuard (decide (b.count = 0) || decide (4096 < b.first + b.count)) .range 0x10
  mGuard (decide (hbmEnd < b.dst + 320 * b.count)) .addr 0x18
  let s ← mGet
  let l := (List.range b.count).map (fun k => (b.first + k, slotRecord s b.headroom (b.first + k)))
  mWrite b.dst (l.flatMap (fun x => x.2.1)) (← mReq)
  mMod (fun t =>
    let u := l.foldl (fun w x => stageSlot x.1 x.2.2 w) { t with free := t.free + 4096 }
    completeOK i seq u)

/-! ### EVENT (R261) -/

/-- Dispatch an EVENT. -/
def dispatchEvent (i seq : Nat) (b : EventBody) : MM Unit := do
  mGuard (b.irqEn && decide (64 < b.vector)) .range 0x20
  if b.writeEn then
    checkEnd b.host b.addr 8 0x10
    if b.host then mMod (hostWrite b.addr (leBytes 8 b.value)) else mWrite b.addr (leBytes 8 b.value) (← mReq)
  mMod (fun s => completeOK i seq (if b.irqEn then requestVector b.vector s else s))

end Sys2Proof.Machine
end

