-- ==== Sys2Proof/Machine/Stash.lean ====
section
/-! DEFINITION. The stash: coding of entries (R167 to R169), regions and the overflow ladder (R170 to R172), STASH_SAVE, STASH_SAVE_RESUME and STASH_LOAD (R173, R174). -/

namespace Sys2Proof.Machine

/-! ### Coding (R169) -/

/-- The +0 code of LG8. -/
def lg8Zero : Nat := 0x40

/-- Bit `e` set where element `e` is +0. -/
def zeroMap (els : List Nat) : Nat := els.zipIdx.foldl (fun m x => if x.1 = lg8Zero then m + 2 ^ x.2 else m) 0

/-- A group holds 5 or more +0 elements. -/
def groupMapped (els : List Nat) : Bool := decide (5 ≤ els.countP (· == lg8Zero))

/-- The bytes of one group whose code is not 0x00. -/
def groupBytes (els : List Nat) : List Byte :=
  if groupMapped els then leBytes 4 (zeroMap els) ++ (els.filter (· != lg8Zero)).map (BitVec.ofNat 8)
  else els.map (BitVec.ofNat 8)

/-- Bytes padded with zeros to whole lines. -/
def toLines (b : List Byte) : List Byte := b ++ List.replicate ((64 - b.length % 64) % 64) 0#8

/-- The record of a block: its 128 scale codes and its codes in row-major order. -/
def blockRecord (codes : List Nat) (v : Array Nat) : List Byte :=
  let groups := (blockGroups 32).map (fun p => (groupPlaces true 32 p.1 p.2).map (fun n => v.getD n 0))
  let gs := codes.zip groups
  let bitmap := gs.zipIdx.foldl (fun m x => if groupMapped x.1.2 then m + 2 ^ x.2 else m) 0
  toLines (codes.map (BitVec.ofNat 8) ++ leBytes 16 bitmap
    ++ gs.flatMap (fun x => if x.1 = 0 then [] else groupBytes x.2))

/-- Elements of a mapped group: +0 where its map says so, else the next code. -/
def unmapGroup : Nat → List Byte → Nat → List Nat
  | 0, _, _ => []
  | n + 1, b, m =>
    if m % 2 = 1 then lg8Zero :: unmapGroup n b (m / 2)
    else (b.headD 0#8).toNat :: unmapGroup n (b.drop 1) (m / 2)

/-- The groups of a record, from their codes and map bits and the bytes after the map: a group of code 0x00 is +0. -/
def readGroups : List (Nat × Bool) → List Byte → List (List Nat)
  | [], _ => []
  | (c, mapped) :: gs, b =>
    if c = 0 then List.replicate 32 lg8Zero :: readGroups gs b
    else if mapped then
      let m := leNat (b.take 4)
      let k := 32 - ((List.range 32).countP (fun e => m.testBit e))
      unmapGroup 32 (b.drop 4) m :: readGroups gs (b.drop (4 + k))
    else (b.take 32).map (·.toNat) :: readGroups gs (b.drop 32)

/-- The scale codes and row-major codes of the record at the front of `b`. -/
def recordOf (b : List Byte) : List Nat × Array Nat :=
  let codes := (b.take 128).map (·.toNat)
  let bitmap := leNat ((b.drop 128).take 16)
  let groups := (readGroups (codes.zipIdx.map (fun x => (x.1, bitmap.testBit x.2))) (b.drop 144)).toArray
  (codes, ((List.range 4096).map (fun n =>
    let g := groups.getD (codePlace 32 (n % 64) (n / 64 / 32)) []
    g.getD (n / 64 % 32) lg8Zero)).toArray)

/-! ### Sizes and pages (R169, R170) -/

def pageSize : Nat := 65536

/-- Bytes of a block index. -/
def indexBytes (blocks : Nat) : Nat := (4 * blocks + 63) / 64 * 64

/-- Pages of an entry's worst case. -/
def worstPages (blocks : Nat) : Nat := (64 + indexBytes blocks + 4288 * blocks + pageSize - 1) / pageSize

/-- Pages in use of a clove's slice region, and of the HBM region. -/
def slicePages (s : State) (p : Nat) : List Nat :=
  (clove s p).stash.flatMap (fun e => if e.2.inHbm then [] else e.2.pages)
def hbmPagesUsed (s : State) : List Nat :=
  s.comp.cloves.flatMap (fun c => c.2.stash.flatMap (fun e => if e.2.inHbm then e.2.pages else []))

/-- Free pages of a clove's slice region; its lowest page is the page table. -/
def freeSlice (s : State) (p : Nat) : List Nat :=
  let used := slicePages s p
  ((List.range ((clove s p).stashPages - 1)).map (fun k => sliceBase p + 0x1C00000 - pageSize * (k + 1))).filter
    (fun a => !used.contains a)

/-- Free pages of the HBM region. -/
def freeHbm (s : State) : List Nat :=
  let used := hbmPagesUsed s
  let base := reg8 s (hostBase + 0x3020)
  ((List.range (reg4 s (hostBase + 0x3028) % 2 ^ 21)).map (fun k => base + pageSize * k)).filter (fun a => !used.contains a)

/-- The `n` of some free pages that the `d`-th entry takes: which ones the spec leaves open, a free value (log 18). -/
def takePages (d n : Nat) (l : List Nat) : List Nat :=
  (l.mergeSort (fun a b => decide (Config.pageRank d a ≤ Config.pageRank d b))).take n

/-! ### The ladder (R171, Table 7.4) -/

/-- Where a save of `need` pages goes; `slice` names the entries dropped for it. -/
inductive Place where
  | slice (drop : List Nat)
  | dropped
  | hbm
  | hold
  deriving DecidableEq, Repr

/-- DROPPABLE entries of a clove in save order: index and pages. -/
def droppable (s : State) (p : Nat) : List (Nat × Nat) :=
  (((clove s p).stash.filter (fun e => decide (e.2.state = .present) && e.2.recompute && !e.2.inHbm)).mergeSort
    (fun a b => decide (a.2.order ≤ b.2.order))).map (fun e => (e.1, e.2.pages.length))

/-- The first entries whose pages make `have_` up to `need`. -/
def dropUntil (need : Nat) : Nat → List (Nat × Nat) → List Nat
  | _, [] => []
  | have_, (k, n) :: l => if need ≤ have_ then [] else k :: dropUntil need (have_ + n) l

/-- The row of Table 7.4 that a save takes. -/
def placeOf (s : State) (p need : Nat) (recompute : Bool) : Place :=
  let free := (freeSlice s p).length
  let l := droppable s p
  if (freeIndex s p).isNone then .hold
  else if need ≤ free then .slice []
  else if recompute then .dropped
  else if need ≤ free + (l.map (·.2)).sum then .slice (dropUntil need free l)
  else if need ≤ (freeHbm s).length then .hbm
  else .hold

/-- Entry `k` of clove `p` is dropped. -/
def dropEntry (p k : Nat) (s : State) : State :=
  count (cloveBase p + 0x12C) 1 (modClove s p (fun c => { c with
    stash := smod StashEntry.none c.stash k (fun e => { e with state := .dropped, pages := [] }) }))

/-! ### Saving -/

/-- The header of Table 7.3. -/
def entryHeader (e : StashEntry) : List Byte :=
  leBytes 4 (e.tensor % 4096 + 2 ^ 16 * (e.layer % 65536))
    ++ leBytes 4 (e.slot % 4 + 4 * b2n e.recompute + 8 * b2n e.inHbm + 16 * (e.step % 2))
    ++ leBytes 4 (e.posFirst % 2 ^ 20) ++ leBytes 4 (e.posLast % 2 ^ 20) ++ leBytes 4 e.rows ++ leBytes 4 e.cols
    ++ leBytes 4 (e.weightId % 4096 + 2 ^ 16 * (e.version % 256)) ++ leBytes 4 e.length ++ List.replicate 32 0#8

/-- Code one block of the source (R167). -/
def codeBlock (p : Nat) (e : TEntry) (file br bc : Nat) : MM (List Byte) := do
  let vals ← readVals p e file br bc (reqClove p)
  let pad (n : Nat) : Bool := decide (e.rows ≤ 64 * br + n / 64) || decide (e.cols ≤ 64 * bc + n % 64)
  let ys := vals.mapIdx (fun n x => if pad n then Val.num (.zero false) else decodeElem (eFmt e) x.1 x.2)
  let sub := vals.toList.zipIdx.countP (fun x => !pad x.2 && isSubnormal (eFmt e) x.1.1)
  let codes := lateCodes .lg8 true 32 ys
  let ks := exponents true 32 codes
  let out := convertBlock .lg8 false (fun n => ks.getD n 0) (fun _ => none) ys
  mMod (fun s => count (cloveBase p + 0x124) (out.countP (fun x => decide (x.2 = .saturated)))
    (count (cloveBase p + 0x120) (out.countP (fun x => decide (x.2 = .flushed))) (countIn p sub s)))
  pure (blockRecord codes (out.map (·.1)).toArray)

/-- Offsets in lines of records that follow one another from line `o`. -/
def offsetsFrom : Nat → List (List Byte) → List Nat
  | _, [] => []
  | o, r :: rs => o :: offsetsFrom (o + r.length / 64) rs

/-- Write an entry's bytes to its pages, in order. -/
def writePages (req : Nat) : List Nat → List Byte → MM Unit
  | [], _ => pure ()
  | a :: l, b => do
    mWrite a (b.take pageSize) req
    writePages req l (b.drop pageSize)

/-- Code the source and write the entry into free pages (R168, R170): the entry as it stands. -/
def writeEntry (p : Nat) (e : TEntry) (file : Nat) (x : StashEntry) : MM StashEntry := do
  let recs ← (List.range (rowBlocks e)).flatMapM (fun br => (List.range (colBlocks e)).mapM (codeBlock p e file br))
  let ix := indexBytes recs.length
  let body := recs.flatten
  let len := 64 + ix + body.length
  let s ← mGet
  let y := { x with
    length := len
    pages := takePages s.free ((len + pageSize - 1) / pageSize) (if x.inHbm then freeHbm s else freeSlice s p) }
  mMod (fun t => { t with free := t.free + 1 })
  let offs := offsetsFrom ((64 + ix) / 64) recs
  let index := offs.flatMap (leBytes 4)
  writePages (reqClove p) y.pages (entryHeader y ++ index ++ List.replicate (ix - index.length) 0#8 ++ body)
  pure y

/-- Make the entry of a save at the lowest free index of clove `p`, and complete (R170, R181). -/
def finishSave (p i seq : Nat) (b : StashSaveBody) (x : StashEntry) (s : State) : State :=
  let k := (freeIndex s p).getD 0
  let t := addRef b.weightId (putEntry p k { x with order := s.comp.orderNo + 1 } s)
  complete i seq stOK 0 (k + 256 * p) { CFlags.none with dropped := decide (x.state = .dropped) } t

/-- Hold a save; STASH_FULL once per wait (R170, R171). -/
def holdSave (p i seq : Nat) (r : Rec) (s : State) : State :=
  let t := modRec i seq (fun x => { x with life := .stashWait, fullRaised := true }) s
  if r.fullRaised then t
  else raiseEv { code := 0x04, unit := p, arg0 := r.hdr.slot, arg1 := r.hdr.layer, arg2 := i } t

/-- Raise STASH_SPILL on the first spill since the last STEP_COMMIT. -/
def noteSpill (p : Nat) (r : Rec) (s : State) : State :=
  let t := count (cloveBase p + 0x128) 1 s
  if t.comp.spillSeen then t
  else raiseEv { code := 0x03, unit := p, arg0 := r.hdr.slot, arg1 := r.hdr.layer }
    (modComp t (fun c => { c with spillSeen := true }))

/-- Place a save by the ladder and make it, or hold it. -/
def placeSave (i seq p : Nat) (r : Rec) (b : StashSaveBody) (e : TEntry) : MM Unit := do
  let s ← mGet
  let need := worstPages (rowBlocks e * colBlocks e)
  let x := newEntry s r b e
  match placeOf s p need b.recompute with
  | .slice drop => do
    mMod (fun t => drop.foldl (fun u k => dropEntry p k u) t)
    let y ← writeEntry p e b.file x
    mMod (finishSave p i seq b y)
  | .dropped => mMod (fun t =>
      finishSave p i seq b { x with state := .dropped } (count (cloveBase p + 0x12C) 1 t))
  | .hbm => do
    mMod (noteSpill p r)
    let y ← writeEntry p e b.file { x with inHbm := true }
    mMod (finishSave p i seq b y)
  | .hold => mMod (holdSave p i seq r)

/-- Make a save that may be made now: its entry is LOST when its clove was quarantined since it was taken, at once or, with
no index free, once one is (R174). -/
def makeSave (i seq p : Nat) (r : Rec) (b : StashSaveBody) (e : TEntry) : MM Unit :=
  if r.lostIn.contains p then
    mMod (fun s => if (freeIndex s p).isNone then holdSave p i seq r s else lostEntry p i r b e s)
  else placeSave i seq p r b e

/-- Dispatch a STASH_SAVE (R167, R171, R175). -/
def dispatchStashSave (i seq : Nat) (r : Rec) (b : StashSaveBody) : MM Unit := do
  let e ← needTE r.hdr.group b.src 0x10
  mGuard e.timeMajor .format 0x10
  checkFields e (fun f => f != .lg32) 0x10
  -- the slice of a clove lost since the take is not looked at (R174)
  if (sliceOf e.base).any (r.lostIn.contains ·) then pure () else checkReach e 0x10
  match sliceOf e.base with
  | none => mFail .addr 0x10
  | some p => do
    mGuard (decide (sliceOf (e.base + tensorBytes e - 1) ≠ some p)
      || (decide (e.ssrc = 1) && (decide (sliceOf e.plane ≠ some p)
        || decide (sliceOf (e.plane + planeBytes e - 1) ≠ some p)))) .addr 0x10
    checkFile e b.file false 0x14
    mGuard (decide (256 < worstPages (rowBlocks e * colBlocks e))) .range 0x10
    let s ← mGet
    mGuard (!(weight s b.weightId).registered) .version 0x10
    mMod (modRec i seq (fun x => { x with tes := [some e] }))
    makeSave i seq p r b e

/-- A save of stream `i` that waits and now fits (R172); a record that is UPDATING holds it (R182). One whose clove was
quarantined waits for an index alone (R174). -/
def resumable (s : State) (r : Rec) : Option (Nat × StashSaveBody × TEntry) :=
  match r.life, r.desc, r.tes with
  | .stashWait, .stashSave b, (some e) :: _ =>
    match sliceOf e.base with
    | some p =>
      let ready := if r.lostIn.contains p then (freeIndex s p).isSome
        else decide (placeOf s p (worstPages (rowBlocks e * colBlocks e)) b.recompute ≠ .hold)
          && decide ((weight s b.weightId).state ≠ 1) && inService s p
      if ready then some (p, b, e) else none
    | none => none
  | _, _, _ => none

/-- The oldest save of stream `i` whose wait is over is made. -/
def resumeSave (i : Nat) (s : State) : State :=
  match (stream s i).window.findSome? (fun r => (resumable s r).map (fun x => (r, x))) with
  | some (r, p, b, e) => runDesc i r.seq (makeSave i r.seq p r b e) s
  | none => s

def execStashSaveResume (i : Nat) (s : State) : Host.Outcome State Fault Refusal :=
  onUnit (decide (i < 64)) (settle s (resumeSave i s))

/-! ### Loading (R173) -/

/-- An entry and its version reference are released. -/
def releaseEntry (p k : Nat) (s : State) : State :=
  let e := sget StashEntry.none (clove s p).stash k
  if e.order = 0 then s
  else dropRef e.weightId (modClove s p (fun c => { c with stash := sset StashEntry.none c.stash k StashEntry.none }))

/-- The bytes of an entry. -/
def readEntry (req : Nat) (x : StashEntry) : MM (List Byte) := do
  let l ← x.pages.zipIdx.mapM (fun (a, n) => mRead a (min pageSize (x.length - pageSize * n)) req)
  pure l.flatten

/-- The call table entry of a list: its address and count; none when it is invalid (R263). -/
def callEntry (n off : Nat) : MM (Nat × Nat) := do
  let s ← mGet
  let b ← mRead (reg8 s (hostBase + 0x20) + 16 * n) 16 (reqSeq (seqTile s 0))
  let w := leNat ((b.drop 8).take 4)
  let k := bitsAt w 16 0
  mGuard (!bitAt w 17 || decide (k = 0) || decide (65536 < k)) .call off
  mGuard (decide (leNat (b.take 8) % 64 ≠ 0)) .align off
  pure (leNat (b.take 8), k)

/-- The stream takes a list's descriptors in place of descriptor `seq`, its caller, which is the last it took (R262). -/
def pushCall (i seq addr n : Nat) (slotEn : Bool) (slot posAdd : Nat) (s : State) : State :=
  modStream s i (fun x => { x with
    calls := match x.window.find? (fun r => r.seq == seq) with
      | some r => ⟨addr, n, slotEn, slot, posAdd, { r with life := .waiting }⟩ :: x.calls
      | none => x.calls
    window := x.window.filter (fun r => r.seq != seq) })

/-- A CALL would nest more than 8 levels deep, counting itself (R263). -/
def tooDeep (s : State) (i : Nat) : Bool := decide (8 ≤ (stream s i).calls.length)

/-- Decode an entry into its destination. -/
def loadEntry (x : StashEntry) (d : TEntry) (req : Nat) : MM Unit := do
  let b ← readEntry req x
  (List.range (rowBlocks d)).forM (fun br => (List.range (colBlocks d)).forM (fun bc => do
    let o := leNat ((b.drop (64 + 4 * blockNo d br bc)).take 4)
    let (codes, v) := recordOf (b.drop (64 * o))
    writeBlock d br bc req v
    writeCodes d br bc req codes))

/-- Dispatch a STASH_LOAD. -/
def dispatchStashLoad (i seq : Nat) (h : Header) (b : StashLoadBody) : MM Unit := do
  let s ← mGet
  let x := sget StashEntry.none (clove s b.clove).stash b.index
  mGuard (decide (x.order = 0)) .entry 0x10
  if x.state = .present then
    mGuard (decide (x.version ≠ (weight s x.weightId).version)) .version 0x10
    let d ← needTE h.group b.dst 0x18
    mGuard (d.timeMajor || decide (fmtOf d.fmt ≠ some .lg8) || decide (d.glen ≠ 0) || !d.axisRow) .format 0x18
    checkOut d false 0x18
    checkShape d x.rows x.cols 0x18
    loadEntry x d (reqClove ((sliceOf d.base).getD b.clove))
    mMod (fun t => completeOK i seq (if b.release then releaseEntry b.clove b.index t else t))
  else if b.listEn then
    mGuard (tooDeep s i) .call 0x14
    let (a, n) ← callEntry b.list 0x14
    mMod (pushCall i seq a n false 0 0)
  else if x.state = .dropped then mFail .entry 0x10
  else mUE 1

end Sys2Proof.Machine
end

