-- ==== Sys2Proof/Machine/Update.lean ====
section
/-! DEFINITION. The update engine: UPDATE, UPDATE_START and UPDATE_COMPLETE (R176 to R182, Table 7.8). -/

namespace Sys2Proof.Machine

/-! ### FP32 operations (R127) -/

/-- One rounding to FP32, uncounted. -/
def fRnd (x : Num) : Nat := (roundFp32 (.num x)).1
def fMul (a b : Nat) : Nat := fRnd ((fp32Num a).mul (fp32Num b))
def fAdd (a b : Nat) : Nat := fRnd ((fp32Num a).add (fp32Num b))
def fFma (a b c : Nat) : Nat := fRnd (((fp32Num a).mul (fp32Num b)).add (fp32Num c))
def fDiv (a b : Nat) : Nat := fRnd ((fp32Num a).div (fp32Num b))

/-- The integer square root of `n` below 2^(2·`k`), from its bits downwards. -/
def isqrt : Nat → Nat → Nat → Nat
  | 0, _, r => r
  | k + 1, n, r => isqrt k n (if (r + 2 ^ k) * (r + 2 ^ k) ≤ n then r + 2 ^ k else r)

/-- The square root, correctly rounded: an inexact root stands half a unit above its 40 or more bits. -/
def fSqrt (a : Nat) : Nat :=
  match fp32Num a with
  | .fin false m e =>
    let d := (e % 2).toNat
    let n := m * 2 ^ (d + 64)
    let r := isqrt 64 n 0
    fRnd (.fin false (if r * r = n then 2 * r else 2 * r + 1) ((e - d) / 2 - 33))
  | .fin true _ _ => nanCode .fp32 false
  | .inf true => nanCode .fp32 false
  | n => fRnd n

/-! ### One parameter (R177) -/

/-- The hyperparameter block of Table 7.7, FP32 words. -/
structure Hyper where
  lr : Nat
  beta1 : Nat
  beta2 : Nat
  omb1 : Nat
  omb2 : Nat
  eps : Nat
  wd : Nat
  c1 : Nat
  c2 : Nat
  gamma : Nat

def hyperOf (b : List Byte) : Hyper :=
  ⟨word4 b 0, word4 b 4, word4 b 8, word4 b 0xC, word4 b 0x10, word4 b 0x14, word4 b 0x18, word4 b 0x1C, word4 b 0x20,
    word4 b 0x24⟩

/-- The block breaks a rule of R179. -/
def hyperBad (h : Hyper) : Bool :=
  let one := Num.fin false 1 0
  let zero := Num.zero false
  let bad01 (x : Nat) : Bool := (fp32Num x).lt zero || !(fp32Num x).lt one
  [h.lr, h.beta1, h.beta2, h.omb1, h.omb2, h.eps, h.wd, h.c1, h.c2, h.gamma].any (fun x => (fp32Num x).special)
    || bad01 h.beta1 || bad01 h.beta2 || !zero.lt (fp32Num h.eps) || (fp32Num h.lr).lt zero
    || (fp32Num h.c1).lt one || (fp32Num h.c2).lt one

def fpNan (w : Nat) : Bool :=
  match fp32Num w with
  | .nan _ => true
  | _ => false

def fpInf (w : Nat) : Bool :=
  match fp32Num w with
  | .inf _ => true
  | _ => false

/-- What R177 makes of one parameter: `w`, `m`, `v`, and whether u, m, v or w is NaN (Table 7.8). -/
structure Stepped where
  w : Nat
  m : Nat
  v : Nat
  bad : Bool

/-- The pseudocode of R177, line by line. -/
def adamStep (h : Hyper) (grad : Num) (wOld mOld vOld : Nat) : Stepped :=
  let g := fRnd grad
  let g := fMul g h.gamma
  let t1 := fMul h.omb1 g
  let m := fFma h.beta1 mOld t1
  let t2 := fMul g g
  let t3 := fMul h.omb2 t2
  let v := fFma h.beta2 vOld t3
  let mh := fMul m h.c1
  let vh := fMul v h.c2
  let d := fAdd (fSqrt vh) h.eps
  let u := fDiv mh d
  let t4 := fFma h.wd wOld u
  let w := fRnd (((fp32Num h.lr).negate.mul (fp32Num t4)).add (fp32Num wOld))
  ⟨w, m, v, fpNan u || fpNan m || fpNan v || fpNan w⟩

/-! ### Halves and moments (R31, R32, R178) -/

/-- The old master value as FP32 (R177): exact for split FP32, converted once for LG32. -/
def masterOld (lg : Bool) (hi lo : Nat) : Nat :=
  let x := hi * 65536 + lo
  if lg then (convert .fp32 0 false none (logWordVal x)).1 else x

/-- A moment as FP32 (R45). -/
def momentOld (c sc : Nat) : Nat := (convert .fp32 0 false none (decodeElem .lg8 c (scaleOfCode sc))).1

/-- A new master word, whether it saturated, and whether it was flushed to the zero word (R178, Table 7.8). -/
def masterNew (lg : Bool) (w : Nat) : Nat × Bool × Bool :=
  let s := (fp32Num w).neg
  if lg then
    if fpInf w then (encodeLogWord s logWordMax, true, false)
    else
      let (x, fl, ov) := toLogWord (.num (fp32Num w))
      if ov then (encodeLogWord s logWordMax, true, false) else (x, false, fl)
  else if fpInf w then (largestCode .fp32 s, true, false)
  else (w, false, false)

/-- Moments of one group of 32: codes with what each counts as, and the scale code (R178). -/
def momentGroup (xs : List Nat) : List (Nat × Bin) × Nat :=
  let vs := xs.map (fun x => Val.num (fp32Num x))
  let c := lateCode .lg8 vs
  (vs.map (convert .lg8 (codeExp c) false none), c)

/-- Cut a list into runs of 32; `n` of them. -/
def runs32 {α : Type} : Nat → List α → List (List α)
  | 0, _ => []
  | n + 1, l => l.take 32 :: runs32 n (l.drop 32)

/-! ### One block (R177, R178) -/

/-- The engine that computes block `b` (R177, R363). -/
def engineOf (s : State) (b : Nat) : Nat :=
  (((List.range 16).map (fun k => (b + k) % 16)).find? (fun t => !tileIsOut s t && !s.comp.updateOut.contains t)).getD (b % 16)

/-- Where a gradient comes from: a tensor, or words of a size at an address with an exponent (R176). -/
inductive GradSrc where
  | tensor (base : Nat)
  | words (size addr : Nat) (e : Int)

/-- Elements of a block that are not padding, in storage order: how many come before the block, and which places are. -/
def realPlaces (r : WRec) (b : Nat) : List Bool :=
  let nbc := (r.cols + 63) / 64
  (List.range 4096).map (fun p => decide (64 * (b / nbc) + zRow p < r.rows) && decide (64 * (b % nbc) + zCol p < r.cols))

/-- Elements that are not padding in blocks before `b`. -/
def realBefore (r : WRec) (b : Nat) : Nat :=
  let nbc := (r.cols + 63) / 64
  let br := b / nbc
  64 * br * r.cols + min 64 (r.rows - 64 * br) * (64 * (b % nbc))

/-- Words spread over a block's places; a padding place takes none. -/
def spread : List Bool → List Num → List Num
  | [], _ => []
  | true :: ps, x :: xs => x :: spread ps xs
  | true :: ps, [] => .zero false :: spread ps []
  | false :: ps, xs => .zero false :: spread ps xs

/-- Gradients of block `b`, in storage order (log 30). -/
def readGrads (r : WRec) (g : GradSrc) (b req : Nat) : MM (List Num) := do
  match g with
  | .tensor base => do
    let bs ← mRead (base + 16384 * b) 16384 req
    pure ((unpackCodes 32 bs).map fp32Num)
  | .words size a e => do
    let ps := realPlaces r b
    let n := ps.countP id
    let bs ← mRead (a + size * realBefore r b) (size * n) req
    pure (spread ps ((wordsOf size n bs).map (fun w => ofInt (signedN (8 * size) w) e)))

/-- Compute block `b`, the engine holding its results: what it writes is its halves and moments, and at last its version
byte in every copy (R178, R354). -/
def updateBlock (r : WRec) (h : Hyper) (g : GradSrc) (n version b : Nat) : MM HeldBlock := do
  let s ← mGet
  let t := engineOf s b
  let req := reqUpdate t
  let hi ← mRead (r.high + 8192 * b) 8192 req
  let lo ← mRead (r.low + 8192 * b) 8192 req
  let mc ← mRead (r.m + 4096 * b) 4096 req
  let ms ← mRead (r.m + 4096 * n + 128 * b) 128 req
  let vc ← mRead (r.v + 4096 * b) 4096 req
  let vs ← mRead (r.v + 4096 * n + 128 * b) 128 req
  let grads ← readGrads r g b req
  let his := unpackCodes 16 hi
  let los := (unpackCodes 16 lo).toArray
  let mcs := mc.toArray
  let vcs := vc.toArray
  let mss := ms.toArray
  let vss := vs.toArray
  let gs := grads.toArray
  let done := his.zipIdx.map (fun (x, k) =>
    let l := los.getD k 0
    let m := momentOld (mcs.getD k 0#8).toNat (mss.getD (k / 32) 0#8).toNat
    let v := momentOld (vcs.getD k 0#8).toNat (vss.getD (k / 32) 0#8).toNat
    let y := adamStep h (gs.getD k (.zero false)) (masterOld r.lg x l) m v
    if y.bad then ((x * 65536 + l, false, false), m, v, true)
    else (masterNew r.lg y.w, y.m, y.v, false))
  let ws := done.map (fun d => d.1)
  let gm := (runs32 128 (done.map (fun d => d.2.1))).map momentGroup
  let gv := (runs32 128 (done.map (fun d => d.2.2.1))).map momentGroup
  let mo := gm.flatMap (fun x => x.1)
  let vo := gv.flatMap (fun x => x.1)
  let infs (l : List (Nat × Bin)) : Nat := l.countP (fun x => decide (x.2 = .inf))
  let sat := ws.countP (fun x => x.2.1) + infs mo + infs vo
  let nan := done.countP (fun d => d.2.2.2)
  let fl := ws.countP (fun x => x.2.2)
    + (mo.zip vo).countP (fun x => decide (x.2.2 = .flushed) && !isZeroCode .lg8 x.1.1)
  let high := packCodes 16 (ws.map (fun x => x.1 / 65536))
  let copies := r.high :: r.copies
  pure {
    block := b, tile := t, sat := sat, kept := nan, flushed := fl
    writes := copies.map (fun a => (a + 8192 * b, high))
      ++ [(r.low + 8192 * b, packCodes 16 (ws.map (fun x => x.1 % 65536))),
        (r.m + 4096 * b, packCodes 8 (mo.map (·.1))),
        (r.m + 4096 * n + 128 * b, gm.map (fun x => BitVec.ofNat 8 x.2)),
        (r.v + 4096 * b, packCodes 8 (vo.map (·.1))),
        (r.v + 4096 * n + 128 * b, gv.map (fun x => BitVec.ofNat 8 x.2))]
      ++ copies.map (fun a => (a + 8192 * n + b, [BitVec.ofNat 8 version])) }

/-- Write a held block of UPDATE `seq` of stream `i`, and count what it saturates, keeps and flushes (Table 7.8). -/
def writeHeld (i seq : Nat) (x : HeldBlock) : MM Unit := do
  x.writes.forM (fun w => mWrite w.1 w.2 (reqUpdate x.tile))
  mMod (fun s => addFlags i seq { CFlags.none with sat := decide (0 < x.sat), nonfinite := decide (0 < x.kept) }
    (count (tileBase x.tile + 0x208) x.flushed (count (tileBase x.tile + 0x204) x.kept
      (count (tileBase x.tile + 0x200) x.sat s))))

/-- The held blocks of the UPDATE of weight `w` that `f` picks are written, in their order; an error stops it there with
MEM_UE (Table 13.4). -/
def writeBlocks (w i seq : Nat) (f : HeldBlock → Bool) (s : State) : State :=
  runDesc i seq (((weight s w).held.filter f).forM (writeHeld i seq)) s

/-! ### UPDATE -/

/-- The STEP_COMMIT of a number. -/
def commitOf (s : State) (no : Nat) : Option Commit := s.step.commits.find? (fun c => c.no == no)

/-- Checks of an UPDATE when it is taken (R176); its step tag becomes that of the record's last UPDATE. -/
def takeUpdate (r : Rec) (b : UpdateBody) : MM Unit := do
  let w ← readWRec b.weightId 0x10
  let s ← mGet
  mGuard (decide (w.kind = 3)) .opcode 0x10
  mGuard (decide (w.kind = 1) || decide (r.commitNo = 0) || decide ((weight s b.weightId).lastStep = some r.step)) .order 0x10
  mGuard (decide (b.hyper % 64 ≠ 0)) .align 0x20
  mMod (fun t => setWeight t b.weightId { weight t b.weightId with lastStep := some r.step })

/-- Dispatch an UPDATE: it waits for its STEP_COMMIT, and completes at once when that failed or was skipped. -/
def dispatchUpdate (i seq : Nat) (b : UpdateBody) (s : State) : State :=
  let t := modRec i seq (fun r => { r with life := .running }) s
  let t := setWeight t b.weightId { weight t b.weightId with updates := (weight t b.weightId).updates ++ [(i, seq)] }
  match (findRec t i seq).bind (fun r => commitOf t r.commitNo) with
  | some c => if c.finished ∧ !c.committed then skipUpdates c.no t else t
  | none => t

/-- The gradient source of an UPDATE, checked (R176). -/
def gradSource (w : WRec) (b : UpdateBody) : MM GradSrc := do
  if !b.gsrc then
    let e ← needTE 0 b.grad 0x14
    mGuard (decide (fmtOf e.fmt ≠ some .fp32) || e.timeMajor) .format 0x14
    mGuard (decide (e.base % 4096 ≠ 0)) .align 0x14
    checkShape e w.rows w.cols 0x14
    checkRange e.base (tensorBytes e) 0x14
    pure (.tensor e.base)
  else
    let size := if b.gword then 8 else 4
    let n := w.rows * w.cols
    let at_ := b.gradAddr + 64 * ((n * size + 63) / 64)
    checkRange b.gradAddr (64 * ((n * size + 63) / 64) + 64) 0x18
    let t ← mRead at_ 64 (← mReq)
    mGuard (decide (bitsAt (word4 t 8) 7 5 ≠ 0) || bitAt (word4 t 8) 8 != b.gword) .format 0x10
    mGuard (decide (word4 t 0x20 ≠ n)) .range 0x18
    pure (.words size b.gradAddr (signedN 16 (word4 t 0xC % 65536)))

/-- The arrays of a record lie where they may (R157, R175, R246). -/
def checkArrays (w : WRec) (n : Nat) : MM Unit := do
  mGuard ((w.high :: w.copies).any (fun a => decide (a % 4096 ≠ 0))) .align 0x10
  (w.high :: w.copies).forM (fun a => checkRange a (8192 * n + n) 0x10)
  checkRange w.low (8192 * n) 0x10
  checkRange w.m (4224 * n) 0x10
  checkRange w.v (4224 * n) 0x10

/-- The whole of an UPDATE that may start: its checks, then its blocks, which the engines hold (R177 to R179, R354; log
84). -/
def runUpdate (b : UpdateBody) : MM Unit := do
  let w ← readWRec b.weightId 0x10
  let n := (w.rows + 63) / 64 * ((w.cols + 63) / 64)
  checkArrays w n
  let g ← gradSource w b
  checkRange b.hyper 64 0x20
  let hb ← mRead b.hyper 64 (← mReq)
  mGuard (hyperBad (hyperOf hb)) .hyper 0x20
  let s ← mGet
  let version := ((weight s b.weightId).version + 1) % 256
  mMod (fun t => setWeight t b.weightId { weight t b.weightId with state := 1 })
  (List.range n).forM (fun k => do
    let x ← updateBlock w (hyperOf hb) g n version k
    mMod (fun t => setWeight t b.weightId { weight t b.weightId with held := (weight t b.weightId).held ++ [x] }))

/-- The UPDATE at the head of a record's list may start: its STEP_COMMIT committed, the record is IDLE, and no
reference is held (R176, R181). -/
def startable (s : State) (w : Nat) : Option (Nat × Nat × UpdateBody) :=
  let x := weight s w
  match x.updates.head? with
  | none => none
  | some (i, seq) =>
    match findRec s i seq with
    | none => none
    | some r =>
      match r.desc with
      | .update b =>
        if x.state = 0 ∧ x.refs = 0 ∧ (commitOf s r.commitNo).any (fun c => c.committed) then some (i, seq, b) else none
      | _ => none

/-- UPDATE `seq` of weight `w` ends when it has completed. -/
def settleUpdate (w i seq : Nat) (s : State) : State :=
  match findRec s i seq with
  | some r => if r.life = .done then endUpdate w i seq s else s
  | none => s

/-- Start an UPDATE; one that fails leaves its record IDLE and its list, the blocks before the failing one written. -/
def startUpdate (w : Nat) (s : State) : State :=
  match startable s w with
  | none => s
  | some (i, seq, b) =>
    match runUpdate b s with
    | (.ok _, t) => t
    | (.error f, t) =>
      endUpdate w i seq (runDesc i seq (fun u => (.error f, u)) (writeBlocks w i seq (fun _ => true) t))

def execUpdateStart (w : Nat) (s : State) : Host.Outcome State Fault Refusal :=
  onUnit (decide (w < 4096)) (settle s (startUpdate w s))

/-- The blocks of the running UPDATE are written, the last of them now: the next version, IDLE, and the completion (R178). -/
def finishUpdate (w : Nat) (s : State) : State :=
  match (weight s w).updates.head? with
  | some (i, seq) =>
    if (weight s w).state = 1 then
      let t := settleUpdate w i seq (writeBlocks w i seq (fun _ => true) s)
      let x := weight t w
      if x.state = 1 then
        completeOK i seq (endUpdate w i seq (setWeight t w { x with version := (x.version + 1) % 256 }))
      else t
    else s
  | none => s

def execUpdateComplete (w : Nat) (s : State) : Host.Outcome State Fault Refusal :=
  onUnit (decide (w < 4096)) (settle s (finishUpdate w s))

end Sys2Proof.Machine
end

