-- ==== Sys2Proof/Machine/Reduce.lean ====
section
/-! DEFINITION. Saffron words (R291 to R293), plans and buckets (R294 to R303), deadlines and copies (R304 to R308): what an instance holds, forms, sends, writes and ends with. -/

namespace Sys2Proof.Machine

/-! ### Messages and aliases (R323) -/

/-- The value of the first alias entry of a kind that matches `m`. -/
def aliasOf (s : State) (kind m : Nat) : Option Nat :=
  ((List.range 64).find? (fun n =>
    let v := reg8 s (linkBase 0 + 0x800 + 8 * n)
    decide (bitsAt v 33 32 = kind) && decide (bitsAt v 15 0 = m))).map (fun n =>
      bitsAt (reg8 s (linkBase 0 + 0x800 + 8 * n)) 31 16)

def sendMsg (m : Msg) (s : State) : State := modLink s (fun l => { l with msgs := l.msgs ++ [m] })

/-- A message to the tree neighbour behind port `p`, or to the carrier of the port's alias. -/
def neighbourMsg (s : State) (vc p ctx : Nat) (x : Payload) : Msg :=
  match aliasOf s 2 p with
  | some c => ⟨vc, c, none, ctx, x⟩
  | none => ⟨vc, (port s p).farNode, some p, ctx, x⟩

/-- The ctx of reduction flits (R299). -/
def treeCtx (b t : Nat) (down : Bool) : Nat := b % 4096 + 2 ^ 12 * (t % 8) + 2 ^ 15 * b2n down

/-! ### Words (R291, R292, R296) -/

def wordBits (word : Bool) : Nat := if word then 48 else 32

/-- Bytes of a word in memory, and words in a flit: the word field counts for SUM only. -/
def wordBytes (op : Nat) (word : Bool) : Nat := if op = 0 ∧ word then 8 else 4
def perChunk (op : Nat) (word : Bool) : Nat := if op = 0 ∧ word then 38 else 58

/-- The guard bits of `n` contributors. -/
def guardBits (n : Nat) : Nat := if n ≤ 1 then 0 else Nat.log2 (n - 1) + 1

/-- The contribution limit; none where R292 forbids the plan. -/
def contribLimit (word : Bool) (n : Nat) : Option Nat :=
  if n = 0 ∨ wordBits word < guardBits n + 9 then none else some (2 ^ (wordBits word - 1 - guardBits n) - 1)

/-- `m · 2^d`, nearest, ties to even. -/
def scaleHalfEven (m : Nat) (d : Int) : Nat :=
  if 0 ≤ d then m * 2 ^ d.toNat
  else
    let k := (-d).toNat
    let q := m / 2 ^ k
    let r := m % 2 ^ k
    if 2 * r < 2 ^ k then q else if 2 ^ k < 2 * r then q + 1 else q + q % 2

/-- One element of a SUM contribution: its word, and whether it was clipped. -/
def saffron (lim : Nat) (e : Int) (x : Num) : Int × Bool :=
  match x with
  | .fin s m k =>
    let q := scaleHalfEven m (k - e)
    let v := min q lim
    (if s then -(v : Int) else v, decide (lim < q))
  | _ => (0, false)

/-- The smallest `E` with |x| < 2^E for every finite non-zero element. -/
def maxExpOf (l : List Num) : Option Int :=
  l.foldl (fun a x =>
    match x, a with
    | .fin _ m k, none => some (k + Nat.log2 m + 1)
    | .fin _ m k, some b => some (max b (k + Nat.log2 m + 1))
    | _, a => a) none

/-- The larger of two max exponents. -/
def maxExp (a b : Option Int) : Option Int :=
  match a, b with
  | some x, some y => some (max x y)
  | some x, none => some x
  | none, y => y

/-- An FP32 element of MAX: a subnormal a zero of its sign (R36), a NaN the canonical one of its sign (R37). -/
def maxWord (w : Nat) : Nat :=
  match fp32Num w with
  | .nan s => nanCode .fp32 s
  | .zero s => zeroCode .fp32 s
  | _ => w

/-- Two words combined. -/
def combineWord (op : Nat) (word : Bool) (a b : Int) : Int :=
  match op with
  | 0 => signedN (wordBits word) (wrapN (wordBits word) (a + b))
  | 1 => (vPick true (wrapN 32 a) (wrapN 32 b) : Nat)
  | _ => (wrapN 32 a ||| wrapN 32 b : Nat)

/-- Flits that a message of `n` bytes takes (R277). -/
def flitsOf (n : Nat) : Nat := max 1 ((n + 231) / 232)

/-- Bytes that words take on the wire: an SW48 word 6, and a whole payload of them is filled with zeros (R291). -/
def wireBytes (op : Nat) (word : Bool) (n : Nat) : Nat :=
  if op = 0 ∧ word then n / 38 * 232 + n % 38 * 6 else 4 * n

/-- Chunks combined; an input that adds nothing is empty. -/
def combineChunk (op : Nat) (word : Bool) (a b : List Int) : List Int :=
  if a.isEmpty then b else if b.isEmpty then a else List.zipWith (combineWord op word) a b

/-- Some word is NaN, which only MAX makes. -/
def chunkNan (op : Nat) (c : List Int) : Bool := op == 1 && c.any (fun q => fpNan (wrapN 32 q))

/-- Bytes of words in memory. -/
def chunkBytes (op : Nat) (word : Bool) (c : List Int) : List Byte :=
  c.flatMap (fun q => leBytes (wordBytes op word) (wrapN (8 * wordBytes op word) q))

/-! ### Plans (R298, Table 12.1) -/

def planOf (b : List Byte) : Plan :=
  let w := word4 b 0
  let l := word4 b 8
  let trees := bitsAt w 6 4 + 1
  let tree (t : Nat) : Nat := word8 b (0x20 + 8 * t)
  let ts := List.range trees
  { kind := bitsAt w 3 0, trees := trees, expected := word4 b 4, localCount := bitsAt l 15 0, cur := bitAt l 16
    qValid := bitAt l 17, step := word4 b 0xC, window := bitsAt (word4 b 0x10) 15 0
    parent := ts.map (fun t => bitsAt (tree t) 5 0), height := ts.map (fun t => bitsAt (tree t) 13 8)
    children := ts.map (fun t => bitsAt (tree t) 63 16), lowrank := (List.range 4).map (fun k => word8 b (0x60 + 8 * k)) }

def planAddr (s : State) (n : Nat) : Nat := reg8 s (linkBase 0 + 0x10) / 128 * 128 + 128 * n

/-- Read plan `n`; `off` is where the descriptor names it. -/
def readPlanBytes (n off : Nat) : MM (List Byte) := do
  mGuard (decide (4095 < n)) .range off
  let s ← mGet
  mRead (planAddr s n) 128 (reqLink 0)

/-- A reduction plan of one of the kinds in `kinds`, its fields in range. -/
def readPlan (kinds : List Nat) (n off : Nat) : MM Plan := do
  let b ← readPlanBytes n off
  let p := planOf b
  mGuard (!kinds.contains p.kind) .opcode off
  let l := bitsAt (word4 b 8) 7 0
  if p.kind = 1 then pure p
  else do
    mGuard (decide (p.window < 16) || decide (1024 < p.window) || decide (l = 0)) .range off
    pure { p with localCount := l }

/-- Child ports of a tree, ascending. -/
def childPorts (p : Plan) (t : Nat) : List Nat := (List.range 48).filter (fun k => bitAt (p.children.getD t 0) k)

/-- The root of a tree has no parent port. -/
def isRoot (p : Plan) (t : Nat) : Bool := p.parent.getD t 0x3F == 0x3F

/-- The port by which a tree's traffic goes up, or comes from below at the root. -/
def treePort (p : Plan) (t : Nat) : Nat := if isRoot p t then (childPorts p t).headD 0 else p.parent.getD t 0

/-- The link tile that serves a tree. -/
def treeTile (p : Plan) (t : Nat) : Nat := treePort p t / 6

/-- Bytes that an instance reserves on link tile `k` (R300). -/
def poolNeed (p : Plan) (k : Nat) : Nat :=
  ((List.range p.trees).map (fun t =>
    if treeTile p t = k then ((childPorts p t).length + 2) * p.window * 256 else 0)).sum

/-- PORT_CREDIT of VC `v` of port `p`. -/
def creditOf (s : State) (p v : Nat) : Nat := bitsAt (reg4 s (portBase p + 0x40 + 4 * v)) 15 0

/-- Bytes that the credit pools of some ports occupy, for the VCs `vcs` (R282). -/
def creditBytes (s : State) (ports vcs : List Nat) : Nat :=
  ((ports.map (fun p => (vcs.map (creditOf s p)).sum)).sum) * 256

/-- The enabled ports of a link tile (R274). -/
def enabledPorts (s : State) (k : Nat) : List Nat :=
  ((List.range 6).map (6 * k + ·)).filter (fun p => decide ((port s p).state ≠ 0))

/-- The reduction partition of link tile `k` less its ports' credit pools, bytes. -/
def redPool (s : State) (k : Nat) : Nat :=
  bitsAt (reg8 s (linkBase k + 0x18)) 10 0 * 262144 - creditBytes s (enabledPorts s k) [1]

/-! ### Instances -/

/-- Chunks of an instance, and those of tree `t` (R299). -/
def chunkCount (x : Bucket) : Nat :=
  max 1 ((x.elements + perChunk x.op x.word - 1) / perChunk x.op x.word)
def chunksOn (x : Bucket) (t : Nat) : Nat := (chunkCount x + x.plan.trees - 1 - t) / x.plan.trees

/-- Trees that carry chunks. -/
def activeTrees (x : Bucket) : List Nat := (List.range x.plan.trees).filter (fun t => decide (0 < chunksOn x t))

/-- Words of chunk `c`. -/
def chunkLen (x : Bucket) (c : Nat) : Nat := min (perChunk x.op x.word) (x.elements - c * perChunk x.op x.word)

def TreeIn.none : TreeIn := ⟨[], 0, 0, false, 0, false, Option.none, [], Option.none, false, 0, false⟩
def ChildIn.none (p : Nat) : ChildIn := ⟨p, Option.none, [], Option.none, false, Option.none, Option.none, false⟩

def treeOf (x : Bucket) (t : Nat) : TreeIn := x.trees.getD t TreeIn.none

/-- Change tree `t` of an instance. -/
def modTree (t : Nat) (f : TreeIn → TreeIn) (x : Bucket) : Bucket :=
  { x with trees := x.trees.zipIdx.map (fun y => if y.2 = t then f y.1 else y.1) }

/-- The exponent of R294: none while the exchange of max exponents has to give it. -/
def entryExp (s : State) (b op : Nat) (word : Bool) (n : Nat) : Option Int :=
  if op ≠ 0 then some 0
  else
    let y := sget BktEntry.empty s.link.entries b
    if y.valid ∧ y.op = 0 ∧ y.word = word ∧ y.n = n then some (y.em + guardBits n + 2 - wordBits word) else none

/-- Elements that `f` picks, counted by the tree that their chunk travels on (R299). -/
def onTrees {α : Type} (op : Nat) (word : Bool) (trees : Nat) (f : α → Bool) (l : List α) : List Nat :=
  (List.range trees).map (fun t =>
    l.zipIdx.countP (fun y => f y.1 && decide (y.2 / perChunk op word % trees = t)))

/-- A contribution as words of exponent `e` (R292, R296); clipped and flushed elements are counted by tree. -/
def convertLocal (op : Nat) (word : Bool) (n trees : Nat) (e : Int) (l : LocalIn) : LocalIn :=
  if !l.words.isEmpty then l
  else
    match op with
    | 0 =>
      let lim := (contribLimit word n).getD 0
      let ws := l.raw.map (fun w => saffron lim e (fp32Num w))
      { l with
        words := ws.map (·.1), clips := onTrees op word trees (·.2) ws, flushes := onTrees op word trees (isSubnormal .fp32) l.raw }
    | 1 => { l with words := l.raw.map (fun w => (maxWord w : Int)), flushes := onTrees op word trees (isSubnormal .fp32) l.raw }
    | _ => { l with words := l.raw.map (fun w => (w : Int)) }

/-- Count what a contribution clips, and what it flushes: at the port of the tree, at a root that by which the traffic comes
(R422; DESIGN CHOICE, see log 107). -/
def countClips (x : Bucket) (l : LocalIn) (s : State) : State :=
  let t := l.clips.zipIdx.foldl (fun u y => count (linkBase (treeTile x.plan y.2) + 0x2000) y.1 u) s
  l.flushes.zipIdx.foldl (fun u y => count (portBase (treePort x.plan y.2) + 0x20) y.1 u) t

/-- The exponent of an instance is known: its contributions are converted. -/
def convertAll (b : Nat) (e : Int) (s : State) : State :=
  let x := bucket s b
  let ls := x.locals.map (convertLocal x.op x.word x.plan.expected x.plan.trees e)
  (ls.filter (fun l => !l.gone)).foldl (fun u l => countClips x l u) (setBucket s b { x with e := some e, locals := ls })

/-! ### What goes up, and what the root makes of it (R301, R302) -/

def InputMeta.none : InputMeta :=
  ⟨0, false, false, 0, Option.none, false, false, 0, 0, Option.none, Option.none⟩

/-- The smaller of two first-setter records, by tally and then by node (R309). -/
def firstOf (a b : Option FirstSetter) : Option FirstSetter :=
  match a, b with
  | some x, some y =>
    if x.tally < y.tally ∨ (x.tally = y.tally ∧ x.node ≤ y.node) then some x else some y
  | some x, none => some x
  | none, y => y

def addMeta (a b : InputMeta) : InputMeta :=
  { count := a.count + b.count, nonfinite := a.nonfinite || b.nonfinite, clipped := a.clipped || b.clipped
    clippedCount := min max32 (a.clippedCount + b.clippedCount), maxExp := maxExp a.maxExp b.maxExp
    backupUsed := a.backupUsed || b.backupUsed, partialIn := a.partialIn || b.partialIn
    backups := a.backups + b.backups, late := a.late + b.late, backupNode := none, first := firstOf a.first b.first }

/-- A local contribution counts on tree `t`. -/
def localOn (t : Nat) (l : LocalIn) : Bool := !l.gone && !l.missed.contains t

/-- Every local contribution is in, or the tree's deadline has passed. -/
def localsReady (x : Bucket) (t : Nat) : Bool :=
  (treeOf x t).fired || (decide (x.locals.length = x.plan.localCount) && x.locals.all (fun l => !l.gone))

/-- What a local contribution says of itself on tree `t` (R187, R292). -/
def localMeta (s : State) (t : Nat) (l : LocalIn) : InputMeta :=
  let k := l.clips.getD t 0
  { InputMeta.none with
    count := 1, nonfinite := l.nonfinite || stepFlag s l.tag
    clipped := l.clips.any (fun c => decide (0 < c)), clippedCount := min max32 k, maxExp := l.maxExp, first := l.first }

/-- What a child's input says on tree `t`; the copy's clipped elements are told on the first tree it serves. -/
def childMeta (x : Bucket) (t : Nat) (c : ChildIn) : InputMeta :=
  match c.info, c.standIn with
  | some i, _ => { i with backupNode := none }
  | none, some y =>
    let before := (List.range t).any (fun u => (treeOf x u).inputs.any (fun d => d.port == c.port && d.standIn.isSome))
    { y.info with
      count := 1, backupUsed := true, backups := y.info.backups + 1, backupNode := none
      clippedCount := if before then 0 else y.info.clippedCount }
  | none, none => { InputMeta.none with partialIn := !c.chunks.isEmpty }

/-- What a child said in the exchange of max exponents, or its copy says for it (R294). -/
def childPre (c : ChildIn) : InputMeta :=
  match c.pre, c.standIn with
  | some i, _ => { i with backupNode := none }
  | none, some y => { y.info with backupNode := none }
  | none, none => InputMeta.none

/-- The whole of tree `t`'s input, where `kid` reads each child. -/
def treeInput (s : State) (x : Bucket) (t : Nat) (kid : ChildIn → InputMeta) : InputMeta :=
  let y := treeOf x t
  let own := { InputMeta.none with nonfinite := x.nonfinite, late := y.late, partialIn := y.partialIn }
  ((x.locals.filter (localOn t)).map (localMeta s t) ++ y.inputs.map kid).foldl addMeta own

/-- The input of the sum, and of the exchange of max exponents before it. -/
def treeMeta (s : State) (x : Bucket) (t : Nat) : InputMeta := treeInput s x t (childMeta x t)
def preMeta (s : State) (x : Bucket) (t : Nat) : InputMeta := treeInput s x t childPre

/-- The words that a child supplies for its `k`-th chunk on tree `t`. -/
def childChunk (x : Bucket) (t k : Nat) (c : ChildIn) : List Int :=
  match c.chunks[k]?, c.standIn with
  | some w, _ => w
  | none, some y =>
    let n := t + k * x.plan.trees
    (y.words.drop (n * perChunk x.op x.word)).take (chunkLen x n)
  | none, none => []

/-- The words of the `k`-th chunk of tree `t`: locals and children, nothing where nobody gave anything. -/
def formChunk (x : Bucket) (t k : Nat) : List Int :=
  let n := t + k * x.plan.trees
  let mine := (x.locals.filter (localOn t)).map (fun l =>
    (l.words.drop (n * perChunk x.op x.word)).take (chunkLen x n))
  let c := (mine ++ (treeOf x t).inputs.map (childChunk x t k)).foldl (combineChunk x.op x.word) []
  if c.isEmpty then List.replicate (chunkLen x n) 0 else c

/-- The link tile of a tree has stopped adding (R354). -/
def addsOn (s : State) (x : Bucket) (t : Nat) : Bool := !s.link.addStopped.contains (treeTile x.plan t)

/-- The next chunk of tree `t` can be formed (R300, R301). -/
def formable (s : State) (x : Bucket) (t : Nat) : Bool :=
  let y := treeOf x t
  let root := isRoot x.plan t
  addsOn s x t && localsReady x t &&
    match x.e with
    | none => !y.preSent && (root || decide (0 < y.grants)) && y.inputs.all (fun c => c.closed || c.pre.isSome)
    | some _ =>
      decide (y.sent < chunksOn x t) && (root || decide (0 < y.grants))
        && y.inputs.all (fun c => c.closed || decide (y.sent < c.chunks.length))

/-- The trailer that the root of a tree makes (R302). -/
def rootTrailer (s : State) (x : Bucket) (i : InputMeta) : Trailer :=
  { count := i.count, expected := x.plan.expected, nonfinite := i.nonfinite, clipped := i.clipped
    short := decide (i.count < x.plan.expected), backupUsed := i.backupUsed, twoPhase := x.twoPhase, op := x.op
    word := x.word, partialIn := i.partialIn, e := x.e.getD 0, maxExp := i.maxExp, tag := x.tag % 2 ^ 32
    tally := s.tally.now.pair, elements := x.elements, clippedCount := i.clippedCount, backups := i.backups
    late := i.late, first := i.first }

/-- Send down what a tree's result holds. -/
def sendDown (b t : Nat) (c : List Int) (r : Option Trailer) (s : State) : State :=
  (childPorts (bucket s b).plan t).foldl (fun u p => sendMsg (neighbourMsg u 1 p (treeCtx b t true) (.chunkDown b t c r)) u) s

/-- Write result chunk `k` of tree `t` at every local dst; a write that fails completes its REDUCE. -/
def writeChunk (b t k : Nat) (c : List Int) (s : State) : State :=
  let x := bucket s b
  let n := t + k * x.plan.trees
  (x.locals.filter (fun l => !l.gone)).foldl (fun u l =>
    match l.dst with
    | some a => runDesc l.stream l.seq
        (mWrite (a + n * perChunk x.op x.word * wordBytes x.op x.word) (chunkBytes x.op x.word c)
          (reqLink (treePort x.plan t))) u
    | none => u) s

/-- A result chunk is here: it is kept, written and forwarded. -/
def takeResult (b t : Nat) (c : List Int) (r : Option Trailer) (s : State) : State :=
  let k := (treeOf (bucket s b) t).result.length
  let s := modBucket s b (modTree t (fun y => { y with
    result := y.result ++ [c], trailer := match r with
      | some z => some z
      | none => y.trailer }))
  sendDown b t c r (writeChunk b t k c s)

/-- The backup that a leaf's REDUCE registers (R305). -/
def backupOf (x : Bucket) : Option Nat := (x.locals.filter (fun l => !l.gone)).findSome? (·.backup)

/-- The words of the exchange of max exponents of a tree leave: up, or down from the root (R294). -/
def emitPre (b t : Nat) (s : State) : State :=
  let x := bucket s b
  let i := preMeta s x t
  let s := modBucket s b (modTree t (fun y => { y with preSent := true }))
  if isRoot x.plan t then
    sendDown b t [] (some (rootTrailer s x i)) (modBucket s b (modTree t (fun y => { y with pre := some i.maxExp })))
  else
    sendMsg (neighbourMsg s 1 (treePort x.plan t) (treeCtx b t false)
      (.chunkUp b t [] (some { i with backupNode := backupOf x }))) s

/-- One chunk of a tree leaves: up within a grant, or down from the root; each child gets the next grant (R300). -/
def emitChunk (b t : Nat) (s : State) : State :=
  let x := bucket s b
  let y := treeOf x t
  let k := y.sent
  let c := formChunk x t k
  let x := if chunkNan x.op c then { x with nonfinite := true } else x
  let last := k + 1 = chunksOn x t
  let i := treeMeta s x t
  let s := setBucket s b (modTree t (fun z => { z with
    sent := k + 1, grants := if isRoot x.plan t then z.grants else z.grants - 1, given := z.given + 1 }) x)
  let s := (childPorts x.plan t).foldl (fun u p => sendMsg (neighbourMsg u 0 p (treeCtx b t true) (.grant b t 1)) u) s
  if isRoot x.plan t then takeResult b t c (if last then some (rootTrailer s x i) else none) s
  else
    let note : Option InputMeta :=
      if last then some { i with backupNode := if k = 0 then backupOf x else none }
      else if k = 0 then (backupOf x).map (fun n => { InputMeta.none with backupNode := some n })
      else none
    sendMsg (neighbourMsg s 1 (treePort x.plan t) (treeCtx b t false) (.chunkUp b t c note)) s

/-- Form what can be formed on tree `t`, at most `n` chunks. -/
def pumpTree (b t : Nat) : Nat → State → State
  | 0, s => s
  | n + 1, s =>
    if formable s (bucket s b) t then
      pumpTree b t n (if (bucket s b).e.isNone then emitPre b t s else emitChunk b t s)
    else s

/-- Form what can be formed on every tree. -/
def pumpTrees (b : Nat) (s : State) : State :=
  (activeTrees (bucket s b)).foldl (fun u t => pumpTree b t (chunksOn (bucket u b) t + 1) u) s

/-- Every tree's exchange of max exponents has ended. -/
def preDone (x : Bucket) : Bool := x.e.isNone && (activeTrees x).all (fun t => (treeOf x t).pre.isSome)

/-- The exponent that the exchange gives: none counts as 0 (R294). -/
def preExp (x : Bucket) : Int :=
  let m := (activeTrees x).foldl (fun a t => maxExp a ((treeOf x t).pre.getD none)) none
  m.getD 0 + guardBits x.plan.expected + 2 - wordBits x.word

/-- Where an instance stands (Table 12.2). -/
def bucketState (x : Bucket) : BucketState :=
  if (activeTrees x).all (fun t => decide (chunksOn x t ≤ (treeOf x t).sent)) then .result
  else if x.locals.any (fun l => !l.gone) || x.trees.any (fun t => t.inputs.any (fun c => c.pre.isSome || !c.chunks.isEmpty))
    then .collecting
  else x.state

/-- An instance goes as far as its inputs and grants let it. -/
def pump (b : Nat) (s : State) : State :=
  let x := bucket s b
  if x.state = .free ∨ x.state = .waitArm then s
  else
    let t := pumpTrees b s
    let t := if preDone (bucket t b) then pumpTrees b (convertAll b (preExp (bucket t b)) t) else t
    modBucket t b (fun y => { y with state := bucketState y })

/-- Every tree's last chunk and trailer are written. -/
def resultDone (x : Bucket) : Bool :=
  decide (x.state ≠ .free) && decide (x.state ≠ .waitArm) && x.e.isSome &&
    (activeTrees x).all (fun t => (treeOf x t).trailer.isSome && decide (chunksOn x t ≤ (treeOf x t).result.length))

/-- Two trees' trailers merged (R302). -/
def mergeTrailer (a b : Trailer) : Trailer :=
  { a with
    count := min a.count b.count, nonfinite := a.nonfinite || b.nonfinite, clipped := a.clipped || b.clipped
    short := a.short || b.short, backupUsed := a.backupUsed || b.backupUsed, twoPhase := a.twoPhase && b.twoPhase
    partialIn := a.partialIn || b.partialIn, maxExp := maxExp a.maxExp b.maxExp
    clippedCount := min max32 (a.clippedCount + b.clippedCount), backups := a.backups + b.backups
    late := a.late + b.late, first := firstOf a.first b.first }

/-- The merged trailer; SHORT when the count is below `n`. -/
def mergedTrailer (x : Bucket) : Option Trailer :=
  match (activeTrees x).filterMap (fun t => (treeOf x t).trailer) with
  | [] => none
  | t :: ts =>
    let m := ts.foldl mergeTrailer t
    some { m with short := decide (m.count < m.expected) }

/-- The trailer of Table 12.3, 64 bytes. -/
def trailerBytes (b : Nat) (t : Trailer) : List Byte :=
  leBytes 4 t.count ++ leBytes 4 t.expected
    ++ leBytes 4 (b2n t.nonfinite + 2 * b2n t.clipped + 4 * b2n t.short + 8 * b2n t.backupUsed + 16 * b2n t.twoPhase
      + 32 * (t.op % 8) + 256 * b2n t.word + 512 * b2n t.partialIn)
    ++ leBytes 4 (wrapN 16 t.e + 2 ^ 16 * (match t.maxExp with
        | some m => wrapN 16 m
        | none => 0x8000))
    ++ leBytes 4 (b % 4096) ++ leBytes 4 t.tag ++ leBytes 8 t.tally ++ leBytes 4 t.elements ++ leBytes 4 t.clippedCount
    ++ leBytes 4 (min max32 t.backups) ++ leBytes 4 (min max32 t.late) ++ leBytes 16 0

/-- The result's words in order, from the trees' chunks. -/
def resultWords (x : Bucket) : List Int :=
  (List.range (chunkCount x)).flatMap (fun c =>
    (treeOf x (c % x.plan.trees)).result.getD (c / x.plan.trees) [])

/-! ### The end of an instance -/

/-- A SUM result teaches the bucket entry its max exponent (R295). -/
def learnEntry (b : Nat) (op : Nat) (word : Bool) (t : Trailer) (s : State) : State :=
  match op, t.nonfinite, t.maxExp with
  | 0, false, some m =>
    modLink s (fun l => { l with entries := sset BktEntry.empty l.entries b ⟨m, true, 0, word, t.expected⟩ })
  | _, _, _ => s

/-- BUCKET_SHORT (R307). -/
def raiseShort (b tile_ cnt expected : Nat) (s : State) : State :=
  raiseEv { code := 0x07, unit := tile_, arg0 := b, arg1 := cnt, arg2 := expected } s

/-- Release what an instance has reserved. -/
def releasePool (x : Bucket) (s : State) : State :=
  if x.state = .free ∨ x.state = .waitArm then s
  else modLink s (fun l => { l with
    redUsed := (List.range 8).foldl (fun m k => smod 0 m k (fun v => v - poolNeed x.plan k)) l.redUsed })

/-- The bucket becomes FREE. -/
def freeBucket (b : Nat) (s : State) : State := setBucket (releasePool (bucket s b) s) b Bucket.empty

/-- What every result does when its last chunk is written: the entry, the step flag, BUCKET_SHORT, and the trailer to
the shadow modules (R187, R295, R304, R307). -/
def noteResult (b : Nat) (x : Bucket) (t : Trailer) (s : State) : State :=
  let s := learnEntry b x.op x.word t s
  let s := if t.nonfinite ∧ x.use ≠ .vote then x.locals.foldl (fun u l => setStepFlag l.tag l.layer l.tensor u) s else s
  let s := if t.short then raiseShort b (treeTile x.plan 0) t.count t.expected s else s
  x.askers.foldl (fun u n => sendMsg ⟨1, n, none, treeCtx b 0 true, .shadowTrailer b t⟩ u) s

/-- The merged trailer is written at every dst and the local REDUCEs complete (R297, R302). -/
def finishReduce (b : Nat) (x : Bucket) (t : Trailer) (s : State) : State :=
  let off := 64 * ((x.elements * wordBytes x.op x.word + 63) / 64)
  (x.locals.filter (fun l => !l.gone)).foldl (fun u l =>
    match l.dst with
    | some a =>
      let v := runDesc l.stream l.seq (mWrite (a + off) (trailerBytes b t) (reqLink (treePort x.plan 0))) u
      completeOK l.stream l.seq v
    | none => u) s

end Sys2Proof.Machine
end

