-- ==== Sys2Proof/Machine/Buckets.lean ====
section
/-! DEFINITION. Bucket instances as commands move them: contributions that open, join or wait (R297), arming (R300), low-rank exchange (R310, R311), REDUCE, shadow REDUCE, and the link commands on buckets (R300 to R308, R425). -/

namespace Sys2Proof.Machine

/-! ### Contributions (R297) -/

/-- A local contribution joins the locals of an instance; where the exponent is known it is converted. -/
def joinLocal (b : Nat) (l : LocalIn) (s : State) : State :=
  let x := bucket s b
  let fired := (List.range x.plan.trees).filter (fun t => (treeOf x t).fired)
  let late := (activeTrees x).filter (fun t => fired.contains t)
  let l := { l with missed := fired }
  let l := match x.e with
    | some e => convertLocal x.op x.word x.plan.expected x.plan.trees e l
    | none => l
  let s := if x.e.isSome then countClips x l s else s
  let s := late.foldl (fun u t => count (linkBase (treeTile x.plan t) + 0x2008) 1 u) s
  let s := setBucket s b { x with locals := x.locals ++ [l] }
  late.foldl (fun u t => modBucket u b (modTree t (fun y => { y with late := y.late + 1 }))) s

/-- Open an instance: WAIT_ARM, no buffer held. -/
def openBucket (o : Offer) (s : State) : State :=
  let e := if o.use = BucketUse.count then some 0 else entryExp s o.bucket o.op o.word o.plan.expected
  joinLocal o.bucket o.loc (setBucket s o.bucket
    { Bucket.empty with
      state := .waitArm, planNo := o.planNo, plan := o.plan, op := o.op, word := o.word, elements := o.elements
      use := o.use, twoPhase := e.isNone, e := e, deadline := o.deadline, tag := o.tag
      trees := (List.range o.plan.trees).map (fun t =>
        { TreeIn.none with inputs := (childPorts o.plan t).map ChildIn.none }) })

/-- How a contribution to an instance that is not full differs from it: a detail and an offset. -/
def offerError (x : Bucket) (o : Offer) : Option (Detail × Nat) :=
  if x.op ≠ o.op ∨ x.plan.expected ≠ o.plan.expected ∨ (o.op = 0 ∧ x.word ≠ o.word) ∨ x.use ≠ o.use then
    some (.format, 0x10)
  else if x.elements ≠ o.elements then some (.range, 0x14)
  else none

/-- A vote that cannot join leaves its STEP_COMMIT finished without an outcome: its UPDATEs go (R176). -/
def failVote (i seq : Nat) (s : State) : State :=
  match s.step.commits.find? (fun c => c.stream == i && c.seq == seq && !c.finished) with
  | some c =>
    skipUpdates c.no (modStep s (fun x => { x with
      commits := x.commits.map (fun k => if k.no = c.no then { k with finished := true } else k) }))
  | none => s

/-- A contribution is offered to its bucket: it opens, joins, waits, or differs from the instance. -/
def offer (o : Offer) (s : State) : State :=
  let x := bucket s o.bucket
  if x.state = .free then openBucket o s
  else if x.locals.length < x.plan.localCount then
    match offerError x o with
    | some (d, off) => failVote o.loc.stream o.loc.seq (completeErr o.loc.stream o.loc.seq d off s)
    | none => joinLocal o.bucket o.loc s
  else modLink s (fun l => { l with waiting := l.waiting ++ [o] })

/-- The contributions that wait for bucket `b`, now FREE, are offered again in order. -/
def reopen (b : Nat) (s : State) : State :=
  let mine := s.link.waiting.filter (fun o => o.bucket == b)
  mine.foldl (fun u o => offer o u) (modLink s (fun l => { l with waiting := l.waiting.filter (fun o => o.bucket != b) }))

/-! ### Low-rank exchange (R310): matrices are lists of rows of FP32 words -/

def matElem (w : Nat) : Elem := entryConvert .fp32 w (.pow 0)

/-- A MATMUL of P3, FP32 out: `a` times the matrix whose columns are `bs`, added to the words `pre`. -/
def mulP3 (a bs : List (List Nat)) (pre : List (List Nat)) : List (List Nat) :=
  let g := glenOf (Config.lowrankGlen % 3)
  let cols := bs.map (fun c => c.map matElem)
  List.zipWith (fun row p =>
    let r := row.map matElem
    List.zipWith (fun c w => (laneSum w (laneGroups .p3 g r c (r.map (fun _ => Num.fin false 1 0)))).1.word) cols p) a pre

/-- `n` rows of `k` zeros. -/
def zeroMat (n k : Nat) : List (List Nat) := List.replicate n (List.replicate k 0)

/-- The columns of a matrix of `k` columns. -/
def columns (k : Nat) (a : List (List Nat)) : List (List Nat) := (List.range k).map (fun j => a.map (fun r => r.getD j 0))

/-- A word negated; a NaN keeps its sign: DESIGN CHOICE, see log 102. -/
def negWord (w : Nat) : Nat := if fpNan w then w else (w + 2 ^ 31) % 2 ^ 32

/-- A column less its projection on a unit column. -/
def project (q v : List Nat) : VM (List Nat) := do
  let r ← rowDot (q.zip v)
  (q.zip v).mapM (fun x => do
    let p ← vMul r x.1
    vSub x.2 p)

/-- A column over its norm, by LSQRT. -/
def normalise (v : List Nat) : VM (List Nat) := do
  let d ← rowDot (v.zip v)
  let l ← vlOf d
  let r ← lSqrt l
  let n ← fp32Of r
  v.mapM (fun x => vDiv x n)

/-- Modified Gram-Schmidt over columns, column 0 first. -/
def orthonormal : Nat → List (List Nat) → VM (List (List Nat))
  | 0, _ => pure []
  | _, [] => pure []
  | n + 1, v :: vs => do
    let q ← normalise v
    let rest ← vs.mapM (project q)
    let qs ← orthonormal n rest
    pure (q :: qs)

/-- keyed(n, r): signed bits [63:32] of R121 times 2^−31, as FP32. -/
def keyedMat (key tensor n r : Nat) : List (List Nat) :=
  (List.range n).map (fun i => (List.range r).map (fun j =>
    fRnd (ofInt (signedN 32 (keyedBits key tensor (i * r + j) / 2 ^ 32)) (-31))))

/-- An FP32 matrix in memory, Z-blocked. -/
def matEntry (a rows cols : Nat) : TEntry := ⟨a, rows, cols, 0, 0, 0, false, false, 0⟩

def readMat (e : TEntry) (req : Nat) : MM (List (List Nat)) := (List.range e.rows).mapM (fun r => readRow e r req)

/-- Write a matrix, its padding +0. -/
def writeMat (e : TEntry) (req : Nat) (a : List (List Nat)) : MM Unit := do
  let rows := (a.map List.toArray).toArray
  (List.range (rowBlocks e)).forM (fun br => (List.range (colBlocks e)).forM (fun bc =>
    writeBlock e br bc req ((List.range 4096).map (fun n =>
      (rows.getD (64 * br + n / 64) #[]).getD (64 * bc + n % 64) 0)).toArray))

/-- Rows and columns of a `rows` × `cols` tensor in Z-blocked storage order, padding left out (R292, log 30). -/
def storageOrder (rows cols : Nat) : List (Nat × Nat) :=
  (List.range ((rows + 63) / 64)).flatMap (fun br => (List.range ((cols + 63) / 64)).flatMap (fun bc =>
    (List.range 4096).filterMap (fun p =>
      let r := 64 * br + zRow p
      let c := 64 * bc + zCol p
      if r < rows ∧ c < cols then some (r, c) else none)))

/-- A matrix as a contribution, and a result's words as a matrix. -/
def flatMat (a : List (List Nat)) (cols : Nat) : List Nat :=
  let m := (a.map List.toArray).toArray
  (storageOrder a.length cols).map (fun p => (m.getD p.1 #[]).getD p.2 0)
def matOf (rows cols : Nat) (ws : List Nat) : List (List Nat) :=
  let v := ((storageOrder rows cols).zip ws).foldl (fun (m : Array Nat) p => m.set! (p.1.1 * cols + p.1.2) p.2)
    (List.replicate (rows * cols) 0).toArray
  (List.range rows).map (fun r => (List.range cols).map (fun c => v.getD (r * cols + c) 0))

/-- Rows of a row-major list. -/
def rowsOf (cols : Nat) (l : List Nat) : List (List Nat) :=
  (List.range (l.length / max 1 cols)).map (fun r => (l.drop (r * cols)).take cols)

/-- A result's words as FP32 (R45). -/
def resultFp32 (e : Int) (ws : List Int) : List Nat := ws.map (fun q => fRnd (ofInt q e))

/-- The flags that a contribution's elements give it. -/
def localOf (i seq : Nat) (r : Rec) (raw : List Nat) (backup dst : Option Nat) (op : Nat) : LocalIn :=
  let xs := raw.map fp32Num
  { (default : LocalIn) with
    stream := i, seq := seq, tag := r.step, layer := r.hdr.layer, tensor := r.hdr.tensorId, raw := raw, backup := backup, dst := dst
    nonfinite := match op with
      | 0 => xs.any Num.special
      | 1 => raw.any fpNan
      | _ => false
    maxExp := if op = 0 then maxExpOf xs else none }

/-- The request of a low-rank exchange's memory accesses: its group's first clove. -/
def lowReq (s : State) (i seq : Nat) : Nat :=
  match findRec s i seq with
  | some r => reqClove ((groupCloves s r.hdr.group).headD 0)
  | none => reqClove 0

/-- Offer one of the two exchanges. -/
def offerLow (x : LowRank) (b : Nat) (raw : List Nat) (s : State) : State :=
  match findRec s x.stream x.seq with
  | some r => offer
      { bucket := b, planNo := x.planNo, plan := x.plan, op := 0, word := x.word, elements := raw.length
        use := .lowrank, deadline := x.deadline, tag := x.tag, loc := localOf x.stream x.seq r raw x.backup none 0 } s
  | none => s

/-- The first half of a low-rank REDUCE: M, Q, P, and P's exchange. -/
def startLow (i seq : Nat) (r : Rec) (b : ReduceBody) (p : Plan) (e : TEntry) : MM Unit := do
  let s ← mGet
  let req := lowReq s i seq
  let cur := b2n p.cur
  let ee := matEntry (p.lowrank.getD cur 0) e.rows e.cols
  let qe := matEntry (p.lowrank.getD (2 + cur) 0) e.cols b.rank
  let oe := matEntry b.dst e.rows e.cols
  let ee1 := matEntry (p.lowrank.getD (1 - cur) 0) e.rows e.cols
  let qe1 := matEntry (p.lowrank.getD (3 - cur) 0) e.cols b.rank
  checkRange oe.base (tensorBytes oe) 0x20
  mGuard (decide (oe.base % 4096 ≠ 0)) .align 0x20
  [ee, ee1, qe, qe1].forM (fun x => do
    mGuard (decide (x.base % 4096 ≠ 0)) .align 0x14
    checkRange x.base (tensorBytes x) 0x14)
  let g ← readMat e req
  let err ← readMat ee req
  let q ← if p.qValid then readMat qe req else pure (keyedMat r.key r.hdr.tensorId e.cols b.rank)
  let sub (a : List (List Nat)) : Nat := (a.map (fun row => row.countP (isSubnormal .fp32))).sum
  mMod (countIn req (sub g + sub err + sub q))
  let m := List.zipWith (fun x y => List.zipWith fAdd x y) g err
  let pm := mulP3 m (columns b.rank q) (zeroMat e.rows b.rank)
  let x : LowRank :=
    { stream := i, seq := seq, bucket := b.bucket, planNo := b.plan, plan := p, rank := b.rank, rows := e.rows
      cols := e.cols, dst := b.dst, word := b.word
      deadline := if b.deadlineEn then some ⟨b.deadline, b.deadlineFrac⟩ else none
      tag := r.step, layer := r.hdr.layer, tensor := r.hdr.tensorId
      backup := if b.backupEn then some b.backup else none, m := m.flatten, ph := [], ql := [], nonfinite := false }
  mMod (fun t => offerLow x b.bucket (flatMat pm b.rank) (modLink t (fun l => { l with lowrank := l.lowrank ++ [x] })))

def dropLow (x : LowRank) (s : State) : State :=
  modLink s (fun l => { l with lowrank := l.lowrank.filter (fun y => !(y.stream == x.stream && y.seq == x.seq)) })

/-- P's sum is here: Ph, Ql, and Ql's exchange. -/
def middleLow (x : LowRank) (e : Int) (ws : List Int) (nonfinite : Bool) (s : State) : State :=
  let p := matOf x.rows x.rank (resultFp32 e ws)
  let (qc, s) := runVM (lowReq s x.stream x.seq) (orthonormal x.rank (columns x.rank p)) s
  let ph := columns x.rows qc
  let ql := mulP3 (columns x.cols (rowsOf x.cols x.m)) qc (zeroMat x.cols x.rank)
  let y := { x with ph := ph.flatten, ql := ql.flatten, nonfinite := nonfinite }
  let s := modLink s (fun l => { l with
    lowrank := l.lowrank.map (fun z => if z.stream = x.stream ∧ z.seq = x.seq then y else z) })
  offerLow y ((x.bucket + 1) % 4096) (flatMat ql x.rank) s

/-- Ql's sum is here: dst, the new residual and the new Q are written, and the REDUCE completes with the OR of the two
exchanges' flags. -/
def endLow (x : LowRank) (e : Int) (ws : List Int) (nonfinite : Bool) (s : State) : State :=
  let req := lowReq s x.stream x.seq
  let qs := matOf x.cols x.rank (resultFp32 e ws)
  let ph := rowsOf x.rank x.ph
  let ql := rowsOf x.rank x.ql
  let out := mulP3 ph qs (zeroMat x.rows x.cols)
  let res := mulP3 (ph.map (fun r => r.map negWord)) ql (rowsOf x.cols x.m)
  let nxt := 1 - b2n x.plan.cur
  let t := runDesc x.stream x.seq (do
    writeMat (matEntry x.dst x.rows x.cols) req out
    writeMat (matEntry (x.plan.lowrank.getD nxt 0) x.rows x.cols) req res
    writeMat (matEntry (x.plan.lowrank.getD (2 + nxt) 0) x.cols x.rank) req qs
    mMod (fun u => modLink u (fun l => { l with residuals := (l.residuals ++ [x.planNo]).dedup }))) s
  complete x.stream x.seq stOK 0 0 { CFlags.none with nonfinite := x.nonfinite || nonfinite } (dropLow x t)

/-- The low-rank REDUCEs whose exchange ran in instance `b`. -/
def lowIn (s : State) (b : Nat) (x : Bucket) : List LowRank :=
  s.link.lowrank.filter (fun y => x.locals.any (fun l => l.stream == y.stream && l.seq == y.seq && !l.gone)
    && (if y.ph.isEmpty then y.bucket == b else (y.bucket + 1) % 4096 == b))

/-! ### Progress -/

/-- An instance goes on, and ends when its result is whole; a low-rank exchange then goes on in the next bucket. A vote
and a count keep their result until their command takes it. -/
def settleBucket : Nat → Nat → State → State
  | 0, _, s => s
  | n + 1, b, s =>
    let s := pump b s
    let x := bucket s b
    match resultDone x, mergedTrailer x, x.use with
    | true, some t, .reduce => reopen b (freeBucket b (finishReduce b x t (noteResult b x t s)))
    | true, some t, .lowrank =>
      let low := lowIn s b x
      let s := reopen b (freeBucket b (noteResult b x t s))
      let s := low.foldl (fun u y =>
        if y.ph.isEmpty then middleLow y t.e (resultWords x) t.nonfinite u
        else endLow y t.e (resultWords x) t.nonfinite u) s
      settleBucket n ((b + 1) % 4096) s
    | _, _, _ => s

/-- As far as it goes. -/
def moveBucket (b : Nat) (s : State) : State := settleBucket 4 b s

/-! ### REDUCE (R292, R297, R303, R304) -/

/-- The elements of a contribution in storage order, padding left out. -/
def readElements (e : TEntry) (req : Nat) : MM (List Nat) := do
  if e.timeMajor then readRun e 0 (e.rows * e.cols) req
  else
    let blocks ← (List.range (rowBlocks e * colBlocks e)).mapM (fun b => mRead (e.base + b * blockBytes e) (blockBytes e) req)
    pure (blocks.zipIdx.flatMap (fun x =>
      let br := x.2 / colBlocks e
      let bc := x.2 % colBlocks e
      (unpackCodes 32 x.1).zipIdx.filterMap (fun y =>
        if 64 * br + zRow y.2 < e.rows ∧ 64 * bc + zCol y.2 < e.cols then some y.1 else none)))

/-- A shadow REDUCE sends its copy and waits for the trailer (R304): `n`, op and word are its own entry's. -/
def startShadow (i seq : Nat) (r : Rec) (b : ReduceBody) (p : Plan) (raw : List Nat) : MM Unit := do
  let s ← mGet
  let y := sget BktEntry.empty s.link.entries b.bucket
  mGuard (decide (b.op = 0) && (contribLimit b.word (max 1 y.n)).isNone) .range 0x14
  let e : Int := if b.op = 0 then y.em + guardBits y.n + 2 - wordBits b.word else 0
  let l := convertLocal b.op b.word (max 1 y.n) 1 e (localOf i seq r raw none none b.op)
  let k := l.clips.getD 0 0
  let i0 : InputMeta := { InputMeta.none with
    count := 1, nonfinite := l.nonfinite || stepFlag s r.step, clipped := decide (0 < k), clippedCount := min max32 k
    maxExp := l.maxExp }
  let c : BackupCopy := ⟨b.bucket, p.expected % 2 ^ 16, logicalNode s, e, l.words, i0⟩
  mMod (fun t => modLink (sendMsg ⟨1, p.localCount, none, treeCtx b.bucket 0 false, .copy c⟩
      (count (portBase 0 + 0x20) (l.flushes.getD 0 0) (count (linkBase 0 + 0x2000) k t)))
    (fun l => { l with shadows := l.shadows ++ [(b.bucket, i, seq)] }))

/-- Dispatch a REDUCE. -/
def dispatchReduce (i seq : Nat) (r : Rec) (b : ReduceBody) : MM Unit := do
  mGuard (decide (2 < b.op)) .opcode 0x10
  mGuard (decide (64 < b.rank)) .range 0x10
  let e ← needTE r.hdr.group b.src 0x14
  mGuard (decide (fmtOf e.fmt ≠ some .fp32)) .format 0x14
  checkIn e (fun f => f == .fp32) 0x14
  let p ← readPlan (if b.rank = 0 then [0, 1] else [2]) b.plan 0x14
  if p.kind = 1 then
    let raw ← readElements e (reqLink 0)
    mMod (modRec i seq (fun x => { x with life := .running }))
    startShadow i seq r b p raw
  else
    mGuard (decide (b.op = 0) && (contribLimit b.word p.expected).isNone) .range 0x14
    mGuard (decide (b.rank ≠ 0) && decide (b.op ≠ 0)) .opcode 0x10
    mMod (modRec i seq (fun x => { x with life := .running }))
    if b.rank = 0 then
      let n := e.rows * e.cols
      checkRange b.dst (64 * ((n * wordBytes b.op b.word + 63) / 64) + 64) 0x20
      let raw ← readElements e (reqLink (treePort p 0))
      mMod (fun s => moveBucket b.bucket (offer
        { bucket := b.bucket, planNo := b.plan, plan := p, op := b.op, word := b.word, elements := n, use := .reduce
          deadline := if b.deadlineEn then some ⟨b.deadline, b.deadlineFrac⟩ else none, tag := r.step
          loc := localOf i seq r raw (if b.backupEn then some b.backup else none) (some b.dst) b.op } s))
    else
      startLow i seq r b p e
      mMod (moveBucket b.bucket)

/-! ### BUCKET_ARM (R298, R300) -/

/-- The copies held for bucket `b` meet its instance (R305). -/
def copyFits (s : State) (x : Bucket) (c : BackupCopy) : Bool :=
  let kids := x.trees.flatMap (fun t => t.inputs.filter (fun y => decide ((port s y.port).farNode = c.standIn)))
  !kids.isEmpty && decide (x.e = some c.e) && kids.all (fun y => y.backup.all (fun n => n == c.sender))
    && !x.copies.any (fun d => d.standIn == c.standIn) && decide (c.words.length = x.elements)

/-- A copy comes to an armed instance: held, or discarded and counted. -/
def takeCopy (c : BackupCopy) (s : State) : State :=
  let x := bucket s c.bucket
  let x1 := { x with askers := (x.askers ++ [c.sender]).dedup }
  if copyFits s x c then setBucket s c.bucket { x1 with copies := x.copies ++ [c] }
  else count (linkBase (treeTile x.plan 0) + 0x2004) 1 (setBucket s c.bucket x1)

/-- Every local contribution of an instance ends with a failure. -/
def failBucket (b : Nat) (f : Fail) (s : State) : State :=
  let x := bucket s b
  let s := x.locals.foldl (fun u l =>
    let v := runDesc l.stream l.seq (fun t => (.error f, t)) u
    failVote l.stream l.seq { v with link := { v.link with
      lowrank := v.link.lowrank.filter (fun y => !(y.stream == l.stream && y.seq == l.seq)) } }) s
  reopen b (freeBucket b s)

/-- The pools hold what a plan needs. -/
def poolsFit (s : State) (p : Plan) : Bool :=
  (List.range 8).all (fun k => decide (sget 0 s.link.redUsed k + poolNeed p k ≤ redPool s k))

/-- An instance arms with its plan as it now is: the reservation, the children's grants, and what came early. -/
def armWith (b : Nat) (p : Plan) (s : State) : State :=
  let x := bucket s b
  let mine := s.link.early.filter (fun g => g.1 == b)
  let held := s.link.heldCopies.filter (fun c => c.bucket == b)
  let s := modLink s (fun l => { l with
    redUsed := (List.range 8).foldl (fun m k => smod 0 m k (· + poolNeed p k)) l.redUsed
    early := l.early.filter (fun g => g.1 != b)
    heldCopies := l.heldCopies.filter (fun c => c.bucket != b) })
  let s := setBucket s b { x with
    state := .armed, plan := p
    trees := (List.range p.trees).map (fun t =>
      { TreeIn.none with
        inputs := (childPorts p t).map ChildIn.none, given := p.window, granted := mine.any (fun g => g.2.1 == t)
        grants := ((mine.filter (fun g => g.2.1 == t)).map (·.2.2)).sum }) }
  let s := (List.range p.trees).foldl (fun u t => (childPorts p t).foldl (fun v k =>
    sendMsg (neighbourMsg v 0 k (treeCtx b t true) (.grant b t p.window)) v) u) s
  moveBucket b (held.foldl (fun u c => takeCopy c u) s)

/-- The fields of a plan that an instance was opened with still hold. -/
def samePlan (x : Bucket) (p : Plan) : Bool :=
  decide (p.expected = x.plan.expected) && decide (p.localCount = x.plan.localCount) && decide (p.kind = x.plan.kind)

/-- A bucket arms once its reservation can be made. -/
def armBucket (b : Nat) (s : State) : State :=
  let x := bucket s b
  if x.state ≠ .waitArm then s
  else
    match readPlan [x.plan.kind] x.planNo 0x14 s with
    | (.error f, t) => failBucket b f t
    | (.ok p, t) =>
      if !poolsFit t p then t
      else if samePlan x p then armWith b p t
      else
        -- the plan has changed: words formed under the old one are formed again
        let ls := x.locals.map (fun l => { l with words := if x.use = BucketUse.count then l.words else [], clips := [], flushes := [] })
        let y := { x with plan := p, locals := ls, e := if x.use = BucketUse.count then some 0 else entryExp t b x.op x.word p.expected }
        let u := setBucket t b { y with twoPhase := y.e.isNone }
        armWith b p (match y.e with
          | some e => convertAll b e u
          | none => u)

def execBucketArm (b : Nat) (s : State) : Host.Outcome State Fault Refusal :=
  onUnit (decide (b < 4096)) (settle s (armBucket b s))

/-! ### Grants and chunks (R300, R301) -/

/-- An instance takes part in tree `t` now. -/
def onTree (x : Bucket) (t : Nat) : Bool :=
  decide (t < x.plan.trees) && decide (x.state ≠ .free) && decide (x.state ≠ .waitArm)

/-- The grant that a parent sends on arming is of a window, 16 chunks or more; later ones are of a chunk (R298, R300). -/
def armingGrant (n : Nat) : Bool := decide (16 ≤ n)

/-- A grant of `n` chunks from port `p`: the parent's for the instance that runs is taken, and one of a chunk that the instance
has no use for goes; the arming grant of the next instance, and what follows it, is kept until that arms (R300). -/
def takeGrant (p b t n : Nat) (s : State) : State :=
  let x := bucket s b
  let y := treeOf x t
  if onTree x t && !(armingGrant n && y.granted) then
    if x.plan.parent.getD t 0x3F = p then
      moveBucket b (modBucket s b (modTree t (fun z => { z with grants := z.grants + n, granted := z.granted || armingGrant n })))
    else s
  else if armingGrant n || s.link.early.any (fun g => g.1 == b && g.2.1 == t) then
    modLink s (fun l => { l with early := l.early ++ [(b, t, n)] })
  else s

def execGrantReceive (p b t n : Nat) (s : State) : Host.Outcome State Fault Refusal :=
  onUnit (decide (p < 48) && decide (b < 4096) && decide (t < 8)) (settle s (takeGrant p b t n s))

/-- Change the input of child port `p` on tree `t`. -/
def modChild (p t : Nat) (f : ChildIn → ChildIn) (x : Bucket) : Bucket :=
  modTree t (fun y => { y with inputs := y.inputs.map (fun c => if c.port = p then f c else c) }) x

/-- An upward chunk is late: discarded, and counted once for its input (R307). -/
def lateChunk (p b t : Nat) (c : ChildIn) (s : State) : State :=
  if c.late then s
  else
    let x := bucket s b
    count (linkBase (treeTile x.plan t) + 0x2008) 1 (setBucket s b
      (modTree t (fun y => { y with late := y.late + 1 }) (modChild p t (fun d => { d with late := true }) x)))

/-- An upward chunk of child port `p`. -/
def takeUp (p b t : Nat) (ws : List Int) (i : Option InputMeta) (s : State) : State :=
  let x := bucket s b
  if !onTree x t then s
  else
    match (treeOf x t).inputs.find? (fun c => c.port == p) with
    | none => s
    | some c =>
      let back := match c.backup, i.bind (·.backupNode) with
        | some n, _ => some n
        | none, m => m
      if c.closed then lateChunk p b t c s
      else if x.twoPhase && c.pre.isNone then
        moveBucket b (setBucket s b (modChild p t (fun d => { d with
          pre := some (i.getD InputMeta.none), backup := back }) x))
      else if chunksOn x t ≤ c.chunks.length then s
      else
        let last := c.chunks.length + 1 = chunksOn x t
        moveBucket b (setBucket s b (modChild p t (fun d => { d with
          chunks := d.chunks ++ [ws], info := if last then some (i.getD InputMeta.none) else none, backup := back }) x))

def execReduceChunkReceive (p b t : Nat) (ws : List Int) (i : Option InputMeta) (s : State) :
    Host.Outcome State Fault Refusal :=
  onUnit (decide (p < 48) && decide (b < 4096) && decide (t < 8)) (settle s (takeUp p b t ws i s))

/-- A downward chunk from port `p`. -/
def takeDown (p b t : Nat) (ws : List Int) (r : Option Trailer) (s : State) : State :=
  let x := bucket s b
  let y := treeOf x t
  if !onTree x t || isRoot x.plan t || decide (x.plan.parent.getD t 0x3F ≠ p) then s
  else if x.twoPhase && y.pre.isNone then
    moveBucket b (sendDown b t [] r (setBucket s b (modTree t (fun z => { z with pre := some (r.bind (·.maxExp)) }) x)))
  else if chunksOn x t ≤ y.result.length then s
  else moveBucket b (takeResult b t ws r s)

def execResultChunkReceive (p b t : Nat) (ws : List Int) (r : Option Trailer) (s : State) :
    Host.Outcome State Fault Refusal :=
  onUnit (decide (p < 48) && decide (b < 4096) && decide (t < 8)) (settle s (takeDown p b t ws r s))

/-! ### Deadlines and copies (R303 to R308) -/

/-- The mark of tree `t`'s adder: D + (h − 1) · step. -/
def adderMark (x : Bucket) (t : Nat) : Option Stamp :=
  x.deadline.map (fun d => ⟨d.pair + (x.plan.height.getD t 0 - 1) * x.plan.step, d.frac⟩)

/-- The deadline of tree `t` has come: an input that is not whole is taken from its copy, or is missing (R306). -/
def fireTree (b t : Nat) (s : State) : State :=
  let x := bucket s b
  let close (c : ChildIn) : ChildIn :=
    if c.info.isSome then c
    else { c with closed := true, standIn := x.copies.find? (fun d => decide (d.standIn = (port s c.port).farNode)) }
  moveBucket b (setBucket s b (modTree t (fun y => { y with fired := true, inputs := y.inputs.map close }) x))

/-- The deadline of tree `t` may fire: height at least 1, a deadline, and a stamp at or above the mark (R233, R308). -/
def deadlineDue (s : State) (b t : Nat) : Bool :=
  let x := bucket s b
  onTree x t && !(treeOf x t).fired && decide (1 ≤ x.plan.height.getD t 0)
    && marksFire s
    && (match adderMark x t with
        | some m => stampGe s.tally.bus m
        | none => false)

/-- A copy arrives (R305). -/
def receiveCopy (c : BackupCopy) (s : State) : State :=
  let x := bucket s c.bucket
  if x.state = .free ∨ x.state = .waitArm then
    if s.link.heldCopies.any (fun d => d.bucket == c.bucket && d.standIn == c.standIn) then count (linkBase 0 + 0x2004) 1 s
    else modLink s (fun l => { l with heldCopies := l.heldCopies ++ [c] })
  else takeCopy c s

def execBackupCopyReceive (c : BackupCopy) (s : State) : Host.Outcome State Fault Refusal :=
  onUnit (decide (c.bucket < 4096)) (receiveCopy c s)

/-- A copy held for 1 ms goes. -/
def expireCopy (b n : Nat) (s : State) : State :=
  if s.link.heldCopies.any (fun d => d.bucket == b && d.standIn == n) then
    count (linkBase 0 + 0x2028) 1 (modLink s (fun l => { l with
      heldCopies := l.heldCopies.filter (fun d => !(d.bucket == b && d.standIn == n)) }))
  else s

def execCopyHoldExpire (b n : Nat) (s : State) : Host.Outcome State Fault Refusal :=
  onUnit (decide (b < 4096)) (expireCopy b n s)

/-- The trailer of an instance comes back to its shadow module (R304). -/
def shadowTrailer (b : Nat) (t : Trailer) (s : State) : State :=
  match s.link.shadows.find? (fun x => x.1 == b) with
  | none => s
  | some (_, i, seq) =>
    let u := modLink (learnEntry b t.op t.word t s) (fun l => { l with shadows := l.shadows.filter (fun x => x != (b, i, seq)) })
    let u := match findRec s i seq with
      | some r => if t.nonfinite then setStepFlag r.step r.hdr.layer r.hdr.tensorId u else u
      | none => u
    completeOK i seq u

def execShadowTrailerReceive (b : Nat) (t : Trailer) (s : State) : Host.Outcome State Fault Refusal :=
  onUnit (decide (b < 4096)) (settle s (shadowTrailer b t s))

/-! ### LNK_BKT and LNK_BKT_CANCEL (R295, R308, R425) -/

/-- A write of LNK_BKT. -/
def writeLnkBkt (v : Nat) (s : State) : State :=
  let b := bitsAt v 11 0
  let s := setReg4 s (linkBase 0 + 0x20) b
  let s := if bitAt v 30 then modLink s (fun l => { l with bktBusyErr := false }) else s
  if !bitAt v 31 then s
  else if (bucket s b).state ≠ .free then modLink s (fun l => { l with bktBusyErr := true })
  else modLink s (fun l => { l with
    entries := sset BktEntry.empty l.entries b
      ⟨signedN 16 (bitsAt v 27 12), bitAt v 28, 0, bitAt v 29, reg4 s (linkBase 0 + 0x28)⟩ })

def execLnkBktWrite (v : Nat) (s : State) : Host.Outcome State Fault Refusal :=
  .next (if hostBlock s then writeLnkBkt v s else s)

/-- An instance is cancelled: its local REDUCEs complete with STREAM_STALL, its reservation and its copies go, and
nothing more is sent (R308, Table 12.8). -/
def cancelBucket (b : Nat) (s : State) : State :=
  let x := bucket s b
  let b := b % 4096
  let s := (x.locals.filter (fun l => !l.gone)).foldl (fun u l =>
    let v := complete l.stream l.seq stStall 0 0 CFlags.none u
    failVote l.stream l.seq { v with link := { v.link with
      lowrank := v.link.lowrank.filter (fun y => !(y.stream == l.stream && y.seq == l.seq))
      ops := v.link.ops.filter (fun o => !(o.stream == l.stream && o.seq == l.seq)) } }) s
  let s := modLink s (fun l => { l with heldCopies := l.heldCopies.filter (fun c => c.bucket != b) })
  if x.state = .free then s else reopen b (freeBucket b s)

end Sys2Proof.Machine
end

