-- ==== Sys2Proof/Machine/StepGuard.lean ====
section
/-! DEFINITION. The step guard: STEP_COMMIT's contribution to its vote bucket (R188, R309), and the outcome that VOTE_RESULT brings: COMMIT (R189) or SKIP (R190, Table 7.10). -/

namespace Sys2Proof.Machine

/-- The unfinished STEP_COMMIT of a descriptor. -/
def commitAt (s : State) (i seq : Nat) : Option Commit :=
  s.step.commits.find? (fun c => c.stream == i && c.seq == seq && !c.finished)

def modCommit (no : Nat) (f : Commit → Commit) (s : State) : State :=
  modStep s (fun x => { x with commits := x.commits.map (fun c => if c.no = no then f c else c) })

/-- The record that a module contributes: the one it has latched, or with a veto one of its own (R188). -/
def voteRecord (s : State) (r : Rec) (b : StepCommitBody) : Option FirstSetter :=
  if stepFlag s r.step then some (sget default s.step.first (r.step % 2))
  else if b.veto then some ⟨s.tally.now.pair, logicalNode s, r.hdr.layer, 0xFFF⟩
  else none

/-- Dispatch a STEP_COMMIT, its step's operations complete: it contributes to its vote bucket. -/
def dispatchStepCommit (i seq : Nat) (r : Rec) (b : StepCommitBody) : MM Unit := do
  let p ← readPlan [0] b.plan 0x14
  mMod (fun s =>
    let bad := stepFlag s r.step || b.veto
    let l : LocalIn := { (default : LocalIn) with
      stream := i, seq := seq, tag := r.step, layer := r.hdr.layer, tensor := r.hdr.tensorId, raw := [b2n bad], nonfinite := bad
      first := voteRecord s r b }
    let t := modRec i seq (fun x => { x with life := .running }) s
    let t := match commitAt t i seq with
      | some c => modCommit c.no (fun k => { k with contributed := true }) t
      | none => t
    moveBucket b.vote (offer
      { bucket := b.vote, planNo := b.plan, plan := p, op := 2, word := false, elements := 1, use := .vote
        deadline := if b.deadlineEn then some ⟨b.deadline, b.deadlineFrac⟩ else none, tag := r.step, loc := l } t))

/-- A STEP_COMMIT that fails when it contributes takes no outcome; its UPDATEs complete unexecuted. -/
def runStepCommit (i seq : Nat) (r : Rec) (b : StepCommitBody) (s : State) : State :=
  let t := runDesc i seq (dispatchStepCommit i seq r b) s
  match findRec t i seq with
  | some x => if x.life = .done then failVote i seq t else t
  | none => t

/-- The STEP_COMMIT whose vote runs in bucket `b`; an abort of its stream does not end the vote (R370). -/
def votingCommit (s : State) (b : Nat) : Option Commit :=
  s.step.commits.find? (fun c => c.contributed && !c.answered && c.vote == b)

/-- Staged codes become committed (R115). -/
def commitCodes (s : State) : State :=
  modComp s (fun c => { c with slots := c.slots.map (fun x =>
    if x.2.stagedValid then (x.1, { x.2 with code := x.2.staged, codeValid := true, staged := 0, stagedValid := false })
    else x) })

/-- Staged codes are cleared (R115). -/
def clearStaged (s : State) : State :=
  modComp s (fun c => { c with slots :=
    (c.slots.map (fun x => (x.1, { x.2 with staged := 0, stagedValid := false }))).filter (fun x =>
      decide (x.2 ≠ SlotStat.empty)) })

/-- A LOWRANK plan's new residual becomes current: cur flips and q_valid is set, in the plan's word at 0x08 (R311). -/
def flipPlan (n : Nat) (s : State) : State :=
  let a := planAddr s n + 8
  let w := leNat (memBytes s a 4)
  let v := (w ^^^ 2 ^ 16) ||| 2 ^ 17
  (writeMem a (leBytes 4 v) (reqLink 0) s).2

/-- What an outcome leaves in STEP_LAST and the counters. -/
def noteOutcome (c : Commit) (skip : Bool) (s : State) : State :=
  count (safeBase + (if skip then 0x203C else 0x2038)) 1 (modStep s (fun x => { x with
    lastOutcome := skip, lastValid := true, lastTag := c.tag }))

/-- The flag of a step is cleared, and its first-setter record with it. -/
def clearFlag (tag : Nat) (s : State) : State :=
  modStep s (fun x => { x with
    flags := sset false x.flags (tag % 2) false, first := sset default x.first (tag % 2) default })

/-- COMMIT (R189). -/
def applyCommit (c : Commit) (s : State) : State :=
  let t := commitCodes s
  let t := modLink (t.link.residuals.foldl (fun u n => flipPlan n u) t) (fun l => { l with residuals := [] })
  let t := modCommit c.no (fun k => { k with finished := true, committed := true }) t
  let t := noteOutcome c false (clearFlag c.tag t)
  completeOK c.stream c.seq t

/-- Stash entries saved with tag `tag`: (clove, index). -/
def savedIn (s : State) (tag : Nat) : List (Nat × Nat) :=
  s.comp.cloves.flatMap (fun p => (p.2.stash.filter (fun e => decide (e.2.order ≠ 0) && decide (e.2.step = tag))).map
    (fun e => (p.1, e.1)))

/-- Descriptor `seq` of stream `i` carries step tag `tag`. -/
def taggedBy (s : State) (tag i seq : Nat) : Bool := (findRec s i seq).any (fun r => r.step == tag)

/-- A tile of an operation tagged `tag`: the one that opened it, or a member that adds to it. -/
def tileTagged (s : State) (tag : Nat) (x : Tile) : Bool :=
  (x.item.id.seq :: x.owner :: x.members).any (taggedBy s tag x.stream)

/-- The shared sequences with an operation tagged `tag` end with their tiles (R78, R190). -/
def endSequences (tag : Nat) (s : State) : State :=
  modHost s (fun h => { h with streams := h.streams.map (fun x =>
    (x.1, { x.2 with shared := x.2.shared.filter (fun q => !q.members.any (taggedBy s tag x.1)) })) })

/-- SKIP, in the order of Table 7.10. -/
def applySkip (c : Commit) (first : FirstSetter) (s : State) : State :=
  let t := (savedIn s c.tag).foldl (fun u e => releaseEntry e.1 e.2 u) s
  let t := endSequences c.tag (tidyCloves (discardTiles (fun x => tileTagged t c.tag x.2.2) t))
  let t := modLink (clearStaged t) (fun l => { l with residuals := [] })
  let t := skipUpdates c.no (modCommit c.no (fun k => { k with finished := true }) t)
  let t := noteOutcome c true (clearFlag c.tag t)
  let t := raiseEv { code := 0x01, arg0 := first.node, arg1 := first.layer + 2 ^ 16 * first.tensor, arg2 := c.tag % 2 ^ 32
                     at_ := some first.tally } t
  complete c.stream c.seq stOK 0 0 { CFlags.none with outcome := true } t

/-- The command's result is the instance's own, where the instance has one. -/
def voteAgrees (x : Bucket) (nonfinite short : Bool) (first : FirstSetter) : Bool :=
  if resultDone x then
    match mergedTrailer x with
    | some t =>
      let bad := t.nonfinite || (resultWords x).any (fun q => decide (q ≠ 0))
      bad == nonfinite && t.short == short && t.first.all (fun f => decide (f = first))
    | none => false
  else true

/-- The vote's result arrives: the instance ends and the STEP_COMMIT takes its outcome (R188). A result that comes
before the instance's own is whole has a count that no chunk has told: a free value (log 32). -/
def voteResult (b : Nat) (nonfinite short : Bool) (first : FirstSetter) (s : State) : State :=
  let x := bucket s b
  match votingCommit s b with
  | none => s
  | some c =>
    if x.use ≠ .vote ∨ !voteAgrees x nonfinite short first then s
    else
      let m := match resultDone x, mergedTrailer x with
        | true, some t => t
        | _, _ => { rootTrailer s x (treeMeta s x 0) with
            count := (Config.freeWord s.free).toNat % 2 ^ 32, nonfinite := nonfinite, short := short, first := some first }
      let t := noteResult b x m { s with free := s.free + 1 }
      let t := modCommit c.no (fun k => { k with answered := true }) (reopen b (freeBucket b t))
      if nonfinite || short then applySkip c first t
      -- a STEP_COMMIT that an abort has completed commits nothing
      else if c.finished then t else applyCommit c t

def execVoteResult (b : Nat) (nonfinite short : Bool) (first : FirstSetter) (s : State) :
    Host.Outcome State Fault Refusal :=
  onUnit (decide (b < 4096)) (settle s (voteResult b nonfinite short first s))

end Sys2Proof.Machine
end

