-- ==== Sys2Proof/Machine/Experts.lean ====
section
/-! DEFINITION. Token dispatch (R312 to R317), the expert home table and the slots (R318, R319, R426). -/

namespace Sys2Proof.Machine

/-! ### Plans, home entries and slots -/

/-- Table 12.5. -/
def dispPlanOf (b : List Byte) : DispPlan :=
  let c := word4 b 0xC
  { firstExpert := bitsAt (word4 b 4) 19 0, experts := bitsAt (word4 b 8) 16 0, countPlan := bitsAt c 15 0
    countBucket := bitsAt c 27 16, defer := word8 b 0x10, deferCap := word4 b 0x18, deferOut := word8 b 0x20
    timeout := bitsAt (word4 b 0x28) 19 0 }

/-- A plan of kind DISPATCH, its fields in range. -/
def readDispPlan (n off : Nat) : MM DispPlan := do
  let b ← readPlanBytes n off
  mGuard (decide (bitsAt (word4 b 0) 3 0 ≠ 3)) .opcode off
  let p := dispPlanOf b
  mGuard (decide (p.experts = 0) || decide (65536 < p.experts) || decide (65536 < p.deferCap)) .range off
  pure p

/-- The expert is one of the layer. -/
def inLayer (p : DispPlan) (e : Nat) : Bool := decide (p.firstExpert ≤ e) && decide (e < p.firstExpert + p.experts)

def homeEntry (s : State) (e : Nat) : Nat := sget 0 s.link.home e
def homeNode (v : Nat) : Nat := bitsAt v 15 0
def homeValid (v : Nat) : Bool := bitAt v 24
def homeEpoch (v : Nat) : Nat := bitsAt v 47 32

/-- Epoch `a` is later than `b`, modulo 2^16. -/
def laterEpoch (a b : Nat) : Bool :=
  let d := (a + 2 ^ 16 - b % 2 ^ 16) % 2 ^ 16
  decide (1 ≤ d) && decide (d < 2 ^ 15)

def slotReg (s : State) (n : Nat) : Nat := reg8 s (linkBase 0 + 0x1000 + 8 * n)
def slotExpert (v : Nat) : Nat := bitsAt v 19 0
def slotActive (v : Nat) : Bool := decide (bitsAt v 21 20 = 1)

/-- The lowest ACTIVE slot of an expert (R319). -/
def activeSlot (s : State) (e : Nat) : Option Nat :=
  (List.range 256).find? (fun n => slotActive (slotReg s n) && decide (slotExpert (slotReg s n) = e))

/-- ACTIVE slots of a layer. -/
def layerSlots (s : State) (p : DispPlan) : List Nat :=
  (List.range 256).filter (fun n => slotActive (slotReg s n) && inLayer p (slotExpert (slotReg s n)))

/-- A counter of the link tile that holds an expert's entry (Table 17.13's list). -/
def expertCtr (e k : Nat) : Nat := linkBase (e % 8) + 0x2000 + 4 * k

/-! ### Rows on the wire (R313) -/

/-- Scale codes of a row: one per group along it, or one per column when groups run along columns. -/
def rowScales (e : TEntry) (r req : Nat) : MM (List Nat) := do
  let lines ← (List.range (colBlocks e)).mapM (fun bc => readCodes e (r / 64) bc req)
  let g := eGlen e
  if e.axisRow then
    pure ((List.range e.cols).map (fun c => (lines.getD (c / 64) #[]).getD (codePlace g (c % 64) (r % 64 / g)) 0))
  else
    pure ((List.range ((e.cols + g - 1) / g)).map (fun j =>
      (lines.getD (j * g / 64) #[]).getD (codePlace g (r % 64) (j * g % 64 / g)) 0))

/-- Bytes of a row's codes. -/
def rowBytes (e : TEntry) : Nat := (e.cols * eBits e + 7) / 8

/-- A row with its scale codes when its tensor has a scale plane. -/
def readWire (e : TEntry) (r req : Nat) : MM (List Byte) := do
  let cs ← readRow e r req
  let ss ← if e.ssrc = 1 then rowScales e r req else pure []
  pure (packCodes (eBits e) cs ++ ss.map (BitVec.ofNat 8))

/-- Bytes of a row on the wire. -/
def wireLen (e : TEntry) : Nat :=
  rowBytes e + (if e.ssrc ≠ 1 then 0 else if e.axisRow then e.cols else (e.cols + eGlen e - 1) / eGlen e)

/-- The token record's 16 bytes, and the record that they hold. -/
def tokenBytes (r : TokenRec) : List Byte :=
  leBytes 4 (r.origin % 2 ^ 16 + 2 ^ 16 * (r.choice % 64)) ++ leBytes 4 (r.row % 2 ^ 20) ++ leBytes 4 (r.expert % 2 ^ 20)
    ++ leBytes 4 (r.epoch % 2 ^ 16 + 2 ^ 16 * (r.round % 256))
def tokenOf (b : List Byte) : TokenRec :=
  { origin := bitsAt (word4 b 0) 15 0, choice := bitsAt (word4 b 0) 21 16, row := bitsAt (word4 b 4) 19 0
    expert := bitsAt (word4 b 8) 19 0, epoch := bitsAt (word4 b 0xC) 15 0, round := bitsAt (word4 b 0xC) 23 16 }

/-- A row from the wire: its codes and its scale codes. -/
def wireParts (e : TEntry) (b : List Byte) : List Nat × List Nat :=
  (((unpackCodes (eBits e) (b.take (rowBytes e))).take e.cols), (b.drop (rowBytes e)).map (·.toNat))

/-- Write a row from the wire at row `r` of a tensor. -/
def writeWire (e : TEntry) (r req : Nat) (b : List Byte) : MM Unit := do
  let (cs, ss) := wireParts e b
  if e.axisRow ∧ fmtScaled (eFmt e) then
    let g := eGlen e
    writeRow e r req cs
    if r + 1 = e.rows ∧ !e.timeMajor then
      (List.range (64 * rowBlocks e - e.rows)).forM (fun k => writeRow e (e.rows + k) req (List.replicate e.cols (zeroOf e)))
    ss.zipIdx.forM (fun x =>
      mWrite ((planeAt e (r / 64) (x.2 / 64)).1 + codePlace g (x.2 % 64) (r % 64 / g)) [BitVec.ofNat 8 x.1] req)
  else writeResultRow req e r cs ss

/-! ### Operations in progress -/

def modOp (i seq : Nat) (f : DispOp → DispOp) (s : State) : State :=
  modLink s (fun l => { l with ops := l.ops.map (fun o => if o.stream = i ∧ o.seq = seq then f o else o) })

def findOp (s : State) (i seq : Nat) : Option DispOp := s.link.ops.find? (fun o => o.stream == i && o.seq == seq)

/-- The DISPATCH in progress of a plan, and the one of an expert's layer. -/
def opOfPlan (s : State) (n : Nat) : Option DispOp := s.link.ops.find? (fun o => o.planNo == n)
def opOfExpert (s : State) (e : Nat) : Option DispOp := s.link.ops.find? (fun o => inLayer o.plan e)
def combOfExpert (s : State) (e : Nat) : Option CombOp := s.link.combines.find? (fun o => inLayer o.plan e)

/-- An operation of the engine stops on a failure, and its buffers are free. -/
def stopEngine (i seq : Nat) (f : Fail) (s : State) : State :=
  let t := modLink s (fun l => { l with
    ops := l.ops.filter (fun o => !(o.stream == i && o.seq == seq))
    combines := l.combines.filter (fun o => !(o.stream == i && o.seq == seq)) })
  runDesc i seq (fun u => (.error f, u)) t

/-! ### Receive buffers (R211, R212) -/

/-- The dispatch partition of link tile `k` less its ports' credit pools, bytes. -/
def dispPool (s : State) (k : Nat) : Nat :=
  bitsAt (reg8 s (linkBase k + 0x18)) 21 11 * 262144 - creditBytes s (enabledPorts s k) [2]

/-- Bytes of the partition that DISPATCH and COMBINE hold. -/
def dispUsed (s : State) (k : Nat) : Nat :=
  (s.link.ops.map (fun o => if o.armed then o.buffers.getD k 0 else 0)).sum
    + (s.link.combines.map (fun o => if o.armed then o.buffers.getD k 0 else 0)).sum

/-- Bytes of the flits of `n` records with rows of tensor `e`. -/
def recordBuffer (e : TEntry) (n : Nat) : Nat := 256 * flitsOf (16 + wireLen e) * n

/-- A receive buffer for records of experts, by the link tile that serves each; one larger than a whole partition is that
partition (log 56). -/
def receiveBuffer (s : State) (e : TEntry) (l : List (Nat × Nat)) : List Nat :=
  (List.range 8).map (fun k =>
    min (dispPool s k) ((l.map (fun x => if x.1 % 8 = k then recordBuffer e x.2 else 0)).sum))

/-- The whole buffer can be reserved at once. -/
def bufferFits (s : State) (l : List Nat) : Bool :=
  (List.range 8).all (fun k => decide (dispUsed s k + l.getD k 0 ≤ dispPool s k))

def runEngine (i seq : Nat) (w : MM Unit) (s : State) : State :=
  match w s with
  | (.ok _, t) => t
  | (.error f, t) => stopEngine i seq f t

/-- Token-choices in the order in which an expert's grant is spent: deferred ones first, then by (j, row). -/
def choiceOrder (l : List Choice) : List Choice :=
  let held := (l.filter (fun c => c.held.isSome)).mergeSort (fun a b => decide (a.held.getD 0 ≤ b.held.getD 0))
  let fresh := (l.filter (fun c => c.held.isNone)).mergeSort (fun a b =>
    decide (a.j < b.j) || (a.j == b.j && decide (a.row ≤ b.row)))
  held ++ fresh

/-- Choices of a round that stand as `st`. -/
def choicesOf (o : DispOp) (st : ChoiceState) : List Choice :=
  o.choices.filter (fun c => c.round == o.round && decide (c.state = st))

def setChoice (c : Choice) (o : DispOp) : DispOp :=
  { o with choices := o.choices.map (fun d =>
      if d.held = c.held ∧ d.j = c.j ∧ d.row = c.row then c else d) }

/-! ### Outputs at an origin (R317) -/

/-- A record is that of a choice. -/
def sameChoice (c : Choice) (r : TokenRec) (held : List Deferred) : Bool :=
  let (j, row) := match c.held with
    | some k => ((held.getD k default).tok.choice, (held.getD k default).tok.row)
    | none => (c.j, c.row)
  c.expert == r.expert && c.round == r.round && j == r.choice && row == r.row

/-- The output of each placed choice, in the choices' order; like records are taken in turn. -/
def outputOf (p : Placed) (rows : List RowIn) (c : Choice) : Option (List Byte) :=
  let like (d : Choice) : Bool := decide (d.state = .sent) && (rows.any (fun x => sameChoice c x.tok p.held && sameChoice d x.tok p.held))
  let n := (p.choices.takeWhile (fun d => d != c)).countP like
  ((rows.filter (fun x => sameChoice c x.tok p.held))[n]?).map (·.data)

/-- Every placed choice has returned. -/
def allReturned (o : CombOp) : Bool :=
  o.placed.choices.all (fun c => decide (c.state ≠ .sent) || (outputOf o.placed o.rows c).isSome)

/-- FP32 values of an expert's output row. -/
def outputVals (p : Nat) (e : TEntry) (b : List Byte) : MM (List Nat) := do
  let s ← mGet
  let (cs, ss) := wireParts e b
  let g := eGlen e
  mVM p (cs.zipIdx.mapM (fun x =>
    let sc := if e.ssrc = 1 then scaleOfCode (ss.getD (if e.axisRow then x.2 else x.2 / g) 0)
      else laneScale (clove s p) e 0 #[] (if e.axisRow then x.2 % 64 else 0) (if e.axisRow then 0 else x.2 / g) 0
    loadFp32 (eFmt e) x.1 sc))

/-- acc = fma(weight, y, acc), element by element. -/
def weighIn (w : Nat) (ys acc : List Nat) : List Nat := List.zipWith (fun y a => fFma w y a) ys acc

/-- The clove whose counters and scale file the engine's operands use: the first of the descriptor's group. -/
def engineClove (s : State) (i seq : Nat) : Nat := lowReq s i seq

/-- The output row of token `row`: its placed choices, `j` ascending. -/
def combineRow (o : CombOp) (row : Nat) : MM Unit := do
  let s ← mGet
  let p := engineClove s o.stream o.seq
  let ws ← readRowVals p o.weights 0 row (reqLink 0)
  let mine := (o.placed.choices.filter (fun c => c.held.isNone && c.row == row && decide (c.state = .sent))).mergeSort
    (fun a b => decide (a.j ≤ b.j))
  let acc ← mine.foldlM (fun acc c => do
    let y ← outputVals p o.tokens ((outputOf o.placed o.rows c).getD [])
    let w ← mVM p (match ws[c.j]? with
      | some x => loadFp32 (eFmt o.weights) x.1 x.2
      | none => pure 0)
    pure (weighIn w y acc)) (List.replicate o.out.cols 0)
  let (conv, gs) := convertRun (eFmt o.out) false (eGlen o.out) (acc.map (fun w => Val.num (fp32Num w)))
  mMod (countConv p (conv.map (·.2)))
  writeResultRow (reqLink 0) o.out row (conv.map (·.1)) gs

/-- The output of defer record `k`, weighed by its recorded weight, into the deferred-output region: rows follow one
another, without scales (log 33). -/
def combineHeld (o : CombOp) (k : Nat) : MM Unit := do
  let s ← mGet
  let p := engineClove s o.stream o.seq
  let zero := List.replicate o.out.cols 0
  let acc ← match o.placed.choices.find? (fun c => c.held == some k && decide (c.state = .sent)) with
    | some c => do
      let y ← outputVals p o.tokens ((outputOf o.placed o.rows c).getD [])
      pure (weighIn (o.placed.held.getD k default).weight y zero)
    | none => pure zero
  let conv := acc.map (fun w => convert (eFmt o.out) 0 false none (Val.num (fp32Num w)))
  mMod (countConv p (conv.map (·.2)))
  mWrite (o.plan.deferOut + k * rowBytes o.out) (packCodes (eBits o.out) (conv.map (·.1))) (reqLink 0)

/-- A COMBINE that is armed and whose outputs are all here ends (R317). -/
def finishCombine (o : CombOp) (s : State) : State :=
  if !o.armed || !allReturned o then s
  else runEngine o.stream o.seq (do
    (List.range o.out.rows).forM (combineRow o)
    (List.range o.placed.held.length).forM (combineHeld o)
    mMod (fun t => completeOK o.stream o.seq (modLink t (fun l => { l with
      combines := l.combines.filter (fun x => !(x.stream == o.stream && x.seq == o.seq)) })))) s

/-- The COMBINEs that can end do. -/
def finishCombines (s : State) : State := s.link.combines.foldl (fun u o => finishCombine o u) s

/-- A refused record: its origin counts the choice as dropped (R319). -/
def refuseChoice (r : TokenRec) (s : State) : State :=
  let drop (held : List Deferred) (l : List Choice) : List Choice :=
    match l.find? (fun c => decide (c.state = .sent) && sameChoice c r held) with
    | some c => l.map (fun d => if d = c then { d with state := .dropped } else d)
    | none => l
  count (expertCtr r.expert 5) 1 (modLink s (fun l => { l with
    ops := l.ops.map (fun o => if inLayer o.plan r.expert then { o with choices := drop o.held o.choices } else o)
    combines := l.combines.map (fun o => if inLayer o.plan r.expert then
      { o with placed := { o.placed with choices := drop o.placed.held o.placed.choices } } else o)
    placed := l.placed.map (fun p => (p.1, { p.2 with choices := drop p.2.held p.2.choices })) }))

/-- An expert's output, or with an empty row a refusal, comes to its origin. -/
def takeOutput (r : TokenRec) (row : List Byte) (s : State) : State :=
  if row.isEmpty then finishCombines (refuseChoice r s)
  else
    match combOfExpert s r.expert with
    | some o => finishCombines (modLink s (fun l => { l with combines := l.combines.map (fun x =>
        if x.stream = o.stream ∧ x.seq = o.seq then { x with rows := x.rows ++ [⟨r, row⟩] } else x) }))
    | none => modLink s (fun l => { l with earlyOuts := l.earlyOuts ++ [⟨r, row⟩] })

/-- Send an output to its origin. -/
def sendOutput (r : TokenRec) (row : List Byte) (s : State) : State :=
  if r.origin = logicalNode s then takeOutput r row s
  else sendMsg ⟨2, r.origin, none, r.expert, .output r row⟩ s

/-! ### The end of a DISPATCH (R316) -/

/-- Rows of a slot in the order in which they are written. -/
def slotOrder (o : DispOp) (e : Nat) : List RowIn :=
  (o.rows.filter (fun x => x.tok.expert == e)).mergeSort (fun a b =>
    let key (x : RowIn) : List Nat := [x.tok.round, x.tok.origin, x.tok.choice, x.tok.row]
    decide (key a ≤ key b))

/-- Every granted row for its own slots has come. -/
def rowsIn (o : DispOp) : Bool :=
  o.reqs.all (fun q => match q.granted with
    | some g => decide (g ≤ o.rows.countP (fun x =>
        x.tok.expert == q.expert && x.tok.origin == q.origin && x.tok.round == q.round))
    | none => false)

/-- The index of an expert in its layer. -/
def layerIdx (p : DispPlan) (e : Nat) : Nat := e - p.firstExpert

/-- Every slot has answered the requests that the count result tells of. -/
def slotsDone (s : State) (o : DispOp) : Bool :=
  match o.expects with
  | none => false
  | some l => (layerSlots s o.plan).all (fun n =>
      let e := slotExpert (slotReg s n)
      o.timedOut || decide (l.getD (layerIdx o.plan e) 0 ≤
        (o.reqs.filter (fun q => q.expert == e && q.round == o.round && q.granted.isSome)).length))

/-- Its own choices of the round are all placed or out of it. -/
def originDone (o : DispOp) : Bool := (choicesOf o .requested).isEmpty && (choicesOf o .waiting).isEmpty

/-- Write the rows of slot `n`, +0 below them up to the capacity. -/
def writeSlot (o : DispOp) (n : Nat) : MM Unit := do
  let s ← mGet
  let v := slotReg s n
  let e ← needTE ((findRec s o.stream o.seq).elim 0 (·.hdr.group)) (bitsAt v 47 32) 0x10
  let rows := slotOrder o (slotExpert v)
  rows.zipIdx.forM (fun x => writeWire e x.2 (reqLink 0) x.1.data)
  let per := if fmtScaled (eFmt e) then (if e.axisRow then e.cols else (e.cols + eGlen e - 1) / eGlen e) else 0
  let blank := packCodes (eBits e) (List.replicate e.cols (zeroOf e)) ++ List.replicate per 0#8
  (List.range (o.capacity - rows.length)).forM (fun k => writeWire e (rows.length + k) (reqLink 0) blank)
  mMod (fun t => modLink t (fun l => { l with slotRows := sset 0 l.slotRows n rows.length }))

/-- The DISPATCH ends: slot inputs are written, and what was placed is kept for its COMBINE. -/
def finishDispatch (o : DispOp) (s : State) : State :=
  runEngine o.stream o.seq (do
    let st ← mGet
    let slots := layerSlots st o.plan
    slots.forM (writeSlot o)
    mMod (fun t => completeOK o.stream o.seq (modLink t (fun l => { l with
      ops := l.ops.filter (fun x => !(x.stream == o.stream && x.seq == o.seq))
      placed := sset Placed.empty l.placed o.planNo ⟨o.choices, o.held,
        slots.map (fun n => (n, (slotOrder o (slotExpert (slotReg t n))).map (·.tok)))⟩ })))) s

/-! ### Rounds (R314) -/

/-- Choices that name no expert of the layer, or one without a valid home, drop out when their round begins (R318). -/
def dropUnhomed (o : DispOp) (s : State) : DispOp × State :=
  (choicesOf o .waiting).foldl (fun (acc : DispOp × State) c =>
    if !inLayer o.plan c.expert then (setChoice { c with state := .dropped } acc.1, count (expertCtr c.expert 5) 1 acc.2)
    else if !homeValid (homeEntry s c.expert) then
      (setChoice { c with state := .dropped } acc.1, count (expertCtr c.expert 9) 1 acc.2)
    else acc) (o, s)

/-- A round begins: 1 for each expert it requests goes to the count bucket. -/
def startRound (i seq : Nat) (s : State) : State :=
  match findOp s i seq, findRec s i seq with
  | some o, some r =>
    let (o, s) := dropUnhomed o s
    let s := modOp i seq (fun _ => o) s
    let ws := (List.range o.plan.experts).map (fun k =>
      if (choicesOf o .waiting).any (fun c => c.expert == o.plan.firstExpert + k) then (1 : Int) else 0)
    runEngine i seq (do
      let p ← readPlan [0] o.plan.countPlan 0x1C
      mMod (fun t => moveBucket o.plan.countBucket (offer
        { bucket := o.plan.countBucket, planNo := o.plan.countPlan, plan := p, op := 0, word := false
          elements := o.plan.experts, use := .count, deadline := none, tag := r.step
          loc := { (default : LocalIn) with
            stream := i, seq := seq, layer := r.hdr.layer, tensor := r.hdr.tensorId, words := ws } } t))) s
  | _, _ => s

/-- The next column of an overflowed choice: above every column its token uses, from `k`, of the layer (R314). -/
def nextCol (o : DispOp) (row : Nat) : Option Nat :=
  let used := ((o.choices.filter (fun c => c.held.isNone && c.row == row)).map (·.col)).foldl max 0
  let cols := o.route.getD row []
  ((List.range cols.length).find? (fun c => decide (o.k ≤ c) && decide (used < c) && inLayer o.plan (cols.getD c 0)))

/-- An overflowed choice moves to the next round, or drops (Table 12.6). -/
def moveChoice (c : Choice) (acc : DispOp × State) : DispOp × State :=
  match (if c.held.isSome then none else nextCol acc.1 c.row) with
  | some col =>
    let e := (acc.1.route.getD c.row []).getD col 0
    (setChoice { c with col := col, expert := e, round := acc.1.round + 1, state := .waiting } acc.1,
      count (expertCtr c.expert 6) 1 acc.2)
  | none => (setChoice { c with state := .dropped } acc.1, count (expertCtr c.expert 5) 1 acc.2)

/-- What is still missing of the present round when a DISPATCH goes on after its timeout: those requests are late (Table 12.8). -/
def noteLate (o : DispOp) (s : State) : State :=
  if !o.timedOut then s
  else
    let late (e : Nat) : LateReq :=
      let here := o.reqs.filter (fun q => q.expert == e && q.round == o.round)
      ⟨o.stream, o.seq, o.planNo, e, o.round, (o.expects.getD []).getD (layerIdx o.plan e) 0 - here.length, here.map (·.origin)⟩
    let l := (((layerSlots s o.plan).map (fun n => slotExpert (slotReg s n))).dedup.map late).filter (fun y => decide (0 < y.missing))
    modLink s (fun k => { k with lateReqs := k.lateReqs ++ l })

/-- The overflowed choices of a round, each to its next column, or dropped. -/
def moveAll (o : DispOp) (s : State) : DispOp × State :=
  let (o, s) := (choiceOrder (choicesOf o .moved)).foldl (fun acc c => moveChoice c acc) (o, s)
  (o, modOp o.stream o.seq (fun _ => o) s)

/-- Some choice has moved into the round after this one. -/
def movesOn (o : DispOp) : Bool := o.choices.any (fun c => c.round == o.round + 1 && decide (c.state = .waiting))

/-- The next round under SPILL. -/
def nextRound (o : DispOp) (s : State) : State :=
  let s := noteLate o s
  startRound o.stream o.seq (modOp o.stream o.seq (fun _ => { o with
    round := o.round + 1, expects := none, timedOut := false }) s)

/-- A DISPATCH goes on to its next round, or ends (R314, R316). A sole origin knows that no choice has moved; whether a choice of
another module has moved is told by the count of the next round: one of zeros is no round (log 125). -/
def advanceOp (i seq : Nat) (s : State) : State :=
  match findOp s i seq with
  | none => s
  | some o =>
    if o.expects.isNone || !originDone o || !slotsDone s o then s
    else
      let again := o.policy = 1 && !o.ended
      let (o, s) := if again then moveAll o s else (o, s)
      if again && !(o.alone && !movesOn o) then nextRound o s
      else if rowsIn o then finishDispatch o (noteLate o s)
      else s

/-! ### Records at a home (R319) -/

/-- A token record comes to a home. -/
def takeToken (r : TokenRec) (row : List Byte) (s : State) : State :=
  match activeSlot s r.expert with
  | some _ =>
    match opOfExpert s r.expert with
    | some o => advanceOp o.stream o.seq (modOp o.stream o.seq (fun x => { x with rows := x.rows ++ [⟨r, row⟩] }) s)
    | none => s
  | none =>
    let v := homeEntry s r.expert
    if homeValid v ∧ laterEpoch (homeEpoch v) r.epoch ∧ homeNode v ≠ logicalNode s then
      count (expertCtr r.expert 3) 1 (sendMsg ⟨2, homeNode v, none, r.expert, .token r row⟩ s)
    else sendOutput r [] s

/-! ### Grants at an origin (R314, Table 12.6) -/

/-- The record and the row of a choice. -/
def choiceRow (o : DispOp) (c : Choice) : MM (TokenRec × List Byte) := do
  let s ← mGet
  let epoch := homeEpoch (homeEntry s c.expert)
  match c.held with
  | some k =>
    let d := o.held.getD k default
    pure ({ d.tok with expert := c.expert, epoch := epoch, round := c.round }, d.data)
  | none => do
    let b ← readWire o.tokens c.row (reqLink 0)
    pure (⟨logicalNode s, c.j, c.row, c.expert, epoch, c.round⟩, b)

/-- Send a token-choice to its expert's home. -/
def sendToken (o : DispOp) (c : Choice) : MM Unit := do
  let (r, b) ← choiceRow o c
  mMod (fun s =>
    let s := modOp o.stream o.seq (setChoice { c with state := .sent }) s
    let n := homeNode (homeEntry s c.expert)
    if n = logicalNode s then takeToken r b s else sendMsg ⟨2, n, none, c.expert, .token r b⟩ s)

/-- The weight recorded with a defer record: that of its tensor, or a free value where the DISPATCH names none (log 33). -/
def deferWeight (o : DispOp) (c : Choice) : MM Nat := do
  match c.held, o.weights with
  | some k, _ => pure (o.held.getD k default).weight
  | none, some e => do
    let s ← mGet
    let p := engineClove s o.stream o.seq
    let ws ← readRowVals p e 0 c.row (reqLink 0)
    mVM p (match ws[c.j]? with
      | some x => loadFp32 (eFmt e) x.1 x.2
      | none => pure 0)
  | none, none => fun s => (.ok ((Config.freeWord s.free).toNat % 2 ^ 32), { s with free := s.free + 1 })

/-- Place of defer record `k` among `l`: records follow one another from the list's address, each the token record and the row
(log 33). -/
def deferAt (a : Nat) (l : List Deferred) (k : Nat) : Nat := a + ((l.take k).map (fun d => 16 + d.data.length)).sum

/-- The defer records of a plan, as its list in memory holds them. -/
def readDeferred (a : Nat) (l : List Deferred) : MM (List Deferred) :=
  l.zipIdx.mapM (fun x => do
    let b ← mRead (deferAt a l x.2) (16 + x.1.data.length) (reqLink 0)
    pure { x.1 with tok := tokenOf b, data := b.drop 16 })

/-- A choice overflows. -/
def overflowChoice (o : DispOp) (c : Choice) : MM Unit := do
  let drop : MM Unit := mMod (fun s =>
    count (expertCtr c.expert 5) 1 (modOp o.stream o.seq (setChoice { c with state := .dropped }) s))
  match o.policy with
  | 1 => mMod (modOp o.stream o.seq (setChoice { c with state := .moved }))
  | 2 => do
    let s ← mGet
    if o.plan.defer ≠ 0 ∧ (sget [] s.link.deferred o.planNo).length < o.plan.deferCap then
      let (r, b) ← choiceRow o c
      let w ← deferWeight o c
      let l := sget [] s.link.deferred o.planNo
      mWrite (deferAt o.plan.defer l l.length) (tokenBytes r ++ b) (reqLink 0)
      mMod (fun t => count (expertCtr c.expert 7) 1 (modOp o.stream o.seq (setChoice { c with state := .deferred })
        (modLink t (fun l => { l with deferred := smod [] l.deferred o.planNo (· ++ [⟨r, b, w⟩]) }))))
    else drop
  | _ => drop

/-- An origin receives a grant of `n` rows of an expert. -/
def takeAllot (plan e round n : Nat) (s : State) : State :=
  match opOfPlan s plan with
  | none => s
  | some o =>
    if o.round ≠ round then s
    else
      let mine := choiceOrder ((choicesOf o .requested).filter (fun c => c.expert == e))
      advanceOp o.stream o.seq (runEngine o.stream o.seq (do
        (mine.take n).forM (sendToken o)
        (mine.drop n).forM (overflowChoice o)) s)

/-! ### Requests at a home (R314, R315) -/

/-- Answer a request. -/
def sendAllot (q : HomeReq) (n : Nat) (s : State) : State :=
  if q.origin = logicalNode s then takeAllot q.plan q.expert q.round n s
  else sendMsg ⟨0, q.origin, none, q.expert, .allot q.plan q.expert q.origin q.round n⟩ s

/-- Grants in ascending origin: what is left of the capacity goes down with each. -/
def grantList : Nat → List HomeReq → List (HomeReq × Nat)
  | _, [] => []
  | room, q :: l => (q, min q.count room) :: grantList (room - min q.count room) l

/-- Rows of an expert granted so far. -/
def grantedSo (o : DispOp) (e : Nat) : Nat :=
  ((o.reqs.filter (fun q => q.expert == e)).map (fun q => q.granted.getD 0)).sum

/-- DISPATCH_OVERFLOW, once per DISPATCH and slot, for what round 1 refused (R315). -/
def noteRefused (i seq e n : Nat) (s : State) : State :=
  match findOp s i seq with
  | some o =>
    if o.round ≠ 1 ∨ n = 0 ∨ o.raised.contains e then s
    else raiseEv { code := 0x06, unit := e % 8, arg0 := e, arg1 := o.policy, arg2 := n }
      (modOp i seq (fun x => { x with raised := x.raised ++ [e] }) s)
  | none => s

/-- A slot allocates once every request that the count result tells of is here, or after the timeout those that are. -/
def allocate (i seq e : Nat) (s : State) : State :=
  match findOp s i seq with
  | none => s
  | some o =>
    let new := (o.reqs.filter (fun q => q.expert == e && q.round == o.round && q.granted.isNone)).mergeSort
      (fun a b => decide (a.origin ≤ b.origin))
    let here := (o.reqs.filter (fun q => q.expert == e && q.round == o.round)).length
    match o.expects with
    | none => s
    | some l =>
      if new.isEmpty || (activeSlot s e).isNone || !(o.timedOut || decide (l.getD (layerIdx o.plan e) 0 ≤ here)) then s
      else
        let gs := grantList (o.capacity - grantedSo o e) new
        let refused := (gs.map (fun g => g.1.count - g.2)).sum
        let t := modOp i seq (fun x => { x with reqs := x.reqs.map (fun q =>
          match gs.find? (fun g => decide (g.1 = q)) with
          | some g => { q with granted := some g.2 }
          | none => q) }) s
        gs.foldl (fun u g => sendAllot g.1 g.2 u) (noteRefused i seq e refused t)

/-- A request whose home has timed out, or whose round has passed it by, gets grant 0 (Table 12.8). -/
def lateRequest (o : DispOp) (q : HomeReq) (s : State) : State :=
  noteRefused o.stream o.seq q.expert q.count
    (modOp o.stream o.seq (fun x => { x with reqs := x.reqs ++ [{ q with granted := some 0 }] }) (sendAllot q 0 s))

/-- A request that a timeout left missing comes late. -/
def lateOf (s : State) (q : HomeReq) : Option LateReq :=
  s.link.lateReqs.find? (fun y => y.plan == q.plan && y.expert == q.expert && y.round == q.round && decide (0 < y.missing)
    && !y.heard.contains q.origin)

/-- It gets grant 0, and is heard of no more. -/
def takeLate (y : LateReq) (q : HomeReq) (s : State) : State :=
  let next (z : LateReq) : LateReq := if z = y then { y with missing := y.missing - 1, heard := y.heard ++ [q.origin] } else z
  let t := modLink s (fun l => { l with lateReqs := (l.lateReqs.map next).filter (fun z => decide (0 < z.missing)) })
  match findOp t y.stream y.seq with
  | some o => lateRequest o q t
  | none => sendAllot q 0 t

/-- A request comes to a home: taken, forwarded as a record would be (R319), or answered with no rows. -/
def takeRequest (q : HomeReq) (s : State) : State :=
  match activeSlot s q.expert, lateOf s q with
  | some _, some y => takeLate y q s
  | some _, none =>
    match opOfPlan s q.plan with
    | some o =>
      if q.round < o.round ∨ (o.timedOut ∧ q.round = o.round) then advanceOp o.stream o.seq (lateRequest o q s)
      else
        let t := modOp o.stream o.seq (fun x => { x with reqs := x.reqs ++ [q] }) s
        advanceOp o.stream o.seq (allocate o.stream o.seq q.expert t)
    | none => modLink s (fun l => { l with earlyReqs := l.earlyReqs ++ [q] })
  | none, _ =>
    let v := homeEntry s q.expert
    if homeValid v ∧ laterEpoch (homeEpoch v) q.epoch ∧ homeNode v ≠ logicalNode s then
      count (expertCtr q.expert 3) 1
        (sendMsg ⟨0, homeNode v, none, q.expert, .request q.plan q.expert q.origin q.round q.count q.epoch⟩ s)
    else sendAllot q 0 s

/-! ### The count (R314, R326) -/

/-- Requests of a round: each expert once, ascending, with its count. -/
def requestsOf (o : DispOp) : List (Nat × Nat) :=
  let w := choicesOf o .waiting
  (((w.map (·.expert)).dedup).mergeSort (fun a b => decide (a ≤ b))).map (fun e =>
    (e, w.countP (fun c => c.expert == e)))

/-- Send a request to an expert's home. -/
def sendRequest (o : DispOp) (x : Nat × Nat) (s : State) : State :=
  let n := homeNode (homeEntry s x.1)
  let q : HomeReq := ⟨o.planNo, x.1, logicalNode s, o.round, x.2, homeEpoch (homeEntry s x.1), none⟩
  if n = logicalNode s then takeRequest q s
  else sendMsg ⟨0, n, none, x.1, .request q.plan q.expert q.origin q.round q.count q.epoch⟩ s

/-- The command's counts are the count instance's own, where it has its result. -/
def countAgrees (x : Bucket) (counts : List Nat) : Bool :=
  if resultDone x then resultWords x == counts.map (fun n => (n : Int)) else true

/-- No other module contributes to a plan's buckets. -/
def soleOrigin (p : Plan) : Bool := (List.range p.trees).all (fun t => isRoot p t && (childPorts p t).isEmpty)

/-- The count result arrives: requests go out, and slots that have all of theirs allocate. -/
def countResult (plan round : Nat) (counts : List Nat) (s : State) : State :=
  match opOfPlan s plan with
  | none => s
  | some o =>
    let b := o.plan.countBucket
    let x := bucket s b
    if o.round ≠ round ∨ o.expects.isSome ∨ x.use ≠ BucketUse.count ∨ !countAgrees x counts then s
    else
      let t := match mergedTrailer x with
        | some m => noteResult b x m s
        | none => s
      let t := reopen b (freeBucket b t)
      let early := t.link.earlyReqs.filter (fun q => q.plan == plan)
      let o1 := { o with expects := some counts, ended := o.policy ≠ 1 || counts.all (· == 0), alone := soleOrigin x.plan
                         reqs := o.reqs ++ early
                         choices := o.choices.map (fun c => if c.round = round ∧ c.state = .waiting then
                           { c with state := .requested } else c) }
      let t := modOp o.stream o.seq (fun _ => o1) (modLink t (fun l => { l with
        earlyReqs := l.earlyReqs.filter (fun q => q.plan != plan) }))
      let t := (requestsOf o).foldl (fun u y => sendRequest o y u) t
      let t := ((layerSlots t o.plan).map (fun n => slotExpert (slotReg t n))).dedup.foldl (fun u e =>
        allocate o.stream o.seq e u) t
      advanceOp o.stream o.seq t

/-- The count timeout: slots that still wait allocate among the requests that are here. -/
def countTimeout (plan : Nat) (s : State) : State :=
  match opOfPlan s plan with
  | none => s
  | some o =>
    if o.expects.isNone ∨ o.timedOut ∨ slotsDone s o then s
    else
      let wait := ((layerSlots s o.plan).map (fun n => slotExpert (slotReg s n))).dedup
      let t := count (linkBase 0 + 0x2020) 1 (modOp o.stream o.seq (fun x => { x with timedOut := true }) s)
      advanceOp o.stream o.seq (wait.foldl (fun u e => allocate o.stream o.seq e u) t)

/-! ### DISPATCH and COMBINE -/

/-- The choices of round 1: deferred ones, then each token's first `k`. -/
def firstChoices (held : List Deferred) (route : List (List Nat)) (k : Nat) : List Choice :=
  held.zipIdx.map (fun x => ⟨some x.2, x.1.tok.choice, x.1.tok.row, 0, x.1.tok.expert, 1, .waiting⟩)
    ++ route.zipIdx.flatMap (fun x => (List.range k).map (fun j => ⟨none, j, x.2, j, x.1.getD j 0, 1, .waiting⟩))

/-- A DISPATCH whose buffer is reserved begins its first round. -/
def armDispatch (o : DispOp) (s : State) : State :=
  startRound o.stream o.seq (modOp o.stream o.seq (fun x => { x with armed := true }) s)

/-- Send the outputs of a slot back to their origins. -/
def sendSlot (g : Nat) (x : Nat × List TokenRec) : MM Unit := do
  let s ← mGet
  let e ← needTE g (bitsAt (slotReg s x.1) 63 48) 0x10
  x.2.zipIdx.forM (fun y => do
    let b ← readWire e y.2 (reqLink 0)
    mMod (sendOutput y.1 b))

/-- A COMBINE whose buffer is reserved sends its own slots' outputs. -/
def armCombine (o : CombOp) (s : State) : State :=
  let g := (findRec s o.stream o.seq).elim 0 (·.hdr.group)
  let t := modLink s (fun l => { l with combines := l.combines.map (fun x =>
    if x.stream = o.stream ∧ x.seq = o.seq then { x with armed := true } else x) })
  runEngine o.stream o.seq (do
    o.placed.slots.forM (sendSlot g)
    mMod finishCombines) t

/-- Every operation that waits for its buffer, in the order in which they were dispatched, arms if it fits now (R212). -/
def armEngines (s : State) : State :=
  let t := (s.link.ops.filter (fun o => !o.armed)).foldl (fun u o => if bufferFits u o.buffers then armDispatch o u else u) s
  (s.link.combines.filter (fun o => !o.armed)).foldl (fun u o => if bufferFits u o.buffers then armCombine o u else u) t

/-- Dispatch a DISPATCH (R312). -/
def dispatchDispatch (i seq : Nat) (r : Rec) (b : DispatchBody) : MM Unit := do
  let g := r.hdr.group
  let e ← needTE g b.tokens 0x10
  let rt ← needTE g b.route 0x10
  checkIn e fmtActivation 0x10
  checkIn rt (fun f => f == .fp32) 0x10
  mGuard (decide (rt.rows ≠ e.rows)) .range 0x10
  let w ← readTE g b.weights 0x14
  w.forM (fun x => do
    checkIn x fmtActivation 0x14
    mGuard (decide (x.rows ≠ e.rows) || decide (x.cols < b.k)) .range 0x14)
  mGuard (decide (b.policy = 3)) .opcode 0x18
  mGuard (decide (b.k = 0) || decide (64 < b.k) || decide (rt.cols < b.k)) .range 0x18
  let p ← readDispPlan b.plan 0x1C
  let s ← mGet
  (layerSlots s p).forM (fun n => do
    let t ← needTE g (bitsAt (slotReg s n) 47 32) 0x1C
    checkOut t false 0x1C
    mGuard (decide (t.rows < b.capacity) || decide (t.cols ≠ e.cols)) .range 0x1C)
  let route ← (List.range rt.rows).mapM (fun n => readRow rt n (reqLink 0))
  let held ← readDeferred p.defer (sget [] s.link.deferred b.plan)
  mMod (fun t =>
    let o : DispOp :=
      { stream := i, seq := seq, armed := false
        buffers := receiveBuffer t e ((layerSlots t p).map (fun n => (slotExpert (slotReg t n), b.capacity))), planNo := b.plan, plan := p, capacity := b.capacity, policy := b.policy, k := b.k
        tokens := e, route := route, weights := w, round := 1, choices := firstChoices held route b.k, held := held
        expects := none, timedOut := false, reqs := [], rows := [], raised := [], ended := false
        alone := false }
    armEngines (modLink (modRec i seq (fun x => { x with life := .running }) t) (fun l => { l with
      ops := l.ops ++ [o], deferred := sset [] l.deferred b.plan [] })))

/-- A COMBINE of whose layer an output was lost before it came completes with MEM_UE (Table 13.4). -/
def mGuardLost (p : DispPlan) : MM Unit := do
  let s ← mGet
  if s.link.lostOuts.any (inLayer p) then
    mMod (fun t => modLink t (fun l => { l with lostOuts := l.lostOuts.filter (fun e => !inLayer p e) }))
    mUE 1

/-- Dispatch a COMBINE (R317): its own slots' outputs leave, and it waits for its own choices'. -/
def dispatchCombine (i seq : Nat) (r : Rec) (b : DispatchBody) : MM Unit := do
  let g := r.hdr.group
  let e ← needTE g b.tokens 0x10
  checkIn e fmtActivation 0x10
  let w ← needTE g b.weights 0x14
  let out ← needTE g b.out 0x14
  checkIn w fmtActivation 0x14
  checkOut out false 0x14
  mGuard (decide (w.rows ≠ out.rows) || decide (w.cols < b.k) || decide (e.cols ≠ out.cols)) .range 0x14
  mGuard (decide (b.k = 0) || decide (64 < b.k)) .range 0x18
  let p ← readDispPlan b.plan 0x1C
  let s ← mGet
  let placed := sget Placed.empty s.link.placed b.plan
  placed.slots.forM (fun x => do
    let t ← needTE g (bitsAt (slotReg s x.1) 63 48) 0x1C
    checkIn t fmtActivation 0x1C
    mGuard (decide (t.rows < x.2.length) || decide (t.cols ≠ e.cols)) .range 0x1C)
  mGuardLost p
  mMod (fun t =>
    let early := t.link.earlyOuts.filter (fun x => inLayer p x.tok.expert)
    let buf := receiveBuffer t e ((placed.choices.filter (fun c => decide (c.state = .sent))).map (fun c => (c.expert, 1)))
    let o : CombOp := ⟨i, seq, false, buf, b.plan, p, e, w, out, placed, early⟩
    armEngines (modLink (modRec i seq (fun x => { x with life := .running }) t) (fun l => { l with
      combines := l.combines ++ [o], placed := sset Placed.empty l.placed b.plan Placed.empty
      earlyOuts := l.earlyOuts.filter (fun x => !inLayer p x.tok.expert) })))

/-! ### The commands of the engine -/

/-- What a command of the engine does last: an operation that waits takes a buffer that another has freed. -/
def settleEngines (s t : State) : State := settle s (armEngines t)

def execExpertOutputReceive (r : TokenRec) (row : List Byte) (s : State) : Host.Outcome State Fault Refusal :=
  .next (settleEngines s (takeOutput r row s))

def execTokenRecordReceive (r : TokenRec) (row : List Byte) (s : State) : Host.Outcome State Fault Refusal :=
  .next (settleEngines s (takeToken r row s))

def execDispatchGrantReceive (plan e round n : Nat) (s : State) : Host.Outcome State Fault Refusal :=
  .next (settleEngines s (takeAllot plan e round n s))

def execDispatchRequestReceive (plan e origin round : Nat) (a : Ask) (s : State) : Host.Outcome State Fault Refusal :=
  .next (settleEngines s (takeRequest ⟨plan, e, origin, round, a.count, a.epoch, none⟩ s))

def execCountResult (plan round : Nat) (counts : List Nat) (s : State) : Host.Outcome State Fault Refusal :=
  .next (settleEngines s (countResult plan round counts s))

def execCountTimeout (plan : Nat) (s : State) : Host.Outcome State Fault Refusal :=
  .next (settleEngines s (countTimeout plan s))

/-- A bucket is cancelled: a buffer that this frees goes to an operation that waits. -/
def execLnkBktCancel (b : Nat) (s : State) : Host.Outcome State Fault Refusal :=
  onUnit (decide (b < 4096)) (if hostBlock s then settleEngines s (cancelBucket b s) else s)

/-! ### Home tables (R318, R426) -/

/-- Bits of an entry. -/
def homeMask (v : Nat) : Nat := v % 2 ^ 25 + bitsAt v 47 32 * 2 ^ 32

def homeAddr (s : State) (k : Nat) : Nat := bitsAt (reg4 s (linkBase k + 0x30)) 19 0

/-- HOME_ADDR advances, from 0xF_FFFF to 0. -/
def stepHome (k : Nat) (s : State) : State := setReg4 s (linkBase k + 0x30) ((homeAddr s k + 1) % 2 ^ 20)

/-- One access of HOME_DATA. -/
def accessHome (k : Nat) (w : Option Nat) (s : State) : State :=
  let a := homeAddr s k
  stepHome k (match w with
    | some v => modLink s (fun l => { l with home := sset 0 l.home a (homeMask v) })
    | none => { s with resp := .bytes (leBytes 8 (homeEntry s a)) })

/-- An access of HOME_DATA; while a load runs it waits. -/
def homeData (k : Nat) (w : Option Nat) (s : State) : State :=
  if s.link.homeBusy.isEmpty then accessHome k w s
  else modLink s (fun l => { l with homeWaiting := l.homeWaiting ++ [(k, w)] })

def execHomeDataRead (k : Nat) (s : State) : Host.Outcome State Fault Refusal := 
  onUnit (decide (k < 8)) (if hostBlock s then homeData k none s else s)

def execHomeDataWrite (k v : Nat) (s : State) : Host.Outcome State Fault Refusal :=
  onUnit (decide (k < 8)) (if hostBlock s then homeData k (some v) s else s)

/-- A load of link tile `k` runs. -/
def homeLoading (s : State) (k : Nat) : Bool := s.link.homeBusy.any (fun x => x.1 == k)

/-- HOME_LOAD.go: a load starts, with the source and the range held now; ignored while one of the link tile runs. -/
def homeLoadGo (k : Nat) (s : State) : State :=
  if homeLoading s k then s
  else modLink s (fun l => { l with
    homeBusy := l.homeBusy ++ [(k, reg8 s (linkBase k + 0x40), reg8 s (linkBase k + 0x48))] })

def execHomeLoadGo (k : Nat) (s : State) : Host.Outcome State Fault Refusal :=
  onUnit (decide (k < 8)) (if hostBlock s then homeLoadGo k s else s)

/-- Write consecutive entries. -/
def loadHome (first : Nat) (ws : List Nat) (s : State) : State :=
  modLink s (fun l => { l with
    home := ws.zipIdx.foldl (fun m x => sset 0 m ((first + x.2) % 2 ^ 20) (homeMask x.1)) l.home })

/-- A load ends: its entries are written, and once no load runs the accesses that waited are made in order. -/
def homeLoadDone (k : Nat) (s : State) : State :=
  match s.link.homeBusy.find? (fun x => x.1 == k) with
  | none => s
  | some (_, src, v) =>
    let n := bitsAt v 40 20
    let t := match readMem src (8 * n) (reqLink (6 * k)) s with
      | (.ok bs, u) => loadHome (bitsAt v 19 0) (wordsOf 8 n bs) u
      | (.error _, u) => u
    let t := modLink t (fun l => { l with homeBusy := l.homeBusy.filter (fun x => x.1 != k) })
    if t.link.homeBusy.isEmpty then
      t.link.homeWaiting.foldl (fun u x => accessHome x.1 x.2 u) (modLink t (fun l => { l with homeWaiting := [] }))
    else t

def execHomeLoadDone (k : Nat) (s : State) : Host.Outcome State Fault Refusal :=
  onUnit (decide (k < 8)) (homeLoadDone k s)

end Sys2Proof.Machine
end

