-- ==== Sys2Proof/Machine/Issue.lean ====
section
/-! DEFINITION. Streams taking, dispatching and retiring descriptors: sequence numbers (R193), checks at the take, dispatch order and its waits (R195, R217), control descriptors (R206, R207, R236, R261 to R264), completion entries and retirement (R265 to R267). -/

namespace Sys2Proof.Machine

/-! ### What may be taken -/

/-- Fetch buffers of a stream (R265). -/
def fetchBuffers : Nat := 32

/-- A STASH_LOAD with a list has not been dispatched: its list's descriptors may have to come next (R173). -/
def listPending (x : Stream) : Bool :=
  x.window.any (fun r => decide (r.life = .held) &&
    match r.desc with
    | .stashLoad b => b.listEn
    | _ => false)

/-- The stream may take a descriptor now (R194, R265, Table 10.24). -/
def mayTake (s : State) (i : Nat) : Bool :=
  let x := stream s i
  (decide (x.state = .active) || decide (x.state = .idle)) && coreRuns s && s.host.linkUp && !s.host.needReset
    && decide (x.window.countP (fun r => decide (r.life = .held)) < fetchBuffers)
    && !(x.full && decide (fetchBuffers ≤ x.window.length)) && !listPending x

/-- A new record (R176, R186, R429). -/
def newRec (s : State) (i : Nat) (ring : Bool) (h : Header) (d : Desc) : Rec :=
  { seq := (stream s i).seqNext, ring := ring, hdr := h, desc := d, life := .held, status := 0, detail := 0, value := 0
    flags := CFlags.none, step := s.step.tag, key := 0, code := none
    dir := match d with
      | .matmul b => b.dir
      | _ => (stream s i).lastDir
    tes := [], left := 0, order := 0, commitNo := s.step.issued, pods := [], cuts := [], nItems := 0, nSplit := 0
    prior := [], fullRaised := false, snap := none, lostIn := [], parts := 0, tree := false }

/-- The stream holds one more descriptor. -/
def pushRec (i : Nat) (r : Rec) (s : State) : State :=
  modStream s i (fun x => { x with
    state := if x.state = .idle then .active else x.state
    taken := if r.ring then (x.taken + 1) % 2 ^ 32 else x.taken
    heldTo := if r.ring ∧ x.heldTo = some ((x.taken + 1) % 2 ^ 32) then none else x.heldTo
    seqNext := (x.seqNext + 1) % 2 ^ 32
    window := x.window ++ [r]
    lastDir := r.dir
    afterBarrier0 := match r.desc with
      | .barrier => decide (r.hdr.group = 0)
      | _ => false })

/-! ### STEP_COMMIT at the take (R186) -/

/-- Commits that anything still refers to. -/
def pruneCommits (s : State) : State :=
  let used := (allRecs s).map (fun x => x.2.commitNo)
  modStep s (fun x => { x with
    commits := x.commits.filter (fun c => !c.finished || (c.contributed && !c.answered) || decide (c.no = x.issued) || used.contains c.no) })

/-- A STEP_COMMIT is issued: valid after a BARRIER of group 0, it ends its step and is the one that later UPDATEs wait
for; another is not executed, and UPDATEs after it complete unexecuted (R176, R186). -/
def issueCommit (i : Nat) (r : Rec) (valid : Bool) (b : StepCommitBody) (s : State) : State :=
  let t := modStep s (fun x => { x with
    issued := x.issued + 1, tag := if valid then x.tag + 1 else x.tag
    commits := x.commits ++ [⟨x.issued + 1, i, r.seq, r.step, b.vote, false, false, !valid, false⟩] })
  if valid then pruneCommits (modComp t (fun c => { c with spillSeen := false })) else pruneCommits t

/-! ### Checks at the take -/

/-- A DEPEND on a descriptor of its own stream that is not earlier (Table 8.3). -/
def selfWait (i seq : Nat) (w : Wait) : Bool := w.valid && !w.allPrior && w.stream == i && !laterSeq seq w.seq

/-- What a descriptor fails when it is taken; a STEP_COMMIT that fails has been issued all the same (R176), and a GATE of
policy PASS taken in LOST completes (R236). -/
def takeChecks (i : Nat) (r : Rec) (afterBarrier : Bool) : MM Unit := do
  let far := decide (2 ^ 20 ≤ r.hdr.pos)
  match r.desc with
  | .stepCommit b => mMod (issueCommit i r (afterBarrier && !far) b)
  | _ => pure ()
  mGuard far .range 8
  match r.desc with
  | .reserved _ => mFail .opcode 0
  | .depend ws => do
    mGuard (!ws.any (·.valid)) .range 0x10
    match ws.zipIdx.find? (fun w => selfWait i r.seq w.1) with
    | some w => mFail .order (0x10 + 8 * w.2)
    | none => pure ()
  | .gate b => do
    let s ← mGet
    mGuard (decide (s.tally.state = .off)) .order 0x10
    if b.pass ∧ s.tally.state = .lost then mMod (complete i r.seq stTallyLost 0 0 CFlags.none)
  | .update b => takeUpdate r b
  | .stepCommit _ => mGuard (!afterBarrier) .order 0
  | _ => pure ()

/-! ### Lists (R262 to R264) -/

/-- A CALL, taken: the stream goes on in its list. -/
def takeCall (i : Nat) (r : Rec) (b : CallBody) : MM Unit := do
  let s ← mGet
  mGuard (tooDeep s i) .call 0x10
  let (a, n) ← callEntry b.list 0x10
  mMod (pushCall i r.seq a n b.slotEn b.slot b.posAdd)

/-- Lists whose last descriptor is taken end: their callers take their places after them. -/
def popFrames : Nat → Nat → State → State
  | 0, _, s => s
  | n + 1, i, s =>
    match (stream s i).calls with
    | f :: fs =>
      if f.left = 0 && !listPending (stream s i) then
        popFrames n i (modStream s i (fun x => { x with calls := fs, window := x.window ++ [f.caller] }))
      else s
    | [] => s

/-- Slot and position of a list descriptor (R262). -/
def listHeader (fs : List Frame) (h : Header) : Header :=
  { h with
    slot := match fs.find? (·.slotEn) with
      | some f => f.slot
      | none => h.slot
    pos := h.pos + (fs.map (·.posAdd)).sum }

/-! ### BARRIER's items (R207) -/

/-- Items in the contexts and in the tiles of the cloves that `p` picks; an open shared sequence's complete members are
not among them. -/
def itemsAt (s : State) (p : Nat → Bool) : List ItemId :=
  (s.comp.cloves.flatMap (fun c =>
    if p c.1 then
      c.2.ctx.map (fun k => k.2.item.id) ++ c.2.tiles.flatMap (fun t =>
        if t.2.state = .shared ∨ t.2.state = .free then [] else (tileItems s t.2).map (·.id))
    else [])).dedup

/-- Items anywhere: queued, held or in tiles. -/
def itemsLeft (s : State) : List ItemId :=
  itemsAt s (fun _ => true) ++ s.comp.podQueue.flatMap (fun q => q.2.map (·.id))

/-- A BARRIER that has reached the head of its stream, dispatched or not, notes the items handed to its group (R207). -/
def noteHead (i : Nat) (s : State) : State :=
  match (stream s i).window with
  | r :: _ =>
    match r.desc, r.snap with
    | .barrier, none =>
      if r.life = .done then s
      else
        let g := groupCloves s r.hdr.group
        modRec i r.seq (fun x => { x with snap := some (itemsAt s (fun p => g.contains p)) }) s
    | _, _ => s
  | [] => s

/-! ### Dispatch order (R195, R217) -/

/-- Descriptors that name a sequence slot (R215). -/
def namesSlot (d : Desc) : Bool :=
  match d with
  | .matmul _ => true
  | .vecop _ => true
  | .scan _ => true
  | .stashSave _ => true
  | .stashLoad _ => true
  | .dispatch _ => true
  | .combine _ => true
  | _ => false

/-- Descriptors that hold what follows them while they wait. -/
def holdsLater (d : Desc) : Bool :=
  match d with
  | .depend _ => true
  | .barrier => true
  | .gate _ => true
  | _ => false

/-- An earlier descriptor `e` lets `r` pass: it holds nothing, or it waits for stash space, or behind such a wait, for
another slot (R217). A DEPEND or a BARRIER holds until it has retired (R205), a GATE until its mark fires (R236). -/
def letsPass (before : List Rec) (e r : Rec) : Bool :=
  let slots := namesSlot r.desc && decide (r.hdr.slot ≠ e.hdr.slot)
  match e.life with
  | .done => match e.desc with
    | .depend _ => false
    | .barrier => false
    | _ => true
  | .running => true
  | .waiting => !holdsLater e.desc
  | .stashWait => slots
  | .held => slots && namesSlot e.desc && before.any (fun w => decide (w.life = .stashWait) && w.hdr.slot == e.hdr.slot)

/-- Every earlier descriptor lets it pass. -/
def inTurn (l : List Rec) (r : Rec) : Bool :=
  let before := l.takeWhile (fun e => e.seq != r.seq)
  before.all (fun e => letsPass before e r)

/-- A tensor entry as it lies in the table, if a handle names one. -/
def peekTE (s : State) (h : Nat) : Option TEntry :=
  if bitsAt (reg4 s (hostBase + 0x18)) 15 0 ≤ h then none
  else
    let (valid, e) := teOf (memBytes s (reg8 s (hostBase + 0x10) / 32 * 32 + 32 * h) 32)
    if valid then some e else none

/-- MOVE kinds that load what cloves or sequencers read (R93, R197). -/
def loadsStore (k : Nat) : Bool := decide (1 ≤ k) && decide (k ≤ 5)

/-- The entries of an operation's operands: those it was dispatched with, or those its handles name now. -/
def operandEntries (s : State) (r : Rec) : List TEntry :=
  match r.desc with
  | .matmul b =>
    if r.tes.isEmpty then
      ([b.a, b.b] ++ if b.kind = 1 ∨ fusedBack b then [b.saved] else []).filterMap (peekTE s)
    else [teAt r.tes 0, teAt r.tes 1, teAt r.tes 4]
  | .vecop b =>
    let n := (vopArity b.vop).getD 0
    if r.tes.isEmpty then ([b.in0, b.in1, b.in2].take n).filterMap (peekTE s) else (r.tes.take n).filterMap id
  | .stashSave b => if r.tes.isEmpty then (peekTE s b.src).toList else r.tes.filterMap id
  | _ => []

/-- Descriptors that name their group: those that run on its cloves, and BARRIER. -/
def usesGroup (d : Desc) : Bool :=
  match d with
  | .matmul _ => true
  | .vecop _ => true
  | .scan _ => true
  | .move k _ => (decide (1 ≤ k) && decide (k ≤ 4)) || decide (k = 9)
  | .reduce b => decide (b.rank ≠ 0)
  | .barrier => true
  | _ => false

/-- An operation reads the store that a MOVE of kind `k` loads: the scale file, an INT4 table, the row-scale bank, a spline, or
group table entry `g` (R93, R197). -/
def readsStore (s : State) (k g : Nat) (r : Rec) : Bool :=
  match k with
  | 1 => (operandEntries s r).any (fun e => decide (2 ≤ e.ssrc))
  | 2 => (operandEntries s r).any (fun e => decide (fmtOf e.fmt = some .int4t))
  | 3 => match r.desc with
    | .matmul b => closes b && b.rowSrc
    | _ => false
  | 4 => match r.desc with
    | .matmul b => closes b && (splineIdx b.fn).isSome
    | .vecop b => vopFn b.vop && (splineIdx b.fn).isSome
    | _ => false
  | 5 => usesGroup r.desc && r.hdr.group == g
  | _ => false

/-- The compute tiles on which a descriptor may read clove stores: those of its group, for thieves stay on their tile (R200), or
that of the slice a STASH_SAVE reads. -/
def storeTiles (s : State) (r : Rec) : List Nat :=
  match r.desc with
  | .stashSave _ => (operandEntries s r).filterMap (fun e => (sliceOf e.base).map (· / 76))
  | _ => ((groupPods s r.hdr.group).map (· / 6)).dedup

/-- An earlier operation of the stream that reads what the load `r`, a MOVE of kind `k`, overwrites is outstanding: it may read
it to its end, since its items may have to run again (R19, R93). DEDUCED, see log 128. -/
def storeBusy (s : State) (l : List Rec) (k : Nat) (b : MoveBody) (r : Rec) : Bool :=
  (l.takeWhile (fun e => e.seq != r.seq)).any (fun e => outstanding e && readsStore s k b.arg0 e
    && (k == 5 || (storeTiles s e).any (fun t => (storeTiles s r).contains t)))

/-- An operation fills a statistics slot that a SCALE_COMMIT covers (R113, R114). -/
def fillsSlot (b : ScaleCommitBody) (r : Rec) : Bool :=
  (match r.desc with
    | .matmul m => closes m
    | .vecop v => v.stats
    | _ => false) && decide (b.first ≤ r.hdr.tensorId) && decide (r.hdr.tensorId < b.first + b.count)

/-- An earlier operation of the stream still drains into a slot that the SCALE_COMMIT `r` covers. -/
def slotsBusy (l : List Rec) (b : ScaleCommitBody) (r : Rec) : Bool :=
  (l.takeWhile (fun e => e.seq != r.seq)).any (fun e => outstanding e && fillsSlot b e)

/-- Nothing before a held UPDATE holds it but a STEP_COMMIT and the UPDATEs that wait with it. -/
def commitHolds (l : List Rec) (r : Rec) : Bool :=
  let before := l.takeWhile (fun e => e.seq != r.seq)
  before.all (fun e => letsPass before e r ||
    match e.desc with
    | .stepCommit _ => true
    | .update _ => true
    | _ => false)

/-- For the operation `r`, an UPDATE of weight `w` waits or runs (R182): one that a STEP_COMMIT issued before `r` holds
back, or held back. DEDUCED, see log 100. -/
def updating (s : State) (r : Rec) (w : Nat) : Bool :=
  (allRecs s).any (fun x =>
    match x.2.desc with
    | .update b => b.weightId == w && decide (x.2.commitNo ≤ r.commitNo)
      && (decide (x.2.life = .running) || (decide (x.2.life = .held) && commitHolds (stream s x.1).window x.2))
    | _ => false)

/-- A MATMUL of direction `d` is outstanding (R184). -/
def dirBusy (s : State) (d : Nat) : Bool :=
  (allRecs s).any (fun x => outstanding x.2 &&
    match x.2.desc with
    | .matmul b => b.dir == d
    | _ => false)

/-- Operations that a STEP_COMMIT waits for: those of its step that are not control descriptors (R188). -/
def countsForStep (d : Desc) : Bool :=
  match d with
  | .nop => false
  | .gate _ => false
  | .depend _ => false
  | .barrier => false
  | .call _ => false
  | .event _ => false
  | .stepCommit _ => false
  | .reserved _ => false
  | _ => true

/-- Every operation of a step is complete. -/
def stepDone (s : State) (tag : Nat) : Bool :=
  (allRecs s).all (fun x => decide (x.2.step ≠ tag) || !countsForStep x.2.desc || decide (x.2.life = .done))

/-- What a descriptor waits for by its kind. -/
def kindReady (s : State) (i : Nat) (r : Rec) : Bool :=
  let l := (stream s i).window
  match r.desc with
  | .matmul b =>
    (!s.host.interlock || !(decide (b.dir = 0) && dirBusy s 1) && !(decide (b.dir = 1) && dirBusy s 0))
      && !(decide (b.dir = 0) && b.wcheck && updating s r b.weightId)
  | .stashSave b => !updating s r b.weightId
  | .move k b => (!loadsStore k || !storeBusy s l k b r) && !(decide (k = 8) && updating s r b.arg0)
  | .scaleCommit b => !slotsBusy l b r
  | .stepCommit _ => stepDone s r.step
  | .event _ => decide ((l.head?).map (·.seq) = some r.seq)
  | _ => true

/-- A held descriptor may be dispatched now: a HALTED stream dispatches none (Table 8.1). -/
def mayDispatch (s : State) (i : Nat) (r : Rec) : Bool :=
  decide (r.life = .held) && inTurn (stream s i).window r && kindReady s i r
    && (decide ((stream s i).state = .active) || decide ((stream s i).state = .idle))

/-! ### SEQ and GROUP at the dispatch (R197, R216) -/

/-- The offset of a descriptor's first position from pos, and its rows or steps. -/
def seqSpan (s : State) (d : Desc) : Option (Nat × Nat) :=
  match d with
  | .matmul b => (peekTE s b.a).map (fun e => (0, if b.transA && b.kind != 1 then e.cols else e.rows))
  | .vecop b => (peekTE s b.in0).map (fun e => (0, e.rows))
  | .scan b =>
    if b.mode = 1 then none
    else (peekTE s b.b).map (fun e => (b.chunk * b.chunkLen, min b.chunkLen (e.rows - b.chunk * b.chunkLen)))
  | .stashSave b => (peekTE s b.src).map (fun e => (0, e.rows))
  | .stashLoad b =>
    let x := sget StashEntry.none (clove s b.clove).stash b.index
    if x.order = 0 then none else some (0, x.rows)
  | .dispatch b => (peekTE s b.tokens).map (fun e => (0, e.rows))
  | .combine b => (peekTE s b.out).map (fun e => (0, e.rows))
  | _ => none

def slotLen (s : State) (k : Nat) : SlotLen := sget SlotLen.reset s.host.slotLen k

/-- The last position is at or beyond the slot's length: SEQ_LIMIT, once per slot, and DESC_ERROR (R216). -/
def checkSeq (i : Nat) (r : Rec) : MM Unit := do
  let s ← mGet
  match seqSpan s r.desc with
  | none => pure ()
  | some (o, n) =>
    let last := r.hdr.pos + o + n - 1
    let x := slotLen s r.hdr.slot
    if n ≠ 0 ∧ x.len ≤ last then
      mMod (fun t => if x.limitRaised then t
        else raiseEv { code := 0x16, unit := i, arg0 := r.hdr.slot, arg1 := last } (modHost t (fun h => { h with
          slotLen := sset SlotLen.reset h.slotLen r.hdr.slot { x with limitRaised := true } })))
      mFail .seq 8

/-! ### Dispatch -/

/-- A GATE, dispatched: it waits for its mark, or with PASS in LOST or OFF completes without it (R236, R238). -/
def dispatchGate (i seq : Nat) (b : GateBody) (s : State) : State :=
  if b.pass ∧ (s.tally.state = .lost ∨ s.tally.state = .off) then complete i seq stTallyLost 0 0 CFlags.none s
  else modRec i seq (fun r => { r with life := .waiting }) s

/-- The work of a descriptor's own kind. -/
def dispatchKind (i : Nat) (r : Rec) (s : State) : State :=
  let q := r.seq
  match r.desc with
  | .nop => completeOK i q s
  | .matmul b => runDesc i q (dispatchMatmul i q r.hdr b) s
  | .vecop b => runDesc i q (dispatchVecop i q r.hdr b) s
  | .scan b => runDesc i q (dispatchScan i q r.hdr b) s
  | .move k b => runDesc i q (dispatchMove i q r.hdr k b) s
  | .reduce b => runDesc i q (dispatchReduce i q r b) s
  | .dispatch b => runDesc i q (dispatchDispatch i q r b) s
  | .combine b => runEngine i q (dispatchCombine i q r b) s
  | .gate b => dispatchGate i q b s
  | .depend _ => modRec i q (fun x => { x with life := .waiting }) s
  | .barrier => modRec i q (fun x => { x with life := .waiting }) s
  | .call b => runDesc i q (takeCall i r b) s
  | .update b => dispatchUpdate i q b s
  | .stashSave b => runDesc i q (dispatchStashSave i q r b) s
  | .stashLoad b => runDesc i q (dispatchStashLoad i q r.hdr b) s
  | .scaleCommit b => runDesc i q (dispatchScaleCommit i q b) s
  | .stepCommit b => runStepCommit i q r b s
  | .event b => runDesc i q (dispatchEvent i q b) s
  | .reserved _ => completeErr i q .opcode 0 s

/-- Entries of the tile sequencers' tables that a descriptor names, beside its group: (table, entry). -/
def tableReads (d : Desc) (h : Header) : List (Nat × Nat) :=
  match d with
  | .matmul b => (if checksVersions b then [(1, b.weightId)] else []) ++ (if closes b then [(2, h.tensorId)] else [])
  | .vecop b => if b.stats then [(2, h.tensorId)] else []
  | .move k b => if k = 8 then [(1, b.arg0)] else []
  | .reduce b => [(3, b.bucket)]
  | .update b => [(1, b.weightId)]
  | .stashSave b => if b.recompute then [(1, b.weightId)] else []
  | .scaleCommit b => (List.range b.count).map (fun k => (2, b.first + k))
  | _ => []

/-- The tiles whose sequencers take part in a descriptor: those of its group, or every tile in service. -/
def tableTiles (s : State) (d : Desc) (g : Nat) : List Nat :=
  if usesGroup d then ((groupPods s g).map (· / 6)).dedup else (List.range 16).filter (fun t => !tileIsOut s t)

/-- The tile sequencers read the entries that a descriptor names, as it is dispatched (R254, R327). -/
def readTables (r : Rec) : MM Unit := do
  let s ← mGet
  if s.mem.faults.isEmpty then pure ()
  else (tableTiles s r.desc r.hdr.group).forM (fun t =>
    ((if usesGroup r.desc then [(0, r.hdr.group)] else []) ++ tableReads r.desc r.hdr).forM (fun x => mTable x.1 x.2 t))

/-- The checks that come before a kind's own. -/
def dispatchChecks (i : Nat) (r : Rec) : MM Unit := do
  let s ← mGet
  readTables r
  mGuard (usesGroup r.desc && badGroup s r.hdr.group) .group 0
  if namesSlot r.desc then checkSeq i r

/-- Dispatch a record (R195, R258): it takes its stream's key seed, then its kind's work begins. -/
def dispatchRec (i : Nat) (r : Rec) (s : State) : State :=
  let t := modRec i r.seq (fun x => { x with key := (stream s i).keySeed }) s
  match dispatchChecks i r t with
  | (.error f, u) => runDesc i r.seq (fun v => (.error f, v)) u
  | (.ok _, u) =>
    match findRec u i r.seq with
    | some x => dispatchKind i x u
    | none => u

/-- The oldest held descriptor that may be dispatched. -/
def nextHeld (s : State) (i : Nat) : Option Rec := (stream s i).window.find? (mayDispatch s i)

/-- Dispatch it; a list that ends is closed, and a BARRIER at the head looks around. -/
def dispatchNext (i : Nat) (s : State) : State :=
  match nextHeld s i with
  | some r => noteHead i (popFrames 16 i (dispatchRec i r s))
  | none => noteHead i (popFrames 16 i s)

/-- The stream takes a descriptor: its number, its checks, and its dispatch when nothing holds it. A CALL's list follows
at once. -/
def takeDesc (i : Nat) (ring : Bool) (early : Option Fail) (h : Header) (d : Desc) (s : State) : State :=
  let after := (stream s i).afterBarrier0
  let r := newRec s i ring h d
  let t := pushRec i r s
  let t := match early with
    | some f =>
      let u := match d with
        | .stepCommit b => issueCommit i r false b t
        | _ => t
      runDesc i r.seq (fun v => (.error f, v)) u
    | none =>
      let u := runDesc i r.seq (takeChecks i r after) t
      match d, findRec u i r.seq with
      | .call b, some x => if x.life = .held then runDesc i r.seq (takeCall i r b) u else u
      | _, _ => u
  dispatchNext i t

/-! ### Descriptors as commands -/

/-- A descriptor comes to a stream that may take it; another stream leaves it. -/
def offerDesc (i : Nat) (h : Header) (d : Desc) (s : State) : State :=
  if mayTake s i then settle s (takeDesc i false none h d s) else s

def execNop (i : Nat) (h : Header) (s : State) : Host.Outcome State Fault Refusal :=
  onUnit (decide (i < 64)) (offerDesc i h .nop s)
def execMatmul (i : Nat) (h : Header) (b : MatmulBody) (s : State) : Host.Outcome State Fault Refusal :=
  onUnit (decide (i < 64)) (offerDesc i h (.matmul { b with kind := 0 }) s)
def execBwdPair (i : Nat) (h : Header) (b : MatmulBody) (s : State) : Host.Outcome State Fault Refusal :=
  onUnit (decide (i < 64)) (offerDesc i h (.matmul { b with kind := 1 }) s)
def execProductTableMatmul (i : Nat) (h : Header) (b : MatmulBody) (s : State) : Host.Outcome State Fault Refusal :=
  onUnit (decide (i < 64)) (offerDesc i h (.matmul { b with kind := 2 }) s)
def execVecop (i : Nat) (h : Header) (b : VecopBody) (s : State) : Host.Outcome State Fault Refusal :=
  onUnit (decide (i < 64)) (offerDesc i h (.vecop b) s)
def execScan (i : Nat) (h : Header) (b : ScanBody) (s : State) : Host.Outcome State Fault Refusal :=
  onUnit (decide (i < 64)) (offerDesc i h (.scan b) s)
def execMoveCopy (i : Nat) (h : Header) (b : MoveBody) (s : State) : Host.Outcome State Fault Refusal :=
  onUnit (decide (i < 64)) (offerDesc i h (.move 0x00 b) s)
def execMoveScaleFile (i : Nat) (h : Header) (b : MoveBody) (s : State) : Host.Outcome State Fault Refusal :=
  onUnit (decide (i < 64)) (offerDesc i h (.move 0x01 b) s)
def execMoveInt4Table (i : Nat) (h : Header) (b : MoveBody) (s : State) : Host.Outcome State Fault Refusal :=
  onUnit (decide (i < 64)) (offerDesc i h (.move 0x02 b) s)
def execMoveRowBank (i : Nat) (h : Header) (b : MoveBody) (s : State) : Host.Outcome State Fault Refusal :=
  onUnit (decide (i < 64)) (offerDesc i h (.move 0x03 b) s)
def execMoveSpline (i : Nat) (h : Header) (b : MoveBody) (s : State) : Host.Outcome State Fault Refusal :=
  onUnit (decide (i < 64)) (offerDesc i h (.move 0x04 b) s)
def execMoveGroup (i : Nat) (h : Header) (b : MoveBody) (s : State) : Host.Outcome State Fault Refusal :=
  onUnit (decide (i < 64)) (offerDesc i h (.move 0x05 b) s)
def execMoveWeightTable (i : Nat) (h : Header) (b : MoveBody) (s : State) : Host.Outcome State Fault Refusal :=
  onUnit (decide (i < 64)) (offerDesc i h (.move 0x06 b) s)
def execMoveStatSlot (i : Nat) (h : Header) (b : MoveBody) (s : State) : Host.Outcome State Fault Refusal :=
  onUnit (decide (i < 64)) (offerDesc i h (.move 0x07 b) s)
def execSnapshot (i : Nat) (h : Header) (b : MoveBody) (s : State) : Host.Outcome State Fault Refusal :=
  onUnit (decide (i < 64)) (offerDesc i h (.move 0x08 b) s)
def execSeed (i : Nat) (h : Header) (b : MoveBody) (s : State) : Host.Outcome State Fault Refusal :=
  onUnit (decide (i < 64)) (offerDesc i h (.move 0x09 b) s)
def execKeyseed (i : Nat) (h : Header) (b : MoveBody) (s : State) : Host.Outcome State Fault Refusal :=
  onUnit (decide (i < 64)) (offerDesc i h (.move 0x0A b) s)
def execDeliver (i : Nat) (h : Header) (b : MoveBody) (s : State) : Host.Outcome State Fault Refusal :=
  onUnit (decide (i < 64)) (offerDesc i h (.move 0x0B b) s)
def execReduce (i : Nat) (h : Header) (b : ReduceBody) (s : State) : Host.Outcome State Fault Refusal :=
  onUnit (decide (i < 64)) (offerDesc i h (.reduce b) s)
def execDispatch (i : Nat) (h : Header) (b : DispatchBody) (s : State) : Host.Outcome State Fault Refusal :=
  onUnit (decide (i < 64)) (offerDesc i h (.dispatch b) s)
def execCombine (i : Nat) (h : Header) (b : DispatchBody) (s : State) : Host.Outcome State Fault Refusal :=
  onUnit (decide (i < 64)) (offerDesc i h (.combine b) s)
def execGate (i : Nat) (h : Header) (b : GateBody) (s : State) : Host.Outcome State Fault Refusal :=
  onUnit (decide (i < 64)) (offerDesc i h (.gate b) s)
def execDepend (i : Nat) (h : Header) (w : List Wait) (s : State) : Host.Outcome State Fault Refusal :=
  onUnit (decide (i < 64)) (offerDesc i h (.depend w) s)
def execBarrier (i : Nat) (h : Header) (s : State) : Host.Outcome State Fault Refusal :=
  onUnit (decide (i < 64)) (offerDesc i h .barrier s)
def execCall (i : Nat) (h : Header) (b : CallBody) (s : State) : Host.Outcome State Fault Refusal :=
  onUnit (decide (i < 64)) (offerDesc i h (.call b) s)
def execUpdate (i : Nat) (h : Header) (b : UpdateBody) (s : State) : Host.Outcome State Fault Refusal :=
  onUnit (decide (i < 64)) (offerDesc i h (.update b) s)
def execStashSave (i : Nat) (h : Header) (b : StashSaveBody) (s : State) : Host.Outcome State Fault Refusal :=
  onUnit (decide (i < 64)) (offerDesc i h (.stashSave b) s)
def execStashLoad (i : Nat) (h : Header) (b : StashLoadBody) (s : State) : Host.Outcome State Fault Refusal :=
  onUnit (decide (i < 64)) (offerDesc i h (.stashLoad b) s)
def execScaleCommit (i : Nat) (h : Header) (b : ScaleCommitBody) (s : State) : Host.Outcome State Fault Refusal :=
  onUnit (decide (i < 64)) (offerDesc i h (.scaleCommit b) s)
def execStepCommit (i : Nat) (h : Header) (b : StepCommitBody) (s : State) : Host.Outcome State Fault Refusal :=
  onUnit (decide (i < 64)) (offerDesc i h (.stepCommit b) s)
def execEvent (i : Nat) (h : Header) (b : EventBody) (s : State) : Host.Outcome State Fault Refusal :=
  onUnit (decide (i < 64)) (offerDesc i h (.event b) s)

/-! ### DESCRIPTOR_TAKE (R193, R195, R248, R251, R262) -/

/-- Take from 64 bytes; `ring` says whether the phase is checked and the ring counts. -/
def takeBytes (i : Nat) (ring : Bool) (read : Except Fail (List Byte)) (s : State) : State :=
  match read with
  | .error f => takeDesc i ring (some f) default .nop s
  | .ok b =>
    let (op, ph, h) := headerOf b
    let x := stream s i
    let h := if ring then h else listHeader x.calls h
    let early := if ring && decide (b2n ph ≠ ringPhase x.taken (sqSize s i)) then some (Fail.desc .phase 0) else none
    takeDesc i ring early h (descOf op b) s

/-- The next descriptor of the innermost list. -/
def takeList (i : Nat) (f : Frame) (s : State) : State :=
  let (b, t) := readMem f.addr 64 (reqSeq (seqTile s 0)) s
  let t := modStream t i (fun x => { x with
    calls := match x.calls with
      | g :: fs => { g with addr := g.addr + 64, left := g.left - 1 } :: fs
      | [] => [] })
  takeBytes i false b t

/-- Ring descriptor `taken` may be taken (R251). -/
def ringReady (s : State) (i : Nat) : Bool :=
  let x := stream s i
  laterSeq x.produced x.taken && decide (sub32 x.taken x.retired < sqSize s i)

/-- The next ring descriptor. -/
def takeRing (i : Nat) (s : State) : State :=
  let base := reg8 s (ringReg i 0) / 4096 * 4096
  let (b, t) := readHost (base + 64 * ((stream s i).taken % sqSize s i)) 64 i s
  takeBytes i true b t

/-- One step of a stream: a held descriptor whose turn has come, else the next of its list or ring. -/
def streamStep (i : Nat) (s : State) : State :=
  if (nextHeld s i).isSome then dispatchNext i s
  else if !mayTake s i then dispatchNext i s
  else
    match (stream s i).calls with
    | f :: _ => if f.left = 0 then dispatchNext i s else takeList i f s
    | [] => if ringReady s i then takeRing i s else dispatchNext i s

def execDescriptorTake (i : Nat) (s : State) : Host.Outcome State Fault Refusal :=
  onUnit (decide (i < 64)) (if coreRuns s then settle s (streamStep i s) else s)

/-! ### GATE_RELEASE (R233, R236) -/

/-- The mark of a waiting GATE has been reached by the tally bus. -/
def gateDue (s : State) (r : Rec) : Bool :=
  decide (r.life = .waiting) && marksFire s &&
    match r.desc with
    | .gate b => stampGe s.tally.bus ⟨b.mark, b.frac⟩
    | _ => false

/-- The stream's GATE fires, and what it held may be dispatched. -/
def releaseGate (i : Nat) (s : State) : State :=
  match (stream s i).window.find? (gateDue s) with
  | some r => dispatchNext i (completeOK i r.seq s)
  | none => s

/-- Entering LOST or OFF: GATEs of policy PASS that wait complete, those taken and not yet dispatched among them (R230,
R236, R238). DEDUCED, see log 114. -/
def passGates (s : State) : State :=
  (allRecs s).foldl (fun t x =>
    match x.2.desc with
    | .gate b => if b.pass ∧ (x.2.life = .waiting ∨ x.2.life = .held) then complete x.1 x.2.seq stTallyLost 0 0 CFlags.none t else t
    | _ => t) s

/-! ### Retirement (R193, R206, R207, R265) -/

/-- A descriptor of a stream has not retired: it, or a caller, at or before `n`. -/
def openTo (x : Stream) (n : Nat) : Bool :=
  (x.window ++ x.calls.map (·.caller)).any (fun r => !laterSeq r.seq n)

/-- A wait is met (R206). -/
def waitMet (s : State) (i seq : Nat) (w : Wait) : Bool :=
  if !w.valid then true
  else if w.allPrior then !((stream s i).window.any (fun r => laterSeq seq r.seq))
  else
    let x := stream s w.stream
    laterSeq x.seqNext w.seq && !openTo x w.seq

/-- A wait names a descriptor that an abort cancelled, or one after it (Table 8.3). -/
def waitCancelled (s : State) (w : Wait) : Bool :=
  w.valid && !w.allPrior && (stream s w.stream).cancelledFrom.any (fun c => !laterSeq c w.seq)

/-- What a waiting descriptor at the head of its stream becomes. -/
def resolveHead (i : Nat) (r : Rec) (s : State) : State :=
  match r.life, r.desc with
  | .waiting, .depend ws =>
    if ws.any (waitCancelled s) then
      modStream (complete i r.seq stStall 0 0 CFlags.none s) i (fun x => { x with
        state := if x.state = .active ∨ x.state = .idle then .halted else x.state })
    else if ws.all (waitMet s i r.seq) then completeOK i r.seq s
    else s
  | .waiting, .barrier =>
    let left := itemsLeft s
    match r.snap with
    | some l => if l.all (fun k => !left.contains k) then completeOK i r.seq s else s
    | none => s
  | .waiting, .call _ => completeOK i r.seq s
  | .waiting, .stashLoad b => completeOK i r.seq (if b.release then releaseEntry b.clove b.index s else s)
  | _, _ => s

/-- A completion entry, 16 bytes (Table 10.19). -/
def entryBytes (r : Rec) (phase : Nat) : List Byte :=
  let f := r.flags
  leBytes 4 r.hdr.tag ++ leBytes 4 r.seq
    ++ leBytes 4 (r.status + 2 ^ 8 * r.detail + 2 ^ 16 * opcodeOf r.desc + 2 ^ 24 * b2n f.scaleMiss
      + 2 ^ 25 * b2n f.nonfinite + 2 ^ 26 * b2n f.sat + 2 ^ 27 * b2n f.skipped + 2 ^ 28 * b2n f.dropped
      + 2 ^ 29 * b2n f.late + 2 ^ 30 * b2n f.outcome + 2 ^ 31 * phase)
    ++ leBytes 4 r.value

/-- A retirement writes an entry. -/
def needsEntry (r : Rec) : Bool := r.hdr.cmpl || r.hdr.irq || decide (r.status ≠ stOK)

/-- The completion ring has no place. -/
def cqFull (s : State) (i : Nat) : Bool :=
  decide (cqSize s i ≤ sub32 (stream s i).cqProduced (stream s i).cqConsumed)

/-- Write the entry of a record, and count its interrupt. -/
def writeEntry16 (i : Nat) (r : Rec) (s : State) : State :=
  let x := stream s i
  let n := cqSize s i
  let base := reg8 s (cqReg i 0) / 4096 * 4096
  let t := hostWrite (base + 16 * (x.cqProduced % n)) (entryBytes r (ringPhase x.cqProduced n)) s
  let t := modStream t i (fun y => { y with cqProduced := (y.cqProduced + 1) % 2 ^ 32 })
  if r.hdr.irq then requestVector i t else t

/-- A shared member whose values may have to be formed again stays known (R19, R79). -/
def keepRec (i : Nat) (r : Rec) (s : State) : State :=
  let x := stream s i
  let here (q : Nat) : Bool := x.shared.any (fun m => m.members.contains q) ||
    (allTiles s).any (fun t => t.2.2.stream == i && (t.2.2.item.id.seq == q || t.2.2.members.contains q))
  let mine := match r.desc with
    | .matmul b => b.shared
    | _ => false
  modStream s i (fun y => { y with kept := ((if mine then y.kept ++ [r] else y.kept)).filter (fun k => here k.seq) })

/-- What the retirement of a BARRIER of group 0 brings into force (R210, R405); the tiles wait to load a pending
microcode image (R365). -/
def barrierZero (s : State) : State :=
  let t := modHost s (fun h => { h with
    bwsplit := h.bwPending.getD h.bwsplit, bwPending := none
    interlock := h.interlockPending.getD h.interlock, interlockPending := none })
  if s.safe.steward.ucodeStatus = 2 ∧ s.comp.ucodeWait.isEmpty then
    modComp t (fun c => { c with ucodeWait := (List.range 16).filter (fun k => !tileIsOut s k) })
  else t

/-- The stream has nothing left and a BARRIER retired last: IDLE (R208). -/
def goIdle (x : Stream) : Stream :=
  if x.state = .active ∧ x.lastBarrier ∧ x.window.isEmpty ∧ x.calls.isEmpty ∧ x.produced = x.taken then
    { x with state := .idle }
  else x

/-- The head retires: counts, the status line before the entry, the entry, and what follows from it. -/
def retireHead (old : State) (i : Nat) (r : Rec) (s : State) : State :=
  let bar := match r.desc with
    | .barrier => true
    | _ => false
  let t := modStream s i (fun x => goIdle { x with
    window := x.window.filter (fun y => y.seq != r.seq)
    retired := if r.ring then (x.retired + 1) % 2 ^ 32 else x.retired
    seqRetired := if laterSeq ((r.seq + 1) % 2 ^ 32) x.seqRetired then (r.seq + 1) % 2 ^ 32 else x.seqRetired
    lastBarrier := bar, full := false })
  let t := keepRec i r t
  let t := if bar ∧ r.hdr.group = 0 then barrierZero t else t
  let t := statusLine old t i
  let t := if needsEntry r then writeEntry16 i r t else t
  noteHead i t

/-- The head of a stream's window retires when it is complete and its entry has a place (R265). -/
def retire (i : Nat) (s : State) : State :=
  match (stream s i).window with
  | [] => s
  | r :: _ =>
    let t := resolveHead i r s
    match findRec t i r.seq with
    | none => t
    | some x =>
      if x.life ≠ .done then t
      else if needsEntry x && cqFull t i then statusLine s (modStream t i (fun y => { y with full := true })) i
      else retireHead s i x t

def execCompletionEntryWrite (i : Nat) (s : State) : Host.Outcome State Fault Refusal :=
  onUnit (decide (i < 64)) (settlePhases (retire i s))

end Sys2Proof.Machine
end

