-- ==== Sys2Proof/Machine/Rings.lean ====
section
/-! DEFINITION. The host side of the streams: stream actions, the stall detector, doorbells, interrupts, the aperture, and the registers of the host block with rules of their own (chapters 08, 10, 17). -/

namespace Sys2Proof.Machine

/-! ### Stream actions (R420) -/

/-- A stream as enabling leaves it: counts 0, ACTIVE (R193, R247). -/
def enabled (x : Stream) : Stream :=
  { x with
    state := .active, produced := 0, heldTo := none, taken := 0, retired := 0, seqNext := 0, seqRetired := 0, cqProduced := 0
    cqConsumed := 0, window := [], calls := [], lastBarrier := false, afterBarrier0 := false, cancelledFrom := none
    full := false, shared := [], kept := [] }

/-- The states in which an action of STREAM_CTRL acts, and what it does (Table 17.6-a): 0 enable, 1 disable, 2 resume,
3 abort, 4 restart. -/
def actsIn (a : Nat) (x : StreamState) : Bool :=
  match a with
  | 0 => decide (x = .disabled)
  | 1 => decide (x = .idle)
  | 2 => decide (x = .halted)
  | 3 => decide (x = .active) || decide (x = .idle) || decide (x = .halted)
  | _ => decide (x = .aborted)

def setState (i : Nat) (x : StreamState) (s : State) : State := modStream s i (fun y => { y with state := x })

/-- The effect of an action in a state that the table lists for it. -/
def act (a i : Nat) (s : State) : State :=
  match a with
  | 0 => modStream s i enabled
  | 1 => setState i .disabled s
  | 2 => setState i .active s
  | 3 => armEngines (abortStream i s)
  | _ => setState i .disabled s

/-- One action bit written to STREAM_CTRL[i]: it acts, or changes no state and sets cfg_err; before ready an enable
does not take effect (R243). -/
def streamAction (a i : Nat) (s : State) : State :=
  if !hostBlock s then s
  else if !actsIn a (stream s i).state then modStream s i (fun x => { x with cfgErr := true })
  else if a = 0 ∧ !s.safe.ready then s
  else settle s (act a i s)

def execStreamEnable (i : Nat) (s : State) : Host.Outcome State Fault Refusal :=
  onUnit (decide (i < 64)) (streamAction 0 i s)
def execStreamDisable (i : Nat) (s : State) : Host.Outcome State Fault Refusal :=
  onUnit (decide (i < 64)) (streamAction 1 i s)
def execStreamResume (i : Nat) (s : State) : Host.Outcome State Fault Refusal :=
  onUnit (decide (i < 64)) (streamAction 2 i s)
def execStreamAbort (i : Nat) (s : State) : Host.Outcome State Fault Refusal :=
  onUnit (decide (i < 64)) (streamAction 3 i s)
def execStreamRestart (i : Nat) (s : State) : Host.Outcome State Fault Refusal :=
  onUnit (decide (i < 64)) (streamAction 4 i s)

/-! ### The stall detector (R213) -/

/-- The cloves that an item may go to. -/
def candidates (s : State) (q : Nat) (i : QItem) : List Nat :=
  match runSeat s i with
  | .at_ c => [c]
  | .joining => []
  | .empty => podCloves s q

/-- Tiles that an item names: its accumulator tile, or the dX and dW tiles of a BWD_PAIR. -/
def namedTiles (r : Rec) (i : QItem) : List Nat :=
  match matmulBody r with
  | none => []
  | some b =>
    match i.kind with
    | .bwd => (List.range 4).map (b.accTile + ·) ++ (dwBlocks r b i).map (dwTile r b i)
    | _ => [b.accTile]

/-- An item of stream `i` cannot be handed out because, on every clove it may go to, a tile that it names is bound;
stream `j` holds one. -/
def tileBlocked (s : State) (i j : Nat) (q : Nat) (x : QItem) : Bool :=
  match findRec s i x.id.seq with
  | none => false
  | some r =>
    let cs := candidates s q x
    let ts := namedTiles r x
    !cs.isEmpty && !ts.isEmpty
      && cs.all (fun c => !tilesReady s c r x)
      && cs.any (fun c => ts.any (fun t => tileHolder s c t x == some j))

/-- A chunk sum of stream `i` that a thief formed waits for its member's tile, which stream `j` holds (R87): the operation. -/
def sumBlocked (s : State) (i j : Nat) : Option Nat :=
  ((allTiles s).find? (fun x => x.2.2.stream == i && decide (x.2.2.state = .combining) && !atHome s x.1 x.2.2.item &&
    match seatOf s x.2.2.item with
    | .at_ c => tileHolder s c (namedTile x.2.2) x.2.2.item == some j
    | _ => false)).map (fun x => x.2.2.owner)

/-- A BWD_PAIR item of stream `i` that holds a context waits for its next dX tile, which stream `j` holds (R161). -/
def dxBlocked (s : State) (i j : Nat) : Option Nat :=
  s.comp.cloves.findSome? (fun c => (c.2.ctx.find? (fun k => k.2.item.id.stream == i &&
    match k.2.item.kind, findRec s i k.2.item.id.seq with
    | .bwd, some r => (matmulBody r).any (fun b => opens r b k.2.item && decide (k.2.next < tokenBlocks r)
      && tileHolder s c.1 (b.accTile + k.2.next % 4) k.2.item == some j)
    | _, _ => false)).map (fun k => k.2.item.id.seq))

/-- Sequence number of the descriptor of stream `i` that waits for stream `j`: on a DEPEND, on a tile, or on a BARRIER
for items of `j`. -/
def waitsFor (s : State) (i j : Nat) : Option Nat :=
  let x := stream s i
  let byDepend := x.window.find? (fun r => decide (r.life = .waiting) &&
    match r.desc with
    | .depend ws => !ws.any (waitCancelled s)
      && ws.any (fun w => w.valid && !w.allPrior && w.stream == j && !waitMet s i r.seq w)
    | _ => false)
  let byBarrier := x.window.head?.filter (fun r => decide (r.life = .waiting) &&
    match r.desc, r.snap with
    | .barrier, some l =>
      let left := itemsLeft s
      l.any (fun k => k.stream == j && left.contains k)
    | _, _ => false)
  let byTile := s.comp.podQueue.findSome? (fun q =>
    (q.2.find? (fun y => y.id.stream == i && tileBlocked s i j q.1 y)).map (fun y => y.id.seq))
  match byDepend, byBarrier with
  | some r, _ => some r.seq
  | none, some r => some r.seq
  | none, none => [byTile, sumBlocked s i j, dxBlocked s i j].findSome? id

/-- A stream waits on a tally gate. -/
def atGate (x : Stream) : Bool :=
  x.window.any (fun r => decide (r.life = .waiting) &&
    match r.desc with
    | .gate _ => true
    | _ => false)

/-- A stream waits for stash space, or for a place in its completion ring. -/
def atStore (s : State) (i : Nat) : Bool :=
  (stream s i).window.any (fun r => decide (r.life = .stashWait)) || ((stream s i).full && cqFull s i)

/-- The detector watches this wait: neither stream waits on a tally gate, for stash space or for a place in its
completion ring, and the one waited for is not IDLE, DISABLED or ABORTED (R172, R213, Tables 8.3, 8.6 and 10.24). DEDUCED,
see log 97. -/
def watched (s : State) (i j : Nat) : Bool :=
  decide (i ≠ j) && decide (bitsAt (reg4 s (hostBase + 0x3004)) 19 0 ≠ 0) && coreRuns s
    && !atGate (stream s i) && !atGate (stream s j) && !atStore s i && !atStore s j
    && decide ((stream s j).state ≠ .idle) && decide ((stream s j).state ≠ .disabled)
    && decide ((stream s j).state ≠ .aborted)

/-- The stall time has passed: STREAM_STALL, and both streams are aborted. -/
def stallFire (i j : Nat) (s : State) : State :=
  match if watched s i j then waitsFor s i j else none with
  | none => s
  | some seq => armEngines <| abortStream j (abortStream i (raiseEv { code := 0x05, arg0 := i, arg1 := j, arg2 := seq } s))

def execStallDetect (i j : Nat) (s : State) : Host.Outcome State Fault Refusal :=
  onUnit (decide (i < 64) && decide (j < 64)) (settle s (stallFire i j s))

/-! ### Doorbells (R250, R251, R265, R268) -/

/-- A doorbell-error: ignored, counted, db_err (Table 10.7). -/
def dbError (i : Nat) (s : State) : State :=
  count (ringReg i 0x14) 1 (modStream s i (fun x => { x with dbErr := true }))

/-- A write of SQ_DB[i] with the count `p` (Table 10.7). -/
def sqDoorbell (i p : Nat) (s : State) : State :=
  let x := stream s i
  let n := sqSize s i
  if x.state = .disabled ∨ x.state = .aborted then s
  else if 2 ^ 31 ≤ sub32 p x.produced ∨ n < sub32 p x.taken then dbError i s
  else if p = x.produced then s
  else
    let t := modStream s i (fun y => { y with
      produced := p, state := if y.state = .idle then .active else y.state })
    if n < sub32 p x.retired then count (ringReg i 0x18) 1 (modStream t i (fun y => { y with heldTo := some p })) else t

/-- A doorbell write: the register keeps what was written, and the write acts once the module is ready (R243, R250). -/
def writeSqDb (i v : Nat) (s : State) : State :=
  if !hostReady s then s
  else
    let p := v % 2 ^ 32
    settle s (sqDoorbell i p (modStream s i (fun x => { x with sqDb := p })))

def execSqDb (i v : Nat) (s : State) : Host.Outcome State Fault Refusal := onUnit (decide (i < 64)) (writeSqDb i v s)

def writeCqDb (i v : Nat) (s : State) : State :=
  if !hostReady s then s
  else
    let p := v % 2 ^ 32
    let t := modStream s i (fun x => { x with cqDb := p, cqConsumed := p })
    modStream t i (fun x => { x with full := x.full && cqFull t i })

def execCqDb (i v : Nat) (s : State) : Host.Outcome State Fault Refusal := onUnit (decide (i < 64)) (writeCqDb i v s)

def writeEqDb (v : Nat) (s : State) : State :=
  if !hostReady s then s
  else modHost s (fun h => { h with eqDb := v % 2 ^ 32, eqConsumed := v % 2 ^ 32 })

def execEqDb (v : Nat) (s : State) : Host.Outcome State Fault Refusal := .next (writeEqDb v s)

/-! ### Interrupts (R270, R271, R418) -/

/-- The moderation timer of vector `v` runs out with a request pending. -/
def modTimerOut (v : Nat) (s : State) : State :=
  if 0 < (vector s v).pending ∧ (vector s v).timing then sendVector v s else s

def execMsixModTimer (v : Nat) (s : State) : Host.Outcome State Fault Refusal :=
  onUnit (decide (v ≤ 64)) (modTimerOut v s)

/-- The mask bit of a vector is cleared: a message that its PBA bit holds is sent. -/
def unmask (v : Nat) (s : State) : State :=
  let a := hostBase + 0x8000 + 16 * v + 12
  let t := setReg4 s a (reg4 s a / 2 * 2)
  if (vector s v).pba then sendVector v (setVector t v { vector s v with pba := false }) else t

def execMsixUnmask (v : Nat) (s : State) : Host.Outcome State Fault Refusal :=
  onUnit (decide (v ≤ 64)) (if hostBlock s then unmask v s else s)

/-- GLB_IRQ_TEST: with go set and a vector that exists, one request (Table 17.4). -/
def irqTest (v : Nat) (s : State) : State :=
  if bitAt v 31 ∧ bitsAt v 6 0 ≤ 64 then requestVector (bitsAt v 6 0) s else s

def execGlbIrqTest (v : Nat) (s : State) : Host.Outcome State Fault Refusal :=
  .next (if hostBlock s then irqTest v s else s)

/-! ### The aperture (R243, R245) -/

/-- HOST_APERTURE. -/
def aperture (s : State) : Nat := reg8 s (hostBase + 0x28) / 2 ^ 30 * 2 ^ 30

/-- The sizes of the BARs (Table 10.2); BAR4 has the size that the host has selected, 1 to 64 GiB (log 94). -/
def bar0Size : Nat := 2 ^ 26
def bar2Size : Nat := 2 ^ 20
def bar4Size : Nat := 2 ^ (30 + Config.bar4Sel.val)

/-- BAR `n` is there, as two 64-bit ones and a prefetchable 64-bit one (Table 10.2). -/
def barSize (n : Nat) : Option Nat :=
  match n with
  | 0 => some bar0Size
  | 2 => some bar2Size
  | 4 => some bar4Size
  | _ => none
def barPrefetchable (n : Nat) : Bool := decide (n = 4)

theorem bar4Size_least : 2 ^ 30 ≤ bar4Size := Nat.pow_le_pow_right (by decide) (Nat.le_add_right 30 _)
theorem bar4Size_most : bar4Size ≤ 2 ^ 36 := Nat.pow_le_pow_right (by decide) (by have := Config.bar4Sel.isLt; omega)

/-- The aperture reaches HBM at `n` bytes from offset `o`, within BAR4; before ready and in safe stop it reaches nothing. -/
def apertureReaches (s : State) (o n : Nat) : Bool :=
  s.safe.ready && !s.safe.stop && decide (o + n ≤ bar4Size) && decide (aperture s + o + n ≤ hbmEnd)

def answer (r : Resp) (s : State) : State := { s with resp := r }

def apertureRead (o n : Nat) (s : State) : State :=
  if !apertureReaches s o n then answer .unsupported s
  else
    match readMem (aperture s + o) n reqHost s with
    | (.ok b, t) => answer (.bytes b) t
    | (.error _, t) => logAer 2 false (aperture s + o) n (answer .poisoned t)

def execBar4Read (o n : Nat) (s : State) : Host.Outcome State Fault Refusal :=
  .next (if hostUp s then apertureRead o n s else s)

def apertureWrite (o : Nat) (b : List Byte) (s : State) : State :=
  if !apertureReaches s o b.length then logAer 1 true (aperture s + o) b.length s
  else
    match writeMem (aperture s + o) b reqHost s with
    | (none, t) => t
    | (some _, t) => logAer 2 true (aperture s + o) b.length t

def execBar4Write (o : Nat) (b : List Byte) (s : State) : Host.Outcome State Fault Refusal :=
  .next (if hostUp s then apertureWrite o b s else s)

/-! ### Registers of the schedule (R210, R216, R405) -/

/-- SCHED_BWSPLIT: a valid split waits for the next BARRIER of group 0; another sets err, which is W1C. -/
def writeBwsplit (v : Nat) (s : State) : State :=
  let x : BwSplit := ⟨bitsAt v 5 0, bitsAt v 13 8, bitsAt v 21 16⟩
  let t := if bitAt v 31 then modHost s (fun h => { h with bwErr := false }) else s
  if x.read + x.write + x.remote = 32 then modHost t (fun h => { h with bwPending := some x })
  else modHost t (fun h => { h with bwErr := true })

def execSchedBwsplitWrite (v : Nat) (s : State) : Host.Outcome State Fault Refusal :=
  .next (if hostBlock s then writeBwsplit v s else s)

/-- SLOT_LEN: a length of 1 to 1,048,576 stands and allows SEQ_LIMIT again; another sets err, which is W1C. -/
def writeSlotLen (k v : Nat) (s : State) : State :=
  let x := slotLen s k
  let n := bitsAt v 20 0
  let put (y : SlotLen) : State := modHost s (fun h => { h with slotLen := sset SlotLen.reset h.slotLen k y })
  let err := x.err && !bitAt v 31
  if 1 ≤ n ∧ n ≤ 1048576 then put ⟨n, false, err⟩ else put { x with err := true }

def execSlotLenWrite (k v : Nat) (s : State) : Host.Outcome State Fault Refusal :=
  onUnit (decide (k < 4)) (if hostBlock s then writeSlotLen k v s else s)

/-- GLB_CTRL.phase_interlock: the value waits for the next BARRIER of group 0. -/
def writeInterlock (v : Bool) (s : State) : State := modHost s (fun h => { h with interlockPending := some v })

def execPhaseInterlockWrite (v : Bool) (s : State) : Host.Outcome State Fault Refusal :=
  .next (if hostBlock s then writeInterlock v s else s)

/-! ### The link and the host-interface reset (R273, R397, R402) -/

/-- A BAR0 address in the host and ring block. -/
def inHostBlock (a : Nat) : Bool := decide (hostBase ≤ a) && decide (a < hostBase + 0x10000)

/-- A stream after a host-interface reset: DISABLED with its counts reset; what descriptors set for it stands. -/
def hostResetStream (x : Stream) : Stream :=
  { enabled x with
    state := .disabled, sqDb := 0, cqDb := 0, cfgErr := false, dbErr := false, descErr := false }

/-- GLB_STAT.ready, and with it pcie_reduced (Table 16.8). -/
def setReady (b : Bool) (s : State) : State := modSafe s (fun x => { x with ready := b, pcieReduced := !b })

/-- The module has finished its start-up (Table 16.8). -/
def started (s : State) : Bool := decide (s.safe.phase = 5) && !s.safe.stop && s.power.main

/-- The host-interface reset of Table 16.1; ready is set again when start-up had reached it. -/
def hostReset (s : State) : State :=
  let t := abortSilently s
  let t := modHost t (fun h => { h with
    streams := (h.streams.map (fun x => (x.1, hostResetStream x.2))).filter (fun x => decide (x.2 ≠ Stream.empty))
    eqProduced := 0, eqConsumed := 0, eqDb := 0, eqOverflow := false, eqLost := 0, vectors := []
    bwsplit := BwSplit.reset, bwPending := none, bwErr := false, slotLen := [], stashErr := false, needReset := false })
  let t := modReg t (fun r => { r with
    held := r.held.filter (fun x => !inHostBlock x.1)
    ctr := r.ctr.filter (fun x => !inHostBlock x.1)
    ovf := r.ovf.filter (fun x => !inHostBlock x.1) })
  settlePhases (setReady (started t) t)

/-- A write of GLB_RESET with the key and the host bit. -/
def resetHostBy (v : Nat) (s : State) : State := if bitAt v 1 ∧ bitsAt v 15 8 = 0xA5 then hostReset s else s

def execGlbResetHost (v : Nat) (s : State) : Host.Outcome State Fault Refusal :=
  .next (if hostBlock s then resetHostBy v s else s)

def execFunctionLevelReset (s : State) : Host.Outcome State Fault Refusal :=
  .next (if s.power.main && s.host.linkUp then hostReset s else s)

/-- The link is down: PCIE_STAT reads 0. -/
def dropLink (s : State) : State :=
  modHost s (fun h => { h with linkUp := false, rate := 0, width := 0, flit := false })

/-- HOST_PERST_N: low holds the endpoint in its host-interface reset; high lets it go. -/
def perst (high : Bool) (s : State) : State :=
  if high then
    let t := modHost s (fun h => { h with perstLow := false })
    if s.host.perstLow then setReady (started t) t else t
  else
    setReady false (modHost (dropLink (hostReset s)) (fun h => { h with perstLow := true }))

def execHostPerst (high : Bool) (s : State) : Host.Outcome State Fault Refusal := .next (perst high s)

/-- The PCIe link goes down (Table 10.24). -/
def linkDown (s : State) : State :=
  if !s.host.linkUp then s
  else setReady false (modHost (dropLink s) (fun h => { h with needReset := true }))

def execPcieLinkDown (s : State) : Host.Outcome State Fault Refusal := .next (linkDown s)

/-- The rate codes and the widths of Table 17.6: no other link is one of the endpoint's (R242). -/
def linkKind (rate width : Nat) : Bool := decide (1 ≤ rate) && decide (rate ≤ 4) && [4, 8, 16].contains width

/-- The link has trained; flit mode is used at 64 GT/s (Table 10.1). -/
def linkUp (rate width : Nat) (s : State) : State :=
  if !s.power.main ∨ s.host.perstLow ∨ !linkKind rate width then s
  else modHost s (fun h => { h with linkUp := true, rate := rate, width := width, flit := decide (rate = 4) })

def execPcieLinkUp (rate width : Nat) (s : State) : Host.Outcome State Fault Refusal := .next (linkUp rate width s)

end Sys2Proof.Machine
end

