-- ==== Sys2Proof/Machine/Alarm.lean ====
section
/-! DEFINITION. The 512 alarms of the tally block: arming, disarming and firing (R232 to R235, Table 9.3). -/

namespace Sys2Proof.Machine

/-- ALM_CTRL of alarm `n`. -/
def almCtrl (s : State) (n : Nat) : Nat := reg4 s (almReg n 8)

/-- The module's own logic arms the recalibration alarms: while scheduled recalibration is not deferred (R237, R238), for a port
that recalibrates at them (R288). DEDUCED, see log 67. -/
def recalArmed (s : State) : Bool :=
  s.power.main && !s.tally.deferRecal
    && s.ports.any (fun p => decide (p.2.state ≠ 0) && bitAt (reg4 s (portBase p.1)) 4)

/-- The pair of the mark of alarm `n`: that of a recalibration alarm is set by the module's own logic, after the one it last fired
at (log 67). -/
def almPair (s : State) (n : Nat) : Nat :=
  if 496 ≤ n ∧ recalArmed s then (Config.recalMark n (reg8 s (almReg n 0))).toNat else reg8 s (almReg n 0)

/-- The mark of alarm `n`. -/
def almMark (s : State) (n : Nat) : Stamp := ⟨almPair s n, bitsAt (almCtrl s n) 7 0⟩

def almArmed (s : State) (n : Nat) : Bool := if 496 ≤ n then recalArmed s else bitAt (almCtrl s n) 8

/-- The tally bus has passed a mark. -/
def passed (s : State) (m : Stamp) : Bool := stampGe s.tally.bus m

/-- The mark of an armed alarm is passed. -/
def almDue (s : State) (n : Nat) : Bool := almArmed s n && passed s (almMark s n)

/-- Alarm `n` is a start mark of the governor (Table 15.12). -/
def startAlarm (n : Nat) : Bool := decide (448 ≤ n) && decide (n < 480) && decide (n % 2 = 0)

/-- Alarm `n` may fire now (R233, R238); a start mark waits while the core clocks stand still. -/
def almFires (s : State) (n : Nat) : Bool :=
  almDue s n && (coreRuns s || !startAlarm n)
    && (marksFire s || (decide (s.tally.state = .off) && s.tally.passedOff.contains n))

/-- Alarm `n` is no longer one that a preset passed. -/
def forget (n : Nat) (s : State) : State := modTally s (fun y => { y with passedOff := y.passedOff.filter (· != n) })

/-- A word with bit `i` set to `b`. -/
def setBit (v i : Nat) (b : Bool) : Nat := if bitAt v i = b then v else if b then v + 2 ^ i else v - 2 ^ i

/-- Arm alarm `n` at a mark and fraction, as its owner; late_arm tells that the mark was passed already (R233). -/
def ownerArm (n : Nat) (m : Stamp) (s : State) : State :=
  let t := setReg8 (forget n s) (almReg n 0) m.pair
  setReg4 t (almReg n 8) (setBit (setBit (almCtrl s n / 256 * 256 + m.frac % 256) 8 true) 10
    (bitAt (almCtrl s n) 10 || passed s m))

/-- Disarm alarm `n`. -/
def disarm (n : Nat) (s : State) : State := setReg4 (forget n s) (almReg n 8) (setBit (almCtrl s n) 8 false)

/-- Alarm `n` fires: fired is set, it is disarmed, and irq_en signals its vector when that exists (R235). -/
def fireAlarm (n : Nat) (s : State) : State :=
  let c := almCtrl s n
  let t := setReg4 (forget n s) (almReg n 8) (setBit (setBit c 8 false) 9 true)
  if bitAt c 11 ∧ bitsAt c 22 16 ≤ 64 then requestVector (bitsAt c 22 16) t else t

/-- Mark `a` comes before mark `b` of alarms `m` and `n`: by mark, then by alarm number (R233). -/
def firesFirst (s : State) (m n : Nat) : Bool :=
  let a := almMark s m
  let b := almMark s n
  stampGt b a || (decide (a = b) && decide (m ≤ n))

/-- Due alarms in the order in which they fire. -/
def dueAlarms (s : State) : List Nat := ((List.range 512).filter (almFires s)).mergeSort (firesFirst s)

/-- What a mark is for: an alarm, a stream's GATE, or the deadline of a bucket's tree. -/
inductive Due where
  | alarm (n : Nat)
  | gate (i : Nat)
  | deadline (b t : Nat)
  deriving DecidableEq, Repr

/-- GATEs that are due, with their marks. -/
def dueGates (s : State) : List (Stamp × Due) :=
  s.host.streams.flatMap (fun x => x.2.window.filterMap (fun r =>
    match r.desc with
    | .gate b => if gateDue s r then some (⟨b.mark, b.frac⟩, .gate x.1) else none
    | _ => none))

/-- Reduction deadlines that are due, with their marks. -/
def dueDeadlines (s : State) : List (Stamp × Due) :=
  s.link.insts.flatMap (fun x => (List.range 8).filterMap (fun t =>
    if deadlineDue s x.1 t then (adderMark x.2 t).map (fun m => (m, .deadline x.1 t)) else none))

/-- Every mark that is due, in the order in which they fire: by mark, alarms first and by number among equals (R233). -/
def dueMarks (s : State) : List (Stamp × Due) :=
  ((dueAlarms s).map (fun n => (almMark s n, Due.alarm n)) ++ dueGates s ++ dueDeadlines s).mergeSort
    (fun a b => stampGe b.1 a.1)

/-- No mark below `m` is due. -/
def markTurn (s : State) (m : Stamp) : Bool := (dueGates s ++ dueDeadlines s).all (fun d => stampGe d.1 m)
  && (dueAlarms s).all (fun n => stampGe (almMark s n) m)

/-- Alarm `n` is the next to fire (R233). -/
def almTurn (s : State) (n : Nat) : Bool :=
  decide ((dueAlarms s).head? = some n) && (dueGates s ++ dueDeadlines s).all (fun d => stampGe d.1 (almMark s n))

/-- GATE_RELEASE: the stream's GATE fires in its turn. -/
def gateTurn (s : State) (i : Nat) : Bool := (dueGates s).any (fun d => decide (d.2 = .gate i) && markTurn s d.1)

def execGateRelease (i : Nat) (s : State) : Host.Outcome State Fault Refusal :=
  onUnit (decide (i < 64)) (settle s (if gateTurn s i then releaseGate i s else s))

/-- REDUCE_DEADLINE: the deadline of a tree fires in its turn. -/
def deadlineTurn (s : State) (b t : Nat) : Bool :=
  deadlineDue s b t && (adderMark (bucket s b) t).any (markTurn s)

def execReduceDeadline (b t : Nat) (s : State) : Host.Outcome State Fault Refusal :=
  onUnit (decide (b < 4096) && decide (t < 8)) (if deadlineTurn s b t then settle s (fireTree b t s) else s)

end Sys2Proof.Machine
end

