-- ==== Sys2Proof/Machine/Scrub.lean ====
section
/-! DEFINITION. Row remaps, CE trackers, fault injection, channel retirement and scrub (chapter 13, R361, R362). -/

namespace Sys2Proof.Machine

/-! ### Row remaps and trackers (R338, R340) -/

/-- The row copy under way in a channel. -/
def rowCopyOf (s : State) (c : Nat) : Option (Nat × Nat × Nat) := s.mem.rowCopies.find? (fun x => x.1 == c)

/-- The copy of a row ends: its halves are corrected or poisoned, its entry is valid, and MEM_CE tells of the remap. -/
def rowCopied (c row k : Nat) (s : State) : State :=
  let u := 0x2000 + c
  let a := hbmPlace (c / 32) (row * 4) (c % 32) 0
  copyHbm u (fun x => decide (trackedAddr u x = a)) (raiseCE u a 3 (modMem s (fun m => { m with
    rowCopies := m.rowCopies.erase (c, row, k)
    remap := smod [] m.remap (remapKey u a) (fun l => l.modify k (fun e => { e with valid := true })) })))

def rowRemapDone (c : Nat) (s : State) : State :=
  match rowCopyOf s c with
  | some (_, row, k) => rowCopied c row k s
  | none => s

def execHbmRowRemapDone (c : Nat) (s : State) : Host.Outcome State Fault Refusal :=
  onUnit (decide (c < 512)) (rowRemapDone c s)

/-- A memory unit of Table 13.5 that the module keeps a tracker for. -/
def isUnit (u : Nat) : Bool :=
  decide (u < 1216) || (decide (0x800 ≤ u) && decide (u < 0x800 + 1216)) || (decide (0x1000 ≤ u) && decide (u < 0x1008))
    || (decide (0x2000 ≤ u) && decide (u < 0x2200)) || (decide (0x3000 ≤ u) && decide (u < 0x3010))

/-- The entry of an address expires. -/
def expireEntry (u a : Nat) (s : State) : State :=
  modMem s (fun m => { m with tracker := smod [] m.tracker u (fun l => l.filter (fun x => x.addr != a)) })

def execTrackerEntryExpire (u a : Nat) (s : State) : Host.Outcome State Fault Refusal :=
  onUnit (isUnit u) (expireEntry u a s)

/-! ### Injection (R346, Table 13.11) -/

/-- MEM_INJ without its res bits. -/
def injBits (v : Nat) : Nat := v % 2 ^ 96 / 2 ^ 32 * 2 ^ 32 + v % 2 ^ 24 / 16 * 16 + v % 8

/-- The block of unit `u` takes writes (R414). -/
def injTakes (s : State) (u : Nat) : Bool :=
  if u < 0x1000 then
    let c := clove s (injKey u)
    !c.quarantined && !c.failedSpare
  else if 0x2000 ≤ u then decide (chState s (u - 0x2000) ≠ 2)
  else true

/-- MEM_INJ of unit `u` holds `v`. -/
def setInj (u v : Nat) (s : State) : State :=
  if injTakes s u then modMem s (fun m => { m with inj := sset 0 m.inj (injKey u) (injBits v) }) else s

def execMemInjArm (u v : Nat) (s : State) : Host.Outcome State Fault Refusal :=
  onUnit (isUnit u && decide (u < 0x3000)) (if hostBlock s then setInj u v s else s)

/-! ### Channel retirement (R361, R362) -/

/-- A write of HBM_RETIRE. -/
def writeRetire (v : Nat) (s : State) : State := if bitAt v 31 then startMigration (bitsAt v 8 0) s else s

def execHbmRetire (v : Nat) (s : State) : Host.Outcome State Fault Refusal :=
  .next (if hostBlock s then writeRetire v s else s)

/-- Channel `c` takes its place among the retirements of its stack. -/
def numberMoved (c : Nat) (s : State) : State :=
  let n := (s.mem.moved.filter (fun x => decide (x.1 / 32 = c / 32))).length + 1
  modMem s (fun m => { m with moved := sset 0 m.moved c n })

/-- The place of `x` in a list. -/
def placeIn (x : Nat) (l : List Nat) : Nat := (l.takeWhile (· != x)).length

/-- Unit (row, channel) of a stack's reserve takes a unit of channel `c`, the stack's first to retire (see `firstPlace`). -/
def firstTarget (c row ch : Nat) : Bool :=
  decide (liveRows ≤ row) && ch != c && decide (31 * (row - liveRows) + placeIn ch (others [c]) < liveRows)

/-- The same for channel `d`, which retires after `c` (see `secondPlace`). -/
def secondTarget (c d row ch : Nat) : Bool :=
  let head := ((others [c]).drop 25).filter (· != d)
  let last := splitRow + b2n ((others [c]).take 25 |>.contains d)
  if row = splitRow then head.contains ch && decide (placeIn ch head < last)
  else decide (splitRow < row) && ch != c && ch != d
    && decide (head.length + 30 * (row - splitRow - 1) + placeIn ch (others [c, d]) < last)

/-- A place of HBM lies in a unit of the reserve that channel `c`, retiring now, is copied into. -/
def isTarget (s : State) (c a : Nat) : Bool :=
  let row := a % stackSize / 8192
  let ch := a / 256 % 32
  decide (a < hbmEnd) && decide (a / stackSize = c / 32) &&
    match movedChannel s (c / 32) 1 with
    | some k => secondTarget k (c % 32) row ch
    | none => firstTarget (c % 32) row ch

/-- The data of a channel is copied into its stack's reserve: every unit is written whole there, so that what stood there is
gone, each half corrected, and a poisoned half poisoned (R362). -/
def moveData (c : Nat) (s : State) : State :=
  let u := 0x2000 + c
  let t := numberMoved c s
  let away (a : Nat) : Bool := decide (a < hbmEnd) && decide (chanOf a = c) && decide (phys t a ≠ a)
  let w := copyHbm u away s
  let (go, stay) := w.mem.data.partition (fun x => away x.1)
  let data := go.foldl (fun m x => sset 0#8 m (phys t x.1) x.2) (stay.filter (fun x => !isTarget s c x.1))
  let place (x : Nat × UnitFault) : Nat := x.1 % 2 ^ 44
  let inHbm (x : Nat × UnitFault) : Bool := decide (0x2000 ≤ x.1 / 2 ^ 44) && decide (x.1 / 2 ^ 44 < 0x3000)
  let moved := (w.mem.faults.filter (fun x => decide (x.1 / 2 ^ 44 = u) && away (place x))).map (fun x =>
    (faultKey (unitOf (phys t (place x))) (phys t (place x)), x.2))
  let left := w.mem.faults.filter (fun x =>
    !(inHbm x && (isTarget s c (place x) || (decide (x.1 / 2 ^ 44 = u) && away (place x)))))
  modMem (numberMoved c w) (fun m => { m with
    data := data, faults := (moved ++ left).mergeSort (fun p q => decide (p.1 ≤ q.1)) })

/-- The next marked channel of the stack migrates (R370). -/
def nextMigration (h : Nat) (s : State) : State :=
  match s.mem.migrationWaiting.find? (fun c => c / 32 == h) with
  | some c => startMigration c (modMem s (fun m => { m with migrationWaiting := m.migrationWaiting.erase c }))
  | none => s

/-- The migration of a channel ends: RETIRED, and recorded. -/
def migrated (c : Nat) (s : State) : State :=
  if chState s c ≠ 1 then s
  else
    let t := modMem (moveData c s) (fun m => { m with
      chState := sset 0 m.chState c 2, migrating := m.migrating.filter (fun x => x.channel != c) })
    let t := modSafe t (fun x => { x with ledger := { x.ledger with retired := (x.ledger.retired ++ [c]).dedup } })
    hbmReason (nextMigration (c / 32) t)

def execHbmMigrationDone (c : Nat) (s : State) : Host.Outcome State Fault Refusal :=
  onUnit (decide (c < 512)) (migrated c s)

/-! ### Scrub windows (R344) -/

def winBase (s : State) : Nat := reg8 s (safeBase + 0x1000)
def winPeriod (s : State) : Nat := reg8 s (safeBase + 0x1008) % 2 ^ 48
def winLen (s : State) : Nat := reg8 s (safeBase + 0x1010) % 2 ^ 48

/-- Arm a scrub alarm at a pair; a mark past the last pair is none. -/
def armScrub (n pair : Nat) (s : State) : State :=
  if pair < 2 ^ 64 then ownerArm n ⟨pair, 0⟩ s else disarm n s

/-- The next opening after the tally's present stamp. -/
def nextOpening (s : State) : Nat :=
  let b := winBase s
  let now := s.tally.bus.pair
  if now < b then b else b + ((now - b) / winPeriod s + 1) * winPeriod s

/-- Outside a window a running pass is forced (Table 13.10). -/
def forceHbm (hbm : Bool) (s : State) : State :=
  if s.mem.windowOpen then s
  else modMem s (fun m => if hbm then { m with forcedHbm := true } else { m with forcedSram := true })

def passOf (s : State) (hbm : Bool) : Pass := if hbm then s.mem.hbmPass else s.mem.sramPass
def modPass (hbm : Bool) (f : Pass → Pass) (s : State) : State :=
  modMem s (fun m => if hbm then { m with hbmPass := f m.hbmPass } else { m with sramPass := f m.sramPass })

/-- A pass that is running reads units now: in a window, at the forced rate, or without windows (R344). -/
def scrubbing (s : State) (hbm : Bool) : Bool :=
  (passOf s hbm).running && (s.mem.windowOpen || (passOf s hbm).atRate || decide (winPeriod s = 0))

/-- Each pass that runs outside a window sets its forced bit. -/
def noteForced (s : State) : State :=
  [false, true].foldl (fun t h => if scrubbing t h then forceHbm h t else t) s

/-- A new pass of a memory starts, unless one is running. -/
def startPass (hbm : Bool) (s : State) : State :=
  if (passOf s hbm).running then s else modPass hbm (fun x => { x with running := true, atRate := false }) s

/-- A pass starts although no window has opened. -/
def forcedStart (hbm : Bool) (s : State) : State :=
  if !s.power.main || (passOf s hbm).running then s else forceHbm hbm (startPass hbm s)

/-- The window registers have been written: alarm 480 waits for the next opening, 481 for its closing; with a period of 0 scrub
runs continuously, so a pass starts of each memory that has none (R344). -/
def rearmScrub (s : State) : State :=
  if winPeriod s = 0 then
    [false, true].foldl (fun t h => forcedStart h t) (noteForced (if s.mem.windowOpen then disarm 480 s else disarm 481 (disarm 480 s)))
  else
    let t := armScrub 480 (nextOpening s) s
    if s.mem.windowOpen then t else armScrub 481 (nextOpening s + winLen s) t

/-- Alarm 480 fires: the window opens, and the alarms of the next opening and of this closing are armed. -/
def openWindow (s : State) : State :=
  let m := (almMark s 480).pair
  let t := modMem (fireAlarm 480 s) (fun x => { x with windowOpen := true })
  let t := startPass true (startPass false t)
  if winPeriod s = 0 then t else armScrub 481 (m + winLen s) (armScrub 480 (m + winPeriod s) t)

/-- Alarm 481 fires: the window closes. -/
def closeWindow (s : State) : State :=
  noteForced (modMem (fireAlarm 481 s) (fun x => { x with windowOpen := false }))

def execScrubWindowOpen (s : State) : Host.Outcome State Fault Refusal :=
  .next (if almTurn s 480 then openWindow s else s)

def execScrubWindowClose (s : State) : Host.Outcome State Fault Refusal :=
  .next (if almTurn s 481 then closeWindow s else s)

/-! ### Scrub passes (R343, R344) -/

def execScrubForcedStart (hbm : Bool) (s : State) : Host.Outcome State Fault Refusal := .next (forcedStart hbm s)

/-- A pass that is late runs at the in-window rate until it completes. -/
def forcedRate (hbm : Bool) (s : State) : State :=
  if (passOf s hbm).running then forceHbm hbm (modPass hbm (fun x => { x with atRate := true }) s) else s

def execScrubForcedRate (hbm : Bool) (s : State) : Host.Outcome State Fault Refusal := .next (forcedRate hbm s)

/-- A pass completes; without windows the next one starts at once. -/
def passDone (hbm : Bool) (s : State) : State :=
  let t := modPass hbm (fun x => { x with
    running := false, atRate := false, lastMs := nowMs s, count := x.count + 1 }) s
  if winPeriod s = 0 then forcedStart hbm t else t

def execScrubPassComplete (hbm : Bool) (s : State) : Host.Outcome State Fault Refusal :=
  .next (if scrubbing s hbm then passDone hbm s else s)

/-- Unit `u` is among those that scrub reads (Table 13.7). -/
def scrubReads (s : State) (u : Nat) : Bool :=
  if u < 0x1000 then
    let p := injKey u
    !(clove s p).quarantined && !(clove s p).failedSpare && !tileIsOut s (p / 76)
  else if 0x2000 ≤ u ∧ u < 0x3000 then decide (chState s (u - 0x2000) ≠ 2)
  else if 0x3000 ≤ u then !tileIsOut s (u - 0x3000)
  else true

/-- Scrub reads the unit at `a`: it writes a corrected unit back, and poisons one it cannot correct (Table 13.4). -/
def scrubUnit (u a : Nat) (s : State) : State :=
  match (faultsOf s.mem u (fun x => decide (x = a))).head? with
  | none => s
  | some (_, .single) =>
    if 0x2000 ≤ u ∧ u < 0x3000 then setFault u a none (count (chanBase (u - 0x2000) + 0x10) 1 (reportCE u a s))
    else reportCE u a s
  | some _ => reportUE u a reqScrub s

def execScrubRead (u a : Nat) (s : State) : Host.Outcome State Fault Refusal :=
  onUnit (isUnit u)
    (if scrubbing s (decide (0x2000 ≤ u) && decide (u < 0x3000)) && scrubReads s u then scrubUnit u a s else s)

end Sys2Proof.Machine
end

