-- ==== Sys2Proof/Machine/Power.lean ====
section
/-! DEFINITION. Supplies, the governor, boost windows, wear, thermal limits and PMBus (chapter 15). -/

namespace Sys2Proof.Machine

/-! ### The core clock (R379, R382, R383) -/

/-- 400 MHz, 800 MHz, 1.6 GHz and 1.85 GHz in steps of 25 MHz. -/
def clockMin : Nat := 0x10
def clockHeld : Nat := 0x20
def clockBase : Nat := 0x40
def clockBoost : Nat := 0x4A

/-- A monitor holds the clock at 800 MHz or below. -/
def clockIsHeld (p : PowerSt) : Bool := p.warning || p.tripHold

/-- The clock moves; the highest of the millisecond is kept (R387). -/
def setClock (c : Nat) (s : State) : State :=
  modPower s (fun p => { p with clock := c, maxClock := max p.maxClock c })

/-- The clock as the governor's allowance and the monitors have it; a return by steps does not jump up. -/
def followAllowed (s : State) : State :=
  let p := s.power
  if clockIsHeld p then setClock (min p.allowed clockHeld) s
  else if p.returning ∧ p.clock < p.allowed then s
  else setClock p.allowed (modPower s (fun x => { x with returning := false }))

/-- The governor allows clock `a`. -/
def allow (a : Nat) (s : State) : State := followAllowed (modPower s (fun p => { p with allowed := a }))

/-! ### Boost windows (R384 to R386) -/

def planReg (i off : Nat) : Nat := govBase + 0x100 + 0x20 * i + off
def planStart (s : State) (i : Nat) : Nat := reg8 s (planReg i 0)
def planEnd (s : State) (i : Nat) : Nat := reg8 s (planReg i 8)
def planArmed (s : State) (i : Nat) : Bool := bitAt (reg4 s (planReg i 0x10)) 0
def planStatus (s : State) (i : Nat) : Nat := sget 0 s.power.boost.status i

def modBoost (s : State) (f : BoostSt → BoostSt) : State := modPower s (fun p => { p with boost := f p.boost })

/-- Entry `i` reaches DONE or DENIED with a reason: arm clears, and its alarms with it. -/
def closePlan (i status reason : Nat) (s : State) : State :=
  let t := disarm (449 + 2 * i) (disarm (448 + 2 * i) s)
  let t := setReg4 t (planReg i 0x10) (setBit (reg4 t (planReg i 0x10)) 0 false)
  modBoost t (fun b => { b with status := sset 0 b.status i status, reason := sset 0 b.reason i reason })

/-- The steward restarts from the other slot (R366). -/
def restartSteward (s : State) : State :=
  modSafe s (fun x => { x with steward := { x.steward with restarting := true, switchReq := false } })

/-- A switch that waited for the window to end (R370). -/
def runSwitch (s : State) : State := if s.safe.steward.switchReq then restartSteward s else s

/-- The open window ends (R386). -/
def endWindow (reason : Nat) (s : State) : State :=
  let b := s.power.boost
  if !b.opened then s
  else
    let len := nowUs s - b.openedAt
    let t := closePlan b.entry 2 reason s
    let t := modBoost t (fun x => { x with
      opened := false, closedAt := some (nowUs s), lastReason := reason, lastLen := len })
    let t := allow (min t.power.allowed clockBase) t
    runSwitch (raiseEv { code := 0x0E, arg0 := reason, arg1 := len } t)

/-- The steward's registers answer, and it acts (R366). -/
def stewardUp (s : State) : Bool := s.safe.steward.booted && !s.safe.steward.restarting

/-- The governor block takes writes (R395, R414). -/
def govTakes (s : State) : Bool := hostBlock s && stewardUp s

/-- A write of a plan entry's arm bit arms or disarms its two alarms. -/
def writePlanArm (i : Nat) (arm : Bool) (s : State) : State :=
  let put (t : State) : State := setReg4 t (planReg i 0x10) (setBit (reg4 t (planReg i 0x10)) 0 arm)
  let mark (k : Nat) (t : State) : State := modBoost t (fun b => { b with status := sset 0 b.status i k })
  if arm = planArmed s i then s
  else if arm then
    mark 1 (put (ownerArm (449 + 2 * i) ⟨planEnd s i, 0⟩ (ownerArm (448 + 2 * i) ⟨planStart s i, 0⟩ s)))
  else mark 0 (put (disarm (449 + 2 * i) (disarm (448 + 2 * i) s)))

def execBoostPlanArm (i : Nat) (arm : Bool) (s : State) : Host.Outcome State Fault Refusal :=
  onUnit (decide (i < 16)) (if govTakes s then writePlanArm i arm s else s)

/-- Wear used past 90 %, in half-milliseconds (R387). -/
def wearLimit : Nat := 12960000000

/-- The bus: the higher of the voltages of the blades that feed, less those that the blocking stage holds off (R377). -/
def busOf (p : PowerSt) : Nat := max (if p.outA then 0 else p.vinA) (if p.outB then 0 else p.vinB)

/-- The monitors read the blades. -/
def readBlades (a b : Nat) (p : PowerSt) : PowerSt :=
  let q := { p with vinA := a, vinB := b }
  { q with bus := busOf q }

/-- The bus has fallen to `mv`: no blade that feeds reads more, and one reads it. -/
def sagTo (mv : Nat) (p : PowerSt) : PowerSt :=
  let q := readBlades (if p.outA then p.vinA else min p.vinA mv) (if p.outB then p.vinB else min p.vinB mv) p
  if q.bus = mv then q
  else { readBlades (if p.outA then p.vinA else mv) (if p.outB then p.vinB else mv) p with bus := mv }

/-- What the monitors measure is reported (Table 15.18); coolant is held against Table 15.15. -/
def sense (m : Sense) (s : State) : State :=
  modPower s (fun p => { readBlades m.vinA m.vinB p with
    iinA := m.iinA, iinB := m.iinB, pin10ms := m.pin10ms
    pin60s := m.pin60s, jmax := m.jmax, jdie := m.jdie, coolIn := m.coolIn, coolOut := m.coolOut, flow := m.flow
    coolantOut := !(decide (150 ≤ m.coolIn) && decide (m.coolIn ≤ 400) && decide (120 ≤ m.flow) && decide (m.flow ≤ 300)) })

/-- The first condition of R385 that fails at the start mark of entry `i`, by its code of Table 15.12. -/
def denial (s : State) (i : Nat) (m : Sense) (avg58 : Nat) : Option Nat :=
  let b := s.power.boost
  let since := match b.closedAt with
    | some c => nowUs s - c
    | none => 8000000
  if planEnd s i ≤ planStart s i ∨ passed s ⟨planEnd s i, 0⟩ then some 0x01
  else if !bitAt (reg4 s govBase) 0 ∨ s.safe.life.state ≠ 2 then some 0x0A
  else if wearLimit < s.safe.ledger.wear then some 0x07
  else if s.power.outA ∨ s.power.outB then some 0x0B
  else if s.power.warning then some 0x06
  else if 400 < m.coolIn ∨ m.flow < 120 then some 0x09
  else if 400 ≤ m.jmax then some 0x05
  else if s.safe.steward.restarting then some 0x0C
  else if b.opened ∨ since < 8000000 ∨ 7430 < avg58 then some 0x03
  else none

/-- The start mark of entry `i` fires: a window opens, or the entry is denied. -/
def startMark (i : Nat) (m : Sense) (avg58 : Nat) (s : State) : State :=
  let t := sense m (fireAlarm (448 + 2 * i) s)
  match denial s i m avg58 with
  | some r => closePlan i 3 r t
  | none => modBoost t (fun b => { b with opened := true, entry := i, openedAt := nowUs s, closedAt := none })

def execBoostStartMark (i : Nat) (m : Sense) (avg58 : Nat) (s : State) : Host.Outcome State Fault Refusal :=
  onUnit (decide (i < 16))
    (if almTurn s (448 + 2 * i) then startMark i m avg58 s else s)

/-- The end mark of entry `i` fires. -/
def endMark (i : Nat) (s : State) : State :=
  let t := fireAlarm (449 + 2 * i) s
  if s.power.boost.entry = i then endWindow 0x01 t else t

def execBoostEndMark (i : Nat) (s : State) : Host.Outcome State Fault Refusal :=
  onUnit (decide (i < 16)) (if almTurn s (449 + 2 * i) then endMark i s else s)

def execBoostDurationExpire (s : State) : Host.Outcome State Fault Refusal := .next (endWindow 0x02 s)

/-- A write of GOV_CTRL.boost_en; 0 ends an open window. -/
def writeBoostEn (v : Bool) (s : State) : State :=
  let t := setReg4 s govBase (setBit (reg4 s govBase) 0 v)
  if v then t else endWindow 0x0A t

def execGovBoostEnWrite (v : Bool) (s : State) : Host.Outcome State Fault Refusal :=
  .next (if govTakes s then writeBoostEn v s else s)

/-- A write of GOV_CTRL.cancel. -/
def cancelWindow (s : State) : State := endWindow 0x0A s

def execGovCancel (s : State) : Host.Outcome State Fault Refusal :=
  .next (if govTakes s then cancelWindow s else s)

/-! ### The module without main power (R397, Table 16.1) -/

/-- Half-milliseconds that a millisecond at its highest clock adds (Table 15.13). -/
def wearWeight (c : Nat) : Nat := if c ≤ 0x40 then 0 else if c ≤ 0x44 then 2 else if c ≤ 0x48 then 3 else 4

/-- The ledger with the wear of the millisecond that is under way: it ends with main power or with a reset (R387). -/
def wornLedger (s : State) : Ledger :=
  let l := s.safe.ledger
  { l with clock := stewardMs s, wear := l.wear + (if s.power.main then wearWeight s.power.maxClock else 0) }

/-- What a module reset leaves: every register at its reset value, every memory wiped. The service die keeps its
ledger, images and life cycle, the host its memory and AER, and the pins and sensors what they measure. -/
def cleared (s : State) : State :=
  let p := s.power
  { s with
    resp := .none
    time := ⟨0, 0⟩
    mem := { MemSt.empty with
      remap := s.mem.remap.map (fun x => (x.1, (x.2.filter (·.valid)).map (fun e => { e with origin := 2 })))
      moved := s.mem.moved.filter (fun x => s.safe.ledger.retired.contains x.1) }
    reg := RegSt.empty
    host := { HostSt.empty with mem := s.host.mem, bad := s.host.bad, perstLow := s.host.perstLow, aer := s.host.aer }
    comp := ComputeSt.empty
    step := StepSt.empty
    tally := { TallySt.empty with
      a := s.tally.a, b := s.tally.b, faultA := s.tally.faultA, faultB := s.tally.faultB, faultSer := s.tally.faultSer
      faultZ := s.tally.faultZ }
    ports := []
    link := LinkSt.empty
    safe := { SafeSt.empty with
      ledger := wornLedger s
      steward := { s.safe.steward with ucodeStatus := 0, ucodePending := none, switchReq := false }
      life := { s.safe.life with window := [], result := 0 } }
    power := { PowerSt.empty with
      aux := p.aux, cause := p.cause, mateA := p.mateA, mateB := p.mateB, polarityA := p.polarityA
      polarityB := p.polarityB, outA := p.outA, outB := p.outB, vinA := p.vinA, vinB := p.vinB, bus := p.bus
      shutdown := p.shutdown, jmax := p.jmax, jdie := p.jdie, coolIn := p.coolIn, coolOut := p.coolOut, flow := p.flow
      coolantOut := p.coolantOut, pmbusFault := p.pmbusFault }
    test := { TestSt.empty with jtagIr := s.test.jtagIr, jtagCells := s.test.jtagCells } }

/-- The main converters turn off, silently, and the cause is recorded (R379, R383, R388). -/
def mainOff (cause : Nat) (s : State) : State :=
  if !s.power.main then s
  else modPower (cleared s) (fun p => { p with cause := cause })

/-! ### Dips (R379) -/

/-- A core rail may leave regulation in a dip, and PWR_OK goes low with it: whether one does is a free value (R392; log 133). -/
def railsInDip (s : State) : State :=
  modPower { s with free := s.free + 1 } (fun p => { p with ok := p.ok && (Config.freeWord s.free).getLsbD 0 })

/-- Entering warning; a fall during qualification is part of the same dip. -/
def warn (mv : Nat) (s : State) : State :=
  if !s.power.main then s
  else if s.power.warning then modPower (railsInDip s) (fun p => { sagTo mv p with qualifying := false })
  else
    let t := modPower (railsInDip s) (fun p => { sagTo mv p with
      warning := true, qualifying := false, dipStart := nowUs s, returning := false })
    let t := endWindow 0x06 (followAllowed t)
    raiseEv { code := 0x0C, unit := 2, arg0 := mv } (count (govBase + 0x30) 1 t)

def execSupplyWarning (mv : Nat) (s : State) : Host.Outcome State Fault Refusal := .next (warn mv s)

/-- The bus rises above the release threshold. -/
def qualStart (s : State) : State :=
  if s.power.warning then modPower s (fun p => { p with qualifying := true, qualStart := nowUs s }) else s

def execSupplyQualStart (s : State) : Host.Outcome State Fault Refusal := .next (qualStart s)

def qualAbandon (s : State) : State := modPower s (fun p => { p with qualifying := false })

def execQualificationAbandoned (s : State) : Host.Outcome State Fault Refusal := .next (qualAbandon s)

/-- The dip has ended: PWR_RECOVER, every rail is in regulation, the limits of a blade lost in it apply, and the clock returns by
steps. -/
def recover (s : State) : State :=
  if !(s.power.warning && s.power.qualifying) then s
  else
    let p := s.power
    let t := modPower s (fun x => { x with
      warning := false, qualifying := false, ok := true, lostInDip := false, returning := decide (x.clock < x.allowed) })
    raiseEv { code := 0x0D, unit := 2, arg0 := p.qualStart - p.dipStart, arg1 := ctr s (govBase + 0x30) } t

def execSupplyRecover (s : State) : Host.Outcome State Fault Refusal := .next (recover s)

/-- One step of the return; while the steward restarts the clock holds its setting (R396). -/
def returnStep (s : State) : State :=
  let p := s.power
  if stewardUp s ∧ p.returning ∧ !clockIsHeld p ∧ p.clock < p.allowed then
    modPower (setClock (p.clock + 1) s) (fun x => { x with returning := decide (p.clock + 1 < p.allowed) })
  else s

def execClockReturnStep (s : State) : Host.Outcome State Fault Refusal := .next (returnStep s)

def execBrownOut (s : State) : Host.Outcome State Fault Refusal := .next (mainOff 1 s)

def execOverVoltage (s : State) : Host.Outcome State Fault Refusal := .next (mainOff 2 s)

def execOvercurrentReset (s : State) : Host.Outcome State Fault Refusal := .next (mainOff 3 s)

/-! ### Blades (R378, R381) -/

/-- A blade is lost, or found so: its mate is open, it is reversed, or it sags; its MATE pin reads low unless it is open
(R372, R381). -/
def loseBlade (bladeB : Bool) (mv : Nat) (reversed open_ : Bool) (s : State) : State :=
  let was := if bladeB then s.power.outB else s.power.outA
  let t := modPower s (fun p =>
    if bladeB then readBlades p.vinA mv { p with mateB := !open_, polarityB := reversed, outB := true }
    else readBlades mv p.vinB { p with mateA := !open_, polarityA := reversed, outA := true })
  if was ∨ !s.power.main then t
  else
    let t := modPower t (fun p =>
      let q := { p with lostInDip := p.lostInDip || p.warning }
      if bladeB then { q with bladeLostB := true } else { q with bladeLostA := true })
    raiseEv { code := 0x0C, unit := b2n bladeB, arg0 := mv } (endWindow 0x0B t)

def execBladeLoss (bladeB : Bool) (mv : Nat) (reversed open_ : Bool) (s : State) : Host.Outcome State Fault Refusal :=
  .next (loseBlade bladeB mv reversed open_ s)

/-- A blade returns at `mv`; the dip length that its PWR_RECOVER carries is a free value (log 60). -/
def returnBlade (bladeB : Bool) (mv : Nat) (s : State) : State :=
  let was := if bladeB then s.power.outB else s.power.outA
  let t := modPower s (fun p =>
    if bladeB then readBlades p.vinA mv { p with mateB := true, polarityB := false, outB := false }
    else readBlades mv p.vinB { p with mateA := true, polarityA := false, outA := false })
  if !was ∨ !s.power.main then t
  else raiseEv { code := 0x0D, unit := b2n bladeB, arg0 := (Config.freeWord s.free).toNat % 2 ^ 32,
                 arg1 := ctr s (govBase + 0x30) } { t with free := s.free + 1 }

def execBladeReturn (x : BladeIn) (s : State) : Host.Outcome State Fault Refusal := .next (returnBlade x.bladeB x.mv s)

/-! ### The governor (R382) -/

/-- One blade alone runs the module. -/
def singleBlade (p : PowerSt) : Bool := p.outA != p.outB

/-- The limits of single-blade operation apply: for a blade lost in a dip, from its recovery on (R381, R396). -/
def singleLimit (p : PowerSt) : Bool := singleBlade p && !p.lostInDip

/-- Governed limits in 0.1 A: both blades together, and either. -/
def limitAll (p : PowerSt) : Nat := if singleLimit p then 1250 else 2400
def limitBlade (p : PowerSt) : Nat := if singleLimit p then 1250 else 1300

def currentOver (p : PowerSt) : Bool :=
  decide (limitAll p < p.iinA + p.iinB) || decide (limitBlade p < p.iinA) || decide (limitBlade p < p.iinB)

/-- Every current is below 95 % of its limit. -/
def currentLow (p : PowerSt) : Bool :=
  decide (100 * (p.iinA + p.iinB) < 95 * limitAll p) && decide (100 * p.iinA < 95 * limitBlade p)
    && decide (100 * p.iinB < 95 * limitBlade p)

/-- The limit by which the governor holds its allowance (Table 15.20). -/
def limiterOf (p : PowerSt) (over9k : Bool) : Nat :=
  if p.thermal then 3
  else if currentOver p then (if singleLimit p then 5 else 2)
  else if over9k then 1
  else if clockBase ≤ p.allowed then 0
  else p.limiter

/-- GOV_STAT.limiter: what holds the clock, a monitor before the governor. -/
def limiterNow (p : PowerSt) : Nat := if p.warning then 4 else if p.tripHold then 2 else p.limiter

/-- Input power is over: its 10 ms average, or the 60 s average that a window has brought up (R382; log 120). -/
def powerOver (p : PowerSt) : Bool := decide (7500 < p.pin10ms) || decide (7500 < p.pin60s)

/-- One evaluation outside windows; the clock rises only while neither average stands in its way. -/
def governSustained (s : State) : State :=
  let p := s.power
  let a := p.allowed
  let t :=
    if powerOver p || currentOver p then allow (max clockMin (a - 1)) s
    else if decide (p.pin10ms < 7200) && decide (p.pin60s < 7500) && currentLow p && !p.thermal && decide (a < clockBase)
      then allow (a + 1) s
    else s
  modPower t (fun x => { x with limiter := limiterOf x (powerOver p) })

/-- One evaluation inside a window (R385). -/
def governWindow (m : Sense) (s : State) : State :=
  let p := s.power
  if 420 ≤ m.jmax then endWindow 0x05 s
  else if 7500 ≤ m.pin60s then endWindow 0x03 s
  else
    let over9k := decide (9500 < m.pin10us)
    let t := if over9k || currentOver p then allow (max clockMin (p.allowed - 1)) s
      else if p.allowed < clockBoost ∧ !p.thermal then allow (p.allowed + 1) s
      else s
    modPower t (fun x => { x with limiter := limiterOf x over9k })

def govern (m : Sense) (s : State) : State :=
  if !(s.power.main && stewardUp s) then s
  else
    let t := sense m s
    if s.power.boost.opened then governWindow m t else governSustained t

def execGovernorEvaluate (m : Sense) (s : State) : Host.Outcome State Fault Refusal := .next (govern m s)

/-! ### Current and temperature (R383, R388) -/

/-- The on-die monitor trips at 250 A. -/
def currentTrip (s : State) : State :=
  if !s.power.main then s
  else endWindow 0x04 (followAllowed (modPower s (fun p => { p with tripHold := true, currentTrip := true })))

def execCurrentLimitTrip (s : State) : Host.Outcome State Fault Refusal := .next (currentTrip s)

/-- The current has stayed below 240 A: the governor's steps go on from the present clock. -/
def currentRestore (s : State) : State :=
  if !s.power.tripHold then s
  else
    let p := s.power
    modPower s (fun x => { x with
      tripHold := false
      allowed := if p.warning ∨ p.returning then p.allowed else p.clock })

def execCurrentRestore (s : State) : Host.Outcome State Fault Refusal := .next (currentRestore s)

/-- The dies of THERM_JMAX (Table 15.18). -/
def dieCodes : List Nat := List.range 25 ++ (List.range 16).map (32 + ·)

/-- The hottest sensor reads `jmax`; of which die a new reading is, a free value (log 133). -/
def readHottest (jmax : Nat) (s : State) : State :=
  if s.power.jmax = jmax then s
  else modPower { s with free := s.free + 1 } (fun p => { p with
    jmax := jmax, jdie := dieCodes.getD ((Config.freeWord s.free).toNat % 41) 0 })

/-- One step of the thermal throttle, in units of 0.25 °C: down at 105 °C or HBM 95 °C, up below 100 °C and 90 °C, which waits
for a steward that restarts (R396). Without main power the sensors are read alone (Table 15.14). -/
def throttle (jmax hbmMax : Nat) (s : State) : State :=
  if !s.power.main then (if s.power.aux then readHottest jmax s else s)
  else
    let t := readHottest jmax s
    let a := s.power.allowed
    if 420 ≤ jmax ∨ 380 ≤ hbmMax then
      let t := endWindow 0x05 t
      let t := modPower t (fun p => { p with thermal := true })
      let t := allow (max clockMin (min t.power.allowed a - 1)) t
      modPower t (fun p => { p with limiter := limiterOf p false })
    else if stewardUp s ∧ s.power.thermal ∧ jmax < 400 ∧ hbmMax < 360 then
      let t := if a < clockBase then allow (a + 1) t else t
      modPower t (fun p => { p with
        thermal := decide (p.allowed < clockBase)
        limiter := limiterOf { p with thermal := decide (p.allowed < clockBase) } false })
    else t

def execThermalThrottle (jmax hbmMax : Nat) (s : State) : Host.Outcome State Fault Refusal :=
  .next (throttle jmax hbmMax s)

def thermalOff (s : State) : State :=
  if s.power.main then modPower (mainOff 4 s) (fun p => { p with shutdown := true }) else s

def execThermalShutdown (s : State) : Host.Outcome State Fault Refusal := .next (thermalOff s)

/-- Coolant has stayed out of the limits that windows need. -/
def coolantLost (coolIn flow : Nat) (s : State) : State :=
  let t := modPower s (fun p => { p with
    coolIn := coolIn, flow := flow
    coolantOut := !(decide (150 ≤ coolIn) && decide (coolIn ≤ 400) && decide (120 ≤ flow) && decide (flow ≤ 300)) })
  if 400 < coolIn ∨ flow < 120 then endWindow 0x09 t else t

def execCoolantOut (coolIn flow : Nat) (s : State) : Host.Outcome State Fault Refusal :=
  .next (coolantLost coolIn flow s)

/-! ### Wear (R387) -/

/-- Per mille of the ledger's rating that remain. -/
def wearLeft (used : Nat) : Nat := (14400000000 - used) * 1000 / 14400000000

/-- A millisecond of wear; past 90 % boost is disabled for good. In safe stop no clock is held from the next millisecond on. -/
def wearTick (s : State) : State :=
  if !s.power.main then s
  else
    let l := s.safe.ledger
    let used := l.wear + wearWeight s.power.maxClock
    let first := decide (wearLimit < used) && !l.wearRaised
    let t := modPower s (fun p => { p with maxClock := if coreRuns s then p.clock else 0 })
    let t := modSafe t (fun x => { x with ledger := { x.ledger with wear := used, wearRaised := l.wearRaised || first } })
    if first then replaceReq 3 (raiseEv { code := 0x0F, arg0 := wearLeft used } (endWindow 0x07 t)) else t

def execWearLedgerUpdate (s : State) : Host.Outcome State Fault Refusal := .next (wearTick s)

/-! ### PMBus (R394, log 13) -/

/-- The 7-bit addresses at which the steward answers SMB and PMB, from the strap pins (R376). The commands below are those
that reach PMB at its address. -/
def smbAddress : Nat := 0x40 + Config.strap.toNat
def pmbAddress : Nat := 0x58 + Config.strap.toNat

/-- PMB answers while auxiliary power is up and the steward runs. -/
def pmbus (r : Nat) (s : State) : State := if s.power.aux && stewardUp s then answer (.word r) s else s

def execReadVin (s : State) : Host.Outcome State Fault Refusal := .next (pmbus s.power.bus s)

def execReadIin (s : State) : Host.Outcome State Fault Refusal := .next (pmbus (s.power.iinA + s.power.iinB) s)

def execReadPin (s : State) : Host.Outcome State Fault Refusal := .next (pmbus s.power.pin10ms s)

def execReadTemperature1 (s : State) : Host.Outcome State Fault Refusal := .next (pmbus s.power.jmax s)

def execReadTemperature2 (s : State) : Host.Outcome State Fault Refusal := .next (pmbus s.power.coolIn s)

def execStatusWord (s : State) : Host.Outcome State Fault Refusal :=
  .next (pmbus (Config.pmbusStatus 0 s.power.pmbusFault) s)

def execStatusInput (s : State) : Host.Outcome State Fault Refusal :=
  .next (pmbus (Config.pmbusStatus 1 s.power.pmbusFault) s)

def execStatusTemperature (s : State) : Host.Outcome State Fault Refusal :=
  .next (pmbus (Config.pmbusStatus 2 s.power.pmbusFault) s)

/-- Fault status is cleared: what the status commands report from now on is another free value. -/
def clearFaults (s : State) : State :=
  if s.power.aux && stewardUp s then modPower s (fun p => { p with pmbusFault := p.pmbusFault + 1 }) else s

def execClearFaults (s : State) : Host.Outcome State Fault Refusal := .next (clearFaults s)

end Sys2Proof.Machine
end

