-- ==== Sys2Proof/Machine/Tally.lean ====
section
/-! DEFINITION. The tally: its sources, states, faults and registers (chapter 09, R421, R437). -/

namespace Sys2Proof.Machine

/-! ### Registers (Table 17.7) -/

def tctl (s : State) : Nat := reg4 s tallyBase

/-- TALLY_CTRL.src: 0 NONE, 1 QUAD, 2 SERIAL, 3 FABRIC. -/
def tsrc (s : State) : Nat := bitsAt (tctl s) 1 0
def bidir (s : State) : Bool := bitAt (tctl s) 2
def zCheck (s : State) : Bool := bitAt (tctl s) 4
def zRealign (s : State) : Bool := bitAt (tctl s) 5
def tMaster (s : State) : Bool := bitAt (tctl s) 6
def presetAtZ (s : State) : Bool := bitAt (tctl s) 7
def fabricPort (s : State) : Nat := bitsAt (tctl s) 21 16
def cpi (s : State) : Nat := reg4 s (tallyBase + 0xC)
def zoff (s : State) : Nat := reg4 s (tallyBase + 0x10)

/-- TALLY_HOLD in reference ticks. -/
def holdTicks (s : State) : Nat := 800 * bitsAt (reg4 s (tallyBase + 8)) 19 0

/-- The largest pair (R220). -/
def lastPair : Nat := 2 ^ 64 - 1

/-- A stamp in units of 1/256 count, and back; the pair never wraps. A value beyond either end, which an extrapolation or a compensated
stamp can have, is the end itself, and is no count of R220, so that it raises nothing: DESIGN CHOICE, see log 137. -/
def fine (a : Stamp) : Int := (a.pair : Int) * 256 + a.frac
def ofFine (n : Int) : Stamp :=
  let k := (max 0 (min n ((lastPair : Int) * 256 + 255))).toNat
  ⟨k / 256, k % 256⟩

/-- 1.024 ms in reference ticks. -/
def rateSpan : Nat := 819200

/-- The decoder and the receivers see J20. -/
def tallyLive (s : State) : Bool := s.power.main && !s.tally.testBusy

/-- The tally follows its source. -/
def following (s : State) : Bool := decide (s.tally.state = .tracking) || decide (s.tally.state = .reverseHold)

/-! ### The present stamp (R225, R227, R230) -/

/-- The rate of R227 as it was at time `t`: counts, and the ticks in which they came. -/
def rateAt (t : Nat) (s : State) : Int × Nat :=
  let y := s.tally
  if y.state = .holdover then (y.rateN, y.rateD)
  else
    let span := if y.state = .tracking ∧ t - y.since < rateSpan then t - y.since else rateSpan
    -- a tally that follows stamps has advanced since the last one
    let since := match y.state, y.stamps with
      | .tracking, (_, a) :: _ => if y.counts.isEmpty then 0 else (y.now.pair : Int) - a.pair
      | _, _ => 0
    let n := since + (y.counts.filter (fun c => decide (c.at_ ≤ t) &&
        (decide (t < c.at_ + span) || decide (c.at_ + span = t ∧ span < rateSpan)))).foldl
      (fun a c => a + c.step) (0 : Int)
    if span = 0 then (0, 1) else (n, span)

/-- The rate now. -/
def rateNow (s : State) : Int × Nat := rateAt s.time.refTicks s

/-- The interpolated fraction of a quadrature count: 256 e / P, at most 255. -/
def quadFrac (s : State) : Nat :=
  match s.tally.edges with
  | e0 :: e1 :: l =>
    let k := l.length + 1
    let p := e0 - (l.getLast?.getD e1)
    let e := s.time.refTicks - e0
    if e = 0 then 0 else if p = 0 then 255 else min 255 (256 * e * k / p)
  | _ => 0

/-- The stamp that the last two accepted ones predict for time `t`, in 1/256 count. -/
def predicted (y : TallySt) (t : Nat) : Option Int :=
  match y.stamps with
  | [] => none
  | [(_, a)] => some (fine a)
  | (t1, a) :: (t0, b) :: _ =>
    if t1 ≤ t0 then some (fine a)
    else some (fine a + (fine a - fine b) * (t - t1 : Nat) / (t1 - t0 : Nat))

/-- The tally between accepted stamps: at their rate, and never to the next predicted one, which is due as long after the last as that
was after the one before: DESIGN CHOICE, see log 140 (R225). -/
def betweenStamps (y : TallySt) (t : Nat) : Stamp :=
  match y.stamps, predicted y t with
  | (t1, a) :: (t0, b) :: _, some v =>
    let next := fine a + (fine a - fine b)
    if t1 ≤ t0 then y.now
    else if fine b ≤ fine a then ofFine (max (fine y.now) (min v (next - 1)))
    else ofFine (min (fine y.now) (max v (next + 1)))
  | _, _ => y.now

/-- The extrapolated tally of a holdover; it stops when the holdover time has run out. -/
def heldOver (s : State) : Stamp :=
  let y := s.tally
  let t := min s.time.refTicks (y.since + holdTicks s)
  ofFine (fine y.holdFrom + 256 * y.rateN * (t - y.holdAt : Nat) / y.rateD)

/-- The tally brought to the present tick. -/
def refresh (s : State) : State :=
  let y := s.tally
  match y.state with
  | .tracking =>
    if tsrc s = 1 then
      if y.behind = 0 then modTally s (fun z => { z with now := ⟨y.now.pair, quadFrac s⟩ }) else s
    else modTally s (fun z => { z with now := betweenStamps y s.time.refTicks })
  | .holdover => modTally s (fun z => { z with now := heldOver s })
  | _ => s

/-! ### Changes of state -/

def enter (x : TState) (s : State) : State := modTally s (fun y => { y with
  state := x, since := s.time.refTicks
  deferRecal := decide (x ≠ .tracking) && (y.deferRecal || decide (x = .off) || decide (x = .lost)) })

/-- Into LOST (R230, R236, R386). -/
def enterLost (s : State) : State :=
  let t := count (tallyBase + 0x58) 1 (enter .lost (refresh s))
  endWindow 0x08 (passGates (raiseEv { code := 0x09 } t))

/-- Into HOLDOVER from stamp `a` at time `t`, at the rate measured at time `r` (R229, R230): in monotonic mode the rate
is never below 0. -/
def enterHoldover (cause t r : Nat) (a : Stamp) (s : State) : State :=
  let (n, d) := rateAt r s
  let u := modTally s (fun y => { y with
    cause := cause, holdAt := t, holdFrom := a, now := a, rateN := if bidir s then n else max 0 n, rateD := d
    behind := 0, depth := 0, accepted := 0, failing := [] })
  let u := count (tallyBase + 0x54) 1 (enter .holdover u)
  let u := refresh (raiseEv { code := 0x0B, arg0 := cause } u)
  if holdTicks s = 0 then enterLost u else u

/-- Recovery (R231): TRACKING again, and TALLY_HOLDOVER with cause RECOVER. -/
def recovered (s : State) : State := raiseEv { code := 0x0B, arg0 := 6 } (enter .tracking s)

/-- A quadrature source recovers: counting goes on from the present tally, and the index has to be found again. -/
def quadRecovered (s : State) : State :=
  recovered (modTally (refresh s) (fun y => { y with
    resync := true, cause := 0, behind := 0, depth := 0, edges := [], counts := [], sinceZ := 0 }))

/-- TALLY_REVERSED, with the source (Table 9.2-a). -/
def reversed (s : State) : State := raiseEv { code := 0x0A, arg0 := tsrc s } s

/-- A new episode of REVERSE_HOLD of depth `d`; the tally holds with fraction 0 (R228, R421). -/
def enterReverse (d : Nat) (s : State) : State :=
  let t := modTally s (fun y => { y with depth := d, revDepth := min d max32, now := ⟨y.now.pair, 0⟩ })
  reversed (enter .reverseHold t)

/-! ### Quadrature (R220, R222, R223, R227, R228) -/

/-- A count is remembered for the rate and the interpolator. -/
def noteCount (d : Int) (s : State) : State :=
  let t := s.time.refTicks
  modTally s (fun y => { y with
    counts := ⟨t, d, y.now.pair, y.edges.head?.getD y.since⟩ :: y.counts.filter (fun c => decide (t < c.at_ + 2 * rateSpan))
    edges := (t :: y.edges).take 17
    sinceZ := y.sinceZ + 1 })

/-- A count up. -/
def countUp (s : State) : State :=
  let y := s.tally
  if y.state = .reverseHold ∨ 0 < y.behind then
    let t := modTally s (fun z => { z with
      behind := y.behind - 1, depth := if y.state = .reverseHold then y.depth - 1 else y.depth })
    if y.behind ≤ 1 ∧ y.state = .reverseHold then enter .tracking t else t
  else if y.now.pair = lastPair then enterLost (modTally s (fun z => { z with cause := 0 }))
  else modTally s (fun z => { z with now := ⟨y.now.pair + 1, 0⟩, zeroRaised := false })

/-- A count down. -/
def countDown (s : State) : State :=
  let y := s.tally
  if y.state = .reverseHold then
    modTally s (fun z => { z with
      behind := y.behind + 1, depth := y.depth + 1, revDepth := min (max y.revDepth (y.depth + 1).toNat) max32 })
  else if !bidir s then enterReverse 1 (modTally s (fun z => { z with behind := y.behind + 1 }))
  else if y.now.pair = 0 then
    let t := modTally s (fun z => { z with now := ⟨0, 0⟩, zeroRaised := true })
    if y.zeroRaised then t else reversed t
  else modTally s (fun z => { z with now := ⟨y.now.pair - 1, 0⟩ })

/-- One step of the source in the sequence of R222; the tally counts it while it follows a sound pair of inputs. -/
def quadCount (up : Bool) (s : State) : State :=
  if !following s || s.tally.faultA || s.tally.faultB then s
  else
    let t := noteCount (if up then 1 else -1) s
    if up then countUp t else countDown t

/-- A and B have come to new accepted levels. -/
def quadEdge (a b : Bool) (s : State) : State :=
  let y := s.tally
  let t := modTally (refresh s) (fun z => { z with a := a, b := b })
  if !tallyLive s || decide (tsrc s ≠ 1) then modTally s (fun z => { z with a := a, b := b })
  else if y.a ≠ a ∧ y.b ≠ b then
    count (tallyBase + 0x40) 1 (modTally t (fun z => { z with
      quadErr := true
      illegal := s.time.refTicks :: z.illegal.filter (fun u => decide (s.time.refTicks < u + rateSpan)) }))
  else if y.a = a ∧ y.b = b then s
  else
    -- 00, 10, 11, 01: A leads; dir exchanges A and B
    let lead := if y.a ≠ a then decide (a ≠ b) else decide (a = b)
    quadCount (lead != bitAt (tctl s) 3) t

def execQuadEdge (a b : Bool) (s : State) : Host.Outcome State Fault Refusal := .next (settle s (quadEdge a b s))

/-! ### Presets and the index (R221, R223) -/

/-- A preset sets the pair; below the present pair only while src is NONE. -/
def applyPreset (p : Nat) (s : State) : State :=
  if tsrc s ≠ 0 ∧ p < s.tally.now.pair then modTally s (fun y => { y with presetErr := true })
  else
    let t := modTally s (fun y => { y with
      now := ⟨p, 0⟩, behind := 0, depth := 0, edges := [], zeroRaised := false, holdAt := s.time.refTicks
      holdFrom := ⟨p, 0⟩, failing := []
      stamps := if y.stamps.isEmpty then [] else [(s.time.refTicks, ⟨p, 0⟩)] })
    if s.tally.state = .reverseHold then enter .tracking t else t

/-- An alarm that a preset in OFF passes fires: a governor alarm by its own command (log 62). -/
def fireOff (s : State) (n : Nat) : State :=
  if n < 448 then fireAlarm n s
  else if n = 480 then openWindow s
  else if n = 481 then closeWindow s
  else if n < 480 then modTally s (fun y => { y with passedOff := y.passedOff ++ [n] })
  else s

/-- What a preset in OFF passes fires. -/
def fireDue (d : Due) (s : State) : State :=
  match d with
  | .alarm n => fireOff s n
  | .gate i => releaseGate i s
  | .deadline b t => if deadlineDue s b t then fireTree b t s else s

/-- A preset in OFF forms one stamp, and every mark that it passes fires, in order (R233, R238). -/
def presetOff (s : State) : State :=
  let t := modTally s (fun y => { y with bus := y.now, forming := true })
  modTally ((dueMarks t).foldl (fun u d => fireDue d.2 u) t) (fun y => { y with forming := false })

/-- A write of TALLY_PRESET. A preset that waits for a Z pulse is held to the pair at the write, and to that at the pulse as well: DESIGN
CHOICE, see log 138 (R221). -/
def writePreset (p : Nat) (s : State) : State :=
  let t := refresh s
  if presetAtZ s then
    if tsrc s ≠ 0 ∧ p < t.tally.now.pair then modTally t (fun y => { y with presetErr := true })
    else modTally t (fun y => { y with preset := some p })
  else
    let u := applyPreset p t
    if s.tally.state = .off then settle s (presetOff u) else u

def execTallyPreset (p : Nat) (s : State) : Host.Outcome State Fault Refusal :=
  .next (if hostBlock s then writePreset (p % 2 ^ 64) s else s)

/-- How far the pair `d` lies below, and above, the nearest pairs whose count is congruent to `z` modulo `n`: a count beyond
either end of its 48 bits lies in another epoch (R219, R220, R223). -/
def indexUp (c n z : Nat) : Nat :=
  let k := (z % n + n - c % n) % n
  if c + k < 2 ^ 48 then k else 2 ^ 48 - c + z % n
def indexDown (c n z : Nat) : Nat :=
  let k := (c % n + n - z % n) % n
  if k ≤ c then k else c + 1 + (2 ^ 48 - 1 - z % n) % n

/-- The move of a realignment of the pair `d`: up, or down, to the nearest count that the index allows; the upper of two. -/
def realignBy (d : Int) (n z : Nat) : Nat × Nat :=
  let c := (d % 2 ^ 48).toNat
  let up := indexUp c n z
  let down := indexDown c n z
  if d + up ≤ lastPair ∧ (up ≤ down ∨ d < down) then (up, 0) else if (down : Int) ≤ d then (0, down) else (0, 0)

/-- The count of the decoder: below the tally while that holds (R223, R228). -/
def decoded (y : TallySt) : Int := (y.now.pair : Int) - y.behind
def decodedCount (y : TallySt) : Nat := (decoded y % 2 ^ 48).toNat

/-- The decoded count moves to `d`: the tally follows it up, or down in bidirectional mode; otherwise it holds, with
fraction 0, until the decoder reaches it, and a REVERSE_HOLD ends when it does (R223). -/
def moveCount (d : Int) (s : State) : State :=
  let y := s.tally
  let n := (max 0 (min d (lastPair : Int))).toNat
  if (y.now.pair : Int) ≤ d ∨ bidir s then
    let t := modTally s (fun z => { z with now := ⟨n, 0⟩, behind := 0, depth := 0, zeroRaised := false })
    if y.state = .reverseHold then enter .tracking t else t
  else
    let depth := if y.state = .reverseHold then y.depth - (d - decoded y) else y.depth
    modTally s (fun z => { z with
      behind := ((y.now.pair : Int) - d).toNat, now := ⟨y.now.pair, 0⟩, depth := depth
      revDepth := if y.state = .reverseHold then min (max y.revDepth depth.toNat) max32 else y.revDepth })

/-- The index comes where the count says it cannot be right: the count moves to the nearest that is. -/
def realign (s : State) : State :=
  let y := s.tally
  let (up, down) := realignBy (decoded y) (cpi s) (zoff s)
  let t := modTally s (fun z => { z with resync := false })
  if up = 0 ∧ down = 0 then t else moveCount (decoded y + up - down) t

/-- Z checks run: the tally follows its source, a pair of Z that is sound, and an index that repeats (R229, R421). -/
def zChecks (s : State) : Bool :=
  tallyLive s && decide (tsrc s = 1) && following s && zCheck s && decide (cpi s ≠ 0) && !s.tally.faultZ

/-- A Z error: counted, and resync_needed set. -/
def zError (s : State) : State := count (tallyBase + 0x48) 1 (modTally s (fun y => { y with resync := true }))

/-- A preset that waits for Z is loaded. -/
def loadPreset (s : State) : State :=
  match s.tally.preset with
  | some p =>
    let u := applyPreset p (modTally s (fun y => { y with preset := none }))
    if s.tally.state = .off then presetOff u else u
  | none => s

/-- The count at a rising edge of Z is held against the index, and moved if an earlier error asked for it (R223). -/
def checkZ (s : State) : State :=
  if !zChecks s then s
  else
    let u := if decodedCount s.tally % cpi s ≠ zoff s then zError s else s
    if zRealign s ∧ s.tally.resync then realign u else u

/-- A rising edge of Z: a preset that waits for it is loaded first (log 123). -/
def zPulse (s : State) : State :=
  if !tallyLive s then s else checkZ (loadPreset (modTally (refresh s) (fun y => { y with sinceZ := 0 })))

def execZPulse (s : State) : Host.Outcome State Fault Refusal := .next (settle s (zPulse s))

/-- A run of 1.5 times TALLY_CPI counts without Z. -/
def zMissing (s : State) : State :=
  if zChecks s ∧ 3 * cpi s ≤ 2 * s.tally.sinceZ then zError (modTally s (fun y => { y with sinceZ := 0 })) else s

def execZMissing (s : State) : Host.Outcome State Fault Refusal := .next (zMissing s)

/-! ### Serial and fabric (R224 to R226, R231) -/

/-- The CRC of R224, one bit at a time. -/
def crcStep (c : Nat) (b : Bool) : Nat :=
  let d := c * 2 % 2 ^ 16
  if bitAt c 15 != b then d ^^^ 0x1021 else d

/-- The CRC of the 80 bits from type to fraction. -/
def frameCrc (ftype flags epoch count frac : Nat) : Nat :=
  let w := (((ftype * 16 + flags) * 2 ^ 16 + epoch) * 2 ^ 48 + count) * 256 + frac
  (List.range 80).foldl (fun c k => crcStep c (bitAt w (79 - k))) 0xFFFF

/-- Advance of the tally by an accepted stamp, for the rate of R227. -/
def noteAdvance (old new : Stamp) (s : State) : State :=
  let t := s.time.refTicks
  modTally s (fun y => { y with
    counts := ⟨t, (new.pair : Int) - old.pair, old.pair, t⟩ ::
      y.counts.filter (fun c => decide (t < c.at_ + 2 * rateSpan)) })

/-- The tally takes a stamp that it does not hold against. -/
def setStamp (st : Stamp) (s : State) : State :=
  let t := modTally s (fun z => { z with now := st, depth := 0 })
  if s.tally.state = .tracking then t else enter .tracking t

/-- An accepted stamp sets the tally, unless it is below it in monotonic mode (R225, R228). -/
def takeStamp (st : Stamp) (s : State) : State :=
  let y := s.tally
  let d := y.now.pair - st.pair
  if stampGe st y.now ∨ bidir s then setStamp st s
  else if y.state = .reverseHold then
    modTally s (fun z => { z with depth := d, revDepth := min (max y.revDepth d) max32 })
  else enterReverse d s

/-- The value up to which the advance of a tally that follows stamps is noted: the value it holds, or the last accepted one. -/
def notedTo (y : TallySt) : Stamp := if y.state = .reverseHold then y.now else (y.stamps.head?.map (·.2)).getD y.now

/-- The advance of a tally that follows its source: to the stamp, or to the value at which it comes to hold (R227, R228). -/
def noteStamp (st : Stamp) (s : State) : State :=
  let y := s.tally
  if stampGe st y.now ∨ bidir s then noteAdvance (notedTo y) st s
  else if y.state = .reverseHold then s else noteAdvance (notedTo y) y.now s

/-- An accepted frame or message: the third in a row acquires the source; a source that recovers says so, with cause
RECOVER. Until the third the tally stays as it is, and the state too, HOLDOVER or LOST for a source that was lost (R225, R231): DESIGN
CHOICE, see log 139. -/
def acceptStamp (st : Stamp) (s : State) : State :=
  let y := s.tally
  let note (u : State) : State := modTally u (fun z => { z with
    stamps := (s.time.refTicks, st) :: y.stamps.take 1, failing := [], accepted := y.accepted + 1 })
  if following s then takeStamp st (note (noteStamp st s))
  else if y.accepted + 1 < 3 then note s
  else if y.state = .acquiring then takeStamp st (note s)
  else takeStamp st (raiseEv { code := 0x0B, arg0 := 6 } (modTally (note s) (fun z => { z with cause := 0 })))

/-- Three stamps agree in rate to within 1 %. -/
def agree (a b c : Nat × Stamp) : Bool :=
  let x := (fine b.2 - fine a.2) * (c.1 - b.1 : Nat)
  let y := (fine c.2 - fine b.2) * (b.1 - a.1 : Nat)
  decide (100 * (x - y).natAbs ≤ max x.natAbs y.natAbs)

/-- A frame or message that is not used. -/
def rejectStamp (failing : List (Nat × Stamp)) (s : State) : State :=
  count (tallyBase + 0x44) 1 (modTally s (fun y => { y with failing := failing, accepted := 0 }))

/-- A frame or message is accepted or rejected; `sound` is its CRC and type, and `heard` what else an accepted one tells. -/
def receiveStamp (sound : Bool) (st : Stamp) (heard : State → State) (s : State) : State :=
  let s := refresh s
  let y := s.tally
  let t := s.time.refTicks
  let p := ((predicted y t).getD (fine y.now)) / 256
  if !sound then rejectStamp [] s
  else if ((st.pair : Int) - p).natAbs ≤ 2 ^ 20 then acceptStamp st (heard s)
  else
    match y.failing with
    | b :: a :: _ => if agree a b (t, st) then acceptStamp st (heard s) else rejectStamp [(t, st), b] s
    | l => rejectStamp ((t, st) :: l) s

/-- A serial frame has come in. -/
def serialFrame (ftype flags epoch count frac crc : Nat) (s : State) : State :=
  if !tallyLive s || s.tally.faultSer || decide (tsrc s ≠ 2) then s
  else
    let sound := decide (crc = frameCrc ftype flags epoch count frac) && decide (ftype = 1)
    receiveStamp sound ⟨epoch % 2 ^ 16 * 2 ^ 48 + count % 2 ^ 48, frac % 256⟩ id s

def execSerialFrame (ftype flags epoch count frac crc : Nat) (s : State) : Host.Outcome State Fault Refusal :=
  .next (settle s (serialFrame ftype flags epoch count frac crc s))

/-- The smallest of the last delays, doubled, in ticks. -/
def minDelay (s : State) : Nat :=
  match s.tally.delays with
  | [] => 0
  | d :: l => l.foldl min d

/-- A rate in counts per µs over half of `d` ticks, in 1/256 count. -/
def rateOver (w d : Nat) : Int :=
  match fp32Num w with
  | .fin neg m e =>
    let n : Int := if neg then -((m * 256 * d : Nat) : Int) else ((m * 256 * d : Nat) : Int)
    if 0 ≤ e then n * 2 ^ e.toNat / 1600 else n / (1600 * 2 ^ (-e).toNat)
  | _ => 0

/-- A TICK that its port delivers is compensated, and taken as a stamp. -/
def fabricTick (p : Nat) (m : TallyMsg) (s : State) : State :=
  if !s.power.main || decide (tsrc s ≠ 3) || decide (p ≠ fabricPort s) || decide (63 < m.hop) then s
  else
    receiveStamp true (ofFine (fine ⟨m.pair, m.frac⟩ + rateOver m.rate (minDelay s)))
      (modTally · (fun y => { y with
        upstream := bitAt m.flags 0, upReverse := bitAt m.flags 1, hop := m.hop, master := m.master })) s

def execFabricTick (p : Nat) (m : TallyMsg) (s : State) : Host.Outcome State Fault Refusal :=
  onUnit (decide (p < 48)) (settle s (fabricTick p m s))

/-- The rate as FP32, in counts per µs (R226, R241). -/
def rateWord (s : State) : Nat :=
  let (n, d) := rateNow s
  fRnd ((ofInt (n * 800) 0).div (ofInt d 0))

/-- Kinds of tally message (log 61). -/
def kindTick : Nat := 0
def kindPing : Nat := 1
def kindEcho : Nat := 2

/-- A tally message of this module. -/
def tallyMsg (s : State) (hop t2 t3 : Nat) : TallyMsg :=
  let y := s.tally
  { pair := y.now.pair, frac := y.now.frac, rate := rateWord s, sender := nodeId s
    master := if tMaster s then nodeId s else y.master, hop := hop
    flags := b2n (decide (y.state = .holdover) || y.upstream) + 2 * b2n (decide (y.state = .reverseHold) || y.upReverse)
    t2 := t2, t3 := t3 }

/-- Send a tally message on a port, on VC5. -/
def sendTally (p kind : Nat) (m : TallyMsg) (s : State) : State :=
  sendMsg ⟨5, (port s p).farNode, some p, 0, .tally kind m⟩ s

/-- A PING is answered on its port. -/
def answerPing (p : Nat) (m : TallyMsg) (s : State) : State :=
  if !s.power.main || decide (63 < m.hop) then s
  else
    let t := refresh s
    sendTally p kindEcho (tallyMsg t 0 s.time.refTicks s.time.refTicks) t

def execFabricPing (p : Nat) (m : TallyMsg) (s : State) : Host.Outcome State Fault Refusal :=
  onUnit (decide (p < 48)) (answerPing p m s)

/-- An ECHO of the PING that is outstanding measures the delay. -/
def takeEcho (p : Nat) (m : TallyMsg) (s : State) : State :=
  match s.tally.pingAt with
  | some t1 =>
    if tsrc s ≠ 3 ∨ p ≠ fabricPort s ∨ 63 < m.hop then s
    else modTally s (fun y => { y with
      delays := ((s.time.refTicks - t1 - (m.t3 - m.t2)) :: y.delays).take 8, pingAt := none })
  | none => s

def execFabricEcho (p : Nat) (m : TallyMsg) (s : State) : Host.Outcome State Fault Refusal :=
  onUnit (decide (p < 48)) (if s.power.main then takeEcho p m s else s)

/-- Every 1 ms a PING goes to the source. -/
def sendPing (s : State) : State :=
  if !s.power.main || decide (tsrc s ≠ 3) then s
  else
    let t := refresh s
    sendTally (fabricPort s) kindPing (tallyMsg t 0 0 0) (modTally t (fun y => { y with pingAt := some s.time.refTicks }))

def execPingTimer (s : State) : Host.Outcome State Fault Refusal := .next (sendPing s)

/-- Ports of the relay mask (R421). -/
def relayPorts (s : State) : List Nat :=
  ((List.range 6).filter (fun k => bitAt (reg4 s (tallyBase + 0x34)) k)).map (42 + ·)

/-- Every 1 µs a master sends its own tally, and a relay the one it follows; a tally that has stopped sends none. -/
def sendTicks (s : State) : State :=
  let y := s.tally
  let hop := if tMaster s then 0 else y.hop + 1
  if !s.power.main || !marksFire s || !(tMaster s || (decide (tsrc s = 3) && decide (y.state ≠ .acquiring))) then s
  else
    let t := refresh s
    (relayPorts s).foldl (fun u p => sendTally p kindTick (tallyMsg t hop 0 0) u) t

def execTickSendTimer (s : State) : Host.Outcome State Fault Refusal := .next (sendTicks s)

/-! ### Faults (R229 to R231) -/

/-- Counts taken since the pair entered the window are discarded: the last count before them, its time and its pair. -/
def lastSound (s : State) : Nat × Stamp :=
  let t := s.time.refTicks
  match (s.tally.counts.filter (fun c => decide (t < c.at_ + 800))).getLast? with
  | some c => (c.prev, ⟨c.before, 0⟩)
  | none => (s.tally.edges.head?.getD s.tally.since, ⟨s.tally.now.pair, 0⟩)

/-- The discarded counts go. -/
def dropCounts (s : State) : State :=
  let t := s.time.refTicks
  modTally s (fun y => { y with
    counts := y.counts.filter (fun c => !decide (t < c.at_ + 800))
    edges := y.edges.filter (fun e => !decide (t < e + 800)) })

/-- The last accepted stamp and its time. -/
def lastStamp (s : State) : Nat × Stamp := (s.tally.stamps.head?).getD (s.time.refTicks, s.tally.now)

/-- Where a holdover of stamps starts: at the last accepted one, or, for a tally that holds, at the value it holds. -/
def holdStart (s : State) : Nat × Stamp :=
  if s.tally.state = .reverseHold then (s.time.refTicks, s.tally.now) else lastStamp s

/-- A pair's voltage has stayed in the window for 1 µs: 0 A, 1 B, 2 Z, 3 SER. -/
def pairFault (k : Nat) (s : State) : State :=
  let t := refresh s
  let u := modTally t (fun y =>
    match k with
    | 0 => { y with faultA := true }
    | 1 => { y with faultB := true }
    | 2 => { y with faultZ := true }
    | _ => { y with faultSer := true })
  if !tallyLive s || !following s then u
  else if k ≤ 1 ∧ tsrc s = 1 then
    let (at_, a) := lastSound t
    enterHoldover (k + 1) at_ (u.time.refTicks - 800) a (dropCounts u)
  else if k = 3 ∧ tsrc s = 2 then
    let (at_, a) := holdStart t
    enterHoldover 3 at_ u.time.refTicks a u
  else u

def execPairFault (k : Nat) (s : State) : Host.Outcome State Fault Refusal :=
  onUnit (decide (k < 4)) (settle s (if s.power.main then pairFault k s else s))

/-- A pair has stayed outside the window for 1 µs. -/
def pairRestore (k : Nat) (s : State) : State :=
  let u := modTally s (fun y =>
    match k with
    | 0 => { y with faultA := false }
    | 1 => { y with faultB := false }
    | 2 => { y with faultZ := false }
    | _ => { y with faultSer := false })
  let y := u.tally
  if tsrc s ≠ 1 ∨ y.faultA ∨ y.faultB then u
  else if y.state = .acquiring then enter .tracking u
  else if (y.state = .holdover ∨ y.state = .lost) ∧ (y.cause = 1 ∨ y.cause = 2) then quadRecovered u
  else u

def execPairRestore (k : Nat) (s : State) : Host.Outcome State Fault Refusal :=
  onUnit (decide (k < 4)) (settle s (if s.power.main then pairRestore k s else s))

/-- Illegal transitions of the last 1.024 ms. -/
def illegalNow (s : State) : Nat :=
  (s.tally.illegal.filter (fun u => decide (s.time.refTicks < u + rateSpan))).length

/-- More than 16 of them: HOLDOVER from the last legal count. -/
def illegalLimit (s : State) : State :=
  if !tallyLive s || decide (tsrc s ≠ 1) || !following s || decide (illegalNow s ≤ 16) then s
  else enterHoldover 4 (s.tally.edges.head?.getD s.tally.since) s.time.refTicks ⟨s.tally.now.pair, 0⟩ s

def execIllegalLimit (s : State) : Host.Outcome State Fault Refusal := .next (settle s (illegalLimit s))

/-- A full 1.024 ms with at most 16. -/
def illegalRecover (s : State) : State :=
  let y := s.tally
  if tallyLive s ∧ (y.state = .holdover ∨ y.state = .lost) ∧ y.cause = 4 ∧ illegalNow s ≤ 16 then quadRecovered s else s

def execIllegalRecover (s : State) : Host.Outcome State Fault Refusal := .next (settle s (illegalRecover s))

/-- No accepted frame or message for 4 µs. -/
def framesTimeout (s : State) : State :=
  if !tallyLive s || decide (tsrc s < 2) || !following s then s
  else
    let (at_, a) := holdStart s
    enterHoldover 5 at_ s.time.refTicks a s

def execFramesTimeout (s : State) : Host.Outcome State Fault Refusal := .next (settle s (framesTimeout s))

/-- The holdover time has run out. -/
def holdoverExpire (s : State) : State := if s.tally.state = .holdover then enterLost s else s

def execHoldoverExpire (s : State) : Host.Outcome State Fault Refusal := .next (settle s (holdoverExpire s))

/-! ### The bus and the registers (R232, R241, R437) -/

/-- A stamp goes out on the tally bus; OFF and LOST form none. -/
def busStamp (s : State) : State :=
  if s.power.main ∧ s.tally.state ≠ .off ∧ s.tally.state ≠ .lost then
    modTally (refresh s) (fun y => { y with bus := (refresh s).tally.now })
  else s

def execTallyBusStamp (s : State) : Host.Outcome State Fault Refusal := .next (busStamp s)

/-- A source is selected (R221, R238). -/
def setSrc (v : Nat) (s : State) : State :=
  if v = tsrc s then s
  else
    let t := refresh s
    let t := setReg4 t tallyBase (tctl s / 4 * 4 + v)
    let t := modTally t (fun y => { y with
      upstream := false, upReverse := false, behind := 0, depth := 0, stamps := [], failing := [], accepted := 0
      edges := [], counts := [], illegal := [], cause := 0, sinceZ := 0, delays := [], pingAt := none, hop := 0, master := 0, passedOff := [] })
    if v = 0 then endWindow 0x08 (passGates (enter .off t))
    else if v = 1 ∧ !t.tally.faultA ∧ !t.tally.faultB then enter .tracking t
    else enter .acquiring t

/-- A write of TALLY_CTRL.src; during the self-test it waits for the end. -/
def writeSrc (v : Nat) (s : State) : State :=
  if s.tally.testBusy then modTally s (fun y => { y with srcPending := some (v % 4) }) else setSrc (v % 4) s

def execTallyCtrlSrc (v : Nat) (s : State) : Host.Outcome State Fault Refusal :=
  .next (if hostBlock s then settle s (writeSrc v s) else s)

/-- A read of TALLY_NOW_LO latches the rest of the stamp (R241). -/
def latchNow (s : State) : State :=
  let t := refresh s
  modTally t (fun y => { y with nowHi := y.now.pair / 2 ^ 32, nowFrac := y.now.frac })

def readNowLo (s : State) : State :=
  let t := latchNow s
  answer (.word (t.tally.now.pair % 2 ^ 32)) t

def execTallyNowLoRead (s : State) : Host.Outcome State Fault Refusal :=
  .next (if hostBlock s then readNowLo s else s)

/-- A write of ALM_CTRL by software (R234, R235): one that disarms an alarm which is due fires it. -/
def writeAlmCtrl (n v : Nat) (s : State) : State :=
  if 448 ≤ n then s
  else
    let c := almCtrl s n
    let was := bitAt c 8
    let arm := bitAt v 8
    let frac := if was then c % 256 else v % 256
    let fired := bitAt c 9 && !bitAt v 9
    let base := frac + 2 ^ 8 * b2n arm + 2 ^ 9 * b2n fired + 2 ^ 11 * b2n (bitAt v 11) + 2 ^ 16 * bitsAt v 22 16
    let late := (bitAt c 10 && !bitAt v 10) || (arm && !was && passed s ⟨reg8 s (almReg n 0), frac⟩)
    let t := setReg4 (if arm then s else forget n s) (almReg n 8) (base + 2 ^ 10 * b2n late)
    if !arm && almFires s n then fireAlarm n t else t

/-- A write of ALM_MARK by software, with the pair that it makes; ignored while the alarm is armed. -/
def writeAlmMark (n v : Nat) (s : State) : State :=
  if 448 ≤ n ∨ almArmed s n then s else setReg8 s (almReg n 0) v

/-- The write that arms an alarm sets bit 8. -/
def execAlmArm (n v : Nat) (s : State) : Host.Outcome State Fault Refusal :=
  onUnit (decide (n < 512)) (if hostBlock s then writeAlmCtrl n (setBit v 8 true) s else s)

/-- The write that disarms an alarm clears bit 8. -/
def execAlmDisarm (n v : Nat) (s : State) : Host.Outcome State Fault Refusal :=
  onUnit (decide (n < 512)) (if hostBlock s then writeAlmCtrl n (setBit v 8 false) s else s)

/-- TALLY_TEST.go, while src is NONE. -/
def testGo (s : State) : State :=
  if tsrc s = 0 ∧ !s.tally.testBusy then modTally s (fun y => { y with testBusy := true }) else s

def execTallyTestGo (s : State) : Host.Outcome State Fault Refusal := .next (if hostBlock s then testGo s else s)

/-- The self-test ends: its result, and a source written meanwhile. -/
def testDone (pass : Nat) (s : State) : State :=
  if !s.tally.testBusy then s
  else
    let t := modTally s (fun y => { y with testBusy := false, testPass := pass % 16, srcPending := none })
    match s.tally.srcPending with
    | some v => setSrc v t
    | none => t

def execTallyTestDone (pass : Nat) (s : State) : Host.Outcome State Fault Refusal := .next (settle s (testDone pass s))

end Sys2Proof.Machine
end

