-- ==== Sys2Proof/Machine/Ports.lean ====
section
/-! DEFINITION. Berquel ports: states and training, flits, replay, credits, routing, delivery, lane sparing, recalibration, Peppermill; and the firing of alarms, which may start a recalibration (chapter 11, R321 to R323, R431 to R433). -/

namespace Sys2Proof.Machine

/-! ### Ports and lanes -/

def lane (x : Port) (n : Nat) : Lane := sget (Lane.at_ n) x.lanes n
def modLane (p n : Nat) (f : Lane → Lane) (s : State) : State :=
  modPort s p (fun x => { x with lanes := smod (Lane.at_ n) x.lanes n f })

/-- Lanes as a list of what each is, the canonical form. -/
def lanesFrom (f : Nat → Lane) : Sparse Lane :=
  ((List.range 9).map (fun n => (n, f n))).filter (fun l => decide (l.2 ≠ Lane.at_ l.1))
def pmOf (x : Port) (n : Nat) : Pm := sget Pm.empty x.pm n
def modPm (p n : Nat) (f : Pm → Pm) (s : State) : State :=
  modPort s p (fun x => { x with pm := smod Pm.empty x.pm n f })

/-- Roles of a lane (Table 11.8). -/
def roleData : Nat := 0
def roleSpare : Nat := 1
def roleFailed : Nat := 2
def roleTraining : Nat := 3

def portLanes (f : Lane → Bool) (x : Port) : List Nat := (List.range 9).filter (fun n => f (lane x n))

def isUp (x : Port) : Bool := decide (x.state = 6)

/-- Data lanes in service, in the receive direction. -/
def dataLanes (x : Port) : List Nat := if 3 ≤ x.state then portLanes (fun l => decide (l.role = roleData)) x else []

/-- The lane that is the spare, in either direction. -/
def spareOf (x : Port) : Option Nat := (portLanes (fun l => decide (l.role = roleSpare)) x).head?
def txSpareOf (x : Port) : Option Nat := (portLanes (fun l => decide (l.txRole = roleSpare)) x).head?

/-- The spare carries data, in either direction: it covers a failed lane, or a lane in training has left it its place. -/
def spareCarries (x : Port) : Bool :=
  x.spareFault || x.txFault || (decide (3 ≤ x.state) && !(portLanes (fun l => l.role == roleTraining || l.txRole == roleTraining) x).isEmpty)

/-- PORT_STAT.spare_in_use follows the lanes. -/
def noteSpare (p : Nat) (s : State) : State := modPort s p (fun x => { x with spareInUse := spareCarries x })

/-- Send lanes in the order of the rotation, and the order once lane `k` has lane `n`'s place (R281, R287, R288). -/
def rotationOf (x : Port) : List Nat := if x.order.isEmpty then List.range 9 else x.order
def takePlace (n k : Nat) (x : Port) : Port :=
  { x with order := ((rotationOf x).filter (· != k)).map (fun m => if m = n then k else m) }

/-- PORT_CTRL. -/
def pctl (s : State) (p : Nat) : Nat := reg4 s (portBase p)

/-! ### The buffers of a port (R327, R333, R334) -/

/-- An injected fault of a link tile's buffer (log 79): a line that is written now may be one at which an injection is armed, or
one that holds a fault; which, if any, is a free value. -/
def bufferWrite (p : Nat) (s : State) : Option Nat × State :=
  let u := 0x1000 + p / 6
  let v := sget 0 s.mem.inj (injKey u)
  let held := (faultsOf s.mem u (fun _ => true)).map (·.1)
  let cand := if bitAt v 0 then v / 2 ^ 32 / 64 * 64 :: held else held
  if cand.isEmpty then (none, s)
  else
    let w := (Config.freeWord s.free).toNat
    let t := { s with free := s.free + 1 }
    match cand[w % (cand.length + 1)]? with
    | some a => (some a, writeUnit u t a)
    | none => (none, t)

/-- An error flit in the place of a lost one (R334): a DATA flit of length 0. -/
def errorBytes (n : Nat) : List Byte := leBytes 4 0x0E44 ++ leBytes 4 n
def errorFlit (f : Flit) : Flit :=
  { f with kind := 1, eom := true, length := 0, payload := .error f.length, data := errorBytes f.length }

/-- A flit is read from the buffer line `a` of port `p`'s link tile: as it was, or an error flit (Table 13.4). -/
def readLine (p a : Nat) (f : Flit) (s : State) : Flit × State :=
  let u := 0x1000 + p / 6
  match (faultsOf s.mem u (fun x => decide (x = a))).head? with
  | none => (f, s)
  | some (_, .single) => (f, reportCE u a s)
  | some _ => (errorFlit f, reportUE u a (reqLink p) s)

/-- Memory errors of buffer lines that a wipe empties go with what the lines held (Table 13.9). -/
def wipeLines (p : Nat) (ls : List Nat) (s : State) : State :=
  if s.mem.faults.isEmpty then s else ls.foldl (fun t a => setFault (0x1000 + p / 6) a none t) s

/-- Buffer lines of port `p` that are known to hold a flit. -/
def linesOf (x : Port) : List Nat := (x.rxLine ++ x.txLine).map (·.2)

/-- The `q`-th flit that lane `n` keeps is read from the replay buffer: one that cannot be read becomes an error flit, with the flit's
vc_seq (Table 13.4). -/
def readKept (p n q : Nat) (s : State) : State :=
  let x := port s p
  match (lane x n).replay[q]? with
  | none => s
  | some f =>
    match x.txLine.find? (fun y => y.1 == (n, f.laneSeq)) with
    | none => s
    | some y =>
      let (g, t) := readLine p y.2 f s
      if g = f then t
      else modPort (modLane p n (fun l => { l with replay := l.replay.set q g }) t) p (fun z => { z with
        txLine := z.txLine.filter (fun w => w.1 != (n, f.laneSeq)) })

/-- All that lane `n` keeps is read, to leave its buffer. -/
def readReplay (p n : Nat) (s : State) : State :=
  if (port s p).txLine.isEmpty then s
  else
    let t := (List.range (lane (port s p) n).replay.length).foldl (fun u q => readKept p n q u) s
    modPort t p (fun x => { x with txLine := x.txLine.filter (fun z => z.1.1 != n) })

/-- What lane `n` has to send: the flits that it keeps, and those that wait to be sent on it. -/
def keptOn (x : Port) (n : Nat) : List Flit := (lane x n).replay ++ (lane x n).todo

/-! ### Enabling and training (R283 to R285) -/

/-- Classes of VCs and their partition in LNK_POOL (Tables 8.5, 17.13): VCs, high bit, low bit. -/
def poolClasses : List (List Nat × Nat × Nat) :=
  [([1], 10, 0), ([2], 21, 11), ([3, 4, 7], 32, 22), ([0, 5, 6], 54, 44)]

/-- With port `p`, the credit pools of a link tile fit their partitions. -/
def creditsFit (s : State) (p : Nat) : Bool :=
  let k := p / 6
  poolClasses.all (fun c =>
    decide (creditBytes s (p :: enabledPorts s k) c.1 ≤ bitsAt (reg8 s (linkBase k + 0x18)) c.2.1 c.2.2 * 262144))

/-- A write of enable = 1: to DOWN, or refused for credit (R422). Peppermill gives the port's lanes back. -/
def enablePort (p : Nat) (s : State) : State :=
  if (port s p).state ≠ 0 then s
  else if creditsFit s p then
    setReg4 (modPort s p (fun x => { x with
      state := 1, pm := x.pm.map (fun y => (y.1, { y.2 with owned := false, locked := false })) }))
      (portBase p) (setBit (pctl s p) 0 true)
  else modLink s (fun l => { l with creditErr := (l.creditErr ++ [p / 6]).dedup })

def execPortEnable (p : Nat) (s : State) : Host.Outcome State Fault Refusal :=
  onUnit (decide (p < 48)) (if hostBlock s then enablePort p s else s)

/-- A write of enable = 0: DISABLED, with the port's wipe (Table 13.9). -/
def disablePort (p : Nat) (s : State) : State :=
  if (port s p).state = 0 then s
  else
    let t := wipeLines p (linesOf (port s p)) s
    setReg4 (setPort t p { Port.empty with pm := (port s p).pm }) (portBase p) (setBit (pctl s p) 0 false)

def execPortDisable (p : Nat) (s : State) : Host.Outcome State Fault Refusal :=
  onUnit (decide (p < 48)) (if hostBlock s then disablePort p s else s)

/-- Flits kept by the lanes, to be resent by vc_seq: LCTRL flits end with their lanes. -/
def keptFlits (x : Port) : List Flit :=
  (x.lanes.flatMap (fun l => l.2.replay ++ l.2.todo)).filter (fun f => decide (f.kind = 1))

/-- `a` comes before `b` in the order of one VC. -/
def vcBefore (a b : Flit) : Bool := decide (a.vc < b.vc) || (decide (a.vc = b.vc) && decide ((b.vcSeq + 65536 - a.vcSeq) % 65536 < 32768))

/-- The port goes to DOWN and keeps its replay and reorder state (Table 11.11): what its lanes keep is read from their buffers. -/
def portDown (p : Nat) (s : State) : State :=
  modPort ((List.range 9).foldl (fun t n => readReplay p n t) s) p (fun x => { x with
    state := 1, moved := (keptFlits x ++ x.moved.filter (fun f => decide (f.kind = 1))).mergeSort vcBefore
    lanes := [], keeping := true, spareFault := false, txFault := false, spareInUse := false, permuted := false
    order := [], txLine := [], recal := none, recalTx := none, pm := x.pm.map (fun y => (y.1, { y.2 with owned := false, locked := false })) })

/-- A write of PORT_CTRL.retrain. -/
def retrainPort (p : Nat) (s : State) : State := if (port s p).state = 0 then s else portDown p s

def execPortRetrain (p : Nat) (s : State) : Host.Outcome State Fault Refusal :=
  onUnit (decide (p < 48)) (if hostBlock s then retrainPort p s else s)

/-- Detect in DOWN: a driver is a conflict, a termination leads to TRAIN. -/
def detect (p : Nat) (termination driver : Bool) (s : State) : State :=
  if (port s p).state ≠ 1 ∨ s.safe.stop then s
  else
    let t := modPort s p (fun x => { x with txConflict := driver })
    if driver ∨ !termination then t
    else count (portBase p + 0x24) 1 (modPort t p (fun x => { x with
      state := 2, lanes := lanesFrom (fun _ => { Lane.empty with role := roleTraining, txRole := roleTraining }) }))

def execPortDetect (p : Nat) (termination driver : Bool) (s : State) : Host.Outcome State Fault Refusal :=
  onUnit (decide (p < 48)) (detect p termination driver s)

/-- A port has had its spare take a failed lane's place: the ledger keeps it, and four such ports ask for replacement
(R287, Table 14.5). -/
def recordPort (p : Nat) (s : State) : State :=
  let t := modSafe s (fun x => { x with ledger := { x.ledger with ports := (x.ledger.ports ++ [p]).dedup } })
  if 4 ≤ t.safe.ledger.ports.length then replaceReq 1 t else t

/-- LINK_LANE_SPARE (R285, R286). -/
def laneEvent (p n : Nat) (s : State) : State := raiseEv { code := 0x12, unit := p, arg0 := n } s

/-- Roles when `good` lanes are in service: the first eight carry data, a ninth is the spare, the others are failed. -/
def roleAt (good : List Nat) (n : Nat) : Nat :=
  if !good.contains n then roleFailed else if (good.take 8).contains n then roleData else roleSpare

/-- A payload of `n` bytes that no rule lays out (log 64). -/
def openBytes (k : Nat) (fields : List Nat) (n : Nat) : List Byte := (List.range n).map (Config.msgByte k fields)

/-- LCTRL messages of a port's lanes (log 65): 1 LANE_FAIL, 2 RECAL_REQ, 3 RECAL_ACK, 4 RECAL_DONE. They leave in the order in
which they were formed, before any other flit. -/
def sendLctrl (p code n : Nat) (s : State) : State :=
  let f : Flit := ⟨2, 0, false, 0, 0, false, 0, 0, logicalNode s, 0, 2, 0, 0, 0, .lctrl code n, openBytes 10 [code, n] 2⟩
  modPort s p (fun x => { x with
    moved := x.moved.takeWhile (fun g => g.kind == 2) ++ [f] ++ x.moved.dropWhile (fun g => g.kind == 2) })

/-- Lanes that failed in training: the spare fills the place of one (`covered`), and each raises its event and is told to the
sender (R285, R286). -/
def lanesFailed (p : Nat) (bad : List Nat) (covered : Bool) (s : State) : State :=
  let t := if covered then
      let u := modPort s p (fun x => { x with spareFault := true })
      if (port s p).spareFault then u else recordPort p u
    else s
  noteSpare p (bad.foldl (fun u n => sendLctrl p 1 n (laneEvent p n u)) t)

/-- Training ends: `trained` and `inverted` by lane, `arrived` the receive pair of each. The send direction is the far side's to
judge: it begins with lanes 0 to 7 and lane 8 as the spare (R274, log 69). -/
def trainDone (p trained inverted : Nat) (arrived : List Nat) (s : State) : State :=
  if (port s p).state ≠ 2 then s
  else
    let good := (List.range 9).filter (bitAt trained)
    let bad := (List.range 9).filter (fun n => !bitAt trained n)
    if good.isEmpty then modPort s p (fun x => { x with state := 1, lanes := [] })
    else
      let t := modPort s p (fun x => { x with
        state := 3
        permuted := good.any (fun n => decide (arrived.getD n n ≠ n))
        order := List.range 8
        lanes := lanesFrom (fun n => { Lane.at_ n with
          role := roleAt good n, pair := arrived.getD n n % 16, inverted := bitAt inverted n }) })
      lanesFailed p bad (good.contains 8 && !bad.isEmpty) t

def execPortTrainDone (p trained inverted : Nat) (arrived : List Nat) (s : State) : Host.Outcome State Fault Refusal :=
  onUnit (decide (p < 48)) (trainDone p trained inverted arrived s)

/-- Lanes that lock go on; one that does not has lost FEC lock. -/
def alignDone (p locked : Nat) (s : State) : State :=
  let x := port s p
  if x.state ≠ 3 then s
  else
    let was := portLanes (fun l => decide (l.role ≠ roleFailed)) x
    let good := was.filter (bitAt locked)
    if good.isEmpty then modPort s p (fun y => { y with state := 1, lanes := [] })
    else
      let t := modPort s p (fun y => { y with
        state := 4
        lanes := (List.range 9).foldl (fun l n => smod (Lane.at_ n) l n (fun v => { v with role := roleAt good n })) y.lanes })
      lanesFailed p (was.filter (fun n => !bitAt locked n))
        ((spareOf x).any (fun k => decide (roleAt good k = roleData))) t

def execPortAlignDone (p locked : Nat) (s : State) : Host.Outcome State Fault Refusal :=
  onUnit (decide (p < 48)) (alignDone p locked s)

/-- Flits kept since the port went down are discarded, and with them its credits and the sequence of every VC (Table 13.9). -/
def dropKept (p : Nat) (s : State) : State :=
  modPort (wipeLines p (linesOf (port s p)) s) p (fun x => { x with
    moved := x.moved.filter (fun f => decide (f.kind = 2)), reorder := [], vcSeqTx := [], vcSeqRx := [], credit := []
    freed := [], crSeen := [], keeping := false, broken := [], inflow := [], rxLine := [], txLine := [] })

/-- The port sends the module's own node ID and its number, and compares the far identity with PORT_EXPECT; another neighbour
than before ends the keeping. -/
def identify (p node far : Nat) (s : State) : State :=
  let x := port s p
  if x.state ≠ 4 then s
  else
    let e := reg4 s (portBase p + 8)
    let ok := (decide (bitsAt e 15 0 = 0xFFFF) || decide (bitsAt e 15 0 = node))
      && (decide (bitsAt e 21 16 = 0x3F) || decide (bitsAt e 21 16 = far))
    let t := if x.keeping ∧ x.farValid ∧ (x.farNode ≠ node ∨ x.farPort ≠ far) then dropKept p s else s
    modPort t p (fun y => { y with
      sentIdent := some (nodeId s, p), farNode := node, farPort := far, farValid := true, miscabled := !ok, state := if ok then 5 else 4 })

def execIdentExchange (p node far : Nat) (s : State) : Host.Outcome State Fault Refusal :=
  onUnit (decide (p < 48)) (identify p node far s)

/-- The pools are exchanged, the port's own of PORT_CREDIT for the far side's, and it is UP; a kept flit holds a credit already. -/
def creditDone (p : Nat) (credits : List Nat) (s : State) : State :=
  if (port s p).state ≠ 5 then s
  else
    let t := if (port s p).keeping then s else dropKept p s
    modPort t p (fun x => { x with
      state := 6, keeping := false, sentPools := (List.range 8).map (creditOf s p), freed := [], crSeen := [], rotation := 0, ackRotation := 0, wrrLeft := 0
      credit := (List.range 8).foldl (fun l v =>
        sset 0 l v (credits.getD v 0 - (x.moved.filter (fun f => decide (f.kind = 1) && decide (f.vc = v))).length)) [] })

def execPortCreditDone (p : Nat) (credits : List Nat) (s : State) : Host.Outcome State Fault Refusal :=
  onUnit (decide (p < 48)) (creditDone p credits s)

/-- The port was not UP again within 1 s. -/
def keepExpire (p : Nat) (s : State) : State :=
  if (port s p).keeping ∧ !isUp (port s p) then dropKept p s else s

def execPortKeepExpire (p : Nat) (s : State) : Host.Outcome State Fault Refusal :=
  onUnit (decide (p < 48)) (keepExpire p s)

/-! ### Routing (R322, R323) -/

/-- Sizes of the torus. -/
def dims (s : State) : List Nat :=
  let v := reg4 s (linkBase 0 + 8)
  [bitsAt v 5 0, bitsAt v 11 6, bitsAt v 17 12]

/-- Coordinates of a node. -/
def coords (s : State) (d : Nat) : List Nat :=
  match dims s with
  | [x, y, z] => [d % x, d / x % y, d / (x * y) % z]
  | _ => []

/-- Direction 2·axis, or 2·axis + 1 for the negative one, that is the shorter way; + on a tie; none without distance. -/
def wayOn (axis n a b : Nat) : Option Nat :=
  if a = b then none
  else
    let up := (b + n - a) % n
    if up ≤ n - up then some (2 * axis) else some (2 * axis + 1)

/-- The directions with distance left, X first. -/
def waysTo (s : State) (d : Nat) : List Nat :=
  let a := coords s (nodeId s)
  let b := coords s d
  (List.range 3).filterMap (fun k => wayOn k ((dims s).getD k 1) (a.getD k 0) (b.getD k 0))

/-- UP ports of a direction, ascending (R274). -/
def upPorts (s : State) (dir : Nat) : List Nat :=
  (List.range 42).filter (fun p => decide (p % 6 = dir) && isUp (port s p))

/-- The port that a flit with header `src` and `dst` takes. -/
def route (s : State) (src dst : Nat) : Option Nat :=
  if (dims s).foldl (· * ·) 1 ≤ dst then none
  else
    match aliasOf s 3 dst with
    | some p => if p < 48 ∧ isUp (port s p) then some p else none
    | none =>
      match (waysTo s dst).map (upPorts s) |>.find? (fun l => !l.isEmpty) with
      | some l => l[(src + dst) % l.length]?
      | none => none

/-- The header dst of a message for logical node `d`: its carrier where a NODE entry matches. -/
def headerDst (s : State) (d : Nat) : Nat := (aliasOf s 1 d).getD d

/-- The link tile whose counters note an undeliverable flit: the module's block (log 63). -/
def undeliverable (n : Nat) (s : State) : State := count (linkBase 0 + 0x2010) n s

/-! ### Messages into flits (R277, R299, R313) -/

/-- Words of a reduction message as they lie in its payloads: 58 of 4 bytes in one, or 38 of 6 and 4 bytes of 0 (R291). -/
def wireWords (op : Nat) (word : Bool) (ws : List Int) : List Byte :=
  if op = 0 ∧ word then
    ws.zipIdx.flatMap (fun x => leBytes 6 (wrapN 48 x.1) ++ (if x.2 % 38 = 37 then leBytes 4 0 else []))
  else ws.flatMap (fun q => leBytes 4 (wrapN 32 q))

/-- A first-setter record and an optional exponent as fields. -/
def firstFields (x : Option FirstSetter) : List Nat := x.elim [0] (fun y => [1, y.tally, y.node, y.layer, y.tensor])
def expFields (x : Option Int) : List Nat := x.elim [0] (fun e => [1, wrapN 16 e])

/-- What an upward input says of itself, as fields. -/
def metaFields (i : InputMeta) : List Nat :=
  [i.count, b2n i.nonfinite, b2n i.clipped, i.clippedCount, b2n i.backupUsed, b2n i.partialIn, i.backups, i.late]
    ++ expFields i.maxExp ++ i.backupNode.elim [0] (fun n => [1, n]) ++ firstFields i.first

/-- Payload bytes of a token or an output: the record and the row (R313). -/
def choiceBytes (r : TokenRec) (row : List Byte) : List Byte := tokenBytes r ++ row

/-- The bytes of a message (R277, R291, R302, R313, R334; log 64). -/
def payloadData (s : State) (x : Payload) : List Byte :=
  match x with
  | .bytes b => b
  | .chunkUp b _ ws i => wireWords (bucket s b).op (bucket s b).word ws ++ i.elim [] (fun y => openBytes 1 (metaFields y) 64)
  | .chunkDown b _ ws r => wireWords (bucket s b).op (bucket s b).word ws ++ r.elim [] (trailerBytes b)
  | .copy c => wireWords 0 (sget BktEntry.empty s.link.entries c.bucket).word c.words
      ++ openBytes 2 ([c.bucket, c.standIn, c.sender, wrapN 16 c.e] ++ metaFields c.info) 64
  | .shadowTrailer b t => trailerBytes b t
  | .token r row => choiceBytes r row
  | .output r row => choiceBytes r row
  | .tally k m => openBytes 3 [k, m.pair, m.frac, m.rate, m.sender, m.master, m.hop, m.flags, m.t2, m.t3] 64
  | .grant b t n => openBytes 4 [b, t, n] 16
  | .request plan e o r n epoch => openBytes 5 [plan, e, o, r, n, epoch] 16
  | .allot plan e o r n => openBytes 6 [plan, e, o, r, n] 16
  | .frame n p node => openBytes 11 [n, p, node] 232
  | .lctrl code n => openBytes 10 [code, n] 2
  | .error n => errorBytes n
  | .idle => []

/-- The flits of a message: each carries its bytes, and the last one, with eom, what the message says (log 64). -/
def cutMsg (s : State) (m : Msg) (dst : Nat) : List Flit :=
  let d := payloadData s m.payload
  let k := flitsOf d.length
  let one (j : Nat) : Flit :=
    let mine := (d.drop (232 * j)).take 232
    { kind := 1, vc := m.vc, eom := decide (j + 1 = k), laneSeq := 0, ackLane := 0, nak := false, ackSeq := 0
      dst := dst, src := logicalNode s, vcSeq := 0, length := mine.length, crVc := 0
      crTotal := 0, ctx := m.ctx, payload := if j + 1 = k then m.payload else .bytes mine, data := mine }
  (List.range k).map one

/-- Put flits at the end of a port's queue for their VC. -/
def enqueue (p : Nat) (fs : List Flit) (s : State) : State :=
  fs.foldl (fun t f => modPort t p (fun x => { x with queues := smod [] x.queues f.vc (· ++ [f]) })) s

/-- The first message that waits becomes flits of a port, a broadcast of every port that is UP (log 81); without a port it is lost
and counted. -/
def placeMsg (m : Msg) (s : State) : State :=
  let d := headerDst s m.dst
  if m.port.isNone ∧ d = 0xFFFF then
    ((List.range 48).filter (fun p => isUp (port s p))).foldl (fun t p => enqueue p (cutMsg s m d) t) s
  else
  let q := match m.port with
    | some p => some p
    | none => route s (logicalNode s) d
  match q with
  | some p => enqueue p (cutMsg s m (if m.port.isSome then m.dst else d)) s
  | none => undeliverable (cutMsg s m d).length s

/-- Every message that waits is formed into flits, in order. -/
def placeMsgs (s : State) : State :=
  s.link.msgs.foldl (fun t m => placeMsg m t) (modLink s (fun l => { l with msgs := [] }))

/-! ### Sending (R278 to R282) -/

/-- PORT_VCW weight of a VC. -/
def vcWeight (s : State) (p v : Nat) : Nat :=
  let w := reg4 s (portBase p + 0x10)
  match v with
  | 1 => bitsAt w 3 0
  | 2 => bitsAt w 7 4
  | 3 => bitsAt w 11 8
  | 4 => bitsAt w 15 12
  | _ => bitsAt w 19 16

/-- A VC has a flit and a credit. -/
def vcReady (x : Port) (v : Nat) : Bool := !(sget [] x.queues v).isEmpty && decide (0 < sget 0 x.credit v)

/-- The weighted VCs, from `v` on in rotation. -/
def wrrFrom (v : Nat) : List Nat :=
  let l := [1, 2, 3, 4, 7]
  let k := l.findIdx (· == v) % 5
  l.drop k ++ l.take k

/-- The VC that sends next, and the round robin as it then stands: VC served and slots it has left. -/
def pickVc (s : State) (p : Nat) (x : Port) : Option (Nat × Nat × Nat) :=
  match [5, 0, 6].find? (vcReady x) with
  | some v => some (v, x.wrrVc, x.wrrLeft)
  | none =>
    if 0 < x.wrrLeft ∧ vcReady x x.wrrVc then some (x.wrrVc, x.wrrVc, x.wrrLeft - 1)
    else
      let rest := wrrFrom x.wrrVc
      let order := (rest.drop 1) ++ rest.take 1
      match order.find? (fun v => vcReady x v && decide (0 < vcWeight s p v)) with
      | some v => some (v, v, vcWeight s p v - 1)
      | none => (order.find? (vcReady x)).map (fun v => (v, v, 0))

/-- The header of Table 11.3, 16 bytes, with its reserved bits, which are written 0. -/
def headerBytes (f : Flit) (res : Nat) : List Byte :=
  leBytes 4 (f.kind % 16 + 2 ^ 4 * (f.vc % 8) + 2 ^ 7 * b2n f.eom + 2 ^ 8 * (f.laneSeq % 256) + 2 ^ 16 * (f.ackLane % 16)
      + 2 ^ 20 * b2n f.nak + 2 ^ 21 * (res % 8) + 2 ^ 24 * (f.ackSeq % 256))
    ++ leBytes 4 (f.dst % 2 ^ 16 + 2 ^ 16 * (f.src % 2 ^ 16))
    ++ leBytes 4 (f.vcSeq % 2 ^ 16 + 2 ^ 16 * (f.length % 256) + 2 ^ 24 * (f.crVc % 8) + 2 ^ 27 * (res / 8 % 32))
    ++ leBytes 4 (f.crTotal % 2 ^ 12 + 2 ^ 12 * (f.ctx % 2 ^ 20))

/-- The CRC-64 of R277 over bytes: not reflected, from all ones, inverted. -/
def crc64 (bs : List Byte) : Nat :=
  let bit (c : Nat) (b : Bool) : Nat :=
    let d := c * 2 % 2 ^ 64
    if bitAt c 63 != b then d ^^^ 0x42F0E1EBA9EA3693 else d
  let c := bs.foldl (fun c x => (List.range 8).foldl (fun c k => bit c (bitAt x.toNat (7 - k))) c) (2 ^ 64 - 1)
  2 ^ 64 - 1 - c

/-- The bytes of a flit that its CRC is taken over: the header and 232 bytes of payload (R277). -/
def coveredBytes (f : Flit) (res : Nat) : List Byte := headerBytes f res ++ (f.data ++ List.replicate 232 0#8).take 232

/-- A flit on the wire: 256 bytes. -/
def flitBytes (f : Flit) : List Byte := coveredBytes f 0 ++ leBytes 8 (crc64 (coveredBytes f 0))

/-- The CRC that came with a flit is that of its bytes. -/
def crcGood (f : Flit) (c : FlitCheck) : Bool := decide (c.crc = crc64 (coveredBytes f c.res))

/-- Data lanes of the send direction in the order of the rotation, from the one whose turn it is. -/
def sendOrder (x : Port) : List Nat :=
  let l := rotationOf x
  let k := x.rotation % max 1 l.length
  (l.drop k ++ l.take k).filter (fun n => decide ((lane x n).txRole = roleData))

/-- A lane has room in its window. -/
def windowOpen (l : Lane) : Bool := decide (l.replay.length < 64)

/-- A lane has nothing to resend and nothing of its own to send: it takes what is new. -/
def laneFree (l : Lane) : Bool := decide (l.again = 0) && l.todo.isEmpty

/-- The send lane whose turn it is for a new flit: the first with room in its window. -/
def pickLane (x : Port) (ok : Nat → Bool) : Option Nat :=
  (sendOrder x).find? (fun n => windowOpen (lane x n) && laneFree (lane x n) && ok n)

/-- The lane that the next slot is of: a lane that a recalibration empties while it has flits to resend, else the first in the rotation
that can send. -/
def slotLane (x : Port) : Option Nat :=
  (x.recalTx.toList.filter (fun n => decide (0 < (lane x n).again))
    ++ (sendOrder x).filter (fun n => decide (0 < (lane x n).again) || windowOpen (lane x n))).head?

/-- The reverse-direction lane that the next header acknowledges, and the VC whose credits it returns. -/
def ackLaneOf (x : Port) : Nat :=
  (((List.range 9).map (fun k => (x.ackRotation + k) % 9)).find? (fun n => decide ((lane x n).role < 2))).getD 0

/-- A header leaves: it carries an acknowledgement, once a NAK that is due, and a VC's credits. -/
def stampHeader (f : Flit) (p : Nat) (s : State) : Flit × State :=
  let x := port s p
  let n := ackLaneOf x
  let v := x.ackRotation % 8
  let g := { f with
    ackLane := n, nak := (lane x n).nakDue, ackSeq := (lane x n).rxNext, crVc := v, crTotal := sget 0 x.freed v % 4096 }
  (g, modPort (modLane p n (fun l => { l with nakDue := false, naks := l.naks + b2n l.nakDue }) s) p (fun y => { y with
    ackRotation := (x.ackRotation + 1) % 72 }))

/-- Every 257th flit that a lane sends is a FRAME flit (R276). -/
def frameDue (x : Port) (n : Nat) : Bool := decide ((lane x n).slot = 256)

/-- A flit goes out on lane `n`: its header is stamped, and the turn passes. -/
def putOn (p n : Nat) (f : Flit) (s : State) : State :=
  let (g, t) := stampHeader f p s
  modPort (modLane p n (fun l => { l with slot := if f.kind = 15 then 0 else l.slot + 1 }) t) p (fun x => { x with
    rotation := ((rotationOf x).findIdx (· == n) + 1) % max 1 (rotationOf x).length, sent := some (n, g), wire := flitBytes g })

/-- A DATA or LCTRL flit goes out on lane `n`: numbered, and kept in the replay buffer. -/
def sendOn (p n : Nat) (f : Flit) (s : State) : State :=
  let q := (lane (port s p) n).txNext
  let t := putOn p n { f with laneSeq := q } s
  let g := ((port t p).sent.map (·.2)).getD f
  let (a, t) := bufferWrite p t
  modPort (modLane p n (fun l => { l with txNext := (l.txNext + 1) % 256, replay := l.replay ++ [g] }) t) p (fun x => { x with
    txLine := match a with
      | some a => x.txLine ++ [((n, q), a)]
      | none => x.txLine })

/-- An IDLE and a FRAME flit of this module. -/
def idleFlit (s : State) : Flit := ⟨0, 0, false, 0, 0, false, 0, 0, logicalNode s, 0, 0, 0, 0, 0, .idle, []⟩
def frameFlit (p n : Nat) (s : State) : Flit :=
  { idleFlit s with kind := 15, payload := .frame n p (nodeId s), data := openBytes 11 [n, p, nodeId s] 232 }

/-- A slot without data: a FRAME flit where the lane owes one, else an IDLE flit. -/
def sendFill (p n : Nat) (s : State) : State :=
  putOn p n (if frameDue (port s p) n then frameFlit p n s else idleFlit s) s

/-- The lane whose turn it is fills its slot, whatever its window. -/
def sendIdle (p : Nat) (s : State) : State :=
  match (sendOrder (port s p)).head? with
  | some n => sendFill p n s
  | none => s

/-- The next of the flits that lane `n` is to resend goes out, with the number it had (R279). -/
def resendOne (p n : Nat) (s : State) : State :=
  let l := lane (port s p) n
  let q := l.replay.length - l.again
  let t := modLane p n (fun y => { y with again := y.again - 1 }) (count (laneReg p n 0x10) 1 (readKept p n q s))
  match (lane (port t p) n).replay[q]? with
  | some f => putOn p n f t
  | none => t

/-- A slot for what is new: a flit that moved from another lane or an LCTRL flit, else the next DATA flit, else IDLE. -/
def sendNew (p : Nat) (s : State) : State :=
  let x := port s p
  match x.moved with
  | f :: rest =>
    let ok (n : Nat) : Bool := match f.payload with
      | .lctrl _ k => decide (n ≠ k)
      | _ => true
    match pickLane x ok with
    | some n =>
      if frameDue x n then sendFill p n s else sendOn p n f (modPort s p (fun y => { y with moved := rest }))
    | none => sendIdle p s
  | [] =>
    match pickVc s p x, pickLane x (fun _ => true) with
    | some (v, w, left), some n =>
      match sget [] x.queues v with
      | f :: rest =>
        if frameDue x n then sendFill p n s
        else
          let q := sget 0 x.vcSeqTx v
          sendOn p n { f with vcSeq := q } (modPort s p (fun y => { y with
            queues := sset [] y.queues v rest, vcSeqTx := sset 0 y.vcSeqTx v ((q + 1) % 65536)
            credit := smod 0 y.credit v (· - 1), wrrVc := w, wrrLeft := left }))
      | [] => sendIdle p s
    | _, _ => sendIdle p s

/-- One flit slot of an UP port: a FRAME flit that the lane owes, what the lane is to resend, what waits for this lane, else what is
new. -/
def sendSlotOf (p : Nat) (s : State) : State :=
  let x := port s p
  match slotLane x with
  | none => sendIdle p s
  | some n =>
    if laneFree (lane x n) then sendNew p s
    else if frameDue x n then sendFill p n s
    else if 0 < (lane x n).again then resendOne p n s
    else
      match (lane x n).todo with
      | f :: rest => sendOn p n f (modLane p n (fun l => { l with todo := rest }) s)
      | [] => s

/-- A flit slot: the messages that wait become flits, and an UP port sends one. -/
def sendFlit (p : Nat) (s : State) : State :=
  let t := placeMsgs s
  if isUp (port t p) then sendSlotOf p t else t

def execFlitSend (p : Nat) (s : State) : Host.Outcome State Fault Refusal := onUnit (decide (p < 48)) (sendFlit p s)

/-! ### Lane faults and sparing (R286, R287, R290) -/

/-- Peppermill gives an owned lane back (R431). -/
def preempt (p n : Nat) (s : State) : State :=
  if (pmOf (port s p) n).owned then
    setReg4 (modPm p n (fun y => { y with owned := false, locked := false, preempted := true }) s) (pmReg p n 0)
      (setBit (reg4 s (pmReg p n 0)) 0 false)
  else s

/-- The substitution of a failed lane by the spare, in the receive or the send direction: its bit, and the ledger's record. -/
def coverFault (p : Nat) (s : State) : State := noteSpare p (recordPort p (modPort s p (fun x => { x with spareFault := true })))
def coverTx (p : Nat) (s : State) : State := noteSpare p (recordPort p (modPort s p (fun x => { x with txFault := true })))

/-- No data lane is left: the port goes DOWN. -/
def downIfDead (p : Nat) (s : State) : State :=
  let x := port s p
  if 3 ≤ x.state ∧ ((dataLanes x).isEmpty ∨ (portLanes (fun l => decide (l.txRole = roleData)) x).isEmpty) then portDown p s
  else s

/-- A receive lane is made failed, on a port that has trained (R286): the spare takes its place, unless a recalibration is under
way: then the lane that trains will (R290). -/
def laneFailure (p n : Nat) (s : State) : State :=
  let x := port s p
  let old := (lane x n).role
  if x.state < 3 ∨ old = roleFailed then s
  else
    let t := laneEvent p n (modLane p n (fun l => { l with role := roleFailed, recalPending := false }) s)
    let t := sendLctrl p 1 n t
    let mine := decide (x.recal.map (·.lane) = some n)
    let t := if mine then modPort t p (fun y => { y with recal := none }) else t
    let t :=
      if old = roleTraining then coverFault p t
      else if old = roleData ∧ (x.recal.isNone ∨ mine) then
        match spareOf (port t p) with
        | some k => coverFault p (modLane p k (fun l => { l with role := roleData }) (preempt p k t))
        | none => t
      else t
    downIfDead p (noteSpare p t)

def execLaneFailure (p n : Nat) (s : State) : Host.Outcome State Fault Refusal :=
  onUnit (decide (p < 48) && decide (n < 9)) (laneFailure p n s)

/-- Lane `n` gives up what it keeps and has to send. -/
def emptyLane (p n : Nat) (s : State) : State := modLane p n (fun l => { l with replay := [], again := 0, todo := [] }) s

/-- Flits of send lane `n` are to go out on lane `k`, in the order they had; it numbers them as it sends them (R287). -/
def moveFlits (p n k : Nat) (s : State) : State :=
  let t := readReplay p n s
  modLane p k (fun l => { l with todo := l.todo ++ keptOn (port t p) n }) (emptyLane p n t)

/-- Flits of send lane `n` go to the other lanes, after those that wait to move already. -/
def spreadFlits (p n : Nat) (s : State) : State :=
  let t := readReplay p n s
  modPort (emptyLane p n t) p (fun y => { y with moved := y.moved ++ keptOn (port t p) n })

/-- A send lane leaves service: the spare takes its place and its flits, or the other lanes take the flits; a spare that had its
place for a recalibration covers it from now on. -/
def txLaneFail (p n : Nat) (s : State) : State :=
  let x := port s p
  let old := (lane x n).txRole
  if !isUp x ∨ old = roleFailed then s
  else
    let t := modLane p n (fun l => { l with txRole := roleFailed }) s
    let t := match if old = roleData ∧ x.recalTx.isNone then txSpareOf (port t p) else none with
      | some k => moveFlits p n k (coverTx p (modPort
          (modLane p k (fun l => { l with txRole := roleData }) (preempt p k t)) p (takePlace n k)))
      | none => spreadFlits p n t
    let t := if old = roleTraining then coverTx p t else t
    let t := if x.recalTx = some n then modPort t p (fun y => { y with recalTx := none }) else t
    downIfDead p (noteSpare p t)

def execLaneFail (p n : Nat) (s : State) : Host.Outcome State Fault Refusal :=
  onUnit (decide (p < 48) && decide (n < 9)) (txLaneFail p n s)

/-- The sender is to resend all that lane `n` keeps (go-back-N); after four resends from the same flit without progress the lane is
failed (R279; log 124). -/
def resend (p n : Nat) (s : State) : State :=
  if 4 ≤ (lane (port s p) n).resends then txLaneFail p n s
  else modLane p n (fun y => { y with again := y.replay.length, resends := y.resends + 1 }) s

/-- No acknowledgement progress for 2 µs. -/
def replayTimeout (p n : Nat) (s : State) : State :=
  if !isUp (port s p) ∨ (lane (port s p) n).replay.isEmpty then s else resend p n s

def execReplayTimeout (p n : Nat) (s : State) : Host.Outcome State Fault Refusal :=
  onUnit (decide (p < 48) && decide (n < 9)) (replayTimeout p n s)

/-! ### Recalibration (R288, R290) -/

/-- A send lane that a recalibration empties has no flit left: RECAL_ACK. -/
def ackIfEmpty (p : Nat) (s : State) : State :=
  match (port s p).recalTx with
  | some n =>
    if (lane (port s p) n).replay.isEmpty ∧ (lane (port s p) n).txRole = roleTraining then
      sendLctrl p 3 n (modPort s p (fun x => { x with recalTx := none }))
    else s
  | none => s

/-- The pending lane with the smallest eye height. -/
def pendingLane (x : Port) : Option Nat :=
  ((portLanes (fun l => l.recalPending && decide (l.role = roleData)) x).mergeSort
    (fun a b => decide ((lane x a).eyeHeight ≤ (lane x b).eyeHeight))).head?

/-- A recalibration alarm on port `p`. -/
def startRecal (p : Nat) (s : State) : State :=
  let x := port s p
  match spareOf x, pendingLane x with
  | some k, some n =>
    if isUp x ∧ bitAt (pctl s p) 4 ∧ !x.spareFault ∧ !(pmOf x k).owned ∧ x.recal = none then
      sendLctrl p 2 n (modPort s p (fun y => { y with recal := some ⟨n, 0⟩ }))
    else s
  | _, _ => s

/-- RECAL_REQ: the spare takes the lane's place in the rotation; RECAL_ACK follows when its window is empty. -/
def recalReq (p n : Nat) (s : State) : State :=
  let x := port s p
  if !isUp x ∨ (lane x n).txRole ≠ roleData then s
  else
    let wait := (lane x n).todo
    let t := match txSpareOf x with
      | some k => modPort (modLane p k (fun l => { l with txRole := roleData, todo := l.todo ++ wait }) s) p (takePlace n k)
      | none => modPort s p (fun y => { y with moved := y.moved ++ wait })
    let t := modPort (modLane p n (fun l => { l with txRole := roleTraining, todo := [] }) t) p (fun y => { y with recalTx := some n })
    ackIfEmpty p (noteSpare p t)

def execRecalReq (p n : Nat) (s : State) : Host.Outcome State Fault Refusal :=
  onUnit (decide (p < 48) && decide (n < 9)) (recalReq p n s)

/-- RECAL_ACK: the lane trains in full, and the former spare carries its data. -/
def recalAck (p n : Nat) (s : State) : State :=
  let x := port s p
  if !isUp x ∨ x.recal ≠ some ⟨n, 0⟩ then s
  else
    let t := match spareOf x with
      | some k => modLane p k (fun l => { l with role := roleData }) s
      | none => s
    noteSpare p (modPort (modLane p n (fun l => { l with role := roleTraining }) t) p (fun y => { y with recal := some ⟨n, 1⟩ }))

def execRecalAck (p n : Nat) (s : State) : Host.Outcome State Fault Refusal :=
  onUnit (decide (p < 48) && decide (n < 9)) (recalAck p n s)

/-- A lane failed while another trained, and nothing covers it: in the receive direction, and, the first in the rotation, in the
send direction. -/
def uncovered (x : Port) : Bool := !x.spareFault && !(portLanes (fun l => decide (l.role = roleFailed)) x).isEmpty
def txUncovered (x : Port) : Option Nat :=
  if x.txFault then none else (rotationOf x).find? (fun n => decide ((lane x n).txRole = roleFailed))

/-- The lane has trained: it becomes the spare, or takes the place of a lane that failed meanwhile; RECAL_DONE goes to
the sender. -/
def recalTrained (p n : Nat) (s : State) : State :=
  let x := port s p
  let fault := uncovered x
  let t := modLane p n (fun l => { l with role := if fault then roleData else roleSpare, recalPending := false }) s
  let t := modPort t p (fun y => { y with recal := none })
  sendLctrl p 4 n (if fault then coverFault p t else noteSpare p t)

/-- RECAL_DONE at the sender: the lane is the spare again, or takes a failed lane's place. -/
def recalEnded (p n : Nat) (s : State) : State :=
  let x := port s p
  if (lane x n).txRole ≠ roleTraining then s
  else
    let t := modPort s p (fun y => { y with recalTx := none })
    match txUncovered x with
    | some m => coverTx p (modPort (modLane p n (fun l => { l with txRole := roleData }) t) p (takePlace m n))
    | none => noteSpare p (modLane p n (fun l => { l with txRole := roleSpare }) t)

/-- The step RECAL_DONE names: at the receiver that trains the lane, or at the sender that is told. -/
def recalDone (p n : Nat) (s : State) : State :=
  if !isUp (port s p) then s
  else if (port s p).recal = some ⟨n, 1⟩ then recalTrained p n s
  else recalEnded p n s

def execRecalDone (p n : Nat) (s : State) : Host.Outcome State Fault Refusal :=
  onUnit (decide (p < 48) && decide (n < 9)) (recalDone p n s)

/-- The eye of a lane is measured; a measure below PORT_MARGIN makes recalibration pending. -/
def measureEye (p n height width : Nat) (s : State) : State :=
  let m := reg4 s (portBase p + 0x14)
  let low := decide (height < bitsAt m 7 0) || decide (width < bitsAt m 15 8)
  if (lane (port s p) n).role ≠ roleData ∨ !isUp (port s p) then s
  else modLane p n (fun l => { l with
    eyeHeight := height, eyeWidth := width, recalPending := l.recalPending || low }) s

def execEyeMonitorBelowMargin (p n height width : Nat) (s : State) : Host.Outcome State Fault Refusal :=
  onUnit (decide (p < 48) && decide (n < 9)) (measureEye p n height width s)

/-! ### Receiving (R277, R279, R281, R282, R334) -/

/-- The port on which reduction traffic of header `src` counts as arriving: that of the PORT entry whose carrier is the sender,
by its own ID or as the carrier of the logical node `src` (R321, R323). -/
def arrivalPort (s : State) (p src : Nat) : Nat :=
  match (List.range 64).find? (fun n =>
    let v := reg8 s (linkBase 0 + 0x800 + 8 * n)
    decide (bitsAt v 33 32 = 2) && (decide (bitsAt v 31 16 = src) || decide (bitsAt v 31 16 = headerDst s src))) with
  | some n => bitsAt (reg8 s (linkBase 0 + 0x800 + 8 * n)) 15 0
  | none => p

/-- A lost reduction flit: NONFINITE in its instance, and nothing added from its chunk (Table 13.4). -/
def lostChunk (p ctx : Nat) (s : State) : State :=
  let b := ctx % 4096
  let t := bitsAt ctx 14 12
  if (bucket s b).state = .free ∨ (bucket s b).state = .waitArm then s
  else
    let s := modBucket s b (fun x => { x with nonfinite := true })
    let x := bucket s b
    if bitAt ctx 15 then
      let last := (treeOf x t).result.length + 1 = chunksOn x t
      takeDown p b t [] (if last then some { rootTrailer s x (treeMeta s x t) with nonfinite := true } else none) s
    else takeUp p b t [] none s

/-- A lost dispatch or combine flit: the choice counts as dropped, and the descriptor that was to receive it completes with MEM_UE:
where a slot serves the expert its DISPATCH, else the COMBINE, one that is still to come as well (Table 13.4; log 136). -/
def lostRow (e : Nat) (s : State) : State :=
  let t := count (expertCtr e 5) 1 s
  if (activeSlot s e).isSome then
    match opOfExpert t e with
    | some o => stopEngine o.stream o.seq (.ue 1) t
    | none => t
  else
    match combOfExpert t e with
    | some o => stopEngine o.stream o.seq (.ue 1) t
    | none => modLink t (fun l => { l with lostOuts := (l.lostOuts ++ [e]).dedup })

/-- A message for this module is delivered whole, by its class. -/
def deliver (p : Nat) (f : Flit) (s : State) : State :=
  let q := arrivalPort s p f.src
  match f.payload with
  | .chunkUp b t ws i => takeUp q b t ws i s
  | .chunkDown b t ws r => takeDown q b t ws r s
  | .grant b t n => takeGrant q b t n s
  | .copy c => receiveCopy c s
  | .shadowTrailer b t => shadowTrailer b t s
  | .request plan e origin round n epoch => takeRequest ⟨plan, e, origin, round, n, epoch, none⟩ s
  | .allot plan e _ round n => takeAllot plan e round n s
  | .token r row => takeToken r row s
  | .output r row => takeOutput r row s
  | .tally k m => if k = kindTick then fabricTick p m s else if k = kindPing then answerPing p m s else takeEcho p m s
  | .error _ => if f.vc = 1 then lostChunk q f.ctx s else if f.vc = 2 then lostRow f.ctx s else s
  | _ => s

/-- The key of a message on a port's VC. -/
def flowOf (f : Flit) : Nat × Nat × Nat := (f.vc, f.src, f.ctx)

/-- Flits of the chunk that bucket instance `x` expects next on tree `t`, `k` having come: the last carries 64 bytes more (R302), and
the exchange of max exponents has only those. -/
def chunkFlits (x : Bucket) (t k : Nat) : Nat :=
  let n := t + k * x.plan.trees
  flitsOf ((if x.e.isNone then 0 else wireBytes x.op x.word (chunkLen x n)) + (if x.e.isNone ∨ k + 1 = chunksOn x t then 64 else 0))

/-- Flits of the message of a flow that is under way, where the receiver knows it: a chunk of an instance, by the tree's edge; a token
or an output has its record and a row; control and tally messages have one. -/
def flowFlits (s : State) (p : Nat) (f : Flit) : Option Nat :=
  if f.vc = 0 ∨ f.vc = 5 then some 1
  else if f.vc = 1 then
    let x := bucket s (f.ctx % 4096)
    let t := bitsAt f.ctx 14 12
    if x.state = .free ∨ x.state = .waitArm then none
    else if bitAt f.ctx 15 then some (chunkFlits x t (treeOf x t).result.length)
    else ((treeOf x t).inputs.find? (fun c => c.port == arrivalPort s p f.src)).map (fun c => chunkFlits x t c.chunks.length)
  else if f.vc = 2 then
    match opOfExpert s f.ctx, combOfExpert s f.ctx with
    | some o, _ => some (flitsOf (16 + wireLen o.tokens))
    | none, some o => some (flitsOf (16 + wireLen o.tokens))
    | none, none => none
  else none

/-- Flits of the message under way that have come, and the message is over. -/
def seenOf (x : Port) (f : Flit) : Nat := ((x.inflow.find? (fun y => y.1 == flowOf f)).map (·.2)).getD 0
def flowOver (p : Nat) (f : Flit) (s : State) : State :=
  modPort s p (fun y => { y with
    inflow := y.inflow.filter (fun z => z.1 != flowOf f), broken := y.broken.filter (· != flowOf f) })

/-- The flit whose length an error flit gives was the last of its message: a flit that is not full is; for a full one the message
tells, and where the receiver does not know that, a free value (log 136). -/
def lostLast (p : Nat) (f : Flit) (n : Nat) (s : State) : Bool × State :=
  if n < 232 then (true, s)
  else
    match flowFlits s p f with
    | some k => (decide (k ≤ seenOf (port s p) f + 1), s)
    | none => ((Config.freeWord s.free).getLsbD 0, { s with free := s.free + 1 })

/-- One more flit of a message has come. -/
def flowOn (p : Nat) (f : Flit) (s : State) : State :=
  modPort s p (fun y => { y with inflow := y.inflow.filter (fun z => z.1 != flowOf f) ++ [(flowOf f, seenOf y f + 1)] })

/-- A flit for this module in its VC's order: an error flit stands for its whole message, and the rest of that, unless the flit
lost was its last, is dropped (R334). -/
def takeFlit (p : Nat) (f : Flit) (s : State) : State :=
  let x := port s p
  let off := x.broken.contains (flowOf f)
  match f.payload with
  | .error n =>
    let (last, s) := lostLast p f n s
    let t := if last then flowOver p f s
      else modPort (flowOn p f s) p (fun y => { y with broken := (y.broken ++ [flowOf f]).dedup })
    if off then t else deliver p f t
  | _ =>
    if !f.eom then flowOn p f s
    else if off then flowOver p f s
    else deliver p f (flowOver p f s)

/-- The flit is for this module: its header names it, broadcast, or a tally message of the link. -/
def forHere (s : State) (f : Flit) : Bool :=
  decide (f.dst = nodeId s) || decide (f.dst = 0xFFFF) ||
    match f.payload with
    | .tally _ _ => true
    | _ => false

/-- A flit leaves the receive buffer: taken here, or sent on (R282, R322). -/
def leaveBuffer (p : Nat) (f : Flit) (s : State) : State :=
  let t := modPort s p (fun x => { x with freed := smod 0 x.freed f.vc (fun n => (n + 1) % 4096) })
  if forHere t f then takeFlit p f t
  else
    match route t f.src f.dst with
    | some q => enqueue q [f] t
    | none => undeliverable 1 t

/-- Deliver what is in vc_seq order; at most `n` flits. -/
def drainReorder (p v : Nat) : Nat → State → State
  | 0, s => s
  | n + 1, s =>
    let x := port s p
    let e := sget 0 x.vcSeqRx v
    match x.reorder.find? (fun f => decide (f.vc = v) && decide (f.vcSeq = e)) with
    | none => s
    | some f =>
      let at_ := (x.rxLine.find? (fun y => y.1 == (v, e))).map (·.2)
      let t := modPort s p (fun y => { y with
        reorder := y.reorder.erase f, vcSeqRx := sset 0 y.vcSeqRx v ((e + 1) % 65536)
        rxLine := y.rxLine.filter (fun z => z.1 != (v, e)) })
      let (g, t) := match at_ with
        | some a => readLine p a f t
        | none => (f, t)
      drainReorder p v n (leaveBuffer p g t)

/-- A flit is one that the port has had: delivered, or waiting in the reorder buffer. -/
def hadFlit (x : Port) (f : Flit) : Bool :=
  decide (32768 ≤ (f.vcSeq + 65536 - sget 0 x.vcSeqRx f.vc) % 65536)
    || x.reorder.any (fun g => g.vc == f.vc && g.vcSeq == f.vcSeq)

/-- The reorder buffer of 1,024 flits has a place for a flit, or it is delivered at once (R281). -/
def hasPlace (x : Port) (f : Flit) : Bool :=
  hadFlit x f || decide (x.reorder.length < 1024) || decide (f.vcSeq = sget 0 x.vcSeqRx f.vc)

/-- A DATA flit is accepted: one that the port has had is discarded, another waits in the reorder buffer for its turn. -/
def acceptData (p : Nat) (f : Flit) (s : State) : State :=
  let x := port s p
  if hadFlit x f then s
  else
    let (a, t) := bufferWrite p s
    drainReorder p f.vc (x.reorder.length + 1) (modPort t p (fun y => { y with
      reorder := y.reorder ++ [f]
      rxLine := match a with
        | some a => y.rxLine ++ [((f.vc, f.vcSeq), a)]
        | none => y.rxLine }))

/-- An LCTRL flit is accepted. -/
def acceptLctrl (p code n : Nat) (s : State) : State :=
  match code with
  | 1 => txLaneFail p n s
  | 2 => recalReq p n s
  | 3 => recalAck p n s
  | 4 => recalEnded p n s
  | _ => s

/-- A header acknowledges send lane `n` up to `e`, or asks for a resend from there. -/
def takeAck (p n e : Nat) (nak : Bool) (s : State) : State :=
  let l := lane (port s p) n
  match l.replay with
  | [] => s
  | f :: _ =>
    let k := (e + 256 - f.laneSeq) % 256
    if l.replay.length < k then s
    else
      let t := if k = 0 then s else modLane p n (fun y => { y with replay := y.replay.drop k, again := min y.again (y.replay.length - k), resends := 0 })
        (modPort s p (fun x => { x with
          txLine := x.txLine.filter (fun z => !(z.1.1 == n && (l.replay.take k).any (fun g => g.laneSeq == z.1.2))) }))
      let t := if nak ∧ !(lane (port t p) n).replay.isEmpty then resend p n t else t
      ackIfEmpty p t

/-- A header returns credits: the count is cumulative, modulo 4,096. -/
def takeCredit (p v total : Nat) (s : State) : State :=
  modPort s p (fun x =>
    let d := (total + 4096 - sget 0 x.crSeen v) % 4096
    { x with credit := smod 0 x.credit v (· + d), crSeen := sset 0 x.crSeen v total })

/-- A receiver discards the flit (R277). -/
def badFlit (f : Flit) (c : FlitCheck) : Bool :=
  !crcGood f c || !c.codeword || !(f.kind ≤ 2 || decide (f.kind = 15)) || decide (232 < f.length)

/-- The FEC's counters of a lane: each codeword that could not be corrected counts once, where it ends (R422). -/
def countFec (p n : Nat) (c : FlitCheck) (s : State) : State :=
  count (laneReg p n 8) (b2n c.lastBad) (count (laneReg p n 4) c.corrected s)

/-- A bad flit: counted, and a NAK is due; after four for the flit expected now the lane is failed (R279, R286; log 124). -/
def discardFlit (p n : Nat) (s : State) : State :=
  let t := count (laneReg p n 0xC) 1 (modLane p n (fun y => { y with nakDue := true }) s)
  if 4 ≤ (lane (port s p) n).naks then laneFailure p n t else t

/-- The flit expected on a lane has come: the next one is. -/
def nextExpected (p n : Nat) (f : Flit) (s : State) : State :=
  modLane p n (fun y => { y with rxNext := (f.laneSeq + 1) % 256, naks := 0 }) s

/-- A flit comes in on a lane. -/
def receiveFlit (p n : Nat) (f : Flit) (c : FlitCheck) (s : State) : State :=
  let x := port s p
  let l := lane x n
  if !isUp x ∨ 2 ≤ l.role then s
  else if badFlit f c then discardFlit p n (countFec p n c s)
  else
    let t := takeCredit p f.crVc f.crTotal (takeAck p f.ackLane f.ackSeq f.nak (countFec p n c s))
    match f.kind, f.payload with
    | 15, .frame k _ _ => if k = n then t else laneFailure p n t
    | 1, _ =>
      if f.laneSeq ≠ l.rxNext ∨ !hasPlace x f then t else acceptData p f (nextExpected p n f t)
    | 2, .lctrl code k => if f.laneSeq ≠ l.rxNext then t else acceptLctrl p code k (nextExpected p n f t)
    | 2, _ => if f.laneSeq ≠ l.rxNext then t else nextExpected p n f t
    | _, _ => t

def execFlitReceive (p n : Nat) (f : Flit) (c : FlitCheck) (s : State) : Host.Outcome State Fault Refusal :=
  onUnit (decide (p < 48) && decide (n < 9)) (settleEngines s (receiveFlit p n f c s))

/-! ### Peppermill (R431 to R433) -/

/-- A write of PM_CTRL.en = 1. -/
def pmTake (p n : Nat) (s : State) : State :=
  let x := port s p
  if x.state = 0 ∨ (isUp x ∧ (lane x n).role = roleSpare ∧ !x.spareFault ∧ !x.txFault) then
    setReg4 (modPm p n (fun y => { y with owned := true }) s) (pmReg p n 0) (setBit (reg4 s (pmReg p n 0)) 0 true)
  else modPm p n (fun y => { y with refused := true }) s

def execPmOwn (p n : Nat) (s : State) : Host.Outcome State Fault Refusal :=
  onUnit (decide (p < 48) && decide (n < 9)) (if hostBlock s then pmTake p n s else s)

/-- A write of PM_CTRL.en = 0. -/
def pmRelease (p n : Nat) (s : State) : State :=
  setReg4 (modPm p n (fun y => { y with owned := false, locked := false }) s) (pmReg p n 0)
    (setBit (reg4 s (pmReg p n 0)) 0 false)

/-- The loopback that acts on a lane: 1 near-end, 2 far-end, of a DISABLED port whose lane Peppermill owns (R433). -/
def loopOf (s : State) (p n : Nat) : Nat :=
  let l := bitsAt (reg4 s (pmReg p n 0)) 7 6
  if (port s p).state = 0 ∧ (pmOf (port s p) n).owned ∧ l < 3 then l else 0

/-- The generator runs: PM_CTRL.tx_en, and no far-end loopback, in which the lane sends what it receives (R433). -/
def generates (s : State) (p n : Nat) : Bool :=
  (pmOf (port s p) n).owned && bitAt (reg4 s (pmReg p n 0)) 4 && decide (loopOf s p n ≠ 2)

/-- The checker runs. -/
def checks (s : State) (p n : Nat) : Bool := (pmOf (port s p) n).owned && bitAt (reg4 s (pmReg p n 0)) 5

/-- Exponents of a pattern's polynomial (Table 18.1): a bit is the sum of the bits so many places before it; a bit of USER is that of
64 places before. -/
def patternTaps (pattern : Nat) : List Nat :=
  match pattern with
  | 0 => [7, 6]
  | 1 => [9, 5]
  | 2 => [13, 12, 2, 1]
  | 3 => [15, 14]
  | 4 => [23, 18]
  | 6 => [64]
  | _ => [31, 28]

/-- The bit that follows bits `seen`, the newest first. -/
def nextBit (taps : List Nat) (seen : List Bool) : Bool := taps.foldl (fun b e => b != seen.getD (e - 1) false) false

/-- `k` more bits after `seen`, the newest first. -/
def moreBits (taps : List Nat) : Nat → List Bool → List Bool
  | 0, seen => seen
  | k + 1, seen => moreBits taps k (nextBit taps seen :: seen)

/-- A pair of bits as a PAM4 level, the first the more significant, in Gray order; and the pair of a level. -/
def grayLevel (a b : Bool) : Nat := 2 * b2n a + b2n (a != b)
def grayPair (l : Nat) : List Bool := [decide (2 ≤ l), decide (l = 1) || decide (l = 2)]

/-- Bits in pairs, as levels. -/
def levelsOf : List Bool → List Nat
  | a :: b :: l => grayLevel a b :: levelsOf l
  | _ => []

/-- `k` bits that lane `n`'s generator sends, oldest first, before they pair: a PRBS from a seed of ones, or PM_USER from its bit 0;
inverted where PM_CTRL.invert says so (R432; log 66). -/
def sentBits (s : State) (p n k : Nat) : List Bool :=
  let c := reg4 s (pmReg p n 0)
  let pattern := bitsAt c 3 1
  let seed := if pattern = 6 then (List.range 64).map (fun j => bitAt (reg8 s (pmReg p n 0x18)) (63 - j)) else List.replicate 31 true
  (((moreBits (patternTaps pattern) k seed).take k).reverse).map (fun b => b != bitAt c 8)

/-- Whether a checker of a pattern locks on bits, oldest first: it seeds itself from what it receives, and 128 bits in a row are as it
predicts (R432). -/
def locksOn (pattern : Nat) (bits : List Bool) : Bool :=
  let taps := patternTaps pattern
  let go (x : List Bool × Nat × Bool) (b : Bool) : List Bool × Nat × Bool :=
    let run := if taps.headD 0 ≤ x.1.length ∧ nextBit taps x.1 = b then x.2.1 + 1 else 0
    (b :: x.1, run, x.2.2 || decide (128 ≤ run))
  (bits.foldl go ([], 0, false)).2.2

/-- In near-end loopback the checker locks exactly when it does on what its own lane sends. -/
def nearLocks (s : State) (p n : Nat) : Bool :=
  generates s p n && locksOn (bitsAt (reg4 s (pmReg p n 0)) 3 1) ((levelsOf (sentBits s p n 256)).flatMap grayPair)

/-- Errors that a locked checker counts. -/
def pmErrors (p n k : Nat) (s : State) : State :=
  if k = 0 then s else count (pmReg p n 8) k (modPm p n (fun y => { y with errs := y.errs + k }) s)

/-- A write of PM_CTRL.inject: one transmitted bit is inverted, and its own checker counts it in near-end loopback. -/
def pmInject (p n : Nat) (s : State) : State :=
  if !generates s p n then s
  else
    let t := modPm p n (fun z => { z with injected := z.injected + 1 }) s
    if loopOf s p n = 1 ∧ (pmOf (port s p) n).locked then pmErrors p n 1 t else t

def execPmInject (p n : Nat) (s : State) : Host.Outcome State Fault Refusal :=
  onUnit (decide (p < 48) && decide (n < 9)) (if hostBlock s then pmInject p n s else s)

/-- The checker locks: in near-end loopback on what its own lane sends, else on what the far end does. -/
def pmLock (p n : Nat) (s : State) : State :=
  if checks s p n ∧ (loopOf s p n = 1 → nearLocks s p n = true) then modPm p n (fun y => { y with locked := true, errs := 0 }) s else s

def execPeppermillLock (p n : Nat) (s : State) : Host.Outcome State Fault Refusal :=
  onUnit (decide (p < 48) && decide (n < 9)) (pmLock p n s)

/-- Bits in error since the last tick, as the checker loses lock: any number that fits a tick, and 256 at least since it locked
(log 66). -/
def lostErrors (s : State) (y : Pm) : Nat := max (256 - y.errs) ((Config.freeWord s.free).toNat % 266)

/-- The checker loses lock: 256 of the last 1,024 bits that it compared were in error. -/
def pmLost (p n : Nat) (s : State) : State :=
  let y := pmOf (port s p) n
  if y.locked then
    modPm p n (fun z => { z with locked := false, lostLock := true })
      (pmErrors p n (lostErrors s y) { s with free := s.free + 1 })
  else s

def execPeppermillLostLock (p n : Nat) (s : State) : Host.Outcome State Fault Refusal :=
  onUnit (decide (p < 48) && decide (n < 9)) (pmLost p n s)

/-! ### Alarms fire (R233, R288) -/

/-- Alarms that ALARM_FIRE fires: a governor alarm fires by its own commands (log 62). -/
def firesHere (n : Nat) : Bool := decide (n < 448) || decide (480 ≤ n)

/-- Alarm `n` fires, with what its owner does then. -/
def fire (n : Nat) (s : State) : State :=
  if n = 480 then openWindow s
  else if n = 481 then closeWindow s
  else if 496 ≤ n then
    (List.range 48).foldl (fun t p => startRecal p t) (fireAlarm n (setReg8 s (almReg n 0) (almMark s n).pair))
  else fireAlarm n s

/-- Alarm `n` fires when it is the first of those that are due. -/
def alarmFire (n : Nat) (s : State) : State :=
  if firesHere n ∧ almTurn s n then fire n s else s

def execAlarmFire (n : Nat) (s : State) : Host.Outcome State Fault Refusal :=
  onUnit (decide (n < 512)) (alarmFire n s)

end Sys2Proof.Machine
end

