-- ==== Sys2Proof/Machine/Service.lean ====
section
/-! DEFINITION. Safety and service in place: array faults, spares, canaries, lock-step and clock checks, adder lanes, update engines, microcode, the steward's images, and the self-tests of cloves and channels (chapter 14, R435, R436). -/

namespace Sys2Proof.Machine

def isClove (p : Nat) : Bool := decide (p < 1216)

/-! ### Array faults and software's quarantine (R68, R368) -/

/-- A residue or a parity check of the clove fails. -/
def arrayFault (p : Nat) (parity : Bool) (s : State) : State :=
  if coreRuns s then quarantine p (if parity then 2 else 1) s else s

def execArrayFault (p : Nat) (parity : Bool) (s : State) : Host.Outcome State Fault Refusal :=
  onUnit (isClove p) (settle s (arrayFault p parity s))

/-- A write of QUAR_REQ. -/
def writeQuarReq (v : Nat) (s : State) : State :=
  if bitAt v 31 ∧ isClove (bitsAt v 10 0) then settle s (quarantine (bitsAt v 10 0) 8 s) else s

def execQuarReq (v : Nat) (s : State) : Host.Outcome State Fault Refusal :=
  .next (if hostBlock s then writeQuarReq v s else s)

/-! ### A spare joins (R18, R19, R120, R259) -/

/-- `n` free bytes, and the state that has drawn them. -/
def freeBytes (n : Nat) (s : State) : List Byte × State :=
  ((List.range n).map (fun k => BitVec.ofNat 8 (Config.freeWord (s.free + k)).toNat), { s with free := s.free + n })

/-- Bytes of a recorded source: of host memory, or of the module's, read for the stream that loaded it. What cannot be read is a free value. -/
def sourceBytes (t src n : Nat) (s : State) : List Byte × State :=
  let r := if 2 ^ 64 ≤ src then readHost (src % 2 ^ 64) n (src / 2 ^ 64 - 1) s else readMem src n (reqSeq t) s
  match r with
  | (.ok b, u) => (b, u)
  | (.error _, u) => freeBytes n u

/-- Reload one recorded range of a store. -/
def reload (p : Nat) (s : State) (x : Nat × Nat × Nat × Nat) : State :=
  let (store, first, n, src) := x
  let (b, t) := sourceBytes (p / 76) src ((storeSize store).1 * n) s
  loadStore store first n b p t

/-- The spare has taken its place, its stores reloaded and its seed loaded. The seed is the replaced clove's own, no
seed load of software: SEED_DUP is written within SEED alone (95). DEDUCED, see log 77. -/
def joinSpare (p : Nat) (s : State) : State :=
  match (clove s p).joining with
  | none => s
  | some b =>
    let c := clove s p
    let t := c.sources.foldl (reload p) (wipeClove p s)
    modClove t p (fun x => { x with seat := .replacing b, joining := none, seed := c.seed })

def execSpareJoin (p : Nat) (s : State) : Host.Outcome State Fault Refusal :=
  onUnit (isClove p) (if coreRuns s && !tileIsOut s (p / 76) then joinSpare p s else s)

/-! ### Update engines (R354, R363) -/

/-- Blocks of the running UPDATE of weight `w` that engine `t` holds. -/
def engineBlocks (s : State) (t w : Nat) : List HeldBlock :=
  if (weight s w).state = 1 then (weight s w).held.filter (fun x => x.tile == t) else []

/-- The UPDATE of weight `w` is running, and engine `t` computes some of its blocks. -/
def usesEngine (s : State) (t w : Nat) : Bool := !(engineBlocks s t w).isEmpty

/-- An UPDATE that its engine `t` fails stops at the failing block, one of the engine's, a free value: blocks before it are
written, the rest are not, and it ends with MEM_UE and the record IDLE at its old version (R363, Table 13.4; log 84). -/
def stopUpdate (t w : Nat) (s : State) : State :=
  match (weight s w).updates.head? with
  | some (i, seq) =>
    let mine := engineBlocks s t w
    let k := ((mine[(Config.freeWord s.free).toNat % max 1 mine.length]?).map (·.block)).getD 0
    let u := writeBlocks w i seq (fun x => decide (x.block < k)) { s with free := s.free + 1 }
    completeUE i seq 1 (endUpdate w i seq u)
  | none => s

/-- Engine `t` is retired. -/
def retireEngine (t : Nat) (s : State) : State :=
  if s.comp.updateOut.contains t then s
  else
    let hit := (s.comp.weights.map (·.1)).filter (usesEngine s t)
    let u := hit.foldl (fun u w => stopUpdate t w u) s
    let u := modComp u (fun c => { c with updateOut := c.updateOut ++ [t] })
    modSafe u (fun x => { x with ledger := { x.ledger with enginesOut := (x.ledger.enginesOut ++ [t]).dedup } })

/-- A residue check of engine `t` fails in the UPDATE of weight `w`: the block runs again; a second failure within
24 h retires the engine. -/
def updateResidue (t w : Nat) (s : State) : State :=
  if !(coreRuns s && usesEngine s t w) then s
  else
    let again := s.safe.ledger.residues.any (fun x => x.1 == t && decide (stewardMs s < x.2 + 86400000))
    let u := modSafe s (fun x => { x with ledger := { x.ledger with residues := x.ledger.residues ++ [(t, stewardMs s)] } })
    if again then retireEngine t u else u

def execUpdateResidueFault (t w : Nat) (s : State) : Host.Outcome State Fault Refusal :=
  onUnit (decide (t < 16) && decide (w < 4096)) (settle s (updateResidue t w s))

/-! ### Canaries (R355, R423) -/

/-- Canaries run: only MANUFACTURE may turn them off (R353). -/
def canariesOn (s : State) : Bool := bitAt (reg4 s (safeBase + 0x68)) 0 || decide (s.safe.life.state ≠ 0)

/-- A clove that runs canaries: in service or a usable spare, and not in self-test. -/
def canaryClove (s : State) (p : Nat) : Bool :=
  let c := clove s p
  coreRuns s && !c.quarantined && !c.failedSpare && !c.bist.busy && !tileIsOut s (p / 76)

/-- The canary of a clove ends. -/
def canary (p : Nat) (ok : Bool) (s : State) : State :=
  if ok || !canaryClove s p then s else quarantine p 3 (count (safeBase + 0x6C) 1 s)

/-- The canary of the update engine of tile `t` ends. -/
def engineCanary (t : Nat) (ok : Bool) (s : State) : State :=
  if ok || !coreRuns s || s.comp.updateOut.contains t || tileIsOut s t then s
  else retireEngine t (count (safeBase + 0x6C) 1 s)

def execCanaryRun (engine : Bool) (n : Nat) (ok : Bool) (s : State) : Host.Outcome State Fault Refusal :=
  onUnit (decide (n < if engine then 16 else 1216))
    (if canariesOn s then settle s (if engine then engineCanary n ok s else canary n ok s) else s)

/-- The block of clove `p` takes writes (R414). -/
def cloveTakes (s : State) (p : Nat) : Bool := !(clove s p).quarantined && !(clove s p).failedSpare

def canaryNow (p : Nat) (ok : Bool) (s : State) : State :=
  if cloveTakes s p then settle s (canary p ok s) else s

def execCanaryNow (p : Nat) (ok : Bool) (s : State) : Host.Outcome State Fault Refusal :=
  onUnit (isClove p) (if hostBlock s then canaryNow p ok s else s)

/-! ### Lock-step, clocks and sensors (R356, R359, R360) -/

def lockstep (t : Nat) (s : State) : State := if coreRuns s then tileOutOfService t 4 s else s

def execLockstepMismatch (t : Nat) (s : State) : Host.Outcome State Fault Refusal :=
  onUnit (decide (t < 16)) (settleEngines s (lockstep t s))

/-- A compute tile (0 to 15) or a link tile (16 to 23) has a clock fault; the ledger records which (R367). -/
def clockFault (t : Nat) (s : State) : State :=
  if coreRuns s then
    settlePhases (safeStop (modSafe s (fun x => { x with
      clockFault := true, ledger := { x.ledger with stops := (x.ledger.stops ++ [t]).dedup } })))
  else s

def execClockFault (t : Nat) (s : State) : Host.Outcome State Fault Refusal :=
  onUnit (decide (t < 24)) (clockFault t s)

/-- Two sensors of a die disagree: the governor acts on the hotter, which THERM_JMAX shows while it is the hottest of all
(Table 15.14). -/
def disagree (die hot : Nat) (s : State) : State :=
  if s.power.main then
    let t := modSafe s (fun x => { x with tempDisagree := true })
    let t := if s.power.jmax ≤ hot then modPower t (fun p => { p with jmax := hot, jdie := die }) else t
    if 420 ≤ hot then throttle (max s.power.jmax hot) 0 t else t
  else s

def execTempDisagree (die hot : Nat) (s : State) : Host.Outcome State Fault Refusal :=
  onUnit (decide (die < 64)) (disagree die hot s)

/-! ### Adder lanes (R354) -/

/-- Adder lanes in service of link tile `k`, as a mask; lane 8 is the spare. -/
def adderLanes (s : State) (k : Nat) : Nat := sget 0xFF s.link.addLanes k

/-- A link tile stops adding: its instances go on without this module's input. -/
def stopAdding (k : Nat) (s : State) : State :=
  let t := modLink s (fun l => { l with addStopped := l.addStopped ++ [k] })
  let t := modSafe t (fun x => { x with
    linkAddOut := x.linkAddOut ||| 2 ^ k, ledger := { x.ledger with linksOut := (x.ledger.linksOut ++ [k]).dedup } })
  replaceReq 5 ((t.link.insts.map (·.1)).foldl (fun u b => moveBucket b u) t)

/-- Adder lane `l` of link tile `k` fails while it adds for bucket `b`. -/
def adderFault (k l b : Nat) (s : State) : State :=
  let m := adderLanes s k
  if !coreRuns s || s.link.addStopped.contains k || !bitAt m l then s
  else
    let t := count (linkBase k + 0x2000 + 4 * 11) 1 s
    let t := if (bucket t b).state = .free then t else modBucket t b (fun x => { x with nonfinite := true })
    let rest := m - 2 ^ l
    if m = 0xFF then modLink t (fun x => { x with addLanes := sset 0xFF x.addLanes k (rest + 2 ^ 8) })
    else stopAdding k (modLink t (fun x => { x with addLanes := sset 0xFF x.addLanes k rest }))

def execLinkAdderResidueFault (k l b : Nat) (s : State) : Host.Outcome State Fault Refusal :=
  onUnit (decide (k < 8) && decide (l < 9) && decide (b < 4096)) (settle s (adderFault k l b s))

/-! ### Microcode (R365) -/

def modSteward (s : State) (f : StewardSt → StewardSt) : State := modSafe s (fun x => { x with steward := f x.steward })

/-- A write of UCODE_CTRL.go: the image at UCODE_ADDR is checked (log 10). -/
def ucodeGo (s : State) : State :=
  let w := s.safe.steward
  if w.ucodeStatus = 1 ∨ w.ucodeStatus = 2 then s
  else
    let t := { s with free := s.free + 1 }
    match Config.ucodeImage s.free (reg8 s (safeBase + 0xC0)) with
    | some v =>
      if w.ucodeVersion ≤ v then modSteward t (fun x => { x with ucodeStatus := 2, ucodePending := some v })
      else modSteward t (fun x => { x with ucodeStatus := 4 })
    | none => modSteward t (fun x => { x with ucodeStatus := 4 })

/-- The steward's registers take writes (R366, R414). -/
def stewardTakes (s : State) : Bool := hostBlock s && stewardUp s

def execUcodeGo (s : State) : Host.Outcome State Fault Refusal := .next (if stewardTakes s then ucodeGo s else s)

/-- Tile `t` still holds an item in a context. -/
def tileBusy (s : State) (t : Nat) : Bool :=
  !tileIsOut s t && s.comp.cloves.any (fun c => c.1 / 76 == t && c.2.ctx.any (fun k => decide (k.2.order ≠ 0)))

/-- Waiting tiles whose contexts are empty load the pending image; the last one ends the update. -/
def ucodeApply (s : State) : State :=
  if s.comp.ucodeWait.isEmpty then s
  else
    let left := s.comp.ucodeWait.filter (tileBusy s)
    let t := modComp s (fun c => { c with ucodeWait := left })
    if left.isEmpty then
      modSteward t (fun x => { x with
        ucodeStatus := 3, ucodeVersion := x.ucodePending.getD x.ucodeVersion
        ucodeStored := some (x.ucodePending.getD x.ucodeVersion), ucodePending := none })
    else t

def execUcodeApply (s : State) : Host.Outcome State Fault Refusal := .next (if coreRuns s then ucodeApply s else s)

/-! ### The steward's images (R366) -/

/-- A write of STEWARD_IMG.switch: it waits for an open window to end. -/
def switchSteward (s : State) : State :=
  if s.power.boost.opened then modSteward s (fun x => { x with switchReq := true }) else restartSteward s

def execStewardSwitch (s : State) : Host.Outcome State Fault Refusal :=
  .next (if stewardTakes s then switchSteward s else s)

/-- The version of the image in the inactive slot: `known`, or where an image was written there, which the table has no row for, one that
the steward's check takes, at least the fused minimum: whether, and which, is a free value (R366, R398; log 121). -/
def imageVersion (known : Nat) (w : BitVec 64) : Nat :=
  let m := Config.fwMinimum.toNat
  if w.getLsbD 63 then m + w.toNat % (2 ^ 16 - m) else known

/-- The restart ends: from the other slot, or back in the old one with fallback set. -/
def stewardBack (ok : Bool) (s : State) : State :=
  if !s.safe.steward.restarting then s
  else if !ok then modSteward s (fun x => { x with restarting := false, fallback := true })
  else
    let w := s.safe.steward
    let v := imageVersion (if w.slot = 1 then w.verA else w.verB) (Config.freeWord s.free)
    modSteward { s with free := s.free + 1 } (fun x => { x with
      restarting := false, slot := 1 - x.slot, fallback := false
      verA := if x.slot = 1 then v else x.verA, verB := if x.slot = 0 then v else x.verB })

def execStewardRestartDone (ok : Bool) (s : State) : Host.Outcome State Fault Refusal := .next (stewardBack ok s)

/-! ### Clove BIST (R435) -/

/-- A clove that holds no ring position, nor is about to hold one. -/
def bistMay (s : State) (p : Nat) : Bool :=
  (ringPos s p).isNone && (clove s p).joining.isNone && !(clove s p).bist.busy

def bistGo (p : Nat) (s : State) : State :=
  if bistMay s p then modClove s p (fun c => { c with bist := { c.bist with busy := true } }) else s

def execClvBistGo (p : Nat) (s : State) : Host.Outcome State Fault Refusal :=
  onUnit (isClove p) (if hostBlock s then bistGo p s else s)

/-- BIST ends: the wipe, the result, and a failed spare where a spare not in use fails. -/
def bistDone (p fail : Nat) (s : State) : State :=
  let c := clove s p
  if !c.bist.busy then s
  else
    let fails := decide (fail % 16 ≠ 0) && decide (72 ≤ p % 76) && decide (c.seat = .asBuilt) && !c.quarantined && !c.failedSpare
    let t := modClove (wipeClove p s) p (fun x => { x with
      bist := ⟨false, decide (fail % 16 = 0), false, fail % 16⟩, failedSpare := x.failedSpare || fails })
    if fails then modSafe t (fun x => { x with ledger := { x.ledger with failedSpares := x.ledger.failedSpares ++ [p] } })
    else t

def execClvBistDone (p fail : Nat) (s : State) : Host.Outcome State Fault Refusal :=
  onUnit (isClove p) (if coreRuns s then bistDone p fail s else s)

/-! ### HBM MBIST (R436) -/

def mbistOf (s : State) (c : Nat) : Mbist := sget ⟨false, false, false, 0⟩ s.test.mbist c
def setMbist (c : Nat) (m : Mbist) (s : State) : State :=
  modTest s (fun t => { t with mbist := sset ⟨false, false, false, 0⟩ t.mbist c m })

def streamsOff (s : State) : Bool := s.host.streams.all (fun x => decide (x.2.state = .disabled))

/-- A channel as a module wipe leaves it: zeros, no fault. -/
def wipeChannel (c : Nat) (s : State) : State :=
  modMem s (fun m => clearUnit (0x2000 + c) { m with
    data := m.data.filter (fun x => !(decide (x.1 < hbmEnd) && decide (chanOf x.1 = c))) })

/-- A write of HBM_MBIST.go. Requests to a channel in service wait until the test's end, when it has been wiped: what comes
meanwhile finds it wiped. DEDUCED, see log 131. -/
def mbistGo (c : Nat) (s : State) : State :=
  let m := mbistOf s c
  if m.busy then s
  else if chState s c = 2 then setMbist c { m with busy := true } s
  else if streamsOff s then wipeChannel c (setMbist c { m with busy := true } s)
  else setMbist c { m with refused := true } s

def execHbmMbistGo (c : Nat) (s : State) : Host.Outcome State Fault Refusal :=
  onUnit (decide (c < 512)) (if hostBlock s then mbistGo c s else s)

/-- Remap entries for failing rows, origin UE, as far as entries are free. -/
def remapRows (c : Nat) (rows : List Nat) (s : State) : State :=
  let key := remapKey (0x2000 + c) 0
  modMem s (fun m => { m with remap := smod [] m.remap key (fun l => (l ++ rows.map (fun r => Remap.mk r true 1)).take 8) })

/-- MBIST ends with its failing rows; rows beyond the free entries mark the channel, with MEM_CE (R341; log 131). -/
def mbistDone (c : Nat) (rows : List Nat) (s : State) : State :=
  let m := mbistOf s c
  if !m.busy then s
  else
    let free := 8 - (sget [] s.mem.remap (remapKey (0x2000 + c) 0)).length
    let t := remapRows c rows (setMbist c { m with busy := false, pass := rows.isEmpty, rows := min 255 rows.length } s)
    if free < rows.length then
      raiseCE (0x2000 + c) (hbmPlace (c / 32) (4 * rows.getD free 0) (c % 32) 0) 3 (markChannel c t)
    else t

def execHbmMbistDone (c : Nat) (rows : List Nat) (s : State) : Host.Outcome State Fault Refusal :=
  onUnit (decide (c < 512)) (if coreRuns s then mbistDone c rows s else s)

end Sys2Proof.Machine
end

