-- ==== Sys2Proof/Machine/Startup.lean ====
section
/-! DEFINITION. Auxiliary power, the start-up sequence, module resets and life-cycle transitions (chapter 16). -/

namespace Sys2Proof.Machine

/-! ### The ledger is re-applied (R20, R342, R359, R363) -/

/-- Spares that are joining hold their places. -/
def seatSpares (s : State) : State :=
  modComp s (fun c => { c with
    cloves := c.cloves.map (fun x =>
      match x.2.joining with
      | some b => (x.1, { x.2 with seat := .replacing b, joining := none })
      | none => x) })

/-- A recorded quarantine: the clove is out, and the lowest free spare has its place, without an entry in QUAR_LOG. -/
def reapply (s : State) (x : Nat × Nat) : State :=
  let owner := seatOwner s x.1
  let t := modClove s x.1 (fun c => { c with
    quarantined := c.quarantined || !marksFailed owner x.2, mechanism := x.2, seat := .out
    failedSpare := c.failedSpare || marksFailed owner x.2 })
  match owner, freeSpare t (x.1 / 76) with
  | some b, some y => modClove t y (fun c => { c with seat := .replacing b })
  | _, _ => t

/-- Banks of a link tile in the ledger, taken from its 8 spares. -/
def ledgerBanks (s : State) : State :=
  (List.range 8).foldl (fun u k =>
    let n := (s.safe.ledger.banksRetired.filter (fun x => x.1 == k)).length
    modMem u (fun m => { m with bankSpares := sset 8 m.bankSpares k (8 - n) })) s

/-- Marked channels stay marked, retired ones RETIRED. -/
def ledgerChannels (s : State) : State :=
  let l := s.safe.ledger
  modMem s (fun m => { m with
    marked := l.marked
    remapExhausted := m.remapExhausted ++ ((l.marked.filter (fun c => !l.retired.contains c)).map (0x2000 + ·))
    chState := l.retired.foldl (fun x c => sset 0 x c 2) m.chState })

/-- The cloves, tiles and engines that the ledger keeps out of service (R20). -/
def applyLedger (s : State) : State :=
  let l := s.safe.ledger
  let t := l.failedSpares.foldl (fun u p => modClove u p (fun c => { c with failedSpare := true })) s
  let t := l.quarantines.foldl reapply t
  modComp t (fun c => { c with tileOut := l.tilesOut.map (·.1), updateOut := l.enginesOut })

/-! ### What the self-test finds (Table 13.8, R401) -/

/-- A bank whose checker fails goes to a spare bank, which the ledger gives it (R341). -/
def retireBank (s : State) (x : Nat × Nat) : State :=
  if 8 ≤ s.safe.ledger.banksRetired.countP (fun y => y.1 == x.1) then
    modMem s (fun m => { m with remapExhausted := (m.remapExhausted ++ [0x1000 + x.1]).dedup })
  else modSafe s (fun y => { y with ledger := { y.ledger with banksRetired := y.ledger.banksRetired ++ [x] } })

/-- A channel whose checker fails is RETIRED (Table 13.8); its addresses lie in its stack's reserve as far as that has room
for them (R362, log 24, log 119). -/
def retireChannel (s : State) (c : Nat) : State :=
  if s.safe.ledger.retired.contains c then s
  else
    let t := if 2 ≤ (s.mem.moved.filter (fun x => decide (x.1 / 32 = c / 32))).length then s else numberMoved c s
    modSafe t (fun x => { x with ledger := { x.ledger with retired := x.ledger.retired ++ [c] } })

/-- Everything the checkers and the first canaries find. -/
def applyFaults (f : StartFaults) (s : State) : State :=
  let t := f.cloves.foldl (fun u p => seatSpares (quarantine p 7 u)) s
  let t := f.canaries.foldl (fun u p => seatSpares (quarantine p 3 (count (safeBase + 0x6C) 1 u))) t
  let t := f.engines.foldl (fun u k => retireEngine k (count (safeBase + 0x6C) 1 u)) t
  let t := f.tiles.foldl (fun u k => tileOutOfService k 7 u) t
  let t := f.banks.foldl retireBank t
  let t := f.channels.foldl retireChannel t
  modMem t (fun m => { m with
    stCloves := f.cloves, stBanks := f.banks.map (fun x => 8 * x.1 + x.2 / 129), stChannels := f.channels
    stTiles := f.tiles })

/-! ### The sequence of Table 16.2 -/

/-- Enough is in service (R401). -/
def enough (f : StartFaults) (s : State) : Bool := f.lt0Ok && (List.range 16).any (fun t => !tileIsOut s t)

/-- The version of the microcode that is loaded: the stored image, or the bundle of the running firmware image where there is none or
its signature fails (R400). -/
def loadedUcode (bad : Bool) (w : StewardSt) : Nat :=
  let bundle := (Config.ucodeBundle w.slot (if w.slot = 0 then w.verA else w.verB)).toNat
  if bad then bundle else w.ucodeStored.getD bundle

/-- A bus between 40.0 and 42.0 V enters warning as soon as main power is up (R379). -/
def warnIfLow (s : State) : State :=
  if 40000 < s.power.bus ∧ s.power.bus < 42000 then warn s.power.bus s else s

/-- Start-up from main-power enable to its end: ready, or FAILED and in safe stop. -/
def startUp (f : StartFaults) (s : State) : State :=
  let t := cleared s
  let t := modPower t (fun p => { readBlades f.vinA f.vinB p with main := true, ok := true })
  let t := modSafe t (fun x => { x with
    life := { x.life with nonceNo := x.life.nonceNo + 1 }
    steward := { x.steward with ucodeVersion := loadedUcode f.ucodeBad x.steward } })
  let t := hbmReason (ledgerChannels (ledgerBanks (applyFaults f (applyLedger t))))
  if enough f t then
    let t := modSafe (forcedStart true (forcedStart false t)) (fun x => { x with phase := 5 })
    warnIfLow (setReady true t)
  else warnIfLow (safeStop (modSafe t (fun x => { x with phase := 6 })))

/-! ### Auxiliary power (R390, R398) -/

/-- The steward boots from the active slot, from the other one, or stays in ROM recovery: an image boots whose signature verifies
and whose version is not below the fused minimum. -/
def bootSteward (okA okB : Bool) (w : StewardSt) : StewardSt :=
  let a := okA && decide (Config.fwMinimum.toNat ≤ w.verA)
  let b := okB && decide (Config.fwMinimum.toNat ≤ w.verB)
  let here := if w.slot = 0 then a else b
  let there := if w.slot = 0 then b else a
  if here then { w with on := true, booted := true, fallback := false }
  else if there then { w with on := true, booted := true, slot := 1 - w.slot, fallback := true }
  else { w with on := true, booted := false, recovery := true }

/-- AUX_3V3 enters its range. -/
def auxOn (okA okB : Bool) (s : State) : State :=
  if s.power.aux then s
  else
    let w := bootSteward okA okB s.safe.steward
    let t := modSafe s (fun x => { x with
      steward := w, recovery := w.recovery, life := { x.life with nonceNo := x.life.nonceNo + 1 } })
    modPower t (fun p => { p with aux := true, cause := 0 })

def execAuxPowerOn (okA okB : Bool) (s : State) : Host.Outcome State Fault Refusal := .next (auxOn okA okB s)

/-- AUX_3V3 leaves its range: main power goes with it. -/
def auxOff (s : State) : State :=
  if !s.power.aux then s
  else
    let t := mainOff 0 s
    let t := modSafe t (fun x => { x with
      recovery := false
      steward := { x.steward with on := false, booted := false, recovery := false, restarting := false, switchReq := false } })
    { modPower t (fun p => { p with aux := false }) with test := TestSt.empty }

def execAux3v3Loss (s : State) : Host.Outcome State Fault Refusal := .next (auxOff s)

/-! ### Main power (R378, R379, R388, R399) -/

/-- A voltage meets the restart condition of Table 15.9. -/
def mayRestart (mv : Nat) : Bool := decide (40000 < mv) && decide (mv < 60000)

/-- The conditions of R399: a booted steward, a blade that feeds within the restart condition, none reversed, and no thermal
shutdown held. RESET_N is high but within RESET_N itself (log 134). -/
def mayPower (f : StartFaults) (s : State) : Bool :=
  let p := s.power
  p.aux && stewardUp s && !p.shutdown
    && ((p.mateA && !p.outA && mayRestart f.vinA) || (p.mateB && !p.outB && mayRestart f.vinB))
    && !(p.mateA && p.polarityA) && !(p.mateB && p.polarityB)

def mayEnable (f : StartFaults) (s : State) : Bool := !s.power.main && mayPower f s

def enableMain (f : StartFaults) (s : State) : State := if mayEnable f s then startUp f s else s

def execMainPowerEnable (f : StartFaults) (s : State) : Host.Outcome State Fault Refusal := .next (enableMain f s)

def restartMain (f : StartFaults) (s : State) : State := if mayEnable f s then startUp f s else s

def execMainPowerRestart (f : StartFaults) (s : State) : Host.Outcome State Fault Refusal := .next (restartMain f s)

/-- After a thermal shutdown: every sensor reads below 85 °C, and a restart is asked for. -/
def restartCool (cool : Bool) (f : StartFaults) (s : State) : State :=
  if s.power.shutdown ∧ cool ∧ stewardUp s then enableMain f (modPower s (fun p => { p with shutdown := false })) else s

def execThermalRestart (cool : Bool) (f : StartFaults) (s : State) : Host.Outcome State Fault Refusal :=
  .next (restartCool cool f s)

/-! ### Module resets (R392, R397) -/

/-- A module reset for a cause of PWR_CAUSE: every register takes its reset value, LC_NONCE is refreshed, and the sequence of R399
runs as soon as its conditions hold: at once, or with a later MAIN_POWER_ENABLE or MAIN_POWER_RESTART. -/
def moduleReset (cause : Nat) (f : StartFaults) (s : State) : State :=
  if !s.power.aux then s
  else
    let t := modPower s (fun p => { p with cause := cause })
    if mayPower f t then startUp f t
    else modSafe (cleared t) (fun x => { x with life := { x.life with nonceNo := x.life.nonceNo + 1 } })

def execResetN (f : StartFaults) (s : State) : Host.Outcome State Fault Refusal := .next (moduleReset 5 f s)

/-- A write of GLB_RESET: the module bit, or else the host bit, with the key. -/
def writeReset (v : Nat) (f : StartFaults) (s : State) : State :=
  if bitAt v 0 ∧ bitsAt v 15 8 = 0xA5 then moduleReset 6 f s else resetHostBy v s

def execGlbResetModule (v : Nat) (f : StartFaults) (s : State) : Host.Outcome State Fault Refusal :=
  .next (if hostBlock s then writeReset v f s else s)

/-! ### Life cycle (R406 to R409) -/

/-- The key that signs a transition of Table 16.5: 0 Vienawick's, 1 the owner's; none where there is no transition. -/
def transitionKey (fromSt toSt : Nat) : Option Nat :=
  match fromSt, toSt with
  | 0, 1 => some 0
  | 1, 2 => some 1
  | 2, 1 => some 1
  | 2, 3 => some 1
  | 1, 3 => some 1
  | 3, 1 => some 0
  | _, _ => none

def cmdBytes (cmd : List Byte) (a n : Nat) : List Byte := (cmd.drop a).take n

/-- The first check of R409 that fails, by its code of LC_STAT.result; 0 when all pass. -/
def lcResult (cmd : List Byte) (s : State) : Nat :=
  let l := s.safe.life
  let target := leNat (cmdBytes cmd 1 1)
  match (if leNat (cmdBytes cmd 0 1) = 0x4C then transitionKey l.state target else none) with
  | none => 1
  | some key =>
    if leNat (cmdBytes cmd 8 8) ≠ Config.serial.toNat ∨ leNat (cmdBytes cmd 0x10 32) ≠ (Config.nonce l.nonceNo).toNat then 2
    else if !Config.ecdsaOk key ((if key = 1 then l.ownerHash else []) ++ cmd) then 3
    else if !streamsOff s then 4
    else if l.left = 0 then 5
    else 0

/-- The new state is written, with a new owner's hash where the Vienawick key signs. -/
def newLife (cmd : List Byte) (l : LifeSt) : LifeSt :=
  let target := leNat (cmdBytes cmd 1 1)
  { l with
    state := target, left := l.left - 1
    ownerHash := if transitionKey l.state target = some 0 then cmdBytes cmd 0x30 48 else l.ownerHash }

/-- The signed command that clears ledger entries (R359, R367): its checks are the transition's of R409. DESIGN CHOICE, see log 132. -/
def clearResult (cmd : List Byte) (s : State) : Nat :=
  if leNat (cmdBytes cmd 8 8) ≠ Config.serial.toNat ∨ leNat (cmdBytes cmd 0x10 32) ≠ (Config.nonce s.safe.life.nonceNo).toNat then 2
  else if !Config.ecdsaOk 0 cmd then 3
  else 0

/-- The ledger without its entries: the units return to service at the next reset, the reasons clear now. Wear stays. -/
def clearEntries (l : Ledger) : Ledger :=
  { Ledger.empty with clock := l.clock, wear := l.wear, wearRaised := l.wearRaised }

/-- What the wipe of a life-cycle transition takes beyond a module reset's: the steward's volatile data, with the faults that its
status commands report (Table 13.9). -/
def wipeVolatile (s : State) : State := modPower s (fun p => { p with pmbusFault := p.pmbusFault + 1 })

/-- The steward takes a command; LC_NONCE is refreshed after it. -/
def lifeCommand (cmd : List Byte) (f : StartFaults) (s : State) : State :=
  if s.safe.life.state = 3 ∧ leNat (cmdBytes cmd 0 1) ≠ 0x4C ∧ Config.clearsLedger cmd then
    let r := clearResult cmd s
    modSafe s (fun x => { x with
      life := { x.life with result := r, nonceNo := x.life.nonceNo + 1 }
      ledger := if r = 0 then clearEntries x.ledger else x.ledger })
  else
  let r := lcResult cmd s
  let refresh (l : LifeSt) : LifeSt := { l with result := r, nonceNo := l.nonceNo + 1 }
  if r ≠ 0 then modSafe s (fun x => { x with life := refresh x.life })
  else wipeVolatile (moduleReset 6 f (modSafe s (fun x => { x with life := refresh (newLife cmd x.life) })))

/-- A command is 248 bytes (R408): another length is none. -/
def execLcCmd (cmd : List Byte) (f : StartFaults) (s : State) : Host.Outcome State Fault Refusal :=
  .next (if s.power.aux && stewardUp s && decide (cmd.length = 248) then lifeCommand cmd f s else s)

end Sys2Proof.Machine
end

