-- ==== Sys2Proof/Machine/Registers.lean ====
section
/-! DEFINITION. Snapshots of the counters, and writes of the registers of BAR0 (chapter 17, and the register tables of the other chapters). -/

namespace Sys2Proof.Machine

/-! ### Snapshots (R416) -/

/-- The counters of the governor, which a restarting steward does not answer for. -/
def govCounter (a : Nat) : Bool := decide (govBase ≤ a) && decide (a < govBase + 0x1000)

/-- Counters as a strobe copies them: the governor's stay as they were while the steward restarts. -/
def copiedNow (s : State) : Sparse Nat :=
  if s.safe.steward.restarting then
    ((s.reg.ctr.filter (fun x => !govCounter x.1)) ++ (s.reg.copy.filter (fun x => govCounter x.1))).mergeSort
      (fun a b => decide (a.1 ≤ b.1))
  else s.reg.ctr

/-- Live counters without what the copy holds: an occurrence after the strobe is kept. -/
def lessCopy (s : State) : Sparse Nat :=
  (s.reg.ctr.map (fun x =>
    if s.safe.steward.restarting ∧ govCounter x.1 then x else (x.1, x.2 - sget 0 s.reg.nextCopy x.1))).filter
    (fun x => decide (x.2 ≠ 0))

/-- Every live counter and timer returns to zero after the copy. -/
def clearCounters (s : State) : State := modReg s (fun r => { r with ctr := lessCopy s, snap := { r.snap with clear := true } })

/-- Take a copy; it becomes readable when it is distributed. -/
def takeSnapshot (auto clear : Bool) (s : State) : State :=
  let t := latchNow s
  let y := t.tally
  let t := modReg t (fun r => { r with
    nextCopy := copiedNow t, phaseNext := (List.range 7).foldl (fun l f => sset Phase.none l f (phaseRec t f)) []
    snap := ⟨true, false, y.now.pair, y.now.frac, tstateCode y.state, auto, (r.snap.seq + 1) % 2 ^ 32⟩ })
  if clear then clearCounters t else t

/-- A strobe; while one is being distributed it joins that one. -/
def strobe (auto clear : Bool) (s : State) : State :=
  if s.reg.snap.busy then (if clear ∧ !s.reg.snap.clear then clearCounters s else s) else takeSnapshot auto clear s

def execGlbSnapStrobe (clear : Bool) (s : State) : Host.Outcome State Fault Refusal :=
  .next (if hostBlock s then strobe false clear s else s)

/-- The period of automatic strobes, µs. -/
def snapPeriod (s : State) : Nat := reg4 s 0x200 / 2 ^ 12

def execAutoSnapshot (s : State) : Host.Outcome State Fault Refusal :=
  .next (if decide (snapPeriod s ≠ 0) && started s then strobe true false s else s)

/-- The copy becomes readable, all at once. -/
def distribute (s : State) : State :=
  if s.reg.snap.busy then
    modReg s (fun r => { r with copy := r.nextCopy, phaseCopy := r.phaseNext, snap := { r.snap with busy := false } })
  else s

def execSnapshotDistributed (s : State) : Host.Outcome State Fault Refusal := .next (distribute s)

/-! ### Fields -/

/-- Bits [h:l] set in a mask. -/
def maskBits (h l : Nat) : Nat := 2 ^ (h + 1) - 2 ^ l

/-- `v` with `n` bits from bit `lo` on replaced by those of `w`. -/
def setBits (v lo n w : Nat) : Nat := v - (v / 2 ^ lo % 2 ^ n) * 2 ^ lo + (w % 2 ^ n) * 2 ^ lo

/-- Hold the bits of a mask of a word, or of a 64-bit register. -/
def hold4 (a mask v : Nat) (s : State) : State := setReg4 s a (v &&& mask)
def hold8 (a mask v : Nat) (s : State) : State := setReg8 s a (v % 2 ^ 64 &&& mask)

/-- Overflow bits are W1C. -/
def clearOvf (a v : Nat) (s : State) : State :=
  modReg s (fun r => { r with ovf := smod 0 r.ovf a (fun b => b - (b &&& v)) })

/-- Start-up with a self-test that finds nothing, and the blades' voltages as last read. -/
def StartFaults.none (s : State) : StartFaults := ⟨[], [], [], [], [], [], false, true, s.power.vinA, s.power.vinB⟩

/-! ### Global block (Tables 16.7, 17.3) -/

/-- A 4-byte write to the window of LC_CMD at command offset `o`; the last one submits (R408). -/
def writeLcWindow (o v : Nat) (s : State) : State :=
  let w := s.safe.life.window ++ List.replicate (248 - s.safe.life.window.length) 0#8
  let w := w.take o ++ leBytes 4 v ++ w.drop (o + 4)
  let t := modSafe s (fun x => { x with life := { x.life with window := w } })
  if o = 0xF4 then lifeCommand w (StartFaults.none s) t else t

def writeGlobal (a v : Nat) (s : State) : State :=
  if a = 0x18 then writeInterlock (bitAt v 0) s
  else if a = 0x20 then writeReset v (StartFaults.none s) s
  else if 0x80 ≤ a ∧ a < 0x178 then (if stewardUp s then writeLcWindow (a - 0x80) v s else s)
  else if a = 0x200 then
    let t := hold4 a (maskBits 31 12) v s
    if bitAt v 0 then strobe false (bitAt v 1) t else t
  else if a = 0x220 then irqTest v s
  else s

/-! ### Host and ring block (Tables 17.5, 17.6) -/

/-- STREAM_CTRL: one action that acts, or cfg_err; the priority stands (R420). -/
def writeStreamCtrl (i v : Nat) (s : State) : State :=
  let acts := (List.range 5).filter (fun k => bitAt v k)
  let put (t : State) : State := hold4 (ringReg i 0xC) (maskBits 9 8) v t
  match acts with
  | [] => put s
  | [k] => if actsIn k (stream s i).state then streamAction k i (put s) else streamAction k i s
  | _ => modStream s i (fun x => { x with cfgErr := true })

/-- A ring's base or size register is written while its stream is DISABLED, with a size of at most 16 (R247). -/
def writeRingReg (i : Nat) (ok : Bool) (f : State → State) (s : State) : State :=
  if ok && decide ((stream s i).state = .disabled) then f s else modStream s i (fun x => { x with cfgErr := true })

def clearRingErr (i v : Nat) (s : State) : State :=
  modStream s i (fun x => { x with
    cfgErr := x.cfgErr && !bitAt v 4, dbErr := x.dbErr && !bitAt v 5, descErr := x.descErr && !bitAt v 6 })

/-- The event ring's counts return to 0 with a write of its base or size. -/
def resetEq (s : State) : State := modHost s (fun h => { h with eqProduced := 0, eqConsumed := 0 })

/-- The MSI-X table entry word `o` of the table (R271). -/
def writeMsix (o v : Nat) (s : State) : State :=
  let n := o / 16
  if 64 < n then s
  else if o % 16 = 12 then
    if masked s n && !bitAt v 0 then unmask n (hold4 (hostBase + 0x8000 + o) (2 ^ 32 - 1) (v + 1) s)
    else hold4 (hostBase + 0x8000 + o) (2 ^ 32 - 1) v s
  else hold4 (hostBase + 0x8000 + o) (2 ^ 32 - 1) v s

def writeHost (o v : Nat) (s : State) : State :=
  let a := hostBase + o
  if o = 0 then hold4 a 3 v s
  else if o = 0x18 then hold4 a 0xFFFF v s
  else if o = 0x38 then (if bitsAt v 4 0 ≤ 16 then resetEq (hold4 a 0x1F v s) else s)
  else if o = 0x5C then clearOvf a v s
  else if 0x800 ≤ o ∧ o < 0x800 + 0x10 * 65 ∧ o % 0x10 = 0 then hold4 a (maskBits 7 0 + maskBits 25 16) v s
  else if 0x1000 ≤ o ∧ o < 0x2000 then
    let i := (o - 0x1000) / 0x40
    if o % 0x40 = 8 then writeRingReg i (decide (bitsAt v 4 0 ≤ 16)) (hold4 a 0x1F v) s
    else if o % 0x40 = 0xC then writeStreamCtrl i v s
    else if o % 0x40 = 0x10 then clearRingErr i v s
    else if o % 0x40 = 0x1C then clearOvf a v s
    else s
  else if 0x2000 ≤ o ∧ o < 0x3000 then
    if o % 0x40 = 8 then writeRingReg ((o - 0x2000) / 0x40) (decide (bitsAt v 4 0 ≤ 16)) (hold4 a 0x1F v) s else s
  else if o = 0x3000 then writeBwsplit v s
  else if o = 0x3004 then hold4 a (maskBits 19 0) v s
  else if 0x3010 ≤ o ∧ o < 0x3020 then writeSlotLen ((o - 0x3010) / 4) v s
  else if 0x8000 ≤ o ∧ o < 0x8000 + 16 * 65 then writeMsix (o - 0x8000) v s
  else s

/-- HBM_STASH pages: at most 2^20, and not below those in use (Table 17.6). -/
def writeStashPages (v : Nat) (s : State) : State :=
  let n := bitsAt v 20 0
  let t := if bitAt v 63 then modHost s (fun h => { h with stashErr := false }) else s
  if n ≤ 2 ^ 20 ∧ (hbmPagesUsed s).length ≤ n then setReg4 t (hostBase + 0x3028) n
  else modHost t (fun h => { h with stashErr := true })

/-- The HBM stash region's base, only while it has no page. -/
def writeStashBase (v : Nat) (s : State) : State :=
  if reg4 s (hostBase + 0x3028) % 2 ^ 21 = 0 then hold8 (hostBase + 0x3020) (maskBits 63 16) v s
  else modHost s (fun h => { h with stashErr := true })

/-! ### Tally, governor and safety blocks (Tables 9.7, 15.18, 14.7, 13.10) -/

/-- TALLY_CTRL: its fields, and a source that changes. -/
def writeTallyCtrl (v : Nat) (s : State) : State :=
  let t := setReg4 s tallyBase ((v &&& maskBits 21 2) + tsrc s)
  settle s (writeSrc (v % 4) t)

def clearTallyStat (v : Nat) (s : State) : State :=
  modTally s (fun y => { y with
    resync := y.resync && !bitAt v 3, quadErr := y.quadErr && !bitAt v 9, presetErr := y.presetErr && !bitAt v 10 })

def writeTally (o v : Nat) (s : State) : State :=
  let a := tallyBase + o
  if o = 0 then writeTallyCtrl v s
  else if o = 4 then clearTallyStat v s
  else if o = 8 then hold4 a (maskBits 19 0) v s
  else if o = 0xC ∨ o = 0x10 then hold4 a (maskBits 31 0) v s
  else if o = 0x34 then hold4 a 0x3F v s
  else if o = 0x38 then (if bitAt v 0 then testGo s else s)
  else if o = 0x5C then clearOvf a v s
  else if 0x1000 ≤ o ∧ o < 0x3000 ∧ o % 16 = 8 then writeAlmCtrl ((o - 0x1000) / 16) v s
  else s

def clearPwrStat (v : Nat) (s : State) : State :=
  modPower s (fun p => { p with
    bladeLostA := p.bladeLostA && !bitAt v 4, bladeLostB := p.bladeLostB && !bitAt v 5
    currentTrip := p.currentTrip && !bitAt v 6 })

def writeGov (o v : Nat) (s : State) : State :=
  if !stewardUp s then s
  else if o = 0 then
    let t := if bitAt v 1 then cancelWindow s else s
    writeBoostEn (bitAt v 0) t
  else if o = 0x10 then clearPwrStat v s
  else if o = 0x38 then clearOvf (govBase + o) v s
  else if 0x100 ≤ o ∧ o < 0x300 ∧ o % 0x20 = 0x10 then writePlanArm ((o - 0x100) / 0x20) (bitAt v 0) s
  else s

/-- A pair of a plan entry, while the entry is not armed (R235). -/
def writePlanPair (o v : Nat) (s : State) : State :=
  if planArmed s ((o - 0x100) / 0x20) ∨ !stewardUp s then s else setReg8 s (govBase + o) v

/-- CANARY_CTRL: a 0 is ignored outside MANUFACTURE. -/
def writeCanaryCtrl (v : Nat) (s : State) : State :=
  if bitAt v 0 ∨ s.safe.life.state = 0 then hold4 (safeBase + 0x68) 1 v s else s

/-- HBM_RESERVE: its bit changes only while no channel migrates (R361). -/
def writeReserve (v : Nat) (s : State) : State :=
  if s.mem.chState.any (fun x => decide (x.2 = 1)) then s else hold4 (safeBase + 0x80) 1 v s

def writeSafe (o v : Nat) (s : State) : State :=
  let a := safeBase + o
  if o = 0 then modSafe s (fun x => { x with tempDisagree := x.tempDisagree && !bitAt v 2 })
  else if o = 0x60 then writeQuarReq v s
  else if o = 0x68 then writeCanaryCtrl v s
  else if o = 0x70 then clearOvf a v s
  else if o = 0x80 then writeReserve v s
  else if o = 0x88 then writeRetire v s
  else if o = 0xC8 then (if bitAt v 0 ∧ stewardUp s then ucodeGo s else s)
  else s

/-! ### Ports, channels, cloves and tiles (Tables 11.8, 17.9 to 17.12, 18.2) -/

/-- PORT_CTRL: pmd while DISABLED, recal_auto, enable, retrain. -/
def writePortCtrl (p v : Nat) (s : State) : State :=
  let c := pctl s p
  let pmd := if (port s p).state = 0 then bitsAt v 2 1 else bitsAt c 2 1
  let t := setReg4 s (portBase p) (c % 2 + 2 * pmd + 16 * b2n (bitAt v 4))
  let t := if bitAt v 0 then enablePort p t else disablePort p t
  if bitAt v 3 then retrainPort p t else t

/-- PM_CTRL of a lane: its fields, the request for ownership, an injected error. A checker turned off holds no lock. -/
def writePmCtrl (p n v : Nat) (s : State) : State :=
  let a := pmReg p n 0
  let t := setReg4 s a (reg4 s a % 2 + (v &&& maskBits 8 1))
  let t := if bitAt v 5 then t else modPm p n (fun y => { y with locked := false }) t
  let t := if bitAt v 0 then (if (pmOf (port t p) n).owned then t else pmTake p n t) else pmRelease p n t
  if bitAt v 9 then pmInject p n t else t

def clearPmStat (p n v : Nat) (s : State) : State :=
  modPm p n (fun y => { y with
    lostLock := y.lostLock && !bitAt v 2, preempted := y.preempted && !bitAt v 3, refused := y.refused && !bitAt v 4 }) s

def writePort (p o v : Nat) (s : State) : State :=
  let a := portBase p + o
  if o = 0 then writePortCtrl p v s
  else if o = 8 then hold4 a (maskBits 21 0) v s
  else if o = 0x10 then hold4 a (maskBits 19 0) v s
  else if o = 0x14 then hold4 a (maskBits 15 0) v s
  else if 0x40 ≤ o ∧ o < 0x60 then (if (port s p).state = 0 then hold4 a (maskBits 15 0) v s else s)
  else if 0x400 ≤ o ∧ o < 0x640 then
    let n := (o - 0x400) / 0x40
    if o % 0x40 = 0 then writePmCtrl p n v s
    else if o % 0x40 = 4 then clearPmStat p n v s
    else s
  else s

/-- A 4-byte write of a MEM_INJ register: word `k` of the 96 bits of unit `u`. -/
def writeInj (u k v : Nat) (s : State) : State := setInj u (setBits (sget 0 s.mem.inj (injKey u)) (32 * k) 32 v) s

/-- A RETIRED channel takes no write but the start of its MBIST (R414, R436). -/
def writeChan (c o v : Nat) (s : State) : State :=
  if o = 0x30 then
    let t := if bitAt v 3 then setMbist c { mbistOf s c with refused := false } s else s
    if bitAt v 0 then mbistGo c t else t
  else if chState s c = 2 then s
  else if o = 0x18 then clearOvf (chanBase c + o) v s
  else if 0x20 ≤ o ∧ o < 0x2C then writeInj (0x2000 + c) ((o - 0x20) / 4) v s
  else s

/-- CLV_STASH.pages of Table 17.11; `used` counts the page table. -/
def stashUsed (s : State) (p : Nat) : Nat :=
  (slicePages s p).length + (if (clove s p).stashPages = 0 then 0 else 1)

def writeStash (p v : Nat) (s : State) : State :=
  let n := bitsAt v 7 0
  let t := if bitAt v 31 then modClove s p (fun c => { c with stashErr := false }) else s
  if 224 < n ∨ (stashUsed s p ≠ 0 ∧ n < stashUsed s p + 1) then modClove t p (fun c => { c with stashErr := true })
  else modClove t p (fun c => { c with stashPages := n })

/-- A quarantined clove, or a failed spare, takes no write but the start of its BIST, from either register (R414, R435, R438). -/
def writeClove (p o v : Nat) (s : State) : State :=
  if (o = 0 ∨ o = 0x10) ∧ bitAt v 0 then bistGo p s
  else if !cloveTakes s p then s
  else if o = 0 ∧ bitAt v 1 then canaryNow p true s
  else if o = 0x40 then writeStash p v s
  else if o = 0x134 ∨ o = 0x3018 then clearOvf (cloveBase p + o) v s
  else if 0x3020 ≤ o ∧ o < 0x302C then writeInj p ((o - 0x3020) / 4) v s
  else s

def writeTile (t o v : Nat) (s : State) : State :=
  if o = 0x214 ∧ !tileIsOut s t then clearOvf (tileBase t + o) v s else s

/-! ### Link tiles (Tables 12.7, 17.13) -/

def portsOff (s : State) : Bool := s.ports.all (fun x => x.2.state == 0)

/-- NODE_DIMS: a dimension outside 1 to 32 sets err, and the write is ignored whole. -/
def writeDims (v : Nat) (s : State) : State :=
  let ok (n : Nat) : Bool := decide (1 ≤ n) && decide (n ≤ 32)
  if ok (bitsAt v 5 0) && ok (bitsAt v 11 6) && ok (bitsAt v 17 12) then
    let t := hold4 (linkBase 0 + 8) (maskBits 17 0) v s
    if bitAt v 18 then modLink t (fun l => { l with dimsErr := false }) else t
  else modLink s (fun l => { l with dimsErr := true })

/-- LNK_POOL: new pools of at most 1,024 banks, while every stream is DISABLED; a write that changes no pool only clears
errors. -/
def writePool (k v : Nat) (s : State) : State :=
  let a := linkBase k + 0x18
  let t := modLink s (fun l => { l with
    creditErr := if bitAt v 62 then l.creditErr.filter (· != k) else l.creditErr
    poolErr := if bitAt v 63 then l.poolErr.filter (· != k) else l.poolErr })
  let total := bitsAt v 10 0 + bitsAt v 21 11 + bitsAt v 32 22 + bitsAt v 43 33 + bitsAt v 54 44
  if v % 2 ^ 55 = reg8 s a then t
  else if total ≤ 1024 ∧ streamsOff s then setReg8 t a (v % 2 ^ 55)
  else modLink t (fun l => { l with poolErr := (l.poolErr ++ [k]).dedup })

/-- HOME_LOAD: the range, and go. -/
def writeHomeLoad (k v : Nat) (s : State) : State :=
  let t := hold8 (linkBase k + 0x48) (maskBits 40 0) v s
  if bitAt v 63 then homeLoadGo k t else t

/-- Offsets of the registers marked "module", which exist in LT0's block only (R325, R425). -/
def moduleReg (o : Nat) : Bool :=
  decide (o < 0x18) || decide (o = 0x20) || decide (o = 0x24) || decide (o = 0x28) || (decide (0x800 ≤ o) && decide (o < 0xA00))
    || (decide (0x1000 ≤ o) && decide (o < 0x1C00))

/-- 4-byte registers of link tile `k`. -/
def writeLink (k o v : Nat) (s : State) : State :=
  if moduleReg o ∧ k ≠ 0 then s
  else if o = 0 then (if portsOff s then hold4 (linkBase 0) 0xFFFF v s else s)
  else if o = 4 then modLink s (fun l => { l with logical := some (v % 2 ^ 16) })
  else if o = 8 then writeDims v s
  else if o = 0x20 then writeLnkBkt v s
  else if o = 0x24 then settleEngines s (cancelBucket (bitsAt v 11 0) s)
  else if o = 0x28 then hold4 (linkBase 0 + o) (maskBits 31 0) v s
  else if o = 0x30 then hold4 (linkBase k + o) (maskBits 19 0) v s
  else if o = 0x203C ∨ o = 0x3018 then clearOvf (linkBase k + o) v s
  else if 0x3020 ≤ o ∧ o < 0x302C then writeInj (0x1000 + k) ((o - 0x3020) / 4) v s
  else s

/-! ### The BAR0 map (R412, R413) -/

/-- A 64-bit register: the value that a write of one half leaves in the other, and the write of the whole. -/
structure Reg64 where
  cur : Nat
  put : Nat → State → State

def held64 (s : State) (a mask : Nat) : Reg64 := ⟨reg8 s a, hold8 a mask⟩

def host64 (s : State) (o : Nat) : Option Reg64 :=
  let a := hostBase + o
  if o = 8 then some (held64 s a (maskBits 63 10))
  else if o = 0x10 then some (held64 s a (maskBits 63 5))
  else if o = 0x20 then some (held64 s a (maskBits 63 6))
  else if o = 0x28 then some (held64 s a (maskBits 63 30))
  else if o = 0x30 then some ⟨reg8 s a, fun v t => resetEq (hold8 a (maskBits 63 12) v t)⟩
  else if o = 0x40 then
    some ⟨0, fun v t => modHost t (fun h => { h with eqOverflow := h.eqOverflow && !bitAt v 0 })⟩
  else if 0x1000 ≤ o ∧ o < 0x3000 ∧ o % 0x40 = 0 then
    some ⟨reg8 s a, fun v t => writeRingReg (o % 0x1000 / 0x40) true (hold8 a (maskBits 63 12) v) t⟩
  else if o = 0x3020 then some ⟨reg8 s a, writeStashBase⟩
  else if o = 0x3028 then some ⟨reg4 s a, writeStashPages⟩
  else none

def tally64 (s : State) (o : Nat) : Option Reg64 :=
  if o = 0x18 then some ⟨s.tally.preset.getD s.tally.now.pair % 2 ^ 64, fun v t => writePreset (v % 2 ^ 64) t⟩
  else if 0x1000 ≤ o ∧ o < 0x3000 ∧ o % 16 = 0 then
    some ⟨reg8 s (tallyBase + o), fun v t => writeAlmMark ((o - 0x1000) / 16) v t⟩
  else none

def gov64 (s : State) (o : Nat) : Option Reg64 :=
  if 0x100 ≤ o ∧ o < 0x300 ∧ o % 0x20 < 0x10 then some ⟨reg8 s (govBase + o), writePlanPair o⟩ else none

def port64 (s : State) (p o : Nat) : Option Reg64 :=
  let a := portBase p + o
  if o = 0x30 then some ⟨0, clearOvf a⟩
  else if 0x400 ≤ o ∧ o < 0x640 ∧ o % 0x40 = 0x18 then some (held64 s a (2 ^ 64 - 1))
  else none

/-- SLOT without its res bits. -/
def slotMask : Nat := maskBits 21 0 + maskBits 63 32

def link64 (s : State) (k o : Nat) : Option Reg64 :=
  let a := linkBase 0 + o
  if moduleReg o ∧ k ≠ 0 then none
  else if o = 0x10 then some (held64 s a (maskBits 63 7))
  else if o = 0x18 then some ⟨reg8 s (linkBase k + o), writePool k⟩
  else if o = 0x38 then some ⟨homeEntry s (homeAddr s k), fun v t => homeData k (some v) t⟩
  else if o = 0x40 then some (held64 s (linkBase k + o) (2 ^ 64 - 1))
  else if o = 0x48 then some ⟨reg8 s (linkBase k + o), writeHomeLoad k⟩
  else if 0x800 ≤ o ∧ o < 0xA00 then some (held64 s a (maskBits 33 0))
  else if 0x1000 ≤ o ∧ o < 0x1800 then some (held64 s a slotMask)
  else none

def safe64 (s : State) (o : Nat) : Option Reg64 :=
  let a := safeBase + o
  if o = 0xC0 then some ⟨reg8 s a, fun v t => if stewardUp t then setReg8 t a v else t⟩
  else if o = 0xD0 then some ⟨0, fun v t => if bitAt v 2 ∧ stewardUp t then switchSteward t else t⟩
  else if o = 0x1000 then some ⟨reg8 s a, fun v t => rearmScrub (hold8 a (2 ^ 64 - 1) v t)⟩
  else if o = 0x1008 ∨ o = 0x1010 then some ⟨reg8 s a, fun v t => rearmScrub (hold8 a (2 ^ 48 - 1) v t)⟩
  else if o = 0x1018 then
    some ⟨0, fun v t => modMem t (fun m => { m with
      forcedSram := m.forcedSram && !bitAt v 0, forcedHbm := m.forcedHbm && !bitAt v 1 })⟩
  else none

/-- A block of Table 17.1 with the instance and the offset of a BAR0 address. -/
inductive BarPlace where
  | global (o : Nat)
  | host (o : Nat)
  | tally (o : Nat)
  | gov (o : Nat)
  | port (p o : Nat)
  | chan (c o : Nat)
  | clove (p o : Nat)
  | tile (t o : Nat)
  | link (k o : Nat)
  | safe (o : Nat)
  | none
  deriving DecidableEq, Repr

def blockOf (a : Nat) : BarPlace :=
  if a < 0x10000 then .global a
  else if a < 0x20000 then .host (a - 0x10000)
  else if tallyBase ≤ a ∧ a < tallyBase + 0x3000 then .tally (a - tallyBase)
  else if govBase ≤ a ∧ a < govBase + 0x1000 then .gov (a - govBase)
  else if portBase 0 ≤ a ∧ a < portBase 48 then .port ((a - portBase 0) / 0x1000) (a % 0x1000)
  else if chanBase 0 ≤ a ∧ a < chanBase 512 then .chan ((a - chanBase 0) / 0x400) (a % 0x400)
  else if cloveBase 0 ≤ a ∧ a < cloveBase 1216 then .clove ((a - cloveBase 0) / 0x4000) (a % 0x4000)
  else if tileBase 0 ≤ a ∧ a < tileBase 16 then .tile ((a - tileBase 0) / 0x10000) (a % 0x10000)
  else if linkBase 0 ≤ a ∧ a < linkBase 8 then .link ((a - linkBase 0) / 0x10000) (a % 0x10000)
  else if safeBase ≤ a ∧ a < safeBase + 0x4000 then .safe (a - safeBase)
  else .none

/-- The 64-bit register at an address. -/
def reg64 (s : State) (a : Nat) : Option Reg64 :=
  match blockOf a with
  | .host o => host64 s o
  | .tally o => tally64 s o
  | .gov o => gov64 s o
  | .port p o => port64 s p o
  | .link k o => link64 s k o
  | .safe o => safe64 s o
  | _ => Option.none

/-- A write of a 4-byte register. -/
def writeWord (a v : Nat) (s : State) : State :=
  match blockOf a with
  | .global o => writeGlobal o v s
  | .host o => writeHost o v s
  | .tally o => writeTally o v s
  | .gov o => writeGov o v s
  | .port p o => writePort p o v s
  | .chan c o => writeChan c o v s
  | .clove p o => writeClove p o v s
  | .tile t o => writeTile t o v s
  | .link k o => writeLink k o v s
  | .safe o => writeSafe o v s
  | .none => s

/-- A 4-byte write: of a 64-bit register it writes that half alone. -/
def write4 (a v : Nat) (s : State) : State :=
  match reg64 s (a / 8 * 8) with
  | some r => r.put (setBits r.cur (8 * (a % 8)) 32 v) s
  | none => writeWord a v s

/-- The two words of an 8-byte access are PM_CTRL and PM_STAT of a lane: what the first brings about keeps its bit of the
second set (R10), so the bits of PM_STAT clear before it. -/
def pmPair (a : Nat) : Bool :=
  match blockOf a with
  | .port _ o => decide (0x400 ≤ o) && decide (o < 0x640) && decide (o % 0x40 = 0)
  | _ => false

/-- An 8-byte write, atomic: one 64-bit register, or two of 4 bytes. -/
def write8 (a v : Nat) (s : State) : State :=
  match reg64 s a with
  | some r => r.put v s
  | none =>
    if pmPair a then writeWord a (v % 2 ^ 32) (writeWord (a + 4) (v / 2 ^ 32) s)
    else writeWord (a + 4) (v / 2 ^ 32) (writeWord a (v % 2 ^ 32) s)

/-- A write request of BAR0: `size` bytes with value `v`; a longer one goes as aligned accesses of 8 bytes in rising
order, and 4 bytes left over as one of 4 (R413). -/
def writeReg (a size v : Nat) (s : State) : State :=
  if size = 4 ∧ a % 4 = 0 then write4 a (v % 2 ^ 32) s
  else if 8 ≤ size ∧ a % 8 = 0 then
    let t := (List.range (size / 8)).foldl (fun t k =>
      if hostBlock t then write8 (a + 8 * k) (v / 2 ^ (64 * k) % 2 ^ 64) t else t) s
    let n := size / 8
    if size % 8 = 4 ∧ hostBlock t then write4 (a + 8 * n) (v / 2 ^ (64 * n) % 2 ^ 32) t else t
  else s

def execRegisterWrite (a size v : Nat) (s : State) : Host.Outcome State Fault Refusal :=
  .next (if hostBlock s then writeReg a size v s else s)

end Sys2Proof.Machine
end

