-- ==== Sys2Proof/Machine/RegRead.lean ====
section
/-! DEFINITION. What a read of BAR0 returns: every register and field of the register tables (chapters 09 to 18), with counters as the last snapshot copied them. -/

namespace Sys2Proof.Machine

/-! ### Fields -/

/-- Flags at bit positions. -/
def flagBits (l : List (Bool × Nat)) : Nat := l.foldl (fun v x => v + b2n x.1 * 2 ^ x.2) 0

/-- The half at offset `o` of a 64-bit value. -/
def half (o v : Nat) : Nat := v / 2 ^ (8 * (o % 8)) % 2 ^ 32

/-- The word at address `a` of what is held, copied from counters, or an overflow register. -/
def plainWord (s : State) (a : Nat) : Nat := reg4 s a + sget 0 s.reg.copy a % 2 ^ 32 + sget 0 s.reg.ovf a

/-- A 64-bit timer at address `a`, and the half that offset `o` reads. -/
def timerHalf (s : State) (a o : Nat) : Nat := half o (sget 0 s.reg.copy a)

/-- An entry of a CE tracker as MEM_TRK shows it (Table 13.10). -/
def trackWord (t : Option Track) (o : Nat) : Nat :=
  match t with
  | none => 0
  | some x => if o % 16 < 8 then half o x.addr else if o % 16 = 8 then x.count % 256 else x.firstMs % 2 ^ 32

/-- A remap entry of a bank, or of a channel. -/
def bankRemap (r : Option Remap) : Nat :=
  match r with
  | none => 0
  | some x => x.line % 2 ^ 12 + b2n x.valid * 2 ^ 12 + x.origin * 2 ^ 13

def rowRemap (r : Option Remap) : Nat :=
  match r with
  | none => 0
  | some x => x.line % 2 ^ 24 + b2n x.valid * 2 ^ 24 + x.origin * 2 ^ 25

/-- Word `k` of the MEM_INJ of a unit. -/
def injWord (s : State) (u k : Nat) : Nat := sget 0 s.mem.inj u / 2 ^ (32 * k) % 2 ^ 32

/-- Bits of a list of numbers, `n` of them from `lo` on. -/
def listBits (l : List Nat) (lo n : Nat) : Nat :=
  (List.range n).foldl (fun v k => v + b2n (l.contains (lo + k)) * 2 ^ k) 0

/-! ### Global block -/

/-- GLB_STAT (Table 16.8). -/
def glbStat (s : State) : Nat :=
  b2n s.safe.ready + 2 * s.safe.phase + flagBits [(s.safe.recovery, 4), (s.safe.pcieReduced, 5)]

/-- The registers of Table 16.7; while the steward restarts all but GLB_STAT read 0 (Table 16.10). -/
def readSteward (s : State) (a : Nat) : Nat :=
  if s.safe.steward.restarting then 0
  else if a = 0 then Config.deviceId + 2 ^ 16 * Config.siliconRevision
  else if 8 ≤ a ∧ a < 0x10 then half a Config.serial.toNat
  else if a = 0x18 then
    b2n (s.host.interlockPending.getD s.host.interlock) + 2 * b2n s.host.interlockPending.isSome
  else if a = 0x28 then s.safe.life.state + 4 * s.safe.life.left
  else if 0x40 ≤ a ∧ a < 0x60 then (Config.nonce s.safe.life.nonceNo).toNat / 2 ^ (8 * (a - 0x40)) % 2 ^ 32
  else if a = 0x180 then s.safe.life.result
  else 0

/-- The snapshot's registers and the reference time (Tables 17.3, 17.4). -/
def readSnap (s : State) (a : Nat) : Nat :=
  let p := s.reg.snap
  if a = 0x200 then reg4 s a + 4 * b2n p.busy
  else if a < 0x210 then half a p.stamp
  else if a = 0x210 then p.frac + 2 ^ 8 * p.tstate + 2 ^ 11 * b2n p.auto
  else if a = 0x214 then p.seq
  else if 0x218 ≤ a ∧ a < 0x220 then half a (nowUs s)
  else 0

def readGlobal (s : State) (a : Nat) : Nat :=
  if a = 0x10 then glbStat s
  else if a < 0x200 then readSteward s a
  else if 0x200 ≤ a ∧ a ≠ 0x204 then readSnap s a
  else 0

/-! ### Host and ring block -/

def readRing (s : State) (i r : Nat) : Nat :=
  let x := stream s i
  if r = 0x10 then
    streamCode x.state + flagBits [(heldBit s i, 3), (x.cfgErr, 4), (x.dbErr, 5), (x.descErr, 6)]
  else if r = 0x20 then x.taken
  else if r = 0x24 then x.retired
  else if r = 0x28 then x.seqRetired
  else if r = 0x2C then x.produced
  else plainWord s (ringReg i r)

def readCq (s : State) (i r : Nat) : Nat :=
  let x := stream s i
  if r = 0xC then b2n x.full
  else if r = 0x10 then x.cqProduced
  else if r = 0x14 then x.cqConsumed
  else plainWord s (cqReg i r)

/-- PCIE_STAT (Table 17.6). -/
def pcieStat (s : State) : Nat :=
  s.host.rate + 8 * s.host.width
    + flagBits [(s.host.linkUp && !(decide (s.host.rate = 4) && decide (s.host.width = 16)), 8), (s.host.flit, 9)]

/-- SCHED_BWSPLIT: a pending split reads in the share fields. -/
def bwWord (s : State) : Nat :=
  let b := s.host.bwPending.getD s.host.bwsplit
  b.read + 2 ^ 8 * b.write + 2 ^ 16 * b.remote + flagBits [(s.host.bwPending.isSome, 30), (s.host.bwErr, 31)]

def slotLenWord (x : SlotLen) : Nat := x.len + flagBits [(x.limitRaised, 30), (x.err, 31)]

def readHostBlock (s : State) (o : Nat) : Nat :=
  if o = 0x40 then b2n s.host.eqOverflow
  else if o = 0x44 then sget 0 s.reg.copy (hostBase + 0x44)
  else if o = 0x50 then pcieStat s
  else if 0x1000 ≤ o ∧ o < 0x2000 then readRing s ((o - 0x1000) / 0x40) (o % 0x40)
  else if 0x2000 ≤ o ∧ o < 0x3000 then readCq s ((o - 0x2000) / 0x40) (o % 0x40)
  else if o = 0x3000 then bwWord s
  else if 0x3010 ≤ o ∧ o < 0x3020 then slotLenWord (slotLen s ((o - 0x3010) / 4))
  else if o = 0x302C then (hbmPagesUsed s).length + 2 ^ 31 * b2n s.host.stashErr
  else if 0x9000 ≤ o ∧ o < 0x9010 then
    (List.range 32).foldl (fun v k =>
      v + b2n (decide (8 * (o - 0x9000) + k ≤ 64) && (vector s (8 * (o - 0x9000) + k)).pba) * 2 ^ k) 0
  else plainWord s (hostBase + o)

/-! ### Tally and governor -/

/-- TALLY_STAT (Table 17.7). -/
def tallyStat (s : State) : Nat :=
  let y := s.tally
  tstateCode y.state
    + flagBits [(y.resync, 3), (y.upstream, 4), (y.faultA, 5), (y.faultB, 6), (y.faultSer, 7), (y.faultZ, 8)
        , (y.quadErr, 9), (y.presetErr, 10)]
    + 2 ^ 16 * min y.revDepth 0xFFFF

def readTally (s : State) (o : Nat) : Nat :=
  let y := s.tally
  if o = 4 then tallyStat s
  else if o = 0x20 then (refresh s).tally.now.pair % 2 ^ 32
  else if o = 0x24 then y.nowHi
  else if o = 0x28 then y.nowFrac
  else if o = 0x2C then rateWord s
  else if o = 0x30 then minDelay s * 5 / 8
  else if o = 0x38 then flagBits [(y.testBusy, 1)] + 4 * y.testPass
  else if o = 0x50 then y.revDepth % 2 ^ 32
  else if 0x1000 ≤ o ∧ o < 0x3000 ∧ o % 16 < 8 then
    almPair s ((o - 0x1000) / 16) / 2 ^ (8 * (o % 8)) % 2 ^ 32
  else if 0x1000 ≤ o ∧ o < 0x3000 ∧ o % 16 = 8 then
    let n := (o - 0x1000) / 16
    setBit (reg4 s (tallyBase + o)) 8 (almArmed s n) + 2 ^ 24 * almOwner n
  else plainWord s (tallyBase + o)

/-- BOOST_PLAN ctrl (Table 15.22). -/
def planCtrl (s : State) (i : Nat) : Nat :=
  b2n (planArmed s i) + 2 * planStatus s i + 2 ^ 8 * sget 0 s.power.boost.reason i

/-- WEAR_LEDGER (Table 15.18). -/
def wearWord (s : State) : Nat :=
  let w := s.safe.ledger.wear
  min (w / 2000) (2 ^ 32 - 1) + 2 ^ 32 * wearLeft w + 2 ^ 42 * b2n (decide (wearLimit < w))

def readGov (s : State) (o : Nat) : Nat :=
  let p := s.power
  let b := p.boost
  if s.safe.steward.restarting then 0
  else if o = 8 then
    p.clock + flagBits [(b.opened, 7), (p.warning, 12), (singleBlade p, 13), (p.coolantOut, 14)] + 2 ^ 8 * limiterNow p
  else if o = 0x10 then
    flagBits [(p.polarityA, 0), (p.polarityB, 1), (p.mateA, 2), (p.mateB, 3), (p.bladeLostA, 4), (p.bladeLostB, 5)
      , (p.currentTrip, 6)]
  else if o = 0x18 then p.vinA % 2 ^ 16 + 2 ^ 16 * (p.vinB % 2 ^ 16)
  else if o = 0x1C then p.bus % 2 ^ 16
  else if o = 0x20 then p.iinA % 2 ^ 16 + 2 ^ 16 * (p.iinB % 2 ^ 16)
  else if o = 0x28 then p.pin10ms % 2 ^ 16 + 2 ^ 16 * (p.pin60s % 2 ^ 16)
  else if o = 0x34 then p.cause
  else if o = 0x40 then p.jmax % 2 ^ 12 + 2 ^ 12 * (p.jdie % 64)
  else if o = 0x48 then p.coolIn % 2 ^ 12 + 2 ^ 12 * (p.coolOut % 2 ^ 12) + (p.flow % 2 ^ 8) * 2 ^ 24
  else if o = 0x4C then p.flow / 2 ^ 8 % 16
  else if 0x50 ≤ o ∧ o < 0x58 then half o (wearWord s)
  else if 0x60 ≤ o ∧ o < 0x68 then
    half o (b2n b.opened + 2 * b.entry + 2 ^ 8 * b.lastReason + 2 ^ 32 * (b.lastLen % 2 ^ 21))
  else if 0x100 ≤ o ∧ o < 0x300 ∧ o % 0x20 = 0x10 then planCtrl s ((o - 0x100) / 0x20)
  else plainWord s (govBase + o)

/-! ### Ports -/

/-- PORT_STAT (Table 11.10). -/
def portStat (x : Port) : Nat :=
  let n := (dataLanes x).length
  x.state + flagBits [(x.spareInUse, 3), (x.spareFault || x.txFault, 4), (decide (3 ≤ x.state) && decide (n < 8), 5), (x.miscabled, 10)
      , (x.txConflict, 11), (x.permuted, 12)]
    + 2 ^ 6 * n
    + 2 ^ 13 * (List.range 9).foldl (fun v k => v + b2n (decide ((lane x k).role = roleFailed)) * 2 ^ k) 0

/-- PORT_FAR. -/
def portFar (x : Port) : Nat := x.farNode % 2 ^ 16 + 2 ^ 16 * (x.farPort % 64) + 2 ^ 22 * b2n x.farValid

/-- The first word of PORT_LANE. -/
def laneWord (l : Lane) : Nat :=
  l.role % 4 + 4 * (l.pair % 16) + flagBits [(l.inverted, 6), (l.recalPending, 7)] + 2 ^ 8 * (l.eyeHeight % 256)
    + 2 ^ 16 * (l.eyeWidth % 256)

def readPort (s : State) (p o : Nat) : Nat :=
  let x := port s p
  let a := portBase p + o
  if o = 4 then portStat x
  else if o = 0xC then portFar x
  else if 0x100 ≤ o ∧ o < 0x220 ∧ o % 0x20 = 0 then laneWord (lane x ((o - 0x100) / 0x20))
  else if 0x400 ≤ o ∧ o < 0x640 then
    let n := (o - 0x400) / 0x40
    let y := pmOf x n
    if o % 0x40 = 4 then flagBits [(y.owned, 0), (y.locked, 1), (y.lostLock, 2), (y.preempted, 3), (y.refused, 4)]
    else if o % 0x40 = 0x10 ∨ o % 0x40 = 0x14 then timerHalf s (pmReg p n 0x10) o
    else plainWord s a
  else if o = 0x30 ∨ o = 0x34 then half o (sget 0 s.reg.ovf (portBase p + 0x30))
  else plainWord s a

/-! ### HBM channels -/

def readChan (s : State) (c o : Nat) : Nat :=
  let u := 0x2000 + c
  let l := sget [] s.mem.remap (remapKey u 0)
  let m := mbistOf s c
  if o = 0 then chState s c + 4 * l.length + 2 ^ 6 * b2n (s.mem.remapExhausted.contains u)
  else if 0x20 ≤ o ∧ o < 0x2C then injWord s u ((o - 0x20) / 4)
  else if o = 0x30 then flagBits [(m.busy, 1), (m.pass, 2), (m.refused, 3)] + 2 ^ 8 * m.rows
  else if 0x40 ≤ o ∧ o < 0x80 then (if o % 8 = 0 then rowRemap (l[(o - 0x40) / 8]?) else 0)
  else if 0x100 ≤ o ∧ o < 0x300 then trackWord ((sget [] s.mem.tracker u)[(o - 0x100) / 16]?) o
  else plainWord s (chanBase c + o)

/-! ### Cloves -/

/-- CLV_STAT (Table 17.11). -/
def clvStat (s : State) (p : Nat) : Nat :=
  let c := clove s p
  let pos := ringPos s p
  let repl := match c.seat with
    | .replacing b => b % 76
    | _ => 0x7F
  flagBits [(pos.isSome, 0), (decide (72 ≤ p % 76), 1), (c.quarantined, 2), (c.failedSpare, 3)]
    + 2 ^ 4 * ((pos.map (fun x => x.1 % 6)).getD 7) + 2 ^ 8 * ((pos.map (·.2)).getD 15) + 2 ^ 12 * repl
    + 2 ^ 19 * (if c.quarantined then c.mechanism else 0)

def tileCode (x : TileState) : Nat :=
  match x with
  | .free => 0
  | .open_ => 1
  | .shared => 2
  | .combining => 3
  | .closing => 4

/-- CLV_TILE: the scoreboard entry (Table 4.1); a FREE tile reads 0. -/
def tileWord (s : State) (t : Tile) : Nat :=
  if t.state = .free then 0
  else
    let tag := ((findRec s t.stream t.owner).map (fun r => r.hdr.tag)).getD 0
    tileCode t.state + 2 ^ 4 * t.stream + 2 ^ 10 * t.pass + 2 ^ 12 * t.splitN + 2 ^ 16 * t.chunk
      + flagBits [(t.order, 20), (t.shared, 21), (t.sat, 22), (t.flush, 23), (t.nonfinite, 24)] + 2 ^ 32 * (tag % 2 ^ 16)

/-- CLV_STASH. -/
def stashWord (s : State) (p : Nat) : Nat :=
  (clove s p).stashPages + 2 ^ 8 * stashUsed s p + 2 ^ 16 * (clove s p).stash.length + 2 ^ 31 * b2n (clove s p).stashErr

/-- CLV_BIST (Table 18.2). -/
def bistWord (b : Bist) : Nat := flagBits [(b.busy, 1), (b.pass, 2), (b.aborted, 3)] + 2 ^ 4 * b.fail

/-- MEM_TRK of a clove: its slice's entries, then its accumulator store's (log 24). -/
def cloveTrack (s : State) (p m : Nat) : Option Track :=
  if m < 32 then (sget [] s.mem.tracker p)[m]? else (sget [] s.mem.tracker (0x800 + p))[m - 32]?

/-- A quarantined clove or a failed spare answers with CLV_STAT, counters, timers and memory registers (R414), and with CLV_BIST, which
reports its result for return analysis (R435, Table 18.4). DEDUCED, see log 135. -/
def readClove (s : State) (p o : Nat) : Nat :=
  let a := cloveBase p + o
  if o = 8 then clvStat s p
  else if 0x100 ≤ o ∧ o < 0x134 then plainWord s a
  else if o = 0x10 then bistWord (clove s p).bist
  else if 0x200 ≤ o ∧ o < 0x240 then timerHalf s (a / 8 * 8) o
  else if 0x3020 ≤ o ∧ o < 0x302C then injWord s p ((o - 0x3020) / 4)
  else if 0x3100 ≤ o ∧ o < 0x3100 + 4 * 480 then
    bankRemap ((sget [] s.mem.remap (p * 2 ^ 16 + (o - 0x3100) / 16))[(o - 0x3100) / 4 % 4]?)
  else if 0x3900 ≤ o ∧ o < 0x3D00 then trackWord (cloveTrack s p ((o - 0x3900) / 16)) o
  else if 0x3000 ≤ o then plainWord s a
  else if !cloveTakes s p then 0
  else if 0x134 ≤ o ∧ o < 0x138 then plainWord s a
  else if o = 0x40 then stashWord s p
  else if 0x1000 ≤ o ∧ o < 0x1400 then half o (tileWord s (tile s p ((o - 0x1000) / 8)))
  else 0

/-! ### Compute tiles -/

/-- TILE_STAT (Table 17.12). -/
def tileStat (s : State) (t : Nat) : Nat :=
  flagBits [(!tileIsOut s t, 0), (s.comp.updateOut.contains t, 1), (s.comp.ucodeWait.contains t, 2)]

/-- TILE_POD. -/
def podWord (s : State) (q : Nat) : Nat :=
  (sget [] s.comp.podQueue q).length
    + 2 ^ 16 * (List.range 12).foldl (fun v i => v + b2n (cloveAt s q i).isSome * 2 ^ i) 0
    + 2 ^ 32 * ((podCloves s q).map (fun p => (freeCtxs s p).length)).sum

/-- A group's mask: entry 0 holds the pods of the tiles in service (R197). -/
def groupMask (s : State) (g : Nat) : Nat := (groupPods s g).foldl (fun v q => v + 2 ^ q) 0

/-- TILE_WT. -/
def weightWord (w : Weight) : Nat :=
  w.version + 2 ^ 8 * (w.refs % 2 ^ 16) + 2 ^ 24 * w.state + 2 ^ 26 * b2n w.registered
    + 2 ^ 32 * (w.lastStep.getD 0 % 2 ^ 32)

/-- TILE_SLOT. -/
def slotWord (x : SlotStat) : Nat :=
  x.code % 256 + flagBits [(x.codeValid, 8), (x.stagedValid, 9), (x.bound, 14)] + 2 ^ 10 * (x.outFmt % 16)
    + 2 ^ 16 * (x.staged % 256) + 2 ^ 24 * (x.histBase % 256)

/-- The block of a tile out of service answers with TILE_STAT alone; its replicated tables are those of any tile (R414). -/
def readTileBlock (s : State) (t o : Nat) : Nat :=
  if o = 0 then tileStat s t
  else if tileIsOut s t then 0
  else if 0x100 ≤ o ∧ o < 0x130 then half o (podWord s (6 * t + (o - 0x100) / 8))
  else if 0x1000 ≤ o ∧ o < 0x1400 then groupMask s ((o - 0x1000) / 16) / 2 ^ (8 * (o % 16)) % 2 ^ 32
  else if 0x4000 ≤ o ∧ o < 0xC000 then half o (weightWord (weight s ((o - 0x4000) / 8)))
  else if 0xC000 ≤ o then slotWord (slotStat s ((o - 0xC000) / 4))
  else plainWord s (tileBase t + o)

/-! ### Link tiles -/

/-- LNK_BKT: the entry it selects (Table 17.13). -/
def bktWord (s : State) : Nat :=
  let b := reg4 s (linkBase 0 + 0x20)
  let e := sget BktEntry.empty s.link.entries b
  b % 2 ^ 12 + 2 ^ 12 * wrapN 16 e.em + flagBits [(e.valid, 28), (e.word, 29), (s.link.bktBusyErr, 30)]

def readLink (s : State) (k o : Nat) : Nat :=
  let l := s.link
  let m := linkBase 0 + o
  if moduleReg o ∧ k ≠ 0 then 0
  else if o = 0 then nodeId s
  else if o = 4 then logicalNode s + 2 ^ 16 * b2n l.logical.isSome
  else if o = 8 then reg4 s m + 2 ^ 18 * b2n l.dimsErr
  else if o = 0x10 ∨ o = 0x14 then reg4 s m
  else if o = 0x1C then
    reg4 s (linkBase k + o) + flagBits [(l.creditErr.contains k, 30), (l.poolErr.contains k, 31)]
  else if o = 0x20 then bktWord s
  else if o = 0x28 then (sget BktEntry.empty l.entries (reg4 s (linkBase 0 + 0x20))).n
  else if o = 0x38 ∨ o = 0x3C then half o (homeEntry s (homeAddr s k))
  else if o = 0x4C then reg4 s (linkBase k + o) + 2 ^ 30 * b2n (homeLoading s k)
  else if o = 0x50 then adderLanes s k + 2 ^ 9 * b2n (l.addStopped.contains k)
  else if 0x800 ≤ o ∧ o < 0xA00 then reg4 s m
  else if 0x1000 ≤ o ∧ o < 0x1800 then reg4 s m
  else if 0x1800 ≤ o ∧ o < 0x1C00 then sget 0 l.slotRows ((o - 0x1800) / 4) % 2 ^ 16
  else if 0x3020 ≤ o ∧ o < 0x302C then injWord s (0x1000 + k) ((o - 0x3020) / 4)
  else if o = 0x3030 then bankSpares s k + 2 ^ 4 * b2n (s.mem.remapExhausted.contains (0x1000 + k))
  else if 0x4000 ≤ o ∧ o < 0x4000 + 16 * 1032 then
    bankRemap ((sget [] s.mem.remap ((0x1000 + k) * 2 ^ 16 + (o - 0x4000) / 16))[(o - 0x4000) / 4 % 4]?)
  else if 0x9000 ≤ o ∧ o < 0x9200 then trackWord ((sget [] s.mem.tracker (0x1000 + k))[(o - 0x9000) / 16]?) o
  else plainWord s (linkBase k + o)

/-! ### Safety block -/

/-- SAFE_STAT (Table 14.8). -/
def safeStat (s : State) : Nat :=
  flagBits [(s.safe.stop, 0), (s.safe.clockFault, 1), (s.safe.tempDisagree, 2)] + 2 ^ 3 * listBits s.comp.tileOut 0 16
    + 2 ^ 19 * s.safe.linkAddOut

/-- REPLACE_STAT (Table 14.9): the pin is driven while a reason is held. -/
def replaceStat (s : State) : Nat :=
  s.safe.ledger.reasons + 2 ^ 7 * b2n (decide (s.safe.ledger.reasons ≠ 0))

/-- SAFE_CAP (Table 14.7). -/
def safeCap (s : State) : Nat :=
  activeCloves s
    + 2 ^ 11 * ((List.range 48).filter (fun p => decide ((dataLanes (port s p)).length = 8))).length
    + 2 ^ 17 * ((List.range 48).filter (fun p => (port s p).spareFault || (port s p).txFault)).length
    + 2 ^ 23 * (512 - (s.mem.chState.filter (fun x => decide (x.2 ≠ 0))).length)
    + 2 ^ 33 * wearLeft s.safe.ledger.wear
    + 2 ^ 43 * (16 - s.comp.tileOut.length)

/-- TILE_CAP of a compute tile. -/
def tileCap (s : State) (t : Nat) : Nat :=
  let spares := (List.range 4).map (fun k => clove s (76 * t + 72 + k))
  activeOf s t
    + 2 ^ 7 * (spares.filter (fun c => decide (c.seat = .asBuilt) && !c.quarantined && !c.failedSpare && c.joining.isNone)).length
    + 2 ^ 10 * (spares.filter (fun c => c.failedSpare || c.quarantined)).length
    + flagBits [(tileIsOut s t, 13), (s.comp.updateOut.contains t, 14)]

/-- UCODE_CTRL and STEWARD_IMG. -/
def ucodeCtrl (s : State) : Nat := 2 * s.safe.steward.ucodeStatus + 2 ^ 16 * (s.safe.steward.ucodeVersion % 2 ^ 16)
def stewardImg (s : State) : Nat :=
  let w := s.safe.steward
  w.slot + 2 * b2n w.fallback + 2 ^ 8 * (w.verA % 2 ^ 16) + 2 ^ 32 * (w.verB % 2 ^ 16)

/-- Registers of the steward in the safety block; they read 0 while it restarts (R414). -/
def readImages (s : State) (o : Nat) : Nat :=
  if s.safe.steward.restarting then 0
  else if o < 0xC8 then reg4 s (safeBase + o)
  else if o = 0xC8 then ucodeCtrl s
  else if 0xD0 ≤ o ∧ o < 0xD8 then half o (stewardImg s)
  else 0

/-- The first-setter record of a parity (Table 17.14). -/
def firstWord (s : State) (q o : Nat) : Nat :=
  let f := sget default s.step.first q
  if o < 8 then half o f.tally
  else if o = 8 then f.node % 2 ^ 16 + 2 ^ 16 * (f.tensor % 2 ^ 12) + 2 ^ 31 * b2n (sget false s.step.flags q)
  else f.layer % 2 ^ 16

/-- A word of a phase record, as the snapshot latched it (Table 17.15). -/
def phaseWord (s : State) (f o : Nat) : Nat :=
  let p := sget Phase.none s.reg.phaseCopy f
  if o < 8 then timerHalf s (safeBase + 0x2100 + 0x20 * f) o
  else if o < 0x10 then half o p.start
  else if o < 0x18 then half o p.stop
  else if o = 0x18 then p.startFrac + 2 ^ 8 * p.stopFrac + 2 ^ 16 * p.startState + 2 ^ 20 * p.stopState + 2 ^ 24 * b2n p.active
  else 0

/-- SCRUB_STAT and SCRUB_LAST (Table 13.10): pass counts, SRAM then HBM, 16 bits each. -/
def scrubStat (s : State) : Nat :=
  flagBits [(s.mem.forcedSram, 0), (s.mem.forcedHbm, 1)] + 2 ^ 32 * (s.mem.sramPass.count % 2 ^ 16)
    + 2 ^ 48 * (s.mem.hbmPass.count % 2 ^ 16)
def scrubLast (s : State) : Nat := s.mem.sramPass.lastMs % 2 ^ 32 + 2 ^ 32 * (s.mem.hbmPass.lastMs % 2 ^ 32)

/-- SELFTEST_STAT (Table 17.14). -/
def selftest (s : State) (o : Nat) : Nat :=
  if o < 0x10D8 then listBits s.mem.stCloves (8 * (o - 0x1040)) 32
  else if o < 0x10E0 then listBits s.mem.stBanks (8 * (o - 0x10D8)) 32
  else if o < 0x1120 then listBits s.mem.stChannels (8 * (o - 0x10E0)) 32
  else if o = 0x1120 then listBits s.mem.stTiles 0 16
  else 0

/-- The step guard's registers (Table 17.14). -/
def readStep (s : State) (o : Nat) : Nat :=
  let x := s.step
  if o < 0x2008 then half o x.tag
  else if o = 0x2008 then flagBits [(sget false x.flags 0, 0), (sget false x.flags 1, 1)]
  else if 0x2010 ≤ o ∧ o < 0x2030 then firstWord s ((o - 0x2010) / 16) (o % 16)
  else if o = 0x2030 then flagBits [(x.lastOutcome, 0), (x.lastValid, 1)]
  else if o = 0x2034 then x.lastTag % 2 ^ 32
  else if 0x2100 ≤ o ∧ o < 0x21E0 then phaseWord s ((o - 0x2100) / 0x20) (o % 0x20)
  else if 0x2200 ≤ o ∧ o < 0x2208 then timerHalf s (safeBase + 0x2200) o
  else plainWord s (safeBase + o)

def readSafe (s : State) (o : Nat) : Nat :=
  if o = 0 then safeStat s
  else if o = 8 then replaceStat s
  else if 0x10 ≤ o ∧ o < 0x18 then half o (safeCap s)
  else if 0x20 ≤ o ∧ o < 0x60 then tileCap s ((o - 0x20) / 4)
  else if 0xC0 ≤ o ∧ o < 0xD8 then readImages s o
  else if 0x100 ≤ o ∧ o < 0x300 then half o ((s.safe.quarLog[(o - 0x100) / 8]?).getD 0)
  else if 0x1018 ≤ o ∧ o < 0x1020 then half o (scrubStat s)
  else if 0x1020 ≤ o ∧ o < 0x1028 then half o (scrubLast s)
  else if 0x1040 ≤ o ∧ o < 0x1124 then selftest s o
  else if 0x2000 ≤ o then readStep s o
  else plainWord s (safeBase + o)

/-! ### BAR0 (R412 to R414) -/

/-- The 4-byte word at a BAR0 address. In safe stop only the global, governor and safety blocks answer. -/
def readWord (s : State) (a : Nat) : Nat :=
  match blockOf a with
  | .global o => readGlobal s o
  | .gov o => readGov s o
  | .safe o => readSafe s o
  | b =>
    if s.safe.stop then 0
    else
      match b with
      | .host o => readHostBlock s o
      | .tally o => readTally s o
      | .port p o => readPort s p o
      | .chan c o => readChan s c o
      | .clove p o => readClove s p o
      | .tile t o => readTileBlock s t o
      | .link k o => readLink s k o
      | _ => 0

/-- What a read of `size` bytes returns: 1 and 2 bytes are those of the enclosing word; a longer read goes as aligned accesses
of 8 bytes in rising order, and 4 bytes left over as one of 4 (R413). Reads have no side effect. -/
def barRead (s : State) (a size : Nat) : Nat :=
  if bar0Size < a + size then 0
  else if 8 ≤ size ∧ a % 8 = 0 then
    (List.range (size / 4)).foldl (fun v k => v + 2 ^ (32 * k) * readWord s (a + 4 * k)) 0
  else readWord s (a / 4 * 4) / 2 ^ (8 * (a % 4)) % 2 ^ (8 * size)

/-! ### BAR2 (R243, R250) -/

/-- The doorbell at an offset of BAR2 as last written; any other offset reads 0. -/
def doorbell (s : State) (o : Nat) : Nat :=
  if o < 0x200 then (if o % 8 = 0 then (stream s (o / 8)).sqDb else 0)
  else if o < 0x400 then (if o % 8 = 0 then (stream s ((o - 0x200) / 8)).cqDb else 0)
  else if o = 0x400 then s.host.eqDb
  else 0

/-- A read of BAR2: 0 until the module is ready. -/
def bar2Read (s : State) (o : Nat) : Nat := if s.safe.ready ∧ o < bar2Size then doorbell s o else 0

/-! ### The steward's readout on auxiliary power (R22, R376) -/

/-- The steward answers SMB: it runs, or stays in ROM recovery (R398). -/
def smbAnswers (s : State) : Bool := s.power.aux && (stewardUp s || s.safe.steward.recovery)

/-- PWR_IN_STAT, PWR_VIN, PWR_CAUSE and THERM_JMAX, at their offsets in the governor block, as the steward reads them out on
SMB: with auxiliary power, with or without the 48 V input (log 122). -/
def auxRead (s : State) (o : Nat) : Option Nat :=
  if smbAnswers s && [0x10, 0x18, 0x1C, 0x34, 0x40].contains o then some (readGov s o) else none

/-- HOST_CPRSNT_N, low while the module is present with auxiliary power (R22; log 122). -/
def hostCprsntN (s : State) : Bool := !s.power.aux

end Sys2Proof.Machine
end

