-- ==== Sys2Proof/Machine/Jtag.lean ====
section
/-! DEFINITION. The test access port: instructions of the boundary scan and the cells they drive (R434). -/

namespace Sys2Proof.Machine

/-- Instructions, by the model's own numbers (log 14): the chapter gives no codes. -/
def irBypass : BitVec 8 := 0
def irSample : BitVec 8 := 1
def irExtest : BitVec 8 := 2
def irIdcode : BitVec 8 := 3
def irClamp : BitVec 8 := 4
def irHighz : BitVec 8 := 5

/-- The port answers while AUX_3V3 is there. -/
def jtag (ir : BitVec 8) (s : State) : State := if s.power.aux then modTest s (fun t => { t with jtagIr := ir }) else s

/-- The instruction drives pins: the cells of EXTEST and CLAMP, or none of HIGHZ. -/
def drives (s : State) : Bool :=
  s.power.aux && (decide (s.test.jtagIr = irExtest) || decide (s.test.jtagIr = irClamp) || decide (s.test.jtagIr = irHighz))

/-- The link-tile cells follow a driving instruction: they are joined to the chain, and GLB_STAT.ready is 0 or every
stream and every port is DISABLED; at any other time they act as under SAMPLE/PRELOAD. -/
def drivesLink (s : State) : Bool := drives s && s.power.main && (!s.safe.ready || (streamsOff s && s.ports.all (fun x => x.2.state == 0)))

def execBypass (s : State) : Host.Outcome State Fault Refusal := .next (jtag irBypass s)

/-- Pins of J21 that the service die's cells cover: its signals other than power and JTAG (Table 15.6). They come first in the
chain; the link tiles' are joined to it only while main power is up (log 14). -/
def servicePins : Nat := 12

/-- A scan of the chain as it is joined now. -/
def joined (s : State) (l : List Nat) : List Nat := if s.power.main then l else l.take servicePins

/-- The levels of the pins are captured and answered, and the cells take what is shifted in. -/
def sample (preload pins : List Nat) (s : State) : State :=
  if s.power.aux then
    answer (.bytes ((joined s pins).map (BitVec.ofNat 8)))
      (modTest s (fun t => { t with jtagIr := irSample, jtagCells := joined s preload }))
  else s

def execSamplePreload (preload pins : List Nat) (s : State) : Host.Outcome State Fault Refusal :=
  .next (sample preload pins s)

def execExtest (s : State) : Host.Outcome State Fault Refusal := .next (jtag irExtest s)

/-- IDCODE of silicon revision 1: revision, part 0xAF16, manufacturer 0x4D3, and bit 0. -/
def idcodeWord : Nat := Config.siliconRevision * 2 ^ 28 + 0xAF16 * 2 ^ 12 + 0x4D3 * 2 + 1

def readIdcode (s : State) : State := if s.power.aux then answer (.word idcodeWord) (jtag irIdcode s) else s

def execIdcode (s : State) : Host.Outcome State Fault Refusal := .next (readIdcode s)

/-- What an output pin shows: the functional level, or with a driving instruction what its cell holds; none when HIGHZ floats it. -/
def pinLevel (s : State) (cell : Nat) (level : Bool) : Option Bool :=
  let act := if cell < servicePins then drives s else drivesLink s
  if !act then some level
  else if s.test.jtagIr = irHighz then Option.none
  else some (decide (s.test.jtagCells.getD cell 0 ≠ 0))

/-- PWR_OK, REPLACE_REQ and HOST_CPRSNT_N at their connectors; the places of their cells are the model's (log 14). -/
def pwrOkPin (s : State) : Option Bool := pinLevel s 7 (s.power.main && s.power.ok)
def replaceReqPin (s : State) : Option Bool := pinLevel s 8 (bitAt (replaceStat s) 7)
def hostCprsntPin (s : State) : Option Bool := pinLevel s (servicePins + 1) (hostCprsntN s)

def execClamp (s : State) : Host.Outcome State Fault Refusal := .next (jtag irClamp s)

def execHighz (s : State) : Host.Outcome State Fault Refusal := .next (jtag irHighz s)

end Sys2Proof.Machine
end

