-- ==== Sys2Proof/Machine/Dispatch.lean ====
section
/-! DEFINITION. What each command does: one arm per row of the table, one direct call of its meaning. -/

namespace Sys2Proof.Machine

def exec (i : Instr) (s : State) : Host.Outcome State Fault Refusal :=
  match i with
  | .nop st h => Sys2Proof.Machine.execNop st h s
  | .matmul st h b => Sys2Proof.Machine.execMatmul st h b s
  | .bwdPair st h b => Sys2Proof.Machine.execBwdPair st h b s
  | .productTableMatmul st h b => Sys2Proof.Machine.execProductTableMatmul st h b s
  | .vecop st h b => Sys2Proof.Machine.execVecop st h b s
  | .scan st h b => Sys2Proof.Machine.execScan st h b s
  | .moveCopy st h b => Sys2Proof.Machine.execMoveCopy st h b s
  | .moveScaleFile st h b => Sys2Proof.Machine.execMoveScaleFile st h b s
  | .moveInt4Table st h b => Sys2Proof.Machine.execMoveInt4Table st h b s
  | .moveRowBank st h b => Sys2Proof.Machine.execMoveRowBank st h b s
  | .moveSpline st h b => Sys2Proof.Machine.execMoveSpline st h b s
  | .moveGroup st h b => Sys2Proof.Machine.execMoveGroup st h b s
  | .moveWeightTable st h b => Sys2Proof.Machine.execMoveWeightTable st h b s
  | .moveStatSlot st h b => Sys2Proof.Machine.execMoveStatSlot st h b s
  | .snapshot st h b => Sys2Proof.Machine.execSnapshot st h b s
  | .seed st h b => Sys2Proof.Machine.execSeed st h b s
  | .keyseed st h b => Sys2Proof.Machine.execKeyseed st h b s
  | .deliver st h b => Sys2Proof.Machine.execDeliver st h b s
  | .reduce st h b => Sys2Proof.Machine.execReduce st h b s
  | .dispatch st h b => Sys2Proof.Machine.execDispatch st h b s
  | .combine st h b => Sys2Proof.Machine.execCombine st h b s
  | .gate st h b => Sys2Proof.Machine.execGate st h b s
  | .depend st h w => Sys2Proof.Machine.execDepend st h w s
  | .barrier st h => Sys2Proof.Machine.execBarrier st h s
  | .call st h b => Sys2Proof.Machine.execCall st h b s
  | .update st h b => Sys2Proof.Machine.execUpdate st h b s
  | .stashSave st h b => Sys2Proof.Machine.execStashSave st h b s
  | .stashLoad st h b => Sys2Proof.Machine.execStashLoad st h b s
  | .scaleCommit st h b => Sys2Proof.Machine.execScaleCommit st h b s
  | .stepCommit st h b => Sys2Proof.Machine.execStepCommit st h b s
  | .event st h b => Sys2Proof.Machine.execEvent st h b s
  | .descriptorTake st => Sys2Proof.Machine.execDescriptorTake st s
  | .completionEntryWrite st => Sys2Proof.Machine.execCompletionEntryWrite st s
  | .itemHandout pod => Sys2Proof.Machine.execItemHandout pod s
  | .workSteal pod => Sys2Proof.Machine.execWorkSteal pod s
  | .contextSwitch clove exUnit readyMask => Sys2Proof.Machine.execContextSwitch clove exUnit readyMask s
  | .tileWaitOpen clove tile => Sys2Proof.Machine.execTileWaitOpen clove tile s
  | .sharedMemberAdd clove tile => Sys2Proof.Machine.execSharedMemberAdd clove tile s
  | .combinePartialReceive clove tile => Sys2Proof.Machine.execCombinePartialReceive clove tile s
  | .stolenChunkReceive clove tile => Sys2Proof.Machine.execStolenChunkReceive clove tile s
  | .tileDrain clove => Sys2Proof.Machine.execTileDrain clove s
  | .drainPassEnd clove => Sys2Proof.Machine.execDrainPassEnd clove s
  | .redrainComplete clove => Sys2Proof.Machine.execRedrainComplete clove s
  | .stashSaveResume st => Sys2Proof.Machine.execStashSaveResume st s
  | .updateStart w => Sys2Proof.Machine.execUpdateStart w s
  | .voteResult bucket nonfinite short first => Sys2Proof.Machine.execVoteResult bucket nonfinite short first s
  | .streamEnable st => Sys2Proof.Machine.execStreamEnable st s
  | .streamDisable st => Sys2Proof.Machine.execStreamDisable st s
  | .streamResume st => Sys2Proof.Machine.execStreamResume st s
  | .streamAbort st => Sys2Proof.Machine.execStreamAbort st s
  | .streamRestart st => Sys2Proof.Machine.execStreamRestart st s
  | .stallDetect st waitsFor => Sys2Proof.Machine.execStallDetect st waitsFor s
  | .sqDb st value => Sys2Proof.Machine.execSqDb st value s
  | .cqDb st value => Sys2Proof.Machine.execCqDb st value s
  | .eqDb value => Sys2Proof.Machine.execEqDb value s
  | .msixModTimer v => Sys2Proof.Machine.execMsixModTimer v s
  | .msixUnmask v => Sys2Proof.Machine.execMsixUnmask v s
  | .glbIrqTest value => Sys2Proof.Machine.execGlbIrqTest value s
  | .bar4Read offset length => Sys2Proof.Machine.execBar4Read offset length s
  | .bar4Write offset data => Sys2Proof.Machine.execBar4Write offset data s
  | .hbmRowRemapDone channel => Sys2Proof.Machine.execHbmRowRemapDone channel s
  | .trackerEntryExpire unit addr => Sys2Proof.Machine.execTrackerEntryExpire unit addr s
  | .scrubWindowOpen => Sys2Proof.Machine.execScrubWindowOpen s
  | .scrubWindowClose => Sys2Proof.Machine.execScrubWindowClose s
  | .scrubForcedStart hbm => Sys2Proof.Machine.execScrubForcedStart hbm s
  | .scrubForcedRate hbm => Sys2Proof.Machine.execScrubForcedRate hbm s
  | .scrubPassComplete hbm => Sys2Proof.Machine.execScrubPassComplete hbm s
  | .memInjArm unit value => Sys2Proof.Machine.execMemInjArm unit value s
  | .hbmRetire value => Sys2Proof.Machine.execHbmRetire value s
  | .hbmMigrationDone channel => Sys2Proof.Machine.execHbmMigrationDone channel s
  | .arrayFault clove parity => Sys2Proof.Machine.execArrayFault clove parity s
  | .spareJoin clove => Sys2Proof.Machine.execSpareJoin clove s
  | .canaryRun engine n ok => Sys2Proof.Machine.execCanaryRun engine n ok s
  | .canaryNow clove ok => Sys2Proof.Machine.execCanaryNow clove ok s
  | .quarReq value => Sys2Proof.Machine.execQuarReq value s
  | .lockstepMismatch tile => Sys2Proof.Machine.execLockstepMismatch tile s
  | .clockFault tile => Sys2Proof.Machine.execClockFault tile s
  | .tempDisagree die hot => Sys2Proof.Machine.execTempDisagree die hot s
  | .linkAdderResidueFault linkTile lane bucket => Sys2Proof.Machine.execLinkAdderResidueFault linkTile lane bucket s
  | .updateResidueFault tile w => Sys2Proof.Machine.execUpdateResidueFault tile w s
  | .ucodeGo => Sys2Proof.Machine.execUcodeGo s
  | .ucodeApply => Sys2Proof.Machine.execUcodeApply s
  | .stewardSwitch => Sys2Proof.Machine.execStewardSwitch s
  | .stewardRestartDone ok => Sys2Proof.Machine.execStewardRestartDone ok s
  | .quadEdge a b => Sys2Proof.Machine.execQuadEdge a b s
  | .zPulse => Sys2Proof.Machine.execZPulse s
  | .zMissing => Sys2Proof.Machine.execZMissing s
  | .serialFrame ftype flags epoch count frac crc => Sys2Proof.Machine.execSerialFrame ftype flags epoch count frac crc s
  | .fabricTick port m => Sys2Proof.Machine.execFabricTick port m s
  | .fabricPing port m => Sys2Proof.Machine.execFabricPing port m s
  | .fabricEcho port m => Sys2Proof.Machine.execFabricEcho port m s
  | .pingTimer => Sys2Proof.Machine.execPingTimer s
  | .tickSendTimer => Sys2Proof.Machine.execTickSendTimer s
  | .pairFault pair => Sys2Proof.Machine.execPairFault pair s
  | .pairRestore pair => Sys2Proof.Machine.execPairRestore pair s
  | .illegalLimit => Sys2Proof.Machine.execIllegalLimit s
  | .illegalRecover => Sys2Proof.Machine.execIllegalRecover s
  | .framesTimeout => Sys2Proof.Machine.execFramesTimeout s
  | .holdoverExpire => Sys2Proof.Machine.execHoldoverExpire s
  | .tallyBusStamp => Sys2Proof.Machine.execTallyBusStamp s
  | .alarmFire n => Sys2Proof.Machine.execAlarmFire n s
  | .gateRelease st => Sys2Proof.Machine.execGateRelease st s
  | .tallyCtrlSrc src => Sys2Proof.Machine.execTallyCtrlSrc src s
  | .tallyPreset pair => Sys2Proof.Machine.execTallyPreset pair s
  | .tallyNowLoRead => Sys2Proof.Machine.execTallyNowLoRead s
  | .almArm n value => Sys2Proof.Machine.execAlmArm n value s
  | .almDisarm n value => Sys2Proof.Machine.execAlmDisarm n value s
  | .tallyTestGo => Sys2Proof.Machine.execTallyTestGo s
  | .tallyTestDone pass => Sys2Proof.Machine.execTallyTestDone pass s
  | .portEnable p => Sys2Proof.Machine.execPortEnable p s
  | .portDisable p => Sys2Proof.Machine.execPortDisable p s
  | .portRetrain p => Sys2Proof.Machine.execPortRetrain p s
  | .portDetect p termination driver => Sys2Proof.Machine.execPortDetect p termination driver s
  | .portTrainDone p trained inverted arrived => Sys2Proof.Machine.execPortTrainDone p trained inverted arrived s
  | .portAlignDone p locked => Sys2Proof.Machine.execPortAlignDone p locked s
  | .identExchange p node port => Sys2Proof.Machine.execIdentExchange p node port s
  | .portCreditDone p credits => Sys2Proof.Machine.execPortCreditDone p credits s
  | .flitSend p => Sys2Proof.Machine.execFlitSend p s
  | .flitReceive p lane f check => Sys2Proof.Machine.execFlitReceive p lane f check s
  | .replayTimeout p lane => Sys2Proof.Machine.execReplayTimeout p lane s
  | .laneFailure p lane => Sys2Proof.Machine.execLaneFailure p lane s
  | .laneFail p lane => Sys2Proof.Machine.execLaneFail p lane s
  | .recalReq p lane => Sys2Proof.Machine.execRecalReq p lane s
  | .recalAck p lane => Sys2Proof.Machine.execRecalAck p lane s
  | .recalDone p lane => Sys2Proof.Machine.execRecalDone p lane s
  | .portKeepExpire p => Sys2Proof.Machine.execPortKeepExpire p s
  | .pmOwn p lane => Sys2Proof.Machine.execPmOwn p lane s
  | .pmInject p lane => Sys2Proof.Machine.execPmInject p lane s
  | .bucketArm bucket => Sys2Proof.Machine.execBucketArm bucket s
  | .grantReceive port bucket tree n => Sys2Proof.Machine.execGrantReceive port bucket tree n s
  | .reduceChunkReceive port bucket tree words info => Sys2Proof.Machine.execReduceChunkReceive port bucket tree words info s
  | .resultChunkReceive port bucket tree words trailer => Sys2Proof.Machine.execResultChunkReceive port bucket tree words trailer s
  | .reduceDeadline bucket tree => Sys2Proof.Machine.execReduceDeadline bucket tree s
  | .backupCopyReceive c => Sys2Proof.Machine.execBackupCopyReceive c s
  | .copyHoldExpire bucket standIn => Sys2Proof.Machine.execCopyHoldExpire bucket standIn s
  | .shadowTrailerReceive bucket t => Sys2Proof.Machine.execShadowTrailerReceive bucket t s
  | .lnkBktWrite value => Sys2Proof.Machine.execLnkBktWrite value s
  | .lnkBktCancel bucket => Sys2Proof.Machine.execLnkBktCancel bucket s
  | .countResult plan round counts => Sys2Proof.Machine.execCountResult plan round counts s
  | .countTimeout plan => Sys2Proof.Machine.execCountTimeout plan s
  | .dispatchRequestReceive plan expert origin round ask => Sys2Proof.Machine.execDispatchRequestReceive plan expert origin round ask s
  | .dispatchGrantReceive plan expert round count => Sys2Proof.Machine.execDispatchGrantReceive plan expert round count s
  | .tokenRecordReceive r row => Sys2Proof.Machine.execTokenRecordReceive r row s
  | .expertOutputReceive r row => Sys2Proof.Machine.execExpertOutputReceive r row s
  | .homeDataRead linkTile => Sys2Proof.Machine.execHomeDataRead linkTile s
  | .homeDataWrite linkTile value => Sys2Proof.Machine.execHomeDataWrite linkTile value s
  | .homeLoadGo linkTile => Sys2Proof.Machine.execHomeLoadGo linkTile s
  | .homeLoadDone linkTile => Sys2Proof.Machine.execHomeLoadDone linkTile s
  | .schedBwsplitWrite value => Sys2Proof.Machine.execSchedBwsplitWrite value s
  | .slotLenWrite n value => Sys2Proof.Machine.execSlotLenWrite n value s
  | .phaseInterlockWrite value => Sys2Proof.Machine.execPhaseInterlockWrite value s
  | .glbSnapStrobe clear => Sys2Proof.Machine.execGlbSnapStrobe clear s
  | .autoSnapshot => Sys2Proof.Machine.execAutoSnapshot s
  | .snapshotDistributed => Sys2Proof.Machine.execSnapshotDistributed s
  | .registerWrite addr size value => Sys2Proof.Machine.execRegisterWrite addr size value s
  | .clvBistGo clove => Sys2Proof.Machine.execClvBistGo clove s
  | .clvBistDone clove fail => Sys2Proof.Machine.execClvBistDone clove fail s
  | .hbmMbistGo channel => Sys2Proof.Machine.execHbmMbistGo channel s
  | .hbmMbistDone channel rows => Sys2Proof.Machine.execHbmMbistDone channel rows s
  | .bypass => Sys2Proof.Machine.execBypass s
  | .samplePreload preload pins => Sys2Proof.Machine.execSamplePreload preload pins s
  | .extest => Sys2Proof.Machine.execExtest s
  | .idcode => Sys2Proof.Machine.execIdcode s
  | .clamp => Sys2Proof.Machine.execClamp s
  | .highz => Sys2Proof.Machine.execHighz s
  | .readVin => Sys2Proof.Machine.execReadVin s
  | .readIin => Sys2Proof.Machine.execReadIin s
  | .readPin => Sys2Proof.Machine.execReadPin s
  | .readTemperature1 => Sys2Proof.Machine.execReadTemperature1 s
  | .readTemperature2 => Sys2Proof.Machine.execReadTemperature2 s
  | .statusWord => Sys2Proof.Machine.execStatusWord s
  | .statusInput => Sys2Proof.Machine.execStatusInput s
  | .statusTemperature => Sys2Proof.Machine.execStatusTemperature s
  | .clearFaults => Sys2Proof.Machine.execClearFaults s
  | .auxPowerOn okA okB => Sys2Proof.Machine.execAuxPowerOn okA okB s
  | .mainPowerEnable f => Sys2Proof.Machine.execMainPowerEnable f s
  | .resetN f => Sys2Proof.Machine.execResetN f s
  | .glbResetModule value f => Sys2Proof.Machine.execGlbResetModule value f s
  | .glbResetHost value => Sys2Proof.Machine.execGlbResetHost value s
  | .functionLevelReset => Sys2Proof.Machine.execFunctionLevelReset s
  | .hostPerst level => Sys2Proof.Machine.execHostPerst level s
  | .pcieLinkDown => Sys2Proof.Machine.execPcieLinkDown s
  | .lcCmd cmd f => Sys2Proof.Machine.execLcCmd cmd f s
  | .bladeLoss bladeB mv reversed open_ => Sys2Proof.Machine.execBladeLoss bladeB mv reversed open_ s
  | .bladeReturn x => Sys2Proof.Machine.execBladeReturn x s
  | .supplyWarning mv => Sys2Proof.Machine.execSupplyWarning mv s
  | .supplyQualStart => Sys2Proof.Machine.execSupplyQualStart s
  | .supplyRecover => Sys2Proof.Machine.execSupplyRecover s
  | .clockReturnStep => Sys2Proof.Machine.execClockReturnStep s
  | .brownOut => Sys2Proof.Machine.execBrownOut s
  | .overVoltage => Sys2Proof.Machine.execOverVoltage s
  | .mainPowerRestart f => Sys2Proof.Machine.execMainPowerRestart f s
  | .governorEvaluate m => Sys2Proof.Machine.execGovernorEvaluate m s
  | .currentLimitTrip => Sys2Proof.Machine.execCurrentLimitTrip s
  | .currentRestore => Sys2Proof.Machine.execCurrentRestore s
  | .overcurrentReset => Sys2Proof.Machine.execOvercurrentReset s
  | .boostPlanArm n arm => Sys2Proof.Machine.execBoostPlanArm n arm s
  | .boostStartMark n m avg58 => Sys2Proof.Machine.execBoostStartMark n m avg58 s
  | .boostEndMark n => Sys2Proof.Machine.execBoostEndMark n s
  | .boostDurationExpire => Sys2Proof.Machine.execBoostDurationExpire s
  | .govBoostEnWrite v => Sys2Proof.Machine.execGovBoostEnWrite v s
  | .govCancel => Sys2Proof.Machine.execGovCancel s
  | .wearLedgerUpdate => Sys2Proof.Machine.execWearLedgerUpdate s
  | .coolantOut coolIn flow => Sys2Proof.Machine.execCoolantOut coolIn flow s
  | .thermalThrottle jmax hbmMax => Sys2Proof.Machine.execThermalThrottle jmax hbmMax s
  | .thermalShutdown => Sys2Proof.Machine.execThermalShutdown s
  | .thermalRestart cool f => Sys2Proof.Machine.execThermalRestart cool f s
  | .workItemComplete clove ctx => Sys2Proof.Machine.execWorkItemComplete clove ctx s
  | .updateComplete w => Sys2Proof.Machine.execUpdateComplete w s
  | .scrubRead unit addr => Sys2Proof.Machine.execScrubRead unit addr s
  | .eyeMonitorBelowMargin p lane height width => Sys2Proof.Machine.execEyeMonitorBelowMargin p lane height width s
  | .qualificationAbandoned => Sys2Proof.Machine.execQualificationAbandoned s
  | .aux3v3Loss => Sys2Proof.Machine.execAux3v3Loss s
  | .pcieLinkUp rate width => Sys2Proof.Machine.execPcieLinkUp rate width s
  | .peppermillLock p lane => Sys2Proof.Machine.execPeppermillLock p lane s
  | .peppermillLostLock p lane => Sys2Proof.Machine.execPeppermillLostLock p lane s

end Sys2Proof.Machine
end

