-- ==== Sys2Proof/Machine/Time.lean ====
section
/-! DEFINITION. One tick of the 800 MHz reference clock: what an empty queue does (log 2). -/

namespace Sys2Proof.Machine

/-- Core cycles in this tick: the clock is in steps of 25 MHz (Table 15.20), 32 of them to a tick. -/
def tickCycles (s : State) : Nat := (s.time.coreUnits + s.power.clock) / 32 - s.time.coreUnits / 32

/-- Two sparse lists of counts added; `fuel` bounds their lengths together. -/
def mergeAdd : Nat → Sparse Nat → Sparse Nat → Sparse Nat
  | 0, a, _ => a
  | _ + 1, [], b => b
  | _ + 1, a, [] => a
  | fuel + 1, (i, x) :: a, (j, y) :: b =>
    if i < j then (i, x) :: mergeAdd fuel a ((j, y) :: b)
    else if j < i then (j, y) :: mergeAdd fuel ((i, x) :: a) b
    else (i, x + y) :: mergeAdd fuel a b

/-- The activity timers of an in-service clove in which a cycle falls (R204, Table 17.10): ARRAY, VEC and SCAN busy
or idle, and DRAIN_BUSY. -/
def activity (c : Clove) : List Nat :=
  ((List.range 3).map (fun k => if c.serving.any (fun x => x.1 == k) then 2 * k else 2 * k + 1))
    ++ (if c.drain.isSome then [6] else [])

/-- Every timer that counts `n` core cycles now, by ascending address. -/
def timersNow (s : State) (n : Nat) : Sparse Nat :=
  let cloves := ((List.range 96).flatMap (podCloves s)).mergeSort (fun a b => decide (a ≤ b))
  let act := cloves.flatMap (fun p => (activity (clove s p)).map (fun k => (cloveBase p + 0x200 + 8 * k, n)))
  let ph := (List.range 7).filterMap (fun f =>
    if (phaseRec s f).active then some (safeBase + 0x2100 + 0x20 * f, n)
    else none)
  if n = 0 then [] else act ++ ph ++ [(safeBase + 0x2200, n)]

/-! ### Peppermill's bits (R432) -/

/-- Eighths of bits that a lane carries in a tick, at 212.5 Gb/s, and those of a unit of PM_BITS. -/
def tickBits : Nat := 2125
def unitBits : Nat := 2048

/-- One lane of port `p` compares bits while its checker runs and is locked: bits in error among them are a free number, less than
would end the lock (log 66). -/
def compareBits (p : Nat) (s : State) (x : Nat × Pm) : State :=
  if checks s p x.1 && x.2.locked then
    let n := x.2.acc + tickBits
    let t := pmErrors p x.1 ((Config.freeWord s.free).toNat % 256) { s with free := s.free + 1 }
    timer (pmReg p x.1 0x10) (n / unitBits) (modPm p x.1 (fun y => { y with acc := n % unitBits }) t)
  else s

def compareAll (s : State) : State := s.ports.foldl (fun t x => x.2.pm.foldl (compareBits x.1) t) s

/-! ### The tick -/

/-- The core cycles of a tick, with the timers that count them. -/
def coreTick (s : State) : State :=
  let add := timersNow s (tickCycles s)
  { s with
    time := ⟨s.time.refTicks, s.time.coreUnits + s.power.clock⟩
    reg := { s.reg with ctr := mergeAdd (s.reg.ctr.length + add.length) s.reg.ctr add } }

/-- The tick: reference time passes while main power is up; core time, and with it the timers, while the core clocks
run (R415, R416, R429); the tally comes to the present (R225, R230). -/
def tick (s : State) : State :=
  if !s.power.main then s
  else
    let t := if coreRuns s then compareAll (coreTick s) else s
    refresh { t with time := { t.time with refTicks := t.time.refTicks + 1 } }

end Sys2Proof.Machine
end

