-- ==== Sys2Proof/WellFormed.lean ====
section
/-! DEFINITION. When a command is well formed: it names units the module has (R7) and its fields fit their widths (Tables 10.9 to 10.18 and the tables of each field). -/

namespace Sys2Proof

/-- A number of `w` bits. -/
def fits (w n : Nat) : Bool := decide (n < 2 ^ w)

/-- Table 10.9. -/
def wfHeader (h : Header) : Bool :=
  fits 2 h.slot && fits 6 h.group && fits 32 h.tag && fits 20 h.pos && fits 12 h.tensorId && fits 16 h.layer

/-- Table 10.12. -/
def wfMatmul (b : MatmulBody) : Bool :=
  fits 16 b.a && fits 16 b.b && fits 16 b.out && fits 16 b.aux && fits 16 b.saved && fits 12 b.weightId
    && fits 8 b.version && fits 7 b.accTile && fits 7 b.dwTile && fits 4 b.splitN && fits 4 b.start && fits 2 b.kind
    && fits 2 b.dir && fits 2 b.pass && fits 2 b.preload && fits 2 b.glen && fits 12 b.fileA && fits 12 b.fileB
    && fits 12 b.rowBase && fits 4 b.underBits && fits 8 b.histBase && fits 5 b.fn && fits 32 b.alpha

/-- Table 10.13. -/
def wfVecop (b : VecopBody) : Bool :=
  fits 8 b.vop && fits 5 b.fn && fits 7 b.k && fits 2 b.norm && fits 16 b.in0 && fits 16 b.in1 && fits 16 b.in2
    && fits 16 b.out0 && fits 16 b.out1 && fits 16 b.threshold && fits 32 b.s0 && fits 32 b.s1 && fits 12 b.file0
    && fits 12 b.file1 && fits 12 b.file2 && fits 8 b.histBase

/-- Table 10.14. -/
def wfScan (b : ScanBody) : Bool :=
  fits 2 b.mode && fits 21 b.chunkLen && fits 32 b.chunk && fits 16 b.nchunks && fits 16 b.a && fits 16 b.b
    && fits 16 b.out && fits 64 b.record && fits 64 b.cin && fits 64 b.foldOut

/-- Table 10.15. -/
def wfMove (b : MoveBody) : Bool :=
  fits 32 b.length && fits 64 b.src && fits 64 b.dst && fits 32 b.arg0 && fits 32 b.arg1 && fits 64 b.mark
    && fits 8 b.markFrac

/-- Table 10.17, REDUCE. -/
def wfReduce (b : ReduceBody) : Bool :=
  fits 12 b.bucket && fits 3 b.op && fits 7 b.rank && fits 16 b.src && fits 16 b.plan && fits 16 b.backup
    && fits 64 b.dst && fits 64 b.deadline && fits 8 b.deadlineFrac

/-- Table 10.17, DISPATCH and COMBINE. -/
def wfDispatch (b : DispatchBody) : Bool :=
  fits 16 b.tokens && fits 16 b.route && fits 16 b.weights && fits 16 b.out && fits 16 b.capacity && fits 2 b.policy
    && fits 7 b.k && fits 16 b.plan

/-- Table 10.17, UPDATE. -/
def wfUpdate (b : UpdateBody) : Bool := fits 12 b.weightId && fits 16 b.grad && fits 64 b.gradAddr && fits 64 b.hyper

/-- Table 10.17, STASH_SAVE. -/
def wfStashSave (b : StashSaveBody) : Bool := fits 16 b.src && fits 12 b.weightId && fits 12 b.file

/-- Table 10.17, STASH_LOAD. -/
def wfStashLoad (b : StashLoadBody) : Bool := fits 8 b.index && fits 11 b.clove && fits 12 b.list && fits 16 b.dst

/-- Table 10.18, GATE. -/
def wfGate (b : GateBody) : Bool := fits 64 b.mark && fits 8 b.frac

/-- Table 10.18, DEPEND: at most four waits. -/
def wfWaits (l : List Wait) : Bool := decide (l.length ≤ 4) && l.all (fun w => fits 32 w.seq && fits 6 w.stream)

/-- Table 10.18, CALL. -/
def wfCall (b : CallBody) : Bool := fits 12 b.list && fits 2 b.slot && fits 20 b.posAdd

/-- Table 10.18, SCALE_COMMIT. -/
def wfScaleCommit (b : ScaleCommitBody) : Bool := fits 12 b.first && fits 13 b.count && fits 2 b.headroom && fits 64 b.dst

/-- Table 10.18, STEP_COMMIT. -/
def wfStepCommit (b : StepCommitBody) : Bool := fits 12 b.vote && fits 16 b.plan && fits 64 b.deadline && fits 8 b.deadlineFrac

/-- Table 10.18, EVENT. -/
def wfEvent (b : EventBody) : Bool := fits 64 b.addr && fits 64 b.value && fits 7 b.vector

/-- A first-setter record (R186). -/
def wfFirst (f : FirstSetter) : Bool := fits 64 f.tally && fits 16 f.node && fits 16 f.layer && fits 12 f.tensor

/-- A trailer (Table 12.3). -/
def wfTrailer (t : Trailer) : Bool :=
  fits 16 t.count && fits 16 t.expected && fits 32 t.tag && fits 64 t.tally && fits 32 t.elements
    && fits 32 t.clippedCount && t.first.all wfFirst

/-- What an input says of itself. -/
def wfMeta (m : InputMeta) : Bool := fits 16 m.count && m.backupNode.all (fits 16) && m.first.all wfFirst

/-- A token record (R313). -/
def wfToken (r : TokenRec) : Bool :=
  fits 16 r.origin && fits 8 r.choice && fits 32 r.row && fits 20 r.expert && fits 16 r.epoch && fits 8 r.round

/-- A tally message (R226). -/
def wfTally (m : TallyMsg) : Bool :=
  fits 64 m.pair && fits 8 m.frac && fits 32 m.rate && fits 16 m.sender && fits 16 m.master && fits 8 m.hop
    && fits 8 m.flags && fits 64 m.t2 && fits 64 m.t3

/-- A backup copy (R304). -/
def wfCopy (c : BackupCopy) : Bool := fits 12 c.bucket && fits 16 c.standIn && fits 16 c.sender && wfMeta c.info

/-- What a flit carries fits its fields. -/
def wfPayload (p : Payload) : Bool :=
  match p with
  | .idle => true
  | .frame lane port node => decide (lane < 9) && decide (port < 48) && fits 16 node
  | .lctrl code lane => fits 8 code && decide (lane < 9)
  | .bytes b => decide (b.length ≤ 256)
  | .chunkUp b t _ i => fits 12 b && fits 3 t && i.all wfMeta
  | .chunkDown b t _ x => fits 12 b && fits 3 t && x.all wfTrailer
  | .grant b t _ => fits 12 b && fits 3 t
  | .copy c => wfCopy c
  | .shadowTrailer b t => fits 12 b && wfTrailer t
  | .request pl e o r _ ep => fits 16 pl && fits 20 e && fits 16 o && fits 8 r && fits 16 ep
  | .allot pl e o r _ => fits 16 pl && fits 20 e && fits 16 o && fits 8 r
  | .token r _ => wfToken r
  | .output r _ => wfToken r
  | .tally _ m => wfTally m
  | .error n => fits 9 n

/-- The CRC and the reserved bits fit; two codewords can have 15 symbols corrected each, and one that ends in the flit touches it
(R276). -/
def wfCheck (c : FlitCheck) : Bool :=
  fits 64 c.crc && fits 8 c.res && decide (c.corrected ≤ 30) && (!c.codeword || !c.lastBad)

/-- A flit (Table 11.3). -/
def wfFlit (f : Flit) : Bool :=
  fits 4 f.kind && decide (f.vc < 8) && fits 8 f.laneSeq && decide (f.ackLane < 9) && fits 8 f.ackSeq && fits 16 f.dst
    && fits 16 f.src && fits 16 f.vcSeq && fits 8 f.length && decide (f.crVc < 8) && fits 12 f.crTotal
    && fits 20 f.ctx && wfPayload f.payload && decide (f.data.length ≤ 232)

/-- Units that a start-up self-test can name (R7). -/
def wfFaults (f : StartFaults) : Bool :=
  f.cloves.all (fun p => decide (p < 1216)) && f.banks.all (fun b => decide (b.1 < 8))
    && f.channels.all (fun c => decide (c < 512)) && f.tiles.all (fun t => decide (t < 16))
    && f.canaries.all (fun p => decide (p < 1216)) && f.engines.all (fun t => decide (t < 16))
    && fits 16 f.vinA && fits 16 f.vinB

/-- A memory unit that keeps codes (Table 13.5). -/
def wfUnit (u : UnitId) : Bool :=
  decide (u < 1216) || (decide (0x800 ≤ u) && decide (u < 0x800 + 1216)) || (decide (0x1000 ≤ u) && decide (u < 0x1008))
    || (decide (0x2000 ≤ u) && decide (u < 0x2200)) || (decide (0x3000 ≤ u) && decide (u < 0x3010))

/-- Measured values fit the registers that report them (Tables 15.18, 15.20). -/
def wfSense (m : Sense) : Bool :=
  fits 16 m.vinA && fits 16 m.vinB && fits 16 m.iinA && fits 16 m.iinB && fits 16 m.pin10us
    && fits 16 m.pin10ms && fits 16 m.pin60s && fits 12 m.jmax && fits 6 m.jdie && fits 12 m.hbmMax && fits 12 m.coolIn
    && fits 12 m.coolOut && fits 12 m.flow

/-- A request's count and epoch (R314, R319). -/
def wfAsk (a : Ask) : Bool := fits 32 a.count && fits 16 a.epoch

/-- A blade that feeds again. -/
def wfBladeIn (x : BladeIn) : Bool := fits 16 x.mv

/-- The command is well formed. -/
def wellFormed (i : Instr) : Bool :=
  match i with
  | .nop s h => decide (s < 64) && wfHeader h
  | .matmul s h b => decide (s < 64) && wfHeader h && wfMatmul b
  | .bwdPair s h b => decide (s < 64) && wfHeader h && wfMatmul b
  | .productTableMatmul s h b => decide (s < 64) && wfHeader h && wfMatmul b
  | .vecop s h b => decide (s < 64) && wfHeader h && wfVecop b
  | .scan s h b => decide (s < 64) && wfHeader h && wfScan b
  | .moveCopy s h b => decide (s < 64) && wfHeader h && wfMove b
  | .moveScaleFile s h b => decide (s < 64) && wfHeader h && wfMove b
  | .moveInt4Table s h b => decide (s < 64) && wfHeader h && wfMove b
  | .moveRowBank s h b => decide (s < 64) && wfHeader h && wfMove b
  | .moveSpline s h b => decide (s < 64) && wfHeader h && wfMove b
  | .moveGroup s h b => decide (s < 64) && wfHeader h && wfMove b
  | .moveWeightTable s h b => decide (s < 64) && wfHeader h && wfMove b
  | .moveStatSlot s h b => decide (s < 64) && wfHeader h && wfMove b
  | .snapshot s h b => decide (s < 64) && wfHeader h && wfMove b
  | .seed s h b => decide (s < 64) && wfHeader h && wfMove b
  | .keyseed s h b => decide (s < 64) && wfHeader h && wfMove b
  | .deliver s h b => decide (s < 64) && wfHeader h && wfMove b
  | .reduce s h b => decide (s < 64) && wfHeader h && wfReduce b
  | .dispatch s h b => decide (s < 64) && wfHeader h && wfDispatch b
  | .combine s h b => decide (s < 64) && wfHeader h && wfDispatch b
  | .gate s h b => decide (s < 64) && wfHeader h && wfGate b
  | .depend s h w => decide (s < 64) && wfHeader h && wfWaits w
  | .barrier s h => decide (s < 64) && wfHeader h
  | .call s h b => decide (s < 64) && wfHeader h && wfCall b
  | .update s h b => decide (s < 64) && wfHeader h && wfUpdate b
  | .stashSave s h b => decide (s < 64) && wfHeader h && wfStashSave b
  | .stashLoad s h b => decide (s < 64) && wfHeader h && wfStashLoad b
  | .scaleCommit s h b => decide (s < 64) && wfHeader h && wfScaleCommit b
  | .stepCommit s h b => decide (s < 64) && wfHeader h && wfStepCommit b
  | .event s h b => decide (s < 64) && wfHeader h && wfEvent b
  | .descriptorTake s => decide (s < 64)
  | .completionEntryWrite s => decide (s < 64)
  | .itemHandout pod => decide (pod < 96)
  | .workSteal pod => decide (pod < 96)
  | .contextSwitch clove exUnit readyMask => decide (clove < 1216) && decide (exUnit < 3) && fits 4 readyMask
  | .tileWaitOpen clove tile => decide (clove < 1216) && decide (tile < 128)
  | .sharedMemberAdd clove tile => decide (clove < 1216) && decide (tile < 128)
  | .combinePartialReceive clove tile => decide (clove < 1216) && decide (tile < 128)
  | .stolenChunkReceive clove tile => decide (clove < 1216) && decide (tile < 128)
  | .tileDrain clove => decide (clove < 1216)
  | .drainPassEnd clove => decide (clove < 1216)
  | .redrainComplete clove => decide (clove < 1216)
  | .stashSaveResume s => decide (s < 64)
  | .updateStart w => fits 12 w
  | .voteResult bucket _ _ first => fits 12 bucket && wfFirst first
  | .streamEnable s => decide (s < 64)
  | .streamDisable s => decide (s < 64)
  | .streamResume s => decide (s < 64)
  | .streamAbort s => decide (s < 64)
  | .streamRestart s => decide (s < 64)
  | .stallDetect s waitsFor => decide (s < 64) && decide (waitsFor < 64)
  | .sqDb s value => decide (s < 64) && fits 64 value
  | .cqDb s value => decide (s < 64) && fits 64 value
  | .eqDb value => fits 64 value
  | .msixModTimer v => decide (v < 65)
  | .msixUnmask v => decide (v < 65)
  | .glbIrqTest value => fits 64 value
  | .bar4Read offset length => fits 36 offset && fits 32 length
  | .bar4Write offset _ => fits 36 offset
  | .hbmRowRemapDone channel => decide (channel < 512)
  | .trackerEntryExpire unit addr => wfUnit unit && fits 44 addr
  | .scrubWindowOpen => true
  | .scrubWindowClose => true
  | .scrubForcedStart _ => true
  | .scrubForcedRate _ => true
  | .scrubPassComplete _ => true
  | .memInjArm unit value => wfUnit unit && decide (unit < 0x3000) && fits 96 value
  | .hbmRetire value => fits 64 value
  | .hbmMigrationDone channel => decide (channel < 512)
  | .arrayFault clove _ => decide (clove < 1216)
  | .spareJoin clove => decide (clove < 1216)
  | .canaryRun engine n _ => (!engine || decide (n < 16)) && decide (n < 1216)
  | .canaryNow clove _ => decide (clove < 1216)
  | .quarReq value => fits 64 value
  | .lockstepMismatch tile => decide (tile < 16)
  | .clockFault tile => decide (tile < 24)
  | .tempDisagree die hot => decide (die < 64) && fits 12 hot
  | .linkAdderResidueFault linkTile lane bucket => decide (linkTile < 8) && decide (lane < 9) && fits 12 bucket
  | .updateResidueFault tile w => decide (tile < 16) && fits 12 w
  | .ucodeGo => true
  | .ucodeApply => true
  | .stewardSwitch => true
  | .stewardRestartDone _ => true
  | .quadEdge _ _ => true
  | .zPulse => true
  | .zMissing => true
  | .serialFrame ftype flags epoch count frac crc => fits 4 ftype && fits 4 flags && fits 16 epoch && fits 48 count && fits 8 frac && fits 16 crc
  | .fabricTick port m => decide (port < 48) && wfTally m
  | .fabricPing port m => decide (port < 48) && wfTally m
  | .fabricEcho port m => decide (port < 48) && wfTally m
  | .pingTimer => true
  | .tickSendTimer => true
  | .pairFault pair => decide (pair < 4)
  | .pairRestore pair => decide (pair < 4)
  | .illegalLimit => true
  | .illegalRecover => true
  | .framesTimeout => true
  | .holdoverExpire => true
  | .tallyBusStamp => true
  | .alarmFire n => decide (n < 512)
  | .gateRelease s => decide (s < 64)
  | .tallyCtrlSrc src => fits 2 src
  | .tallyPreset pair => fits 64 pair
  | .tallyNowLoRead => true
  | .almArm n value => decide (n < 512) && fits 64 value
  | .almDisarm n value => decide (n < 512) && fits 64 value
  | .tallyTestGo => true
  | .tallyTestDone pass => fits 4 pass
  | .portEnable p => decide (p < 48)
  | .portDisable p => decide (p < 48)
  | .portRetrain p => decide (p < 48)
  | .portDetect p _ _ => decide (p < 48)
  | .portTrainDone p trained inverted _ => decide (p < 48) && fits 9 trained && fits 9 inverted
  | .portAlignDone p locked => decide (p < 48) && fits 9 locked
  | .identExchange p node port => decide (p < 48) && fits 16 node && fits 8 port
  | .portCreditDone p _ => decide (p < 48)
  | .flitSend p => decide (p < 48)
  | .flitReceive p lane f check => decide (p < 48) && decide (lane < 9) && wfFlit f && wfCheck check
  | .replayTimeout p lane => decide (p < 48) && decide (lane < 9)
  | .laneFailure p lane => decide (p < 48) && decide (lane < 9)
  | .laneFail p lane => decide (p < 48) && decide (lane < 9)
  | .recalReq p lane => decide (p < 48) && decide (lane < 9)
  | .recalAck p lane => decide (p < 48) && decide (lane < 9)
  | .recalDone p lane => decide (p < 48) && decide (lane < 9)
  | .portKeepExpire p => decide (p < 48)
  | .pmOwn p lane => decide (p < 48) && decide (lane < 9)
  | .pmInject p lane => decide (p < 48) && decide (lane < 9)
  | .bucketArm bucket => fits 12 bucket
  | .grantReceive port bucket tree n => decide (port < 48) && fits 12 bucket && fits 3 tree && fits 32 n
  | .reduceChunkReceive port bucket tree _ info => decide (port < 48) && fits 12 bucket && fits 3 tree && info.all wfMeta
  | .resultChunkReceive port bucket tree _ trailer => decide (port < 48) && fits 12 bucket && fits 3 tree && trailer.all wfTrailer
  | .reduceDeadline bucket tree => fits 12 bucket && fits 3 tree
  | .backupCopyReceive c => wfCopy c
  | .copyHoldExpire bucket standIn => fits 12 bucket && fits 16 standIn
  | .shadowTrailerReceive bucket t => fits 12 bucket && wfTrailer t
  | .lnkBktWrite value => fits 64 value
  | .lnkBktCancel bucket => fits 12 bucket
  | .countResult plan round _ => fits 16 plan && fits 8 round
  | .countTimeout plan => fits 16 plan
  | .dispatchRequestReceive plan expert origin round ask => fits 16 plan && fits 20 expert && fits 16 origin && fits 8 round && wfAsk ask
  | .dispatchGrantReceive plan expert round count => fits 16 plan && fits 20 expert && fits 8 round && fits 32 count
  | .tokenRecordReceive r _ => wfToken r
  | .expertOutputReceive r _ => wfToken r
  | .homeDataRead linkTile => decide (linkTile < 8)
  | .homeDataWrite linkTile value => decide (linkTile < 8) && fits 64 value
  | .homeLoadGo linkTile => decide (linkTile < 8)
  | .homeLoadDone linkTile => decide (linkTile < 8)
  | .schedBwsplitWrite value => fits 32 value
  | .slotLenWrite i value => decide (i < 4) && fits 32 value
  | .phaseInterlockWrite _ => true
  | .glbSnapStrobe _ => true
  | .autoSnapshot => true
  | .snapshotDistributed => true
  | .registerWrite addr size value => fits 26 addr && (decide (size = 4) || decide (size = 8)) && fits 64 value
  | .clvBistGo clove => decide (clove < 1216)
  | .clvBistDone clove fail => decide (clove < 1216) && fits 4 fail
  | .hbmMbistGo channel => decide (channel < 512)
  | .hbmMbistDone channel _ => decide (channel < 512)
  | .bypass => true
  | .samplePreload _ _ => true
  | .extest => true
  | .idcode => true
  | .clamp => true
  | .highz => true
  | .readVin => true
  | .readIin => true
  | .readPin => true
  | .readTemperature1 => true
  | .readTemperature2 => true
  | .statusWord => true
  | .statusInput => true
  | .statusTemperature => true
  | .clearFaults => true
  | .auxPowerOn _ _ => true
  | .mainPowerEnable f => wfFaults f
  | .resetN f => wfFaults f
  | .glbResetModule value f => fits 64 value && wfFaults f
  | .glbResetHost value => fits 64 value
  | .functionLevelReset => true
  | .hostPerst _ => true
  | .pcieLinkDown => true
  | .lcCmd cmd f => decide (cmd.length = 248) && wfFaults f
  | .bladeLoss _ mv _ _ => fits 16 mv
  | .bladeReturn x => wfBladeIn x
  | .supplyWarning mv => fits 16 mv
  | .supplyQualStart => true
  | .supplyRecover => true
  | .clockReturnStep => true
  | .brownOut => true
  | .overVoltage => true
  | .mainPowerRestart f => wfFaults f
  | .governorEvaluate m => wfSense m
  | .currentLimitTrip => true
  | .currentRestore => true
  | .overcurrentReset => true
  | .boostPlanArm i _ => decide (i < 16)
  | .boostStartMark i m avg58 => decide (i < 16) && wfSense m && fits 16 avg58
  | .boostEndMark i => decide (i < 16)
  | .boostDurationExpire => true
  | .govBoostEnWrite _ => true
  | .govCancel => true
  | .wearLedgerUpdate => true
  | .coolantOut coolIn flow => fits 12 coolIn && fits 12 flow
  | .thermalThrottle jmax hbmMax => fits 12 jmax && fits 12 hbmMax
  | .thermalShutdown => true
  | .thermalRestart _ f => wfFaults f
  | .workItemComplete clove ctx => decide (clove < 1216) && decide (ctx < 4)
  | .updateComplete w => fits 12 w
  | .scrubRead unit addr => wfUnit unit && fits 44 addr
  | .eyeMonitorBelowMargin p lane height width => decide (p < 48) && decide (lane < 9) && fits 8 height && fits 8 width
  | .qualificationAbandoned => true
  | .aux3v3Loss => true
  | .pcieLinkUp rate width => fits 3 rate && fits 5 width
  | .peppermillLock p lane => decide (p < 48) && decide (lane < 9)
  | .peppermillLostLock p lane => decide (p < 48) && decide (lane < 9)

end Sys2Proof
end

