-- ==== Sys2Proof/Laws/PerInstr.lean ====
section
/-! SUPPORT. The per-command family UnitsExist: a well-formed command names only units the module has (R7). -/

namespace Sys2Proof.Laws.UnitsExist

/-- The units a command names: how many of the kind the module has (R7), and the number named. -/
def units (i : Instr) : List (Nat × Nat) :=
  match i with
  | .nop s _ => [(64, s)]
  | .matmul s _ _ => [(64, s)]
  | .bwdPair s _ _ => [(64, s)]
  | .productTableMatmul s _ _ => [(64, s)]
  | .vecop s _ _ => [(64, s)]
  | .scan s _ _ => [(64, s)]
  | .moveCopy s _ _ => [(64, s)]
  | .moveScaleFile s _ _ => [(64, s)]
  | .moveInt4Table s _ _ => [(64, s)]
  | .moveRowBank s _ _ => [(64, s)]
  | .moveSpline s _ _ => [(64, s)]
  | .moveGroup s _ _ => [(64, s)]
  | .moveWeightTable s _ _ => [(64, s)]
  | .moveStatSlot s _ _ => [(64, s)]
  | .snapshot s _ _ => [(64, s)]
  | .seed s _ _ => [(64, s)]
  | .keyseed s _ _ => [(64, s)]
  | .deliver s _ _ => [(64, s)]
  | .reduce s _ _ => [(64, s)]
  | .dispatch s _ _ => [(64, s)]
  | .combine s _ _ => [(64, s)]
  | .gate s _ _ => [(64, s)]
  | .depend s _ _ => [(64, s)]
  | .barrier s _ => [(64, s)]
  | .call s _ _ => [(64, s)]
  | .update s _ _ => [(64, s)]
  | .stashSave s _ _ => [(64, s)]
  | .stashLoad s _ _ => [(64, s)]
  | .scaleCommit s _ _ => [(64, s)]
  | .stepCommit s _ _ => [(64, s)]
  | .event s _ _ => [(64, s)]
  | .descriptorTake s => [(64, s)]
  | .completionEntryWrite s => [(64, s)]
  | .itemHandout pod => [(96, pod)]
  | .workSteal pod => [(96, pod)]
  | .contextSwitch clove exUnit _ => [(1216, clove), (3, exUnit)]
  | .tileWaitOpen clove tile => [(1216, clove), (128, tile)]
  | .sharedMemberAdd clove tile => [(1216, clove), (128, tile)]
  | .combinePartialReceive clove tile => [(1216, clove), (128, tile)]
  | .stolenChunkReceive clove tile => [(1216, clove), (128, tile)]
  | .tileDrain clove => [(1216, clove)]
  | .drainPassEnd clove => [(1216, clove)]
  | .redrainComplete clove => [(1216, clove)]
  | .stashSaveResume s => [(64, s)]
  | .updateStart _ => []
  | .voteResult _ _ _ _ => []
  | .streamEnable s => [(64, s)]
  | .streamDisable s => [(64, s)]
  | .streamResume s => [(64, s)]
  | .streamAbort s => [(64, s)]
  | .streamRestart s => [(64, s)]
  | .stallDetect s waitsFor => [(64, s), (64, waitsFor)]
  | .sqDb s _ => [(64, s)]
  | .cqDb s _ => [(64, s)]
  | .eqDb _ => []
  | .msixModTimer v => [(65, v)]
  | .msixUnmask v => [(65, v)]
  | .glbIrqTest _ => []
  | .bar4Read _ _ => []
  | .bar4Write _ _ => []
  | .hbmRowRemapDone channel => [(512, channel)]
  | .trackerEntryExpire _ _ => []
  | .scrubWindowOpen => []
  | .scrubWindowClose => []
  | .scrubForcedStart _ => []
  | .scrubForcedRate _ => []
  | .scrubPassComplete _ => []
  | .memInjArm _ _ => []
  | .hbmRetire _ => []
  | .hbmMigrationDone channel => [(512, channel)]
  | .arrayFault clove _ => [(1216, clove)]
  | .spareJoin clove => [(1216, clove)]
  | .canaryRun _ n _ => [(1216, n)]
  | .canaryNow clove _ => [(1216, clove)]
  | .quarReq _ => []
  | .lockstepMismatch tile => [(16, tile)]
  | .clockFault tile => [(24, tile)]
  | .tempDisagree die _ => [(64, die)]
  | .linkAdderResidueFault linkTile lane _ => [(8, linkTile), (9, lane)]
  | .updateResidueFault tile _ => [(16, tile)]
  | .ucodeGo => []
  | .ucodeApply => []
  | .stewardSwitch => []
  | .stewardRestartDone _ => []
  | .quadEdge _ _ => []
  | .zPulse => []
  | .zMissing => []
  | .serialFrame _ _ _ _ _ _ => []
  | .fabricTick port _ => [(48, port)]
  | .fabricPing port _ => [(48, port)]
  | .fabricEcho port _ => [(48, port)]
  | .pingTimer => []
  | .tickSendTimer => []
  | .pairFault pair => [(4, pair)]
  | .pairRestore pair => [(4, pair)]
  | .illegalLimit => []
  | .illegalRecover => []
  | .framesTimeout => []
  | .holdoverExpire => []
  | .tallyBusStamp => []
  | .alarmFire n => [(512, n)]
  | .gateRelease s => [(64, s)]
  | .tallyCtrlSrc _ => []
  | .tallyPreset _ => []
  | .tallyNowLoRead => []
  | .almArm n _ => [(512, n)]
  | .almDisarm n _ => [(512, n)]
  | .tallyTestGo => []
  | .tallyTestDone _ => []
  | .portEnable p => [(48, p)]
  | .portDisable p => [(48, p)]
  | .portRetrain p => [(48, p)]
  | .portDetect p _ _ => [(48, p)]
  | .portTrainDone p _ _ _ => [(48, p)]
  | .portAlignDone p _ => [(48, p)]
  | .identExchange p _ _ => [(48, p)]
  | .portCreditDone p _ => [(48, p)]
  | .flitSend p => [(48, p)]
  | .flitReceive p lane _ _ => [(48, p), (9, lane)]
  | .replayTimeout p lane => [(48, p), (9, lane)]
  | .laneFailure p lane => [(48, p), (9, lane)]
  | .laneFail p lane => [(48, p), (9, lane)]
  | .recalReq p lane => [(48, p), (9, lane)]
  | .recalAck p lane => [(48, p), (9, lane)]
  | .recalDone p lane => [(48, p), (9, lane)]
  | .portKeepExpire p => [(48, p)]
  | .pmOwn p lane => [(48, p), (9, lane)]
  | .pmInject p lane => [(48, p), (9, lane)]
  | .bucketArm _ => []
  | .grantReceive port _ _ _ => [(48, port)]
  | .reduceChunkReceive port _ _ _ _ => [(48, port)]
  | .resultChunkReceive port _ _ _ _ => [(48, port)]
  | .reduceDeadline _ _ => []
  | .backupCopyReceive _ => []
  | .copyHoldExpire _ _ => []
  | .shadowTrailerReceive _ _ => []
  | .lnkBktWrite _ => []
  | .lnkBktCancel _ => []
  | .countResult _ _ _ => []
  | .countTimeout _ => []
  | .dispatchRequestReceive _ _ _ _ _ => []
  | .dispatchGrantReceive _ _ _ _ => []
  | .tokenRecordReceive _ _ => []
  | .expertOutputReceive _ _ => []
  | .homeDataRead linkTile => [(8, linkTile)]
  | .homeDataWrite linkTile _ => [(8, linkTile)]
  | .homeLoadGo linkTile => [(8, linkTile)]
  | .homeLoadDone linkTile => [(8, linkTile)]
  | .schedBwsplitWrite _ => []
  | .slotLenWrite i _ => [(4, i)]
  | .phaseInterlockWrite _ => []
  | .glbSnapStrobe _ => []
  | .autoSnapshot => []
  | .snapshotDistributed => []
  | .registerWrite _ _ _ => []
  | .clvBistGo clove => [(1216, clove)]
  | .clvBistDone clove _ => [(1216, clove)]
  | .hbmMbistGo channel => [(512, channel)]
  | .hbmMbistDone channel _ => [(512, channel)]
  | .bypass => []
  | .samplePreload _ _ => []
  | .extest => []
  | .idcode => []
  | .clamp => []
  | .highz => []
  | .readVin => []
  | .readIin => []
  | .readPin => []
  | .readTemperature1 => []
  | .readTemperature2 => []
  | .statusWord => []
  | .statusInput => []
  | .statusTemperature => []
  | .clearFaults => []
  | .auxPowerOn _ _ => []
  | .mainPowerEnable _ => []
  | .resetN _ => []
  | .glbResetModule _ _ => []
  | .glbResetHost _ => []
  | .functionLevelReset => []
  | .hostPerst _ => []
  | .pcieLinkDown => []
  | .lcCmd _ _ => []
  | .bladeLoss _ _ _ _ => []
  | .bladeReturn _ => []
  | .supplyWarning _ => []
  | .supplyQualStart => []
  | .supplyRecover => []
  | .clockReturnStep => []
  | .brownOut => []
  | .overVoltage => []
  | .mainPowerRestart _ => []
  | .governorEvaluate _ => []
  | .currentLimitTrip => []
  | .currentRestore => []
  | .overcurrentReset => []
  | .boostPlanArm i _ => [(16, i)]
  | .boostStartMark i _ _ => [(16, i)]
  | .boostEndMark i => [(16, i)]
  | .boostDurationExpire => []
  | .govBoostEnWrite _ => []
  | .govCancel => []
  | .wearLedgerUpdate => []
  | .coolantOut _ _ => []
  | .thermalThrottle _ _ => []
  | .thermalShutdown => []
  | .thermalRestart _ _ => []
  | .workItemComplete clove ctx => [(1216, clove), (4, ctx)]
  | .updateComplete _ => []
  | .scrubRead _ _ => []
  | .eyeMonitorBelowMargin p lane _ _ => [(48, p), (9, lane)]
  | .qualificationAbandoned => []
  | .aux3v3Loss => []
  | .pcieLinkUp _ _ => []
  | .peppermillLock p lane => [(48, p), (9, lane)]
  | .peppermillLostLock p lane => [(48, p), (9, lane)]

/-- A well-formed command names only units the module has. -/
def Statement (i : Instr) : Prop := wellFormed i = true → ∀ u ∈ units i, u.2 < u.1

theorem none : ∀ u ∈ ([] : List (Nat × Nat)), u.2 < u.1 := fun _ h => nomatch h

theorem one {n k : Nat} {l : List (Nat × Nat)} (h : n < k) (hl : ∀ u ∈ l, u.2 < u.1) : ∀ u ∈ (k, n) :: l, u.2 < u.1 :=
  List.forall_mem_cons.mpr ⟨h, hl⟩

theorem left {a b : Bool} (h : (a && b) = true) : a = true := (Bool.and_eq_true_iff.mp h).1

theorem right {a b : Bool} (h : (a && b) = true) : b = true := (Bool.and_eq_true_iff.mp h).2

theorem nop (s : Nat) (h0 : Header) : Statement (.nop s h0) :=
  fun h => one (of_decide_eq_true (left h)) none
theorem matmul (s : Nat) (h0 : Header) (b : MatmulBody) : Statement (.matmul s h0 b) :=
  fun h => one (of_decide_eq_true (left (left h))) none
theorem bwdPair (s : Nat) (h0 : Header) (b : MatmulBody) : Statement (.bwdPair s h0 b) :=
  fun h => one (of_decide_eq_true (left (left h))) none
theorem productTableMatmul (s : Nat) (h0 : Header) (b : MatmulBody) : Statement (.productTableMatmul s h0 b) :=
  fun h => one (of_decide_eq_true (left (left h))) none
theorem vecop (s : Nat) (h0 : Header) (b : VecopBody) : Statement (.vecop s h0 b) :=
  fun h => one (of_decide_eq_true (left (left h))) none
theorem scan (s : Nat) (h0 : Header) (b : ScanBody) : Statement (.scan s h0 b) :=
  fun h => one (of_decide_eq_true (left (left h))) none
theorem moveCopy (s : Nat) (h0 : Header) (b : MoveBody) : Statement (.moveCopy s h0 b) :=
  fun h => one (of_decide_eq_true (left (left h))) none
theorem moveScaleFile (s : Nat) (h0 : Header) (b : MoveBody) : Statement (.moveScaleFile s h0 b) :=
  fun h => one (of_decide_eq_true (left (left h))) none
theorem moveInt4Table (s : Nat) (h0 : Header) (b : MoveBody) : Statement (.moveInt4Table s h0 b) :=
  fun h => one (of_decide_eq_true (left (left h))) none
theorem moveRowBank (s : Nat) (h0 : Header) (b : MoveBody) : Statement (.moveRowBank s h0 b) :=
  fun h => one (of_decide_eq_true (left (left h))) none
theorem moveSpline (s : Nat) (h0 : Header) (b : MoveBody) : Statement (.moveSpline s h0 b) :=
  fun h => one (of_decide_eq_true (left (left h))) none
theorem moveGroup (s : Nat) (h0 : Header) (b : MoveBody) : Statement (.moveGroup s h0 b) :=
  fun h => one (of_decide_eq_true (left (left h))) none
theorem moveWeightTable (s : Nat) (h0 : Header) (b : MoveBody) : Statement (.moveWeightTable s h0 b) :=
  fun h => one (of_decide_eq_true (left (left h))) none
theorem moveStatSlot (s : Nat) (h0 : Header) (b : MoveBody) : Statement (.moveStatSlot s h0 b) :=
  fun h => one (of_decide_eq_true (left (left h))) none
theorem snapshot (s : Nat) (h0 : Header) (b : MoveBody) : Statement (.snapshot s h0 b) :=
  fun h => one (of_decide_eq_true (left (left h))) none
theorem seed (s : Nat) (h0 : Header) (b : MoveBody) : Statement (.seed s h0 b) :=
  fun h => one (of_decide_eq_true (left (left h))) none
theorem keyseed (s : Nat) (h0 : Header) (b : MoveBody) : Statement (.keyseed s h0 b) :=
  fun h => one (of_decide_eq_true (left (left h))) none
theorem deliver (s : Nat) (h0 : Header) (b : MoveBody) : Statement (.deliver s h0 b) :=
  fun h => one (of_decide_eq_true (left (left h))) none
theorem reduce (s : Nat) (h0 : Header) (b : ReduceBody) : Statement (.reduce s h0 b) :=
  fun h => one (of_decide_eq_true (left (left h))) none
theorem dispatch (s : Nat) (h0 : Header) (b : DispatchBody) : Statement (.dispatch s h0 b) :=
  fun h => one (of_decide_eq_true (left (left h))) none
theorem combine (s : Nat) (h0 : Header) (b : DispatchBody) : Statement (.combine s h0 b) :=
  fun h => one (of_decide_eq_true (left (left h))) none
theorem gate (s : Nat) (h0 : Header) (b : GateBody) : Statement (.gate s h0 b) :=
  fun h => one (of_decide_eq_true (left (left h))) none
theorem depend (s : Nat) (h0 : Header) (w : List Wait) : Statement (.depend s h0 w) :=
  fun h => one (of_decide_eq_true (left (left h))) none
theorem barrier (s : Nat) (h0 : Header) : Statement (.barrier s h0) :=
  fun h => one (of_decide_eq_true (left h)) none
theorem call (s : Nat) (h0 : Header) (b : CallBody) : Statement (.call s h0 b) :=
  fun h => one (of_decide_eq_true (left (left h))) none
theorem update (s : Nat) (h0 : Header) (b : UpdateBody) : Statement (.update s h0 b) :=
  fun h => one (of_decide_eq_true (left (left h))) none
theorem stashSave (s : Nat) (h0 : Header) (b : StashSaveBody) : Statement (.stashSave s h0 b) :=
  fun h => one (of_decide_eq_true (left (left h))) none
theorem stashLoad (s : Nat) (h0 : Header) (b : StashLoadBody) : Statement (.stashLoad s h0 b) :=
  fun h => one (of_decide_eq_true (left (left h))) none
theorem scaleCommit (s : Nat) (h0 : Header) (b : ScaleCommitBody) : Statement (.scaleCommit s h0 b) :=
  fun h => one (of_decide_eq_true (left (left h))) none
theorem stepCommit (s : Nat) (h0 : Header) (b : StepCommitBody) : Statement (.stepCommit s h0 b) :=
  fun h => one (of_decide_eq_true (left (left h))) none
theorem event (s : Nat) (h0 : Header) (b : EventBody) : Statement (.event s h0 b) :=
  fun h => one (of_decide_eq_true (left (left h))) none
theorem descriptorTake (s : Nat) : Statement (.descriptorTake s) :=
  fun h => one (of_decide_eq_true h) none
theorem completionEntryWrite (s : Nat) : Statement (.completionEntryWrite s) :=
  fun h => one (of_decide_eq_true h) none
theorem itemHandout (pod : Nat) : Statement (.itemHandout pod) :=
  fun h => one (of_decide_eq_true h) none
theorem workSteal (pod : Nat) : Statement (.workSteal pod) :=
  fun h => one (of_decide_eq_true h) none
theorem contextSwitch (clove : Nat) (exUnit : Nat) (readyMask : Nat) : Statement (.contextSwitch clove exUnit readyMask) :=
  fun h => one (of_decide_eq_true (left (left h))) (one (of_decide_eq_true (right (left h))) none)
theorem tileWaitOpen (clove : Nat) (tile : Nat) : Statement (.tileWaitOpen clove tile) :=
  fun h => one (of_decide_eq_true (left h)) (one (of_decide_eq_true (right h)) none)
theorem sharedMemberAdd (clove : Nat) (tile : Nat) : Statement (.sharedMemberAdd clove tile) :=
  fun h => one (of_decide_eq_true (left h)) (one (of_decide_eq_true (right h)) none)
theorem combinePartialReceive (clove : Nat) (tile : Nat) : Statement (.combinePartialReceive clove tile) :=
  fun h => one (of_decide_eq_true (left h)) (one (of_decide_eq_true (right h)) none)
theorem stolenChunkReceive (clove : Nat) (tile : Nat) : Statement (.stolenChunkReceive clove tile) :=
  fun h => one (of_decide_eq_true (left h)) (one (of_decide_eq_true (right h)) none)
theorem tileDrain (clove : Nat) : Statement (.tileDrain clove) :=
  fun h => one (of_decide_eq_true h) none
theorem drainPassEnd (clove : Nat) : Statement (.drainPassEnd clove) :=
  fun h => one (of_decide_eq_true h) none
theorem redrainComplete (clove : Nat) : Statement (.redrainComplete clove) :=
  fun h => one (of_decide_eq_true h) none
theorem stashSaveResume (s : Nat) : Statement (.stashSaveResume s) :=
  fun h => one (of_decide_eq_true h) none
theorem updateStart (w : Nat) : Statement (.updateStart w) := fun _ => none
theorem voteResult (bucket : Nat) (nonfinite : Bool) (short : Bool) (first : FirstSetter) : Statement (.voteResult bucket nonfinite short first) := fun _ => none
theorem streamEnable (s : Nat) : Statement (.streamEnable s) :=
  fun h => one (of_decide_eq_true h) none
theorem streamDisable (s : Nat) : Statement (.streamDisable s) :=
  fun h => one (of_decide_eq_true h) none
theorem streamResume (s : Nat) : Statement (.streamResume s) :=
  fun h => one (of_decide_eq_true h) none
theorem streamAbort (s : Nat) : Statement (.streamAbort s) :=
  fun h => one (of_decide_eq_true h) none
theorem streamRestart (s : Nat) : Statement (.streamRestart s) :=
  fun h => one (of_decide_eq_true h) none
theorem stallDetect (s : Nat) (waitsFor : Nat) : Statement (.stallDetect s waitsFor) :=
  fun h => one (of_decide_eq_true (left h)) (one (of_decide_eq_true (right h)) none)
theorem sqDb (s : Nat) (value : Nat) : Statement (.sqDb s value) :=
  fun h => one (of_decide_eq_true (left h)) none
theorem cqDb (s : Nat) (value : Nat) : Statement (.cqDb s value) :=
  fun h => one (of_decide_eq_true (left h)) none
theorem eqDb (value : Nat) : Statement (.eqDb value) := fun _ => none
theorem msixModTimer (v : Nat) : Statement (.msixModTimer v) :=
  fun h => one (of_decide_eq_true h) none
theorem msixUnmask (v : Nat) : Statement (.msixUnmask v) :=
  fun h => one (of_decide_eq_true h) none
theorem glbIrqTest (value : Nat) : Statement (.glbIrqTest value) := fun _ => none
theorem bar4Read (offset : Nat) (length : Nat) : Statement (.bar4Read offset length) := fun _ => none
theorem bar4Write (offset : Nat) (data : List Byte) : Statement (.bar4Write offset data) := fun _ => none
theorem hbmRowRemapDone (channel : Nat) : Statement (.hbmRowRemapDone channel) :=
  fun h => one (of_decide_eq_true h) none
theorem trackerEntryExpire (unit : UnitId) (addr : Nat) : Statement (.trackerEntryExpire unit addr) := fun _ => none
theorem scrubWindowOpen : Statement .scrubWindowOpen := fun _ => none
theorem scrubWindowClose : Statement .scrubWindowClose := fun _ => none
theorem scrubForcedStart (hbm : Bool) : Statement (.scrubForcedStart hbm) := fun _ => none
theorem scrubForcedRate (hbm : Bool) : Statement (.scrubForcedRate hbm) := fun _ => none
theorem scrubPassComplete (hbm : Bool) : Statement (.scrubPassComplete hbm) := fun _ => none
theorem memInjArm (unit : UnitId) (value : Nat) : Statement (.memInjArm unit value) := fun _ => none
theorem hbmRetire (value : Nat) : Statement (.hbmRetire value) := fun _ => none
theorem hbmMigrationDone (channel : Nat) : Statement (.hbmMigrationDone channel) :=
  fun h => one (of_decide_eq_true h) none
theorem arrayFault (clove : Nat) (parity : Bool) : Statement (.arrayFault clove parity) :=
  fun h => one (of_decide_eq_true h) none
theorem spareJoin (clove : Nat) : Statement (.spareJoin clove) :=
  fun h => one (of_decide_eq_true h) none
theorem canaryRun (engine : Bool) (n : Nat) (ok : Bool) : Statement (.canaryRun engine n ok) :=
  fun h => one (of_decide_eq_true (right h)) none
theorem canaryNow (clove : Nat) (ok : Bool) : Statement (.canaryNow clove ok) :=
  fun h => one (of_decide_eq_true h) none
theorem quarReq (value : Nat) : Statement (.quarReq value) := fun _ => none
theorem lockstepMismatch (tile : Nat) : Statement (.lockstepMismatch tile) :=
  fun h => one (of_decide_eq_true h) none
theorem clockFault (tile : Nat) : Statement (.clockFault tile) :=
  fun h => one (of_decide_eq_true h) none
theorem tempDisagree (die : Nat) (hot : Nat) : Statement (.tempDisagree die hot) :=
  fun h => one (of_decide_eq_true (left h)) none
theorem linkAdderResidueFault (linkTile : Nat) (lane : Nat) (bucket : Nat) : Statement (.linkAdderResidueFault linkTile lane bucket) :=
  fun h => one (of_decide_eq_true (left (left h))) (one (of_decide_eq_true (right (left h))) none)
theorem updateResidueFault (tile : Nat) (w : Nat) : Statement (.updateResidueFault tile w) :=
  fun h => one (of_decide_eq_true (left h)) none
theorem ucodeGo : Statement .ucodeGo := fun _ => none
theorem ucodeApply : Statement .ucodeApply := fun _ => none
theorem stewardSwitch : Statement .stewardSwitch := fun _ => none
theorem stewardRestartDone (ok : Bool) : Statement (.stewardRestartDone ok) := fun _ => none
theorem quadEdge (a : Bool) (b : Bool) : Statement (.quadEdge a b) := fun _ => none
theorem zPulse : Statement .zPulse := fun _ => none
theorem zMissing : Statement .zMissing := fun _ => none
theorem serialFrame (ftype : Nat) (flags : Nat) (epoch : Nat) (count : Nat) (frac : Nat) (crc : Nat) : Statement (.serialFrame ftype flags epoch count frac crc) := fun _ => none
theorem fabricTick (port : Nat) (m : TallyMsg) : Statement (.fabricTick port m) :=
  fun h => one (of_decide_eq_true (left h)) none
theorem fabricPing (port : Nat) (m : TallyMsg) : Statement (.fabricPing port m) :=
  fun h => one (of_decide_eq_true (left h)) none
theorem fabricEcho (port : Nat) (m : TallyMsg) : Statement (.fabricEcho port m) :=
  fun h => one (of_decide_eq_true (left h)) none
theorem pingTimer : Statement .pingTimer := fun _ => none
theorem tickSendTimer : Statement .tickSendTimer := fun _ => none
theorem pairFault (pair : Nat) : Statement (.pairFault pair) :=
  fun h => one (of_decide_eq_true h) none
theorem pairRestore (pair : Nat) : Statement (.pairRestore pair) :=
  fun h => one (of_decide_eq_true h) none
theorem illegalLimit : Statement .illegalLimit := fun _ => none
theorem illegalRecover : Statement .illegalRecover := fun _ => none
theorem framesTimeout : Statement .framesTimeout := fun _ => none
theorem holdoverExpire : Statement .holdoverExpire := fun _ => none
theorem tallyBusStamp : Statement .tallyBusStamp := fun _ => none
theorem alarmFire (n : Nat) : Statement (.alarmFire n) :=
  fun h => one (of_decide_eq_true h) none
theorem gateRelease (s : Nat) : Statement (.gateRelease s) :=
  fun h => one (of_decide_eq_true h) none
theorem tallyCtrlSrc (src : Nat) : Statement (.tallyCtrlSrc src) := fun _ => none
theorem tallyPreset (pair : Nat) : Statement (.tallyPreset pair) := fun _ => none
theorem tallyNowLoRead : Statement .tallyNowLoRead := fun _ => none
theorem almArm (n : Nat) (value : Nat) : Statement (.almArm n value) :=
  fun h => one (of_decide_eq_true (left h)) none
theorem almDisarm (n : Nat) (value : Nat) : Statement (.almDisarm n value) :=
  fun h => one (of_decide_eq_true (left h)) none
theorem tallyTestGo : Statement .tallyTestGo := fun _ => none
theorem tallyTestDone (pass : Nat) : Statement (.tallyTestDone pass) := fun _ => none
theorem portEnable (p : Nat) : Statement (.portEnable p) :=
  fun h => one (of_decide_eq_true h) none
theorem portDisable (p : Nat) : Statement (.portDisable p) :=
  fun h => one (of_decide_eq_true h) none
theorem portRetrain (p : Nat) : Statement (.portRetrain p) :=
  fun h => one (of_decide_eq_true h) none
theorem portDetect (p : Nat) (termination : Bool) (driver : Bool) : Statement (.portDetect p termination driver) :=
  fun h => one (of_decide_eq_true h) none
theorem portTrainDone (p : Nat) (trained : Nat) (inverted : Nat) (arrived : List Nat) : Statement (.portTrainDone p trained inverted arrived) :=
  fun h => one (of_decide_eq_true (left (left h))) none
theorem portAlignDone (p : Nat) (locked : Nat) : Statement (.portAlignDone p locked) :=
  fun h => one (of_decide_eq_true (left h)) none
theorem identExchange (p : Nat) (node : Nat) (port : Nat) : Statement (.identExchange p node port) :=
  fun h => one (of_decide_eq_true (left (left h))) none
theorem portCreditDone (p : Nat) (credits : List Nat) : Statement (.portCreditDone p credits) :=
  fun h => one (of_decide_eq_true h) none
theorem flitSend (p : Nat) : Statement (.flitSend p) :=
  fun h => one (of_decide_eq_true h) none
theorem flitReceive (p : Nat) (lane : Nat) (f : Flit) (check : FlitCheck) : Statement (.flitReceive p lane f check) :=
  fun h => one (of_decide_eq_true (left (left (left h)))) (one (of_decide_eq_true (right (left (left h)))) none)
theorem replayTimeout (p : Nat) (lane : Nat) : Statement (.replayTimeout p lane) :=
  fun h => one (of_decide_eq_true (left h)) (one (of_decide_eq_true (right h)) none)
theorem laneFailure (p : Nat) (lane : Nat) : Statement (.laneFailure p lane) :=
  fun h => one (of_decide_eq_true (left h)) (one (of_decide_eq_true (right h)) none)
theorem laneFail (p : Nat) (lane : Nat) : Statement (.laneFail p lane) :=
  fun h => one (of_decide_eq_true (left h)) (one (of_decide_eq_true (right h)) none)
theorem recalReq (p : Nat) (lane : Nat) : Statement (.recalReq p lane) :=
  fun h => one (of_decide_eq_true (left h)) (one (of_decide_eq_true (right h)) none)
theorem recalAck (p : Nat) (lane : Nat) : Statement (.recalAck p lane) :=
  fun h => one (of_decide_eq_true (left h)) (one (of_decide_eq_true (right h)) none)
theorem recalDone (p : Nat) (lane : Nat) : Statement (.recalDone p lane) :=
  fun h => one (of_decide_eq_true (left h)) (one (of_decide_eq_true (right h)) none)
theorem portKeepExpire (p : Nat) : Statement (.portKeepExpire p) :=
  fun h => one (of_decide_eq_true h) none
theorem pmOwn (p : Nat) (lane : Nat) : Statement (.pmOwn p lane) :=
  fun h => one (of_decide_eq_true (left h)) (one (of_decide_eq_true (right h)) none)
theorem pmInject (p : Nat) (lane : Nat) : Statement (.pmInject p lane) :=
  fun h => one (of_decide_eq_true (left h)) (one (of_decide_eq_true (right h)) none)
theorem bucketArm (bucket : Nat) : Statement (.bucketArm bucket) := fun _ => none
theorem grantReceive (port : Nat) (bucket : Nat) (tree : Nat) (n : Nat) : Statement (.grantReceive port bucket tree n) :=
  fun h => one (of_decide_eq_true (left (left (left h)))) none
theorem reduceChunkReceive (port : Nat) (bucket : Nat) (tree : Nat) (words : List Int) (info : Option InputMeta) : Statement (.reduceChunkReceive port bucket tree words info) :=
  fun h => one (of_decide_eq_true (left (left (left h)))) none
theorem resultChunkReceive (port : Nat) (bucket : Nat) (tree : Nat) (words : List Int) (trailer : Option Trailer) : Statement (.resultChunkReceive port bucket tree words trailer) :=
  fun h => one (of_decide_eq_true (left (left (left h)))) none
theorem reduceDeadline (bucket : Nat) (tree : Nat) : Statement (.reduceDeadline bucket tree) := fun _ => none
theorem backupCopyReceive (c : BackupCopy) : Statement (.backupCopyReceive c) := fun _ => none
theorem copyHoldExpire (bucket : Nat) (standIn : Nat) : Statement (.copyHoldExpire bucket standIn) := fun _ => none
theorem shadowTrailerReceive (bucket : Nat) (t : Trailer) : Statement (.shadowTrailerReceive bucket t) := fun _ => none
theorem lnkBktWrite (value : Nat) : Statement (.lnkBktWrite value) := fun _ => none
theorem lnkBktCancel (bucket : Nat) : Statement (.lnkBktCancel bucket) := fun _ => none
theorem countResult (plan : Nat) (round : Nat) (counts : List Nat) : Statement (.countResult plan round counts) := fun _ => none
theorem countTimeout (plan : Nat) : Statement (.countTimeout plan) := fun _ => none
theorem dispatchRequestReceive (plan : Nat) (expert : Nat) (origin : Nat) (round : Nat) (ask : Ask) : Statement (.dispatchRequestReceive plan expert origin round ask) := fun _ => none
theorem dispatchGrantReceive (plan : Nat) (expert : Nat) (round : Nat) (count : Nat) : Statement (.dispatchGrantReceive plan expert round count) := fun _ => none
theorem tokenRecordReceive (r : TokenRec) (row : List Byte) : Statement (.tokenRecordReceive r row) := fun _ => none
theorem expertOutputReceive (r : TokenRec) (row : List Byte) : Statement (.expertOutputReceive r row) := fun _ => none
theorem homeDataRead (linkTile : Nat) : Statement (.homeDataRead linkTile) :=
  fun h => one (of_decide_eq_true h) none
theorem homeDataWrite (linkTile : Nat) (value : Nat) : Statement (.homeDataWrite linkTile value) :=
  fun h => one (of_decide_eq_true (left h)) none
theorem homeLoadGo (linkTile : Nat) : Statement (.homeLoadGo linkTile) :=
  fun h => one (of_decide_eq_true h) none
theorem homeLoadDone (linkTile : Nat) : Statement (.homeLoadDone linkTile) :=
  fun h => one (of_decide_eq_true h) none
theorem schedBwsplitWrite (value : Nat) : Statement (.schedBwsplitWrite value) := fun _ => none
theorem slotLenWrite (i : Nat) (value : Nat) : Statement (.slotLenWrite i value) :=
  fun h => one (of_decide_eq_true (left h)) none
theorem phaseInterlockWrite (value : Bool) : Statement (.phaseInterlockWrite value) := fun _ => none
theorem glbSnapStrobe (clear : Bool) : Statement (.glbSnapStrobe clear) := fun _ => none
theorem autoSnapshot : Statement .autoSnapshot := fun _ => none
theorem snapshotDistributed : Statement .snapshotDistributed := fun _ => none
theorem registerWrite (addr : Nat) (size : Nat) (value : Nat) : Statement (.registerWrite addr size value) := fun _ => none
theorem clvBistGo (clove : Nat) : Statement (.clvBistGo clove) :=
  fun h => one (of_decide_eq_true h) none
theorem clvBistDone (clove : Nat) (fail : Nat) : Statement (.clvBistDone clove fail) :=
  fun h => one (of_decide_eq_true (left h)) none
theorem hbmMbistGo (channel : Nat) : Statement (.hbmMbistGo channel) :=
  fun h => one (of_decide_eq_true h) none
theorem hbmMbistDone (channel : Nat) (rows : List Nat) : Statement (.hbmMbistDone channel rows) :=
  fun h => one (of_decide_eq_true h) none
theorem bypass : Statement .bypass := fun _ => none
theorem samplePreload (preload : List Nat) (pins : List Nat) : Statement (.samplePreload preload pins) := fun _ => none
theorem extest : Statement .extest := fun _ => none
theorem idcode : Statement .idcode := fun _ => none
theorem clamp : Statement .clamp := fun _ => none
theorem highz : Statement .highz := fun _ => none
theorem readVin : Statement .readVin := fun _ => none
theorem readIin : Statement .readIin := fun _ => none
theorem readPin : Statement .readPin := fun _ => none
theorem readTemperature1 : Statement .readTemperature1 := fun _ => none
theorem readTemperature2 : Statement .readTemperature2 := fun _ => none
theorem statusWord : Statement .statusWord := fun _ => none
theorem statusInput : Statement .statusInput := fun _ => none
theorem statusTemperature : Statement .statusTemperature := fun _ => none
theorem clearFaults : Statement .clearFaults := fun _ => none
theorem auxPowerOn (okA : Bool) (okB : Bool) : Statement (.auxPowerOn okA okB) := fun _ => none
theorem mainPowerEnable (f : StartFaults) : Statement (.mainPowerEnable f) := fun _ => none
theorem resetN (f : StartFaults) : Statement (.resetN f) := fun _ => none
theorem glbResetModule (value : Nat) (f : StartFaults) : Statement (.glbResetModule value f) := fun _ => none
theorem glbResetHost (value : Nat) : Statement (.glbResetHost value) := fun _ => none
theorem functionLevelReset : Statement .functionLevelReset := fun _ => none
theorem hostPerst (level : Bool) : Statement (.hostPerst level) := fun _ => none
theorem pcieLinkDown : Statement .pcieLinkDown := fun _ => none
theorem lcCmd (cmd : List Byte) (f : StartFaults) : Statement (.lcCmd cmd f) := fun _ => none
theorem bladeLoss (bladeB : Bool) (mv : Nat) (reversed : Bool) (open_ : Bool) : Statement (.bladeLoss bladeB mv reversed open_) := fun _ => none
theorem bladeReturn (x : BladeIn) : Statement (.bladeReturn x) := fun _ => none
theorem supplyWarning (mv : Nat) : Statement (.supplyWarning mv) := fun _ => none
theorem supplyQualStart : Statement .supplyQualStart := fun _ => none
theorem supplyRecover : Statement .supplyRecover := fun _ => none
theorem clockReturnStep : Statement .clockReturnStep := fun _ => none
theorem brownOut : Statement .brownOut := fun _ => none
theorem overVoltage : Statement .overVoltage := fun _ => none
theorem mainPowerRestart (f : StartFaults) : Statement (.mainPowerRestart f) := fun _ => none
theorem governorEvaluate (m : Sense) : Statement (.governorEvaluate m) := fun _ => none
theorem currentLimitTrip : Statement .currentLimitTrip := fun _ => none
theorem currentRestore : Statement .currentRestore := fun _ => none
theorem overcurrentReset : Statement .overcurrentReset := fun _ => none
theorem boostPlanArm (i : Nat) (arm : Bool) : Statement (.boostPlanArm i arm) :=
  fun h => one (of_decide_eq_true h) none
theorem boostStartMark (i : Nat) (m : Sense) (avg58 : Nat) : Statement (.boostStartMark i m avg58) :=
  fun h => one (of_decide_eq_true (left (left h))) none
theorem boostEndMark (i : Nat) : Statement (.boostEndMark i) :=
  fun h => one (of_decide_eq_true h) none
theorem boostDurationExpire : Statement .boostDurationExpire := fun _ => none
theorem govBoostEnWrite (v : Bool) : Statement (.govBoostEnWrite v) := fun _ => none
theorem govCancel : Statement .govCancel := fun _ => none
theorem wearLedgerUpdate : Statement .wearLedgerUpdate := fun _ => none
theorem coolantOut (coolIn : Nat) (flow : Nat) : Statement (.coolantOut coolIn flow) := fun _ => none
theorem thermalThrottle (jmax : Nat) (hbmMax : Nat) : Statement (.thermalThrottle jmax hbmMax) := fun _ => none
theorem thermalShutdown : Statement .thermalShutdown := fun _ => none
theorem thermalRestart (cool : Bool) (f : StartFaults) : Statement (.thermalRestart cool f) := fun _ => none
theorem workItemComplete (clove : Nat) (ctx : Nat) : Statement (.workItemComplete clove ctx) :=
  fun h => one (of_decide_eq_true (left h)) (one (of_decide_eq_true (right h)) none)
theorem updateComplete (w : Nat) : Statement (.updateComplete w) := fun _ => none
theorem scrubRead (unit : UnitId) (addr : Nat) : Statement (.scrubRead unit addr) := fun _ => none
theorem eyeMonitorBelowMargin (p : Nat) (lane : Nat) (height : Nat) (width : Nat) : Statement (.eyeMonitorBelowMargin p lane height width) :=
  fun h => one (of_decide_eq_true (left (left (left h)))) (one (of_decide_eq_true (right (left (left h)))) none)
theorem qualificationAbandoned : Statement .qualificationAbandoned := fun _ => none
theorem aux3v3Loss : Statement .aux3v3Loss := fun _ => none
theorem pcieLinkUp (rate : Nat) (width : Nat) : Statement (.pcieLinkUp rate width) := fun _ => none
theorem peppermillLock (p : Nat) (lane : Nat) : Statement (.peppermillLock p lane) :=
  fun h => one (of_decide_eq_true (left h)) (one (of_decide_eq_true (right h)) none)
theorem peppermillLostLock (p : Nat) (lane : Nat) : Statement (.peppermillLostLock p lane) :=
  fun h => one (of_decide_eq_true (left h)) (one (of_decide_eq_true (right h)) none)

end Sys2Proof.Laws.UnitsExist
end

