-- ==== Sys2Proof/Safety.lean ====
section
/-! DEFINITION. What a safe run keeps, and what stands between two states, in the terms the statements use. -/

namespace Sys2Proof.Machine

/-- Module memory and host memory are in canonical form: addresses strictly rising, no listed byte 0. -/
abbrev MemInv (s : State) : Prop := Memory.wf s.mem.data ∧ Memory.wf s.host.mem

/-- What every command keeps: the queue is the step's alone, and memory stays in canonical form. -/
structure Keeps (s t : State) : Prop where
  pending : t.pending = s.pending
  mem : MemInv s → MemInv t

/-- The parts of the state that a frame names. -/
inductive Part where
  /-- Every byte of module memory, and its integrity. -/
  | mem
  /-- Held register bits. -/
  | held
  /-- Counters, timers and overflow bits. -/
  | counters
  /-- The readable copies of counters, and the snapshot's control. -/
  | copies
  /-- Phase records. -/
  | phases
  | streams
  /-- Host memory. -/
  | hostMem
  /-- The event ring and the interrupt vectors. -/
  | ring
  /-- The host link, AER, and the registers of the host block with rules of their own. -/
  | hostLink
  | comp
  | stepGuard
  | tally
  | ports
  | link
  | safe
  | power
  | test
  | time
  | resp
  | free
  deriving DecidableEq, Repr

/-- A part is the same in two states. -/
def Part.same (p : Part) (s t : State) : Prop :=
  match p with
  | .mem => t.mem = s.mem
  | .held => t.reg.held = s.reg.held
  | .counters => t.reg.ctr = s.reg.ctr ∧ t.reg.ovf = s.reg.ovf
  | .copies => t.reg.copy = s.reg.copy ∧ t.reg.nextCopy = s.reg.nextCopy ∧ t.reg.snap = s.reg.snap
      ∧ t.reg.phaseCopy = s.reg.phaseCopy ∧ t.reg.phaseNext = s.reg.phaseNext
  | .phases => t.reg.phase = s.reg.phase
  | .streams => t.host.streams = s.host.streams
  | .hostMem => t.host.mem = s.host.mem
  | .ring => t.host.eqProduced = s.host.eqProduced ∧ t.host.eqConsumed = s.host.eqConsumed ∧ t.host.eqDb = s.host.eqDb
      ∧ t.host.eqOverflow = s.host.eqOverflow ∧ t.host.eqLost = s.host.eqLost ∧ t.host.vectors = s.host.vectors
  | .hostLink => t.host.bad = s.host.bad ∧ t.host.aer = s.host.aer ∧ t.host.rate = s.host.rate ∧ t.host.width = s.host.width
      ∧ t.host.flit = s.host.flit ∧ t.host.linkUp = s.host.linkUp ∧ t.host.perstLow = s.host.perstLow
      ∧ t.host.needReset = s.host.needReset ∧ t.host.bwsplit = s.host.bwsplit ∧ t.host.bwPending = s.host.bwPending
      ∧ t.host.bwErr = s.host.bwErr ∧ t.host.slotLen = s.host.slotLen ∧ t.host.stashErr = s.host.stashErr
      ∧ t.host.interlock = s.host.interlock ∧ t.host.interlockPending = s.host.interlockPending
  | .comp => t.comp = s.comp
  | .stepGuard => t.step = s.step
  | .tally => t.tally = s.tally
  | .ports => t.ports = s.ports
  | .link => t.link = s.link
  | .safe => t.safe = s.safe
  | .power => t.power = s.power
  | .test => t.test = s.test
  | .time => t.time = s.time
  | .resp => t.resp = s.resp
  | .free => t.free = s.free

/-- Between two states only the parts listed may differ; the queue never does. -/
def sameBut (l : List Part) (s t : State) : Prop := t.pending = s.pending ∧ ∀ p, p ∉ l → p.same s t

/-- What an event may move: the event ring with its vectors, host memory where the ring lies, and counters. -/
def eventParts : List Part := [.ring, .hostMem, .counters]

/-- What the commands of streams move last: status lines in host memory and phase records. -/
def settleParts : List Part := [.hostMem, .counters, .phases]

/-! ### Start-up -/

/-- Start-up has left main power on, for this cause; a bus between 40.0 and 42.0 V has it in warning, and out of warning PWR_OK is
high (R379, R392). -/
structure Powered (t : State) (cause : Nat) : Prop where
  main : t.power.main = true
  cause : t.power.cause = cause
  warning : t.power.warning = decide (40000 < t.power.bus ∧ t.power.bus < 42000)
  ok : t.power.warning = false → t.power.ok = true

/-- Start-up from `s` has ended at ready (R399, R401): memory is wiped, every stream and port is DISABLED, the tally is OFF at
value 0, the step tag is 0, and the ledger, the life cycle and host memory stand (R347, R348, R397). -/
structure AtReady (s t : State) (cause : Nat) : Prop where
  ready : t.safe.ready = true
  running : t.safe.stop = false ∧ t.safe.phase = 5
  main : Powered t cause
  wiped : t.mem.data = []
  streams : t.host.streams = []
  ports : t.ports = []
  tally : t.tally.state = .off ∧ t.tally.now = Stamp.zero
  tag : t.step.tag = 0
  tiles : t.comp.tileOut = s.safe.ledger.tilesOut.map (·.1)
  quarantines : t.safe.ledger.quarantines = s.safe.ledger.quarantines
  life : t.safe.life.state = s.safe.life.state ∧ t.safe.life.left = s.safe.life.left
  host : t.host.mem = s.host.mem
  queue : t.pending = s.pending

/-- Start-up from `s` has ended FAILED (R401): main power is on and the module is in safe stop. -/
structure AtFailed (s t : State) (cause : Nat) : Prop where
  ready : t.safe.ready = false
  stopped : t.safe.stop = true ∧ t.safe.phase = 6
  main : Powered t cause
  wiped : t.mem.data = []
  host : t.host.mem = s.host.mem
  queue : t.pending = s.pending

/-- The self-test finds no memory, clove, tile or engine that fails. -/
def noneFail (f : StartFaults) : Prop :=
  f.cloves = [] ∧ f.banks = [] ∧ f.channels = [] ∧ f.tiles = [] ∧ f.canaries = [] ∧ f.engines = []

/-- Enough is left in service for ready (R401): LT0, and a compute tile that the ledger does not keep out. -/
def tilesLeft (f : StartFaults) (s : State) : Prop :=
  f.lt0Ok = true ∧ ∃ k, k < 16 ∧ k ∉ s.safe.ledger.tilesOut.map (·.1)

/-- How start-up ends with nothing failing: at ready, or FAILED where too little is left. -/
def startsUp (f : StartFaults) (s t : State) (cause : Nat) : Prop :=
  (tilesLeft f s → AtReady s t cause) ∧ (¬ tilesLeft f s → AtFailed s t cause)

/-! ### What another command may set going -/

/-- No DISPATCH or COMBINE waits for its receive buffer (R212). -/
def enginesArmed (s : State) : Prop := (∀ o ∈ s.link.ops, o.armed = true) ∧ ∀ o ∈ s.link.combines, o.armed = true

/-- No descriptor has items that wait for a place in a pod's queue (R199). -/
def allCut (s : State) : Prop := ∀ x ∈ allRecs s, uncut x.2 = false

/-! ### A stream that takes a descriptor -/

/-- Stream `i` takes descriptors now and holds none: nothing in its window, no list, no member kept. -/
def clearStream (s : State) (i : Nat) : Prop :=
  i < 64 ∧ mayTake s i = true ∧ (stream s i).window = [] ∧ (stream s i).calls = [] ∧ (stream s i).kept = []

/-- Work that a descriptor starts passes its checks: it meets no failure. -/
def passes {α : Type} (w : MM α) (s : State) : Bool :=
  match (w s).1 with
  | .ok _ => true
  | .error _ => false

/-- The record of a descriptor that stream `i` takes from its sender. -/
def taken (i : Nat) (h : Header) (d : Desc) (s : State) : Rec := newRec s i false h d

/-- What the work of that descriptor starts from: its stream holds its record, with the stream's key seed. -/
def atWork (i : Nat) (h : Header) (d : Desc) (s : State) : State :=
  modRec i (taken i h d s).seq (fun x => { x with key := (stream s i).keySeed }) (pushRec i (taken i h d s) s)

/-- Stream `i` takes the descriptor and dispatches it at once: nothing before it is open, its position fits, its group
and sequence slot are good, and nothing that its kind waits for is outstanding (R195, R197, R216). -/
def startsNow (i : Nat) (h : Header) (d : Desc) (s : State) : Prop :=
  clearStream s i ∧ h.pos < 2 ^ 20
    ∧ kindReady (pushRec i (taken i h d s) s) i (taken i h d s) = true
    ∧ passes (dispatchChecks i (taken i h d s)) (atWork i h d s) = true

/-- Stream `i` has taken one descriptor, which stands as `life` says with status OK; its number follows the last, its
ring counts and every other stream are as before (R193). -/
def tookOne (i : Nat) (h : Header) (d : Desc) (life : Life) (s t : State) : Prop :=
  (∃ r, (stream t i).window = [r] ∧ r.seq = (stream s i).seqNext ∧ r.hdr = h ∧ r.desc = d ∧ r.life = life ∧ r.status = stOK)
    ∧ (stream t i).seqNext = ((stream s i).seqNext + 1) % 2 ^ 32 ∧ (stream t i).taken = (stream s i).taken
    ∧ (stream t i).retired = (stream s i).retired ∧ (stream t i).state = .active
    ∧ ∀ j, j ≠ i → stream t j = stream s j

/-- Memory meets no error: no faulty unit, no armed injection, no channel whose data has moved. -/
def cleanMem (s : State) : Prop := s.mem.moved = [] ∧ s.mem.faults = [] ∧ s.mem.inj = []

/-- One end of a MOVE can be used: `n` bytes at `a` of host memory or of module memory. -/
def endOk (s : State) (host : Bool) (a n : Nat) : Prop :=
  if host then s.host.linkUp = true ∧ s.host.bad = [] else access s a n = .ok

/-- The bytes at one end of a MOVE. -/
def endBytes (s : State) (host : Bool) (a n : Nat) : List Byte :=
  if host then bytesAt s.host.mem a n else bytesAt s.mem.data a n

/-- The byte at an address of host or module memory. -/
def endByte (s : State) (host : Bool) (a : Nat) : Byte := byteAt (if host then s.host.mem else s.mem.data) a

/-- Address `a` of host memory lies in the block of the status lines (R249). -/
def inStatus (s : State) (a : Nat) : Prop :=
  bitAt (reg4 s hostBase) 0 = true ∧ reg8 s (hostBase + 8) / 1024 * 1024 ≤ a ∧ a < reg8 s (hostBase + 8) / 1024 * 1024 + 1024

/-- Every byte of both memories outside `n` bytes at `a` of one of them reads as before, status lines apart. -/
def storesOnly (s t : State) (host : Bool) (a n : Nat) : Prop :=
  (∀ x, host = true ∨ x < a ∨ a + n ≤ x → byteAt t.mem.data x = byteAt s.mem.data x)
    ∧ ∀ x, ¬ inStatus s x → host = false ∨ x < a ∨ a + n ≤ x → byteAt t.host.mem x = byteAt s.host.mem x

/-- `n` bytes at `a` of one memory are those listed, status lines apart. -/
def stores (s t : State) (host : Bool) (a : Nat) (bs : List Byte) : Prop :=
  ∀ k, k < bs.length → ¬ (host = true ∧ inStatus s (a + k)) → endByte t host (a + k) = bs.getD k 0#8

end Sys2Proof.Machine
end

