-- ==== Sys2Proof/Certificates/Slice0/Obligations.lean ====
section
/-! DEFINITION. Statements for the provers, family by family; each says which rules it formalises. -/

open Sys2Proof Sys2Proof.Machine

/-- While AUX_3V3 is present the test access port takes BYPASS, SAMPLE/PRELOAD, EXTEST, IDCODE, CLAMP and HIGHZ: each becomes the instruction in force, IDCODE answers 0x1AF1_69A7, SAMPLE/PRELOAD answers the sampled pins and loads the cells, those of the link tiles only while main power is up, and nothing else of the module changes. The numbers of the instructions and the order of the cells are the model's (log 14). (R434, 18_production_test.md) -/
def Obligations.JtagInstructions : Prop :=
  ∀ s : State, s.power.aux = true → ∀ preload pins : List Nat,
    exec .bypass s = .next { s with test := { s.test with jtagIr := irBypass } }
    ∧ exec (.samplePreload preload pins) s = .next { s with
        test := { s.test with jtagIr := irSample, jtagCells := joined s preload }
        resp := .bytes ((joined s pins).map (BitVec.ofNat 8)) }
    ∧ (s.power.main = true → joined s pins = pins) ∧ (s.power.main = false → joined s pins = pins.take servicePins)
    ∧ exec .extest s = .next { s with test := { s.test with jtagIr := irExtest } }
    ∧ exec .idcode s = .next { s with test := { s.test with jtagIr := irIdcode }, resp := .word 0x1AF169A7 }
    ∧ exec .clamp s = .next { s with test := { s.test with jtagIr := irClamp } }
    ∧ exec .highz s = .next { s with test := { s.test with jtagIr := irHighz } }

/-- With auxiliary power and a running steward the PMBus port answers READ_VIN with the bus voltage, READ_IIN with the blades' current, READ_PIN with the input power, READ_TEMPERATURE_1 with the hottest junction and READ_TEMPERATURE_2 with the coolant inlet, changing nothing else; each status command answers some word (a free value, log 13), and CLEAR_FAULTS changes only what the status commands report. Which measured value each reading is, and its scale, are the model's (log 13). (R394, 15_power_thermal_connectors.md) -/
def Obligations.PmbusCommands : Prop :=
  ∀ s : State, s.power.aux = true → stewardUp s = true →
    exec .readVin s = .next { s with resp := .word s.power.bus }
    ∧ exec .readIin s = .next { s with resp := .word (s.power.iinA + s.power.iinB) }
    ∧ exec .readPin s = .next { s with resp := .word s.power.pin10ms }
    ∧ exec .readTemperature1 s = .next { s with resp := .word s.power.jmax }
    ∧ exec .readTemperature2 s = .next { s with resp := .word s.power.coolIn }
    ∧ (∃ w, exec .statusWord s = .next { s with resp := .word w })
    ∧ (∃ w, exec .statusInput s = .next { s with resp := .word w })
    ∧ (∃ w, exec .statusTemperature s = .next { s with resp := .word w })
    ∧ ∃ n, exec .clearFaults s = .next { s with power := { s.power with pmbusFault := n } }

/-- SUPPLY_WARNING completes in every state. With main power and no warning yet it enters warning: the clock is at 800 MHz or below, an open boost window ends, PWR_DIP_CNT has counted one more, the limiter reads 4 and the bus reads its operand; only power, plan entries, their alarms, the steward's waiting switch, counters, the event ring and the draw of a free value (whether PWR_OK falls, log 133) move. During a warning it is part of the same dip: the bus falls to the operand, the qualification is dropped, and nothing else moves but that draw. SUPPLY_QUAL_START in warning starts the qualification now. That SUPPLY_WARNING without main power and SUPPLY_QUAL_START outside a warning change nothing is the model's choice (log 34). QUALIFICATION_ABANDONED completes in every state and drops the qualification. SUPPLY_RECOVER after a qualified dip completes, leaves warning with the clock as it is and PWR_OK high, returning by steps where the governor allows more, and moves nothing else but the event ring. CLOCK_RETURN_STEP completes with one step of 25 MHz while the steward runs, and while it restarts the clock keeps its setting. (R379, R392, R396, 15_power_thermal_connectors.md) -/
def Obligations.SupplyDip : Prop :=
  ∀ (s : State) (mv : Nat),
    (s.power.main = true → s.power.warning = false →
      ∃ t, exec (.supplyWarning mv) s = .next t ∧ t.power.warning = true ∧ t.power.qualifying = false
        ∧ t.power.clock = min s.power.allowed clockHeld ∧ limiterNow t.power = 4 ∧ t.power.bus = mv
        ∧ t.power.dipStart = nowUs s ∧ t.power.boost.opened = false ∧ t.power.main = true
        ∧ ctr t (govBase + 0x30) = ctr (count (govBase + 0x30) 1 s) (govBase + 0x30)
        ∧ sameBut (eventParts ++ [.power, .held, .tally, .safe, .free]) s t)
    ∧ (s.power.main = true → s.power.warning = true →
      ∃ t, exec (.supplyWarning mv) s = .next t ∧ t.power.bus = mv ∧ t.power.warning = true
        ∧ t.power.qualifying = false ∧ t.power.clock = s.power.clock ∧ sameBut [.power, .free] s t)
    ∧ (s.power.main = false → exec (.supplyWarning mv) s = .next s)
    ∧ (s.power.warning = true →
      exec .supplyQualStart s = .next { s with power := { s.power with qualifying := true, qualStart := nowUs s } })
    ∧ (s.power.warning = false → exec .supplyQualStart s = .next s)
    ∧ exec .qualificationAbandoned s = .next { s with power := { s.power with qualifying := false } }
    ∧ (s.power.warning = true → s.power.qualifying = true →
      ∃ t, exec .supplyRecover s = .next t
        ∧ t.power = { s.power with
            warning := false, qualifying := false, ok := true, lostInDip := false, returning := decide (s.power.clock < s.power.allowed) }
        ∧ sameBut (eventParts ++ [.power]) s t)
    ∧ (stewardUp s = false → exec .clockReturnStep s = .next s)
    ∧ (stewardUp s = true → s.power.returning = true → s.power.warning = false → s.power.tripHold = false →
      s.power.clock < s.power.allowed → exec .clockReturnStep s = .next { s with power := { s.power with
        clock := s.power.clock + 1, maxClock := max s.power.maxClock (s.power.clock + 1)
        returning := decide (s.power.clock + 1 < s.power.allowed) } })

/-- BROWN_OUT, OVER_VOLTAGE, OVERCURRENT_RESET and THERMAL_SHUTDOWN turn the main converters off and record their cause (1, 2, 3 and 4): PWR_OK falls, module memory, cloves, streams, ports, link tiles and registers lose what they held, while the steward's ledger, which takes the wear of the millisecond that is cut short, the life-cycle state and host memory stay. A thermal shutdown also bars the restart. (R379, R383, R387, R388, R348, 15_power_thermal_connectors.md) -/
def Obligations.MainPowerLost : Prop :=
  ∀ s : State, s.power.main = true →
    let off (c : Instr) (cause : Nat) (shut : Bool) : Prop := ∃ t, exec c s = .next t
      ∧ t.power.main = false ∧ t.power.ok = false ∧ t.power.cause = cause ∧ t.power.shutdown = shut
      ∧ t.power.aux = s.power.aux ∧ t.mem.data = [] ∧ t.comp = ComputeSt.empty ∧ t.host.streams = [] ∧ t.ports = []
      ∧ t.link = LinkSt.empty ∧ t.reg = RegSt.empty ∧ t.safe.ready = false
      ∧ t.safe.ledger = { s.safe.ledger with
          clock := stewardMs s, wear := s.safe.ledger.wear + wearWeight s.power.maxClock }
      ∧ t.safe.life.state = s.safe.life.state ∧ t.safe.life.left = s.safe.life.left
      ∧ t.host.mem = s.host.mem ∧ t.pending = s.pending
    off .brownOut 1 s.power.shutdown ∧ off .overVoltage 2 s.power.shutdown
      ∧ off .overcurrentReset 3 s.power.shutdown ∧ off .thermalShutdown 4 true

/-- BLADE_LOSS of a blade that was feeding, with main power: the blade counts as out, its lost bit is set, its mate bit reads whether it is mated and its polarity bit whether it is reversed, its voltage is the operand, an open boost window ends, and nothing moves but power, plan entries, their alarms, the steward's waiting switch and the event ring. BLADE_RETURN of a blade that was out: it is mated, not reversed and no longer out, its voltage is the operand, and nothing else moves but the event ring and the draw of a free value (the dip length of its event, log 60). (R378, R381, R386, 15_power_thermal_connectors.md) -/
def Obligations.Blades : Prop :=
  ∀ (s : State) (bladeB reversed isOpen : Bool) (mv : Nat),
    let out (x : State) : Bool := if bladeB then x.power.outB else x.power.outA
    (s.power.main = true → out s = false →
      ∃ t, exec (.bladeLoss bladeB mv reversed isOpen) s = .next t ∧ out t = true
        ∧ (if bladeB then t.power.bladeLostB else t.power.bladeLostA) = true
        ∧ (if bladeB then t.power.outA else t.power.outB) = (if bladeB then s.power.outA else s.power.outB)
        ∧ (if bladeB then t.power.mateB else t.power.mateA) = !isOpen
        ∧ (if bladeB then t.power.polarityB else t.power.polarityA) = reversed
        ∧ (if bladeB then t.power.vinB else t.power.vinA) = mv
        ∧ t.power.boost.opened = false
        ∧ sameBut (eventParts ++ [.power, .held, .tally, .safe]) s t)
    ∧ (out s = true →
      ∃ t, exec (.bladeReturn ⟨bladeB, mv⟩) s = .next t ∧ out t = false
        ∧ (if bladeB then t.power.mateB else t.power.mateA) = true
        ∧ (if bladeB then t.power.polarityB else t.power.polarityA) = false
        ∧ (if bladeB then t.power.vinB else t.power.vinA) = mv
        ∧ t.power.clock = s.power.clock ∧ sameBut (eventParts ++ [.power, .free]) s t)

/-- GOVERNOR_EVALUATE with main power and a running steward records what was measured. Outside a boost window: with more than 7.5 kW over 10 ms, or over 60 s (log 120), or a current over its limit, it takes one step of 25 MHz from the clock it allows, down to 400 MHz; with less than 7.2 kW over 10 ms and less than 7.5 kW over 60 s, every current below 95 % of its limit, no thermal hold and less than 1.6 GHz allowed it gives one step back; between 7.2 kW and 7.5 kW, with no current over its limit and no more than 7.5 kW over 60 s, the allowance stands. Inside a window: a junction at 105 °C ends it with reason 0x05, and 7.5 kW over 60 s with 0x03; else more than 9.5 kW over 10 µs, or a current over its limit, takes one step, and otherwise the allowance rises by one step up to 1.85 GHz. One step an evaluation is the model's reading (log 74). (R382, R385, 15_power_thermal_connectors.md) -/
def Obligations.GovernorSteps : Prop :=
  ∀ (s : State) (m : Sense), s.power.main = true → stewardUp s = true →
    let p := (sense m s).power
    let ends (reason : Nat) : Prop := ∃ t, exec (.governorEvaluate m) s = .next t ∧ t.power.boost.opened = false
      ∧ t.power.boost.lastReason = reason ∧ t.power.allowed = min s.power.allowed clockBase ∧ t.power.jmax = m.jmax
      ∧ sameBut (eventParts ++ [.power, .held, .tally, .safe]) s t
    let inside (a : Nat) : Prop := ∃ t, exec (.governorEvaluate m) s = .next t ∧ t.power.boost = s.power.boost
      ∧ t.power.allowed = a ∧ t.power.jmax = m.jmax ∧ sameBut [.power] s t
    (s.power.boost.opened = true → (420 ≤ m.jmax → ends 0x05) ∧ (m.jmax < 420 → 7500 ≤ m.pin60s → ends 0x03)
      ∧ (m.jmax < 420 → m.pin60s < 7500 →
        (9500 < m.pin10us ∨ currentOver p = true → inside (max clockMin (s.power.allowed - 1)))
        ∧ (m.pin10us ≤ 9500 → currentOver p = false → s.power.thermal = false → s.power.allowed < clockBoost →
            inside (s.power.allowed + 1))
        ∧ (m.pin10us ≤ 9500 → currentOver p = false → clockBoost ≤ s.power.allowed → inside s.power.allowed)))
    ∧ (s.power.boost.opened = false →
    (7500 < m.pin10ms ∨ 7500 < m.pin60s ∨ currentOver p = true → ∃ t, exec (.governorEvaluate m) s = .next t
      ∧ t.power.allowed = max clockMin (s.power.allowed - 1) ∧ t.power.pin10ms = m.pin10ms ∧ t.power.jmax = m.jmax
      ∧ sameBut [.power] s t)
    ∧ (m.pin10ms < 7200 → m.pin60s < 7500 → currentLow p = true → currentOver p = false → s.power.thermal = false →
        s.power.allowed < clockBase → ∃ t, exec (.governorEvaluate m) s = .next t
          ∧ t.power.allowed = s.power.allowed + 1 ∧ t.power.pin10ms = m.pin10ms ∧ sameBut [.power] s t)
    ∧ (7200 ≤ m.pin10ms → m.pin10ms ≤ 7500 → m.pin60s ≤ 7500 → currentOver p = false → ∃ t, exec (.governorEvaluate m) s = .next t
      ∧ t.power.allowed = s.power.allowed ∧ t.power.clock = s.power.clock ∧ sameBut [.power] s t))

/-- CURRENT_LIMIT_TRIP with main power holds the clock at 800 MHz or below and ends an open window. CURRENT_RESTORE ends that hold, and the governor goes on from the present clock unless a dip or its return still has it. THERMAL_THROTTLE at 105 °C or above, or HBM at 95 °C or above, takes one step of 25 MHz from the allowance, down to 400 MHz, and ends an open window with reason 0x05; which die's reading is the new hottest is a free value (log 133). COOLANT_OUT of an open window's limits (above 40 °C, or below 12.0 l/min) ends the window with reason 0x09. (R383, R388, R386, 15_power_thermal_connectors.md) -/
def Obligations.CurrentAndHeat : Prop :=
  ∀ s : State,
    (s.power.main = true → ∃ t, exec .currentLimitTrip s = .next t ∧ t.power.tripHold = true ∧ t.power.currentTrip = true
      ∧ t.power.clock = min s.power.allowed clockHeld ∧ t.power.boost.opened = false
      ∧ sameBut (eventParts ++ [.power, .held, .tally, .safe]) s t)
    ∧ (s.power.tripHold = true → exec .currentRestore s = .next { s with power := { s.power with
        tripHold := false
        allowed := if s.power.warning ∨ s.power.returning then s.power.allowed else s.power.clock } })
    ∧ (s.power.main = true → ∀ jmax hbmMax, 420 ≤ jmax ∨ 380 ≤ hbmMax →
      ∃ t, exec (.thermalThrottle jmax hbmMax) s = .next t ∧ t.power.thermal = true ∧ t.power.jmax = jmax
        ∧ t.power.boost.opened = false
        ∧ (s.power.boost.opened = false → t.power.allowed = max clockMin (s.power.allowed - 1) ∧ sameBut [.power, .free] s t)
        ∧ (s.power.boost.opened = true → t.power.boost.lastReason = 0x05
          ∧ t.power.allowed = max clockMin (min s.power.allowed clockBase - 1)
          ∧ sameBut (eventParts ++ [.power, .held, .tally, .safe, .free]) s t))
    ∧ (s.power.boost.opened = true → ∀ coolIn flow, 400 < coolIn ∨ flow < 120 →
      ∃ t, exec (.coolantOut coolIn flow) s = .next t ∧ t.power.boost.opened = false ∧ t.power.boost.lastReason = 0x09
        ∧ t.power.coolIn = coolIn ∧ t.power.flow = flow ∧ sameBut (eventParts ++ [.power, .held, .tally, .safe]) s t)

/-- A start mark whose alarm is the next to fire (R233) with no condition of Table 15.12 against it opens the window for its entry, at the present reference time; with a condition against it the entry is DENIED (status 3) with that reason and its arm bit clears; a module that is not IN_SERVICE is denied with 0x0A, which is the model's reading (log 73). The end mark of the open entry ends the window with reason 0x01, the longest length with 0x02, and GOV_CTRL.cancel with 0x0A: the entry is DONE (status 2), the last reason and length are kept, and the governor allows no more than 1.6 GHz. (R384, R385, R386, 15_power_thermal_connectors.md) -/
def Obligations.BoostWindow : Prop :=
  ∀ (s : State) (i : Nat), i < 16 →
    (almTurn s (448 + 2 * i) = true → ∀ (m : Sense) (avg58 : Nat),
      (denial s i m avg58 = none → ∃ t, exec (.boostStartMark i m avg58) s = .next t
        ∧ t.power.boost.opened = true ∧ t.power.boost.entry = i ∧ t.power.boost.openedAt = nowUs s
        ∧ t.power.clock = s.power.clock ∧ sameBut [.power, .held, .tally, .ring, .counters] s t)
      ∧ ∀ r, denial s i m avg58 = some r → ∃ t, exec (.boostStartMark i m avg58) s = .next t
        ∧ planStatus t i = 3 ∧ sget 0 t.power.boost.reason i = r ∧ t.power.boost.opened = s.power.boost.opened
        ∧ planArmed t i = false ∧ sameBut [.power, .held, .tally, .ring, .counters] s t)
    ∧ (s.power.boost.opened = true →
      let ends (c : Instr) (reason : Nat) : Prop := ∃ t, exec c s = .next t ∧ t.power.boost.opened = false
        ∧ t.power.boost.lastReason = reason ∧ t.power.boost.lastLen = nowUs s - s.power.boost.openedAt
        ∧ planStatus t s.power.boost.entry = 2 ∧ t.power.allowed = min s.power.allowed clockBase
        ∧ sameBut (eventParts ++ [.power, .held, .tally, .safe]) s t
      (s.power.boost.entry = i → almTurn s (449 + 2 * i) = true → ends (.boostEndMark i) 0x01)
        ∧ ends .boostDurationExpire 0x02
        ∧ (govTakes s = true → ends .govCancel 0x0A))

/-- A write that arms plan entry i, not yet armed, arms both of its alarms at the entry's start and end pairs and makes its status ARMED (1); one that disarms it makes its status IDLE (0). A write of GOV_CTRL.boost_en sets that bit, and a write of 0 ends an open window with reason 0x0A. (R384, R386, R395, 15_power_thermal_connectors.md) -/
def Obligations.BoostRegisters : Prop :=
  ∀ s : State, govTakes s = true →
    (∀ i, i < 16 →
      (planArmed s i = false → ∃ t, exec (.boostPlanArm i true) s = .next t ∧ planArmed t i = true ∧ planStatus t i = 1
        ∧ almArmed t (448 + 2 * i) = true ∧ almMark t (448 + 2 * i) = ⟨planStart s i, 0⟩
        ∧ almArmed t (449 + 2 * i) = true ∧ almMark t (449 + 2 * i) = ⟨planEnd s i, 0⟩
        ∧ sameBut [.power, .held, .tally] s t)
      ∧ (planArmed s i = true → ∃ t, exec (.boostPlanArm i false) s = .next t ∧ planArmed t i = false ∧ planStatus t i = 0
        ∧ almArmed t (448 + 2 * i) = false ∧ almArmed t (449 + 2 * i) = false ∧ sameBut [.power, .held, .tally] s t))
    ∧ (∃ t, exec (.govBoostEnWrite true) s = .next t ∧ bitAt (reg4 t govBase) 0 = true ∧ sameBut [.held] s t)
    ∧ (∃ t, exec (.govBoostEnWrite false) s = .next t ∧ bitAt (reg4 t govBase) 0 = false ∧ t.power.boost.opened = false
      ∧ (s.power.boost.opened = true → t.power.boost.lastReason = 0x0A)
      ∧ sameBut (eventParts ++ [.power, .held, .tally, .safe]) s t)

/-- WEAR_LEDGER_UPDATE with main power adds the weight of the millisecond's highest clock to the wear ledger (0 up to 1.6 GHz, then 1, 1.5 and 2 ms) and starts the next millisecond from the present clock, or in safe stop from none; below 90 % of the rating nothing else changes. (R387, 15_power_thermal_connectors.md) -/
def Obligations.WearLedger : Prop :=
  ∀ s : State, s.power.main = true → s.safe.ledger.wear + wearWeight s.power.maxClock ≤ wearLimit →
    exec .wearLedgerUpdate s = .next { s with
      power := { s.power with maxClock := if coreRuns s then s.power.clock else 0 }
      safe := { s.safe with ledger := { s.safe.ledger with wear := s.safe.ledger.wear + wearWeight s.power.maxClock } } }

/-- AUX_POWER_ON boots the steward from its active slot, from the other slot where the active one's image does not verify or lies below the fused minimum version (fallback), or leaves it in ROM recovery where neither passes, and nothing but the service die's own state changes. AUX_3V3_LOSS takes main power with it: the steward is off, the test access port is reset, and the ledger, which takes the wear of the millisecond that main power loses, the life-cycle state and host memory stay. (R390, R398, R348, 16_startup_and_lifecycle.md) -/
def Obligations.AuxiliaryPower : Prop :=
  ∀ (s : State) (okA okB : Bool),
    let a := okA && decide (Config.fwMinimum.toNat ≤ s.safe.steward.verA)
    let b := okB && decide (Config.fwMinimum.toNat ≤ s.safe.steward.verB)
    (s.power.aux = false → ∃ t, exec (.auxPowerOn okA okB) s = .next t
      ∧ t.power = { s.power with aux := true, cause := 0 } ∧ t.safe.steward.on = true
      ∧ t.safe.steward.booted = (a || b) ∧ (a = false → b = false → t.safe.recovery = true)
      ∧ (s.safe.steward.slot = 0 → (a = true → t.safe.steward.slot = 0 ∧ t.safe.steward.fallback = false)
        ∧ (a = false → b = true → t.safe.steward.slot = 1 ∧ t.safe.steward.fallback = true))
      ∧ (s.safe.steward.slot = 1 → (b = true → t.safe.steward.slot = 1 ∧ t.safe.steward.fallback = false)
        ∧ (b = false → a = true → t.safe.steward.slot = 0 ∧ t.safe.steward.fallback = true))
      ∧ t.safe.ledger = s.safe.ledger ∧ sameBut [.power, .safe] s t)
    ∧ (s.power.aux = true → ∃ t, exec .aux3v3Loss s = .next t
      ∧ t.power.aux = false ∧ t.power.main = false ∧ t.safe.steward.on = false ∧ t.safe.steward.booted = false
      ∧ t.test = TestSt.empty
      ∧ t.safe.ledger = (if s.power.main then { s.safe.ledger with
          clock := stewardMs s, wear := s.safe.ledger.wear + wearWeight s.power.maxClock } else s.safe.ledger)
      ∧ t.safe.life.state = s.safe.life.state
      ∧ t.host.mem = s.host.mem ∧ t.pending = s.pending)

/-- MAIN_POWER_ENABLE and MAIN_POWER_RESTART complete wherever the conditions of main power hold (R399), THERMAL_RESTART once every sensor is cool and they hold, RESET_N (cause 5), and GLB_RESET.module (cause 6, log 68) where the register block takes writes and the write carries the module bit and the key, where the conditions of main power hold then (RESET_N itself apart, log 134); where they do not, the module is reset with main power off, LC_NONCE refreshed. Each runs the start-up sequence, whatever the self-test finds, with main power on after it, in warning with a bus between 40.0 and 42.0 V, and else with PWR_OK high. Where the self-test finds nothing, the sequence ends at ready as long as LT0 and some compute tile are in service: module memory is wiped, every stream and port is DISABLED, the tally is OFF with value 0, the step tag is 0, and the ledger's quarantines, the life-cycle state and host memory stand. Where they are not, it ends FAILED, in safe stop. A cause that a command does not give stays as it was recorded. (R379, R392, R397, R399, R401, 16_startup_and_lifecycle.md) -/
def Obligations.StartUpToReady : Prop :=
  ∀ (s : State) (f : StartFaults) (v : Nat),
    let starts (c : Instr) (cause : Nat) : Prop := ∃ t, exec c s = .next t ∧ Powered t cause
      ∧ (noneFail f → startsUp f s t cause)
    let rests (c : Instr) (cause : Nat) : Prop := ∃ t, exec c s = .next t ∧ t.power.main = false ∧ t.power.ok = false
      ∧ t.power.cause = cause ∧ t.power.aux = true ∧ t.safe.life.nonceNo = s.safe.life.nonceNo + 1 ∧ t.safe.life.result = 0
      ∧ t.safe.life.state = s.safe.life.state ∧ t.host.mem = s.host.mem ∧ t.pending = s.pending
    (mayEnable f s = true → starts (.mainPowerEnable f) s.power.cause ∧ starts (.mainPowerRestart f) s.power.cause)
    ∧ (s.power.shutdown = true → mayEnable f { s with power := { s.power with shutdown := false } } = true →
      starts (.thermalRestart true f) s.power.cause)
    ∧ (mayPower f s = true → starts (.resetN f) 5)
    ∧ (s.power.aux = true → mayPower f s = false → rests (.resetN f) 5)
    ∧ (hostBlock s = true → bitAt v 0 = true → bitsAt v 15 8 = 0xA5 →
      (mayPower f s = true → starts (.glbResetModule v f) 6)
      ∧ (s.power.aux = true → mayPower f s = false → rests (.glbResetModule v f) 6))

/-- GLB_RESET.host with its key, a function-level reset and HOST_PERST_N low each perform the host-interface reset: every stream is DISABLED with its counts at 0 and nothing in its window, the event ring and the vectors are reset, the registers of the host and ring block are at their reset values, and no memory is wiped; module memory, the ports, the tally, the supplies, and the step counter with its flags stay. GLB_STAT.ready is set again where start-up had reached it, and held clear while HOST_PERST_N is low. (R397, R348, R402, 16_startup_and_lifecycle.md) -/
def Obligations.HostResets : Prop :=
  ∀ (s : State) (v : Nat),
    let resets (c : Instr) (ready : Bool) : Prop := ∃ t, exec c s = .next t
      ∧ (∀ i, (stream t i).state = .disabled ∧ (stream t i).produced = 0 ∧ (stream t i).taken = 0
        ∧ (stream t i).retired = 0 ∧ (stream t i).seqNext = 0 ∧ (stream t i).window = [] ∧ (stream t i).calls = [])
      ∧ t.host.eqProduced = 0 ∧ t.host.eqConsumed = 0 ∧ t.host.vectors = [] ∧ t.host.bwsplit = BwSplit.reset
      ∧ (∀ a, inHostBlock a = true → reg4 t a = regReset a) ∧ t.safe.ready = ready
      ∧ t.mem = s.mem ∧ t.ports = s.ports ∧ t.tally = s.tally ∧ t.power = s.power ∧ t.step.tag = s.step.tag
      ∧ t.step.flags = s.step.flags ∧ t.host.mem = s.host.mem ∧ t.pending = s.pending
    (hostBlock s = true → bitAt v 1 = true → bitsAt v 15 8 = 0xA5 → resets (.glbResetHost v) (started s))
    ∧ (s.power.main = true → s.host.linkUp = true → resets .functionLevelReset (started s))
    ∧ resets (.hostPerst false) false

/-- HOST_PERST_N rising from low lets the endpoint go, and ready is set where start-up had reached it. PCIE_LINK_UP with main power and HOST_PERST_N high at a rate code 1 to 4 and a width of 4, 8 or 16 lanes records both, with flit mode at 64 GT/s. PCIE_LINK_DOWN clears what PCIE_STAT reads, clears ready, and holds the streams until a host-interface reset. Nothing else moves. (R242, R402, R273, 10_command_rings.md) -/
def Obligations.HostLink : Prop :=
  ∀ (s : State) (rate width : Nat),
    (s.host.perstLow = true → exec (.hostPerst true) s = .next { s with
      host := { s.host with perstLow := false }
      safe := { s.safe with ready := started s, pcieReduced := !started s } })
    ∧ (s.power.main = true → s.host.perstLow = false → 1 ≤ rate → rate ≤ 4 → width = 4 ∨ width = 8 ∨ width = 16 →
        exec (.pcieLinkUp rate width) s = .next { s with
        host := { s.host with linkUp := true, rate := rate, width := width, flit := decide (rate = 4) } })
    ∧ (s.host.linkUp = true → exec .pcieLinkDown s = .next { s with
        host := { s.host with linkUp := false, rate := 0, width := 0, flit := false, needReset := true }
        safe := { s.safe with ready := false, pcieReduced := true } })

/-- With auxiliary power and a running steward, a transition command of 248 bytes that fails a check of R409 leaves the life-cycle state, the transitions left and everything else alone, reports the check in LC_STAT.result and takes a fresh nonce; one that passes writes the new state and takes one of the transitions left. Whether a signature verifies is a free value of the model (log 12). In RETURN a command with another code may be the one that clears ledger entries, where its own checks pass: that code and those checks are the model's (log 132). A command of another length changes nothing. (R407, R408, R409, 16_startup_and_lifecycle.md) -/
def Obligations.LifeCycleCommand : Prop :=
  ∀ (s : State) (cmd : List Byte) (f : StartFaults), s.power.aux = true → stewardUp s = true →
    let fresh (r : Nat) (l : Ledger) : State := { s with safe := { s.safe with
      ledger := l, life := { s.safe.life with result := r, nonceNo := s.safe.life.nonceNo + 1 } } }
    (cmd.length ≠ 248 → exec (.lcCmd cmd f) s = .next s)
    ∧ (cmd.length = 248 → s.safe.life.state = 3 → leNat (cmd.take 1) ≠ 0x4C →
      exec (.lcCmd cmd f) s = .next (if Config.clearsLedger cmd = true then
        fresh (clearResult cmd s) (if clearResult cmd s = 0 then clearEntries s.safe.ledger else s.safe.ledger)
        else fresh 1 s.safe.ledger))
    ∧ (cmd.length = 248 → (s.safe.life.state = 3 → leNat (cmd.take 1) = 0x4C) →
    ∃ t, exec (.lcCmd cmd f) s = .next t
      ∧ (lcResult cmd s ≠ 0 → t = fresh (lcResult cmd s) s.safe.ledger)
      ∧ (lcResult cmd s = 0 → t.safe.life.state = leNat ((cmd.drop 1).take 1) ∧ t.safe.life.left = s.safe.life.left - 1
        ∧ s.safe.life.left ≠ 0 ∧ streamsOff s = true ∧ (transitionKey s.safe.life.state t.safe.life.state).isSome
        ∧ t.pending = s.pending))

/-- With the host block taking writes: enabling a DISABLED stream of a ready module makes it ACTIVE with its counts at 0; disabling an IDLE one makes it DISABLED, resuming a HALTED one makes it ACTIVE, and restarting an ABORTED one makes it DISABLED; aborting an ACTIVE, IDLE or HALTED one makes it ABORTED, its calls end, and every descriptor it had taken and not completed completes with STREAM_STALL. Where nothing waits for a place in a queue and no engine for a buffer (R199, R212), other streams stand as they were, but that an UPDATE there that waits for an open STEP_COMMIT of an aborted stream completes with its skipped bit. Apart from an abort nothing else moves but status lines and phase records. An action in a state that Table 17.6-a does not list for it changes no state and sets cfg_err. (R176, R193, R208, R214, R243, R247, R420, 08_clove_scheduling.md) -/
def Obligations.StreamActions : Prop :=
  ∀ (s : State) (i : Nat), i < 64 → hostBlock s = true →
    let acts (c : Instr) (x : Stream) : Prop := ∃ t, exec c s = .next t ∧ stream t i = x
      ∧ (∀ j, j ≠ i → stream t j = stream s j) ∧ sameBut (.streams :: settleParts) s t
    let refuses (c : Instr) : Prop := ∃ t, exec c s = .next t ∧ stream t i = { stream s i with cfgErr := true }
      ∧ (∀ j, j ≠ i → stream t j = stream s j) ∧ sameBut [.streams] s t
    ((stream s i).state = .disabled → s.safe.ready = true → acts (.streamEnable i) (enabled (stream s i))
        ∧ (enabled (stream s i)).state = .active ∧ (enabled (stream s i)).produced = 0 ∧ (enabled (stream s i)).taken = 0
        ∧ (enabled (stream s i)).retired = 0 ∧ (enabled (stream s i)).seqNext = 0 ∧ (enabled (stream s i)).window = [])
    ∧ ((stream s i).state = .idle → acts (.streamDisable i) { stream s i with state := .disabled })
    ∧ ((stream s i).state = .halted → acts (.streamResume i) { stream s i with state := .active })
    ∧ ((stream s i).state = .aborted → acts (.streamRestart i) { stream s i with state := .disabled })
    ∧ ((stream s i).state = .active ∨ (stream s i).state = .idle ∨ (stream s i).state = .halted →
      ∃ t, exec (.streamAbort i) s = .next t ∧ (enginesArmed s → (stream t i).state = .aborted ∧ (stream t i).calls = []
        ∧ (∀ r ∈ (stream t i).window, r.life = .done ∧ (r.status = stStall ∨ r ∈ (stream s i).window
          ∨ r ∈ (stream s i).calls.map (·.caller)))
        ∧ (stream t i).window.length = (stream s i).window.length + (stream s i).calls.length
        ∧ (stream t i).retired = (stream s i).retired
        ∧ (allCut s → (∀ c ∈ s.step.commits, c.stream = i → c.finished = true) → ∀ j, j ≠ i → stream t j = stream s j)
        ∧ (∀ c ∈ s.step.commits, c.stream = i → c.finished = false → ∀ j, j ≠ i → ∀ r ∈ (stream s j).window,
          (∃ d, r.desc = .update d) → r.life = .running → r.commitNo = c.no →
          ∃ x ∈ (stream t j).window, x.seq = r.seq ∧ x.life = .done ∧ x.flags.skipped = true)
        ∧ t.mem = s.mem ∧ t.step.flags = s.step.flags))
    ∧ ((stream s i).state ≠ .disabled → refuses (.streamEnable i))
    ∧ ((stream s i).state ≠ .idle → refuses (.streamDisable i))
    ∧ ((stream s i).state ≠ .halted → refuses (.streamResume i))
    ∧ ((stream s i).state ≠ .aborted → refuses (.streamRestart i))
    ∧ ((stream s i).state = .disabled ∨ (stream s i).state = .aborted → refuses (.streamAbort i))

/-- STALL_DETECT of a wait that the detector watches, where stream i waits for stream j, aborts both streams: both are ABORTED, and, where no engine waits for a buffer, everything they had taken is complete; where moreover nothing waits for a place in a queue and neither has an open STEP_COMMIT, every other stream stands as it was. (R213, R214, 08_clove_scheduling.md) -/
def Obligations.StallDetector : Prop :=
  ∀ (s : State) (i j q : Nat), i < 64 → j < 64 → watched s i j = true → waitsFor s i j = some q →
    ∃ t, exec (.stallDetect i j) s = .next t ∧ (enginesArmed s → (stream t i).state = .aborted ∧ (stream t j).state = .aborted
      ∧ (∀ r ∈ (stream t i).window, r.life = .done) ∧ (∀ r ∈ (stream t j).window, r.life = .done)
      ∧ (allCut s → (∀ c ∈ s.step.commits, c.stream = i ∨ c.stream = j → c.finished = true) →
        ∀ k, k ≠ i → k ≠ j → stream t k = stream s k) ∧ t.mem = s.mem)

/-- A write of SQ_DB of a ready module with a running stream whose count runs forward by less than 2^31 and names no more descriptors than the ring holds beyond those taken is kept and becomes the produced count, waking an IDLE stream, with the part beyond the ring held until it is taken (Table 10.8); one that runs back or names more is kept as written, changes no count and sets db_err. A write of CQ_DB becomes the consumed count of the completion ring and one of EQ_DB that of the event ring. Nothing else moves but status lines, phase records and counters. (R243, R250, R251, R268, 10_command_rings.md) -/
def Obligations.Doorbells : Prop :=
  ∀ (s : State) (i v : Nat), i < 64 → v < 2 ^ 32 → hostReady s = true →
    ((stream s i).state ≠ .disabled → (stream s i).state ≠ .aborted → v ≠ (stream s i).produced →
      (sub32 v (stream s i).produced < 2 ^ 31 → sub32 v (stream s i).taken ≤ sqSize s i →
        ∃ t, exec (.sqDb i v) s = .next t ∧ stream t i = { stream s i with
            sqDb := v, produced := v, state := if (stream s i).state = .idle then .active else (stream s i).state
            heldTo := if sqSize s i < sub32 v (stream s i).retired then some v else (stream s i).heldTo }
          ∧ (∀ j, j ≠ i → stream t j = stream s j) ∧ sameBut (.streams :: settleParts) s t)
      ∧ (2 ^ 31 ≤ sub32 v (stream s i).produced ∨ sqSize s i < sub32 v (stream s i).taken →
        ∃ t, exec (.sqDb i v) s = .next t ∧ stream t i = { stream s i with sqDb := v, dbErr := true }
          ∧ (∀ j, j ≠ i → stream t j = stream s j) ∧ sameBut (.streams :: settleParts) s t))
    ∧ (∃ t, exec (.cqDb i v) s = .next t ∧ (stream t i).cqDb = v ∧ (stream t i).cqConsumed = v
      ∧ (stream t i).window = (stream s i).window ∧ (∀ j, j ≠ i → stream t j = stream s j) ∧ sameBut [.streams] s t)
    ∧ exec (.eqDb v) s = .next { s with host := { s.host with eqDb := v, eqConsumed := v } }

/-- A vector whose moderation timer runs out with requests pending sends one message and clears its count; masked, it sets its PBA bit instead. Clearing the mask bit of a vector whose PBA bit is set sends the message and clears the bit. GLB_IRQ_TEST with go set and an existing vector makes one request: with no moderation timer the message goes at once. With the link up nothing else moves but that vector and its mask bit. (R270, R271, 10_command_rings.md) -/
def Obligations.InterruptVectors : Prop :=
  ∀ (s : State) (v w : Nat), v ≤ 64 → s.host.linkUp = true →
    let sends (c : Instr) (x : Vector) : Prop := ∃ t, exec c s = .next t ∧ vector t v = x
      ∧ (∀ k, k ≠ v → vector t k = vector s k) ∧ t.host.eqProduced = s.host.eqProduced
      ∧ t.host.streams = s.host.streams ∧ sameBut [.ring, .held] s t
    (0 < (vector s v).pending → (vector s v).timing = true →
      (masked s v = false → sends (.msixModTimer v) { vector s v with
        pending := 0, timing := false, sent := (vector s v).sent + 1 })
      ∧ (masked s v = true → sends (.msixModTimer v) { vector s v with pending := 0, timing := false, pba := true }))
    ∧ (hostBlock s = true → (vector s v).pba = true →
      sends (.msixUnmask v) { vector s v with pending := 0, timing := false, pba := false, sent := (vector s v).sent + 1 }
      ∧ ∃ t, exec (.msixUnmask v) s = .next t ∧ masked t v = false)
    ∧ (hostBlock s = true → bitAt w 31 = true → bitsAt w 6 0 = v → modTimer s v = 0 → masked s v = false →
      sends (.glbIrqTest w) { vector s v with pending := 0, timing := false, sent := (vector s v).sent + 1 })

/-- A BAR4 access of a ready module that lies whole in BAR4, of the size that the host has selected (log 94), and in HBM: a read answers the bytes of HBM from the aperture's base plus the offset, and changes nothing but the answer; a write stores its bytes there, and every other byte of module memory reads as before. This for a memory that holds no fault, no armed injection and no retired channel. An access of the module before ready reaches nothing: a read answers as unsupported and a write stores nothing. (R6, R243, R245, R332, 10_command_rings.md) -/
def Obligations.ApertureReadsAndWrites : Prop :=
  ∀ (s : State) (o n : Nat) (b : List Byte), hostUp s = true →
    (s.mem.moved = [] → s.mem.faults = [] → s.mem.inj = [] → apertureReaches s o n = true →
        apertureReaches s o b.length = true → 0 < n → 0 < b.length →
      exec (.bar4Read o n) s = .next { s with resp := .bytes (bytesAt s.mem.data (aperture s + o) n) }
      ∧ (∀ k, k < n → (bytesAt s.mem.data (aperture s + o) n).getD k 0#8 = byteAt s.mem.data (aperture s + o + k))
      ∧ ∃ t, exec (.bar4Write o b) s = .next t
        ∧ (∀ k, k < b.length → byteAt t.mem.data (aperture s + o + k) = b.getD k 0#8)
        ∧ (∀ a, a < aperture s + o ∨ aperture s + o + b.length ≤ a → byteAt t.mem.data a = byteAt s.mem.data a)
        ∧ sameBut [.mem, .counters] s t)
    ∧ (s.safe.ready = false →
      exec (.bar4Read o n) s = .next { s with resp := .unsupported }
      ∧ exec (.bar4Write o b) s = .next { s with host := { s.host with
          aer := s.host.aer ++ [⟨1, true, aperture s + o, b.length⟩] } })

/-- SCHED_BWSPLIT takes a split whose shares add up to 32 and holds it until a BARRIER of group 0 retires; another sets err. SLOT_LEN takes a length of 1 to 1,048,576 and allows SEQ_LIMIT for its slot again; another sets err and leaves the length. GLB_CTRL.phase_interlock holds its value until a BARRIER of group 0 retires. A 1 in bit 31 clears err before the rest of the write acts. The splits and the interlock in force do not move, nor anything else. (R210, R215, R216, R405, 08_clove_scheduling.md, 17_register_reference.md) -/
def Obligations.ScheduleRegisters : Prop :=
  ∀ (s : State) (v k : Nat) (b : Bool), hostBlock s = true →
    (bitsAt v 5 0 + bitsAt v 13 8 + bitsAt v 21 16 = 32 → exec (.schedBwsplitWrite v) s = .next { s with
      host := { s.host with
        bwPending := some ⟨bitsAt v 5 0, bitsAt v 13 8, bitsAt v 21 16⟩, bwErr := s.host.bwErr && !bitAt v 31 } })
    ∧ (bitsAt v 5 0 + bitsAt v 13 8 + bitsAt v 21 16 ≠ 32 → exec (.schedBwsplitWrite v) s = .next { s with
      host := { s.host with bwErr := true } })
    ∧ (k < 4 → (1 ≤ bitsAt v 20 0 ∧ bitsAt v 20 0 ≤ 1048576 →
        ∃ t, exec (.slotLenWrite k v) s = .next t ∧ slotLen t k = ⟨bitsAt v 20 0, false, (slotLen s k).err && !bitAt v 31⟩
          ∧ (∀ j, j ≠ k → slotLen t j = slotLen s j) ∧ sameBut [.hostLink] s t)
      ∧ (bitsAt v 20 0 = 0 ∨ 1048576 < bitsAt v 20 0 →
        ∃ t, exec (.slotLenWrite k v) s = .next t ∧ slotLen t k = { slotLen s k with err := true }
          ∧ (∀ j, j ≠ k → slotLen t j = slotLen s j) ∧ sameBut [.hostLink] s t))
    ∧ exec (.phaseInterlockWrite b) s = .next { s with host := { s.host with interlockPending := some b } }

/-- A stream that takes descriptors and holds none takes each of these with its next sequence number. NOP is complete at once. GATE with a tally that is not OFF waits for its mark, or with PASS in LOST completes with TALLY_LOST. DEPEND with a valid wait, none of them on a later descriptor of its own stream, waits, and so does BARRIER for a group that has cloves, where memory holds no error. The ring counts, the other streams and everything but status lines and phase records stand. GATE_RELEASE of a stream that holds only a GATE that the tally bus has reached, when its mark is the next to fire (R233), completes it with status OK. (R193, R206, R207, R233, R236, R253, 08_clove_scheduling.md) -/
def Obligations.ControlDescriptors : Prop :=
  (∀ (s : State) (i : Nat) (h : Header), clearStream s i → h.pos < 2 ^ 20 →
    let waits (c : Instr) (d : Desc) : Prop := ∃ t, exec c s = .next t ∧ tookOne i h d .waiting s t
      ∧ sameBut (.streams :: settleParts) s t
    (∃ t, exec (.nop i h) s = .next t ∧ tookOne i h .nop .done s t ∧ sameBut (.streams :: settleParts) s t)
    ∧ (∀ b : GateBody, s.tally.state ≠ .off →
      (¬ (b.pass = true ∧ s.tally.state = .lost) → waits (.gate i h b) (.gate b))
      ∧ (b.pass = true → s.tally.state = .lost → ∃ t r, exec (.gate i h b) s = .next t ∧ (stream t i).window = [r]
        ∧ r.life = .done ∧ r.status = stTallyLost ∧ r.hdr = h ∧ sameBut (.streams :: settleParts) s t))
    ∧ (∀ ws : List Wait, ws.any (·.valid) = true → ws.all (fun w => !selfWait i (stream s i).seqNext w) = true →
      waits (.depend i h ws) (.depend ws))
    ∧ (badGroup s h.group = false → s.mem.faults = [] → waits (.barrier i h) .barrier))
  ∧ ∀ (s : State) (i : Nat) (r : Rec), i < 64 → (stream s i).window = [r] → (stream s i).calls = [] →
    gateDue s r = true → gateTurn s i = true →
    ∃ t, exec (.gateRelease i) s = .next t
      ∧ (stream t i).window = [{ r with life := .done, status := stOK, detail := 0, value := 0 }]
      ∧ (∀ j, j ≠ i → stream t j = stream s j) ∧ sameBut (.streams :: settleParts) s t

/-- On a stream that takes descriptors and holds none, with usable ends and a memory that meets no error: MOVE COPY puts the source's bytes at its destination, in host or module memory; MOVE DELIVER puts the 32-byte record of Table 9.5 and then the source's bytes there, and carries the late flag when its deadline has passed or the tally cannot say; EVENT with a write puts its 64-bit value at its address, and without an interrupt asks for no vector. Each is complete with status OK, and every other byte of both memories reads as before, status lines apart. (R6, R239, R240, R258, R261, 10_command_rings.md) -/
def Obligations.MovesOfBytes : Prop :=
  ∀ (s : State) (i : Nat) (h : Header), clearStream s i → h.pos < 2 ^ 20 → cleanMem s →
    (∀ b : MoveBody, 0 < b.length → endOk s b.srcHost b.src b.length → endOk s b.dstHost b.dst b.length →
      ∃ t, exec (.moveCopy i h b) s = .next t ∧ tookOne i h (.move 0x00 b) .done s t
        ∧ stores s t b.dstHost b.dst (endBytes s b.srcHost b.src b.length)
        ∧ storesOnly s t b.dstHost b.dst b.length ∧ sameBut (.mem :: .streams :: settleParts) s t)
    ∧ (∀ b : MoveBody, 0 < b.length → endOk s b.srcHost b.src b.length → endOk s b.dstHost b.dst (32 + b.length) →
      ∃ t, exec (.deliver i h b) s = .next t ∧ tookOne i h (.move 0x0B b) .done s t
        ∧ (∀ r ∈ (stream t i).window, r.flags.late = deliverLate s b)
        ∧ stores s t b.dstHost b.dst (deliverRec s b ++ endBytes s b.srcHost b.src b.length)
        ∧ storesOnly s t b.dstHost b.dst (32 + b.length) ∧ sameBut (.mem :: .streams :: settleParts) s t)
    ∧ (∀ b : EventBody, b.writeEn = true → b.irqEn = false → endOk s b.host b.addr 8 →
      ∃ t, exec (.event i h b) s = .next t ∧ tookOne i h (.event b) .done s t
        ∧ stores s t b.host b.addr (leBytes 8 b.value) ∧ storesOnly s t b.host b.addr 8
        ∧ sameBut (.mem :: .streams :: settleParts) s t)

/-- MOVE SCALE_FILE, INT4_TABLE, ROW_BANK and SPLINE, taken by a stream that holds nothing before them, load the named entries of that store in every clove of the group from the source's bytes: 4-byte words, 16-bit table words, row-scale words with subnormals made zeros of their sign, and segments of a spline whose breakpoints rise. Entries outside the range, and the cloves of other groups, keep theirs. (R101, R102, R147, R197, R258, 05_scaling_and_conversion.md) -/
def Obligations.LoadsOfCloveStores : Prop :=
  ∀ (s : State) (i : Nat) (h : Header) (b : MoveBody), cleanMem s → 0 < b.length →
    let loads (c : Instr) (kind w n : Nat) (entry : Clove → Nat → Nat) (word : Nat → Nat) : Prop :=
      startsNow i h (.move kind b) s → b.dst + b.length ≤ (storeSize kind).2 → endOk s b.srcHost b.src (w * n) →
      ∃ t, exec c s = .next t ∧ tookOne i h (.move kind b) .done s t
        ∧ (∀ p ∈ groupCloves s h.group, ∀ k, k < n →
          entry (clove t p) (n / b.length * b.dst + k) = word ((wordsOf w n (endBytes s b.srcHost b.src (w * n))).getD k 0))
        ∧ (∀ p ∈ groupCloves s h.group, ∀ k, k < n / b.length * b.dst ∨ n / b.length * (b.dst + b.length) ≤ k →
          entry (clove t p) k = entry (clove s p) k)
        ∧ (∀ p, p ∉ groupCloves s h.group → p ∉ joiningIn s h.group → clove t p = clove s p)
        ∧ sameBut (.comp :: .streams :: settleParts) s t
    loads (.moveScaleFile i h b) 1 4 b.length (fun c k => sget 0 c.scaleFile k) id
    ∧ loads (.moveInt4Table i h b) 2 2 (16 * b.length) (fun c k => sget 0 c.int4 k) id
    ∧ loads (.moveRowBank i h b) 3 4 b.length (fun c k => sget 0 c.rowBank k) bankWord
    ∧ (startsNow i h (.move 4 b) s → b.length ≤ 64 → b.arg0 ≤ 3 → endOk s b.srcHost b.src (20 * b.length) →
      breaksRise (segmentsOf b.length (endBytes s b.srcHost b.src (20 * b.length))) = true →
      ∃ t, exec (.moveSpline i h b) s = .next t ∧ tookOne i h (.move 4 b) .done s t
        ∧ (∀ p ∈ groupCloves s h.group, sget [] (clove t p).splines b.arg0
          = segmentsOf b.length (endBytes s b.srcHost b.src (20 * b.length)))
        ∧ (∀ p, p ∉ groupCloves s h.group → p ∉ joiningIn s h.group → clove t p = clove s p)
        ∧ sameBut (.comp :: .streams :: settleParts) s t)

/-- MOVE GROUP sets the pods of a group from 1 to 63; MOVE WEIGHT_TABLE registers a record of HBM with no reference and the record's version, but an ADAPTER of a rank above 256, which it refuses with DESC_ERROR and leaves as it was (log 113); MOVE STAT_SLOT sets a slot's committed code and its valid bit; MOVE KEYSEED sets the stream's key seed; MOVE SEED loads the generators of every clove of the group with the clove's own 64-bit seed of the source, the reset seed in place of a 0, and may report equal seeds by an event. Each of them is complete with status OK, and every other entry stands. (R115, R120, R123, R175, R197, R258, 10_command_rings.md) -/
def Obligations.MovesOfTables : Prop :=
  ∀ (s : State) (i : Nat) (h : Header) (b : MoveBody), cleanMem s →
    (startsNow i h (.move 0x05 b) s → 1 ≤ b.arg0 → b.arg0 ≤ 63 → endOk s b.srcHost b.src 16 →
      ∃ t, exec (.moveGroup i h b) s = .next t ∧ tookOne i h (.move 0x05 b) .done s t
        ∧ t.comp = { s.comp with
            groups := sset 0 s.comp.groups b.arg0 (leNat (endBytes s b.srcHost b.src 16) % 2 ^ 96) }
        ∧ sameBut (.comp :: .streams :: settleParts) s t)
    ∧ (startsNow i h (.move 0x06 b) s → b.arg0 ≤ 4095 → b.srcHost = false → b.src + 128 ≤ hbmEnd → access s b.src 128 = .ok →
      let r := wrecOf (bytesAt s.mem.data b.src 128)
      (adapterTooWide r = true → ∃ t x, exec (.moveWeightTable i h b) s = .next t ∧ (stream t i).window = [x]
        ∧ x.life = .done ∧ x.status = stDescError ∧ t.comp = s.comp ∧ t.mem = s.mem)
      ∧ (adapterTooWide r = false → ∃ t, exec (.moveWeightTable i h b) s = .next t ∧ tookOne i h (.move 0x06 b) .done s t
        ∧ weight t b.arg0 = { weight s b.arg0 with
            addr := b.src, version := r.version, refs := 0, registered := true, lastStep := none }
        ∧ (∀ w, w ≠ b.arg0 → weight t w = weight s w) ∧ sameBut (.comp :: .streams :: settleParts) s t))
    ∧ (startsNow i h (.move 0x07 b) s → b.arg0 ≤ 4095 →
      ∃ t, exec (.moveStatSlot i h b) s = .next t ∧ tookOne i h (.move 0x07 b) .done s t
        ∧ slotStat t b.arg0 = { slotStat s b.arg0 with code := bitsAt b.arg1 7 0, codeValid := bitAt b.arg1 8 }
        ∧ (∀ k, k ≠ b.arg0 → slotStat t k = slotStat s k) ∧ sameBut (.comp :: .streams :: settleParts) s t)
    ∧ (startsNow i h (.move 0x0A b) s →
      ∃ t, exec (.keyseed i h b) s = .next t ∧ tookOne i h (.move 0x0A b) .done s t
        ∧ (stream t i).keySeed = b.arg0 % 2 ^ 32 + 2 ^ 32 * (b.arg1 % 2 ^ 32)
        ∧ sameBut (.streams :: settleParts) s t)
    ∧ (startsNow i h (.move 0x09 b) s → endOk s b.srcHost b.src 9728 →
      ∃ t, exec (.seed i h b) s = .next t ∧ tookOne i h (.move 0x09 b) .done s t
        ∧ (∀ p ∈ groupCloves s h.group, p < 1216 →
          clove t p = { clove s p with seed := seedUsed (leNat (((endBytes s b.srcHost b.src 9728).drop (8 * p)).take 8)) })
        ∧ (∀ p, p ∉ groupCloves s h.group → clove t p = clove s p)
        ∧ sameBut (.comp :: .streams :: .ring :: settleParts) s t)

/-- MOVE SNAPSHOT of a registered weight whose record and arrays can be accessed, each at its alignment, in a format of Table 7.6 without group scales, completes with status OK: every byte of its version plane is the weight's current version, and no byte outside its blocks and that plane changes. That the version plane lies right after the blocks is the model's reading (log 28). (R183, R175, 07_backward_and_update.md) -/
def Obligations.GenerationSnapshot : Prop :=
  ∀ (s : State) (i : Nat) (h : Header) (b : MoveBody), cleanMem s → startsNow i h (.move 0x08 b) s → b.arg0 ≤ 4095 →
    (weight s b.arg0).registered = true → access s (weight s b.arg0).addr 128 = .ok →
    let r := wrecOf (bytesAt s.mem.data (weight s b.arg0).addr 128)
    let d := snapEntry r
    let n := rowBlocks d * colBlocks d
    (∃ f, fmtOf r.snapFmt = some f ∧ snapOk f = true ∧ fmtScaled f = false) → r.snapshot ≠ 0 → r.snapshot % 4096 = 0 →
    access s r.snapshot (tensorBytes d + n) = .ok → access s r.high (tensorBytes (highEntry r r.high)) = .ok →
    0 < r.rows → 0 < r.cols → r.high % 4096 = 0 → adapterTooWide r = false →
    ∃ t, exec (.snapshot i h b) s = .next t ∧ tookOne i h (.move 0x08 b) .done s t
      ∧ (∀ k, k < n → byteAt t.mem.data (r.snapshot + tensorBytes d + k) = BitVec.ofNat 8 (weight s b.arg0).version)
      ∧ (∀ a, a < r.snapshot ∨ r.snapshot + tensorBytes d + n ≤ a → byteAt t.mem.data a = byteAt s.mem.data a)
      ∧ sameBut (.mem :: .streams :: settleParts) s t

/-- With source QUAD in TRACKING, both inputs sound and no hold: an accepted edge of A or B alone counts once, up in the sequence (A, B) = 00, 10, 11, 01, 00 and down in the reverse one, and TALLY_CTRL.dir exchanges the two. Up, the pair rises by 1 with fraction 0. Down, in bidirectional mode, it falls by 1, or at pair 0 is held there with TALLY_REVERSED once; in monotonic mode the tally holds its pair with fraction 0 in REVERSE_HOLD, its reverse depth 1. In REVERSE_HOLD a count up or down moves only the counts that are missing, and the last one up returns to TRACKING. When A and B change together nothing is counted but the error, and quad_err is set. Nothing else moves but events, counters, status lines and phase records. (R220, R222, R228, 09_tally_timebase.md) -/
def Obligations.QuadratureCounts : Prop :=
  ∀ (s : State) (a b : Bool), tallyLive s = true → tsrc s = 1 → s.tally.faultA = false → s.tally.faultB = false →
    let y := s.tally
    let ups := [(false, false, true, false), (true, false, true, true), (true, true, false, true), (false, true, false, false)]
    let leads := decide ((y.a, y.b, a, b) ∈ ups)
    let rise := leads != bitAt (tctl s) 3
    let counted (t : State) : Prop := exec (.quadEdge a b) s = .next t ∧ t.tally.a = a ∧ t.tally.b = b
      ∧ sameBut (.tally :: .ring :: settleParts) s t
    ((y.a = a ↔ y.b ≠ b) → y.state = .tracking → y.behind = 0 →
      (rise = true → y.now.pair < lastPair → ∃ t, counted t ∧ t.tally.now = ⟨y.now.pair + 1, 0⟩ ∧ t.tally.state = .tracking)
      ∧ (rise = false → bidir s = true → 0 < y.now.pair →
        ∃ t, counted t ∧ t.tally.now = ⟨y.now.pair - 1, 0⟩ ∧ t.tally.state = .tracking)
      ∧ (rise = false → bidir s = true → y.now.pair = 0 →
        ∃ t, counted t ∧ t.tally.now = ⟨0, 0⟩ ∧ t.tally.state = .tracking ∧ t.tally.zeroRaised = true)
      ∧ (rise = false → bidir s = false →
        ∃ t, counted t ∧ t.tally.now = ⟨y.now.pair, 0⟩ ∧ t.tally.state = .reverseHold ∧ t.tally.behind = 1
          ∧ t.tally.revDepth = 1))
    ∧ ((y.a = a ↔ y.b ≠ b) → y.state = .reverseHold → 0 < y.behind →
      (rise = true → ∃ t, counted t ∧ t.tally.now = y.now ∧ t.tally.behind = y.behind - 1
        ∧ t.tally.state = if y.behind = 1 then .tracking else .reverseHold)
      ∧ (rise = false → ∃ t, counted t ∧ t.tally.now = y.now ∧ t.tally.behind = y.behind + 1
        ∧ t.tally.state = .reverseHold))
    ∧ (y.a ≠ a → y.b ≠ b →
      ∃ t, counted t ∧ t.tally.now = (refresh s).tally.now ∧ t.tally.state = y.state ∧ t.tally.quadErr = true
        ∧ t.tally.behind = y.behind
        ∧ (ctr s (tallyBase + 0x40) < max32 - 1 → s.host.linkUp = true →
          t.reg.ctr = sset 0 s.reg.ctr (tallyBase + 0x40) (ctr s (tallyBase + 0x40) + 1)))

/-- With Z checks running, a pulse of Z where the decoder's count modulo TALLY_CPI is TALLY_ZOFF changes no pair and sets no resync_needed; elsewhere it is a Z error, which sets resync_needed; so too while the tally holds in REVERSE_HOLD. With z_realign and resync_needed set, the pulse moves the decoder's count to the nearest one whose remainder is TALLY_ZOFF, the upper of two equally near, and resync_needed clears: in bidirectional mode the tally goes with it, and in monotonic mode it goes up with it or holds its pair until the decoder comes up to it; that the decoder's count is moved in a hold is the model's reading (log 70). A run of 1.5 times TALLY_CPI counts without Z is a Z error as well, and a shorter one is none. A preset that waits for the index is loaded by it, before its check (log 123). Nothing else moves but counters, status lines and phase records. (R221, R223, 09_tally_timebase.md) -/
def Obligations.IndexChecks : Prop :=
  ∀ s : State,
    let y := s.tally
    let p := y.now.pair
    let pulses (t : State) : Prop := exec .zPulse s = .next t ∧ t.tally.state = y.state ∧ t.tally.sinceZ = 0
      ∧ sameBut (.tally :: settleParts) s t
    (zChecks s = true → y.preset = none → ¬ (zRealign s = true ∧ y.resync = true) →
      (decodedCount y % cpi s = zoff s → ∃ t, pulses t ∧ t.tally.now.pair = p ∧ t.tally.resync = y.resync)
      ∧ (decodedCount y % cpi s ≠ zoff s → ∃ t, pulses t ∧ t.tally.now.pair = p ∧ t.tally.resync = true))
    ∧ (zChecks s = true → y.preset = none → zRealign s = true → y.resync = true → zoff s < cpi s →
      y.state = .tracking → y.behind = 0 → p < 2 ^ 47 → ∃ t, pulses t ∧ t.tally.resync = false
        ∧ ∃ d : Nat, d % cpi s = zoff s ∧ (∀ q, q % cpi s = zoff s → ((d : Int) - p).natAbs ≤ ((q : Int) - p).natAbs)
          ∧ (∀ q, q % cpi s = zoff s → ((q : Int) - p).natAbs = ((d : Int) - p).natAbs → q ≤ d)
          ∧ t.tally.now.pair = (if bidir s then d else max p d) ∧ t.tally.behind = t.tally.now.pair - d)
    ∧ (zChecks s = true → 3 * cpi s ≤ 2 * y.sinceZ →
      ∃ t, exec .zMissing s = .next t ∧ t.tally = { y with resync := true, sinceZ := 0 } ∧ sameBut [.tally, .counters] s t)
    ∧ (2 * y.sinceZ < 3 * cpi s → exec .zMissing s = .next s)
    ∧ (∀ v, tallyLive s = true → tsrc s = 1 → y.preset = some v → p ≤ v → y.state = .tracking →
      ¬ (zRealign s = true ∧ y.resync = true) →
      ∃ t, pulses t ∧ t.tally.now = ⟨v, 0⟩ ∧ t.tally.preset = none)

/-- A serial frame with source SERIAL and a sound pair, of good CRC and type 1 and within 2^20 counts of the prediction, sets a tracking tally to its stamp when that is not below it, or in bidirectional mode; below it in monotonic mode it enters REVERSE_HOLD and the tally stays. The third one accepted in ACQUIRING makes the tally track. A frame of wrong CRC or type sets nothing and counts an error. A TICK of the source's port with a hop count of at most 63 is taken in the same way with its stamp plus its rate times the smallest delay, and, near the prediction, with its hop count, master and the flags of its source; one that is rejected tells nothing; another port's, or one of more hops, changes nothing. Nothing else moves but the tally, its events, counters, status lines and phase records. (R224, R225, R226, R228, 09_tally_timebase.md) -/
def Obligations.StampsAccepted : Prop :=
  ∀ s : State,
    let y := (refresh s).tally
    let near (st : Stamp) : Prop :=
      ((st.pair : Int) - ((predicted y s.time.refTicks).getD (fine y.now)) / 256).natAbs ≤ 2 ^ 20
    let moves (c : Instr) (t : State) : Prop := exec c s = .next t ∧ sameBut (.tally :: .ring :: settleParts) s t
    let taken (c : Instr) (st : Stamp) : Prop :=
      (s.tally.state = .tracking → near st → (bidir s = true ∨ stampGe st y.now = true) →
        ∃ t, moves c t ∧ t.tally.state = .tracking ∧ t.tally.now = st)
      ∧ (s.tally.state = .tracking → near st → bidir s = false → stampGe st y.now = false →
        ∃ t, moves c t ∧ t.tally.state = .reverseHold ∧ t.tally.now = ⟨y.now.pair, 0⟩
          ∧ t.tally.revDepth = min (y.now.pair - st.pair) max32)
      ∧ (s.tally.state = .acquiring → near st → (bidir s = true ∨ stampGe st y.now = true) → y.accepted = 2 →
        ∃ t, moves c t ∧ t.tally.state = .tracking ∧ t.tally.now = st)
    (∀ ty fl ep n fr crc, tallyLive s = true → tsrc s = 2 → s.tally.faultSer = false →
      (crc = frameCrc ty fl ep n fr → ty = 1 →
        taken (.serialFrame ty fl ep n fr crc) ⟨ep % 2 ^ 16 * 2 ^ 48 + n % 2 ^ 48, fr % 256⟩)
      ∧ (crc ≠ frameCrc ty fl ep n fr ∨ ty ≠ 1 → ∃ t, moves (.serialFrame ty fl ep n fr crc) t
        ∧ t.tally = { y with failing := [], accepted := 0 }
        ∧ (s.host.linkUp = true → ctr t (tallyBase + 0x44) = ctr (count (tallyBase + 0x44) 1 s) (tallyBase + 0x44))))
    ∧ (∀ (p : Nat) (m : TallyMsg), p < 48 → s.power.main = true → tsrc s = 3 →
      (p = fabricPort s → m.hop ≤ 63 →
        taken (.fabricTick p m) (ofFine (fine ⟨m.pair, m.frac⟩ + rateOver m.rate (minDelay s)))
        ∧ (near (ofFine (fine ⟨m.pair, m.frac⟩ + rateOver m.rate (minDelay s))) →
          ∃ t, moves (.fabricTick p m) t ∧ t.tally.hop = m.hop ∧ t.tally.master = m.master
            ∧ t.tally.upstream = bitAt m.flags 0 ∧ t.tally.upReverse = bitAt m.flags 1)
        ∧ (¬ near (ofFine (fine ⟨m.pair, m.frac⟩ + rateOver m.rate (minDelay s))) → s.tally.failing = [] →
          ∃ t, moves (.fabricTick p m) t ∧ t.tally.hop = s.tally.hop ∧ t.tally.master = s.tally.master
            ∧ t.tally.upstream = s.tally.upstream ∧ t.tally.now = y.now ∧ t.tally.accepted = 0))
      ∧ (p ≠ fabricPort s ∨ 63 < m.hop → ∃ t, exec (.fabricTick p m) s = .next t ∧ sameBut settleParts s t))

/-- A PING that a port delivers to a powered module with at most 63 hops is answered on that port with an ECHO that carries its times; an ECHO from the source's port while a PING is outstanding adds one delay, of which the last 8 are kept; the PING timer with source FABRIC sends one PING on the source's port and notes its time; and the TICK timer of a master, or of a relay of FABRIC, sends one TICK on each port of the relay mask, a master's with hop count 0 and a relay's with one more than it received. Nothing else moves but the tally. (R226, 09_tally_timebase.md) -/
def Obligations.TallyMessages : Prop :=
  ∀ s : State, s.power.main = true →
    let u := refresh s
    let sent (t : State) (l : List Msg) : Prop := t.link = { s.link with msgs := s.link.msgs ++ l } ∧ sameBut [.tally, .link] s t
    let msg (p kind hop t2 t3 : Nat) : Msg := ⟨5, (port s p).farNode, some p, 0, .tally kind (tallyMsg u hop t2 t3)⟩
    (∀ (p : Nat) (m : TallyMsg), p < 48 → m.hop ≤ 63 →
      ∃ t, exec (.fabricPing p m) s = .next t ∧ t.tally = u.tally
        ∧ sent t [msg p kindEcho 0 s.time.refTicks s.time.refTicks])
    ∧ (∀ (p t1 : Nat) (m : TallyMsg), p < 48 → tsrc s = 3 → p = fabricPort s → m.hop ≤ 63 → s.tally.pingAt = some t1 →
      exec (.fabricEcho p m) s = .next { s with tally := { s.tally with
        delays := ((s.time.refTicks - t1 - (m.t3 - m.t2)) :: s.tally.delays).take 8, pingAt := none } })
    ∧ (tsrc s = 3 → ∃ t, exec .pingTimer s = .next t ∧ t.tally = { u.tally with pingAt := some s.time.refTicks }
      ∧ sent t [msg (fabricPort s) kindPing 0 0 0])
    ∧ (marksFire s = true → tMaster s = true → ∃ t, exec .tickSendTimer s = .next t ∧ t.tally = u.tally
      ∧ sent t ((relayPorts s).map (fun p => msg p kindTick 0 0 0)))
    ∧ (marksFire s = true → tMaster s = false → tsrc s = 3 → s.tally.state ≠ .acquiring →
      ∃ t, exec .tickSendTimer s = .next t ∧ t.tally = u.tally
        ∧ sent t ((relayPorts s).map (fun p => msg p kindTick (s.tally.hop + 1) 0 0)))

/-- In TRACKING with a holdover time above 0, a fault of pair A or B with source QUAD, of SER with SERIAL, more than 16 illegal transitions within 1.024 ms, or no frame or message for 4 us enters HOLDOVER with its cause 1, 2, 3, 4 or 5 of Table 9.2-a; a fault of Z only marks the pair. The holdover's end enters LOST, where the tally stops, and nothing happens outside HOLDOVER. A pair that is sound again ends a HOLDOVER of cause 1 or 2 when both are, and a quiet 1.024 ms one of cause 4: the tally tracks from its present pair with resync_needed set. Outside LOST nothing else moves but events, counters, status lines and phase records. (R229, R230, R231, 09_tally_timebase.md) -/
def Obligations.TallyFaults : Prop :=
  ∀ s : State, tallyLive s = true →
    let y := s.tally
    let moves (c : Instr) (t : State) : Prop := exec c s = .next t ∧ sameBut (.tally :: .ring :: settleParts) s t
    let holds (c : Instr) (cause : Nat) : Prop := ∃ t, moves c t ∧ t.tally.state = .holdover ∧ t.tally.cause = cause
      ∧ t.tally.since = s.time.refTicks
    let back (c : Instr) : Prop := ∃ t, moves c t ∧ t.tally.state = .tracking ∧ t.tally.resync = true
      ∧ t.tally.now = (refresh s).tally.now
    (y.state = .tracking → holdTicks s ≠ 0 →
      (tsrc s = 1 → holds (.pairFault 0) 1 ∧ holds (.pairFault 1) 2
        ∧ (16 < illegalNow s → holds .illegalLimit 4) ∧ (illegalNow s ≤ 16 → ∃ t, exec .illegalLimit s = .next t
          ∧ sameBut settleParts s t))
      ∧ (tsrc s = 2 → holds (.pairFault 3) 3) ∧ (2 ≤ tsrc s → holds .framesTimeout 5)
      ∧ (∃ t, moves (.pairFault 2) t ∧ t.tally = { (refresh s).tally with faultZ := true }))
    ∧ (y.state = .holdover → ∃ t, exec .holdoverExpire s = .next t ∧ t.tally.state = .lost
      ∧ t.tally.now = (refresh s).tally.now)
    ∧ (y.state ≠ .holdover → ∃ t, exec .holdoverExpire s = .next t ∧ sameBut settleParts s t)
    ∧ (tsrc s = 1 → y.state = .holdover →
      (y.cause = 1 → y.faultB = false → back (.pairRestore 0)) ∧ (y.cause = 2 → y.faultA = false → back (.pairRestore 1))
      ∧ (y.cause = 4 → illegalNow s ≤ 16 → back .illegalRecover))

/-- With the host block taking writes: writing TALLY_CTRL.src from NONE to QUAD with both pairs sound makes the tally TRACKING, to SERIAL or FABRIC makes it ACQUIRING, and to NONE makes it OFF; a preset of a running source sets the pair with fraction 0, or, below the present pair, only sets preset_err; a read of TALLY_NOW_LO answers the low word of the present pair and latches the rest; the self-test of a tally with source NONE starts, its end records the result, and a source written meanwhile takes effect then. A stamp on the tally bus is the present one in every state but OFF and LOST, where none goes out. (R221, R232, R238, R241, R437, 09_tally_timebase.md) -/
def Obligations.TallyRegisters : Prop :=
  ∀ s : State, hostBlock s = true →
    let y := s.tally
    let u := (refresh s).tally
    (y.testBusy = false → tsrc s = 0 →
      (y.faultA = false → y.faultB = false → ∃ t, exec (.tallyCtrlSrc 1) s = .next t ∧ t.tally.state = .tracking
        ∧ tsrc t = 1 ∧ t.tally.now = u.now ∧ sameBut (.tally :: .held :: settleParts) s t)
      ∧ (∀ v, v = 2 ∨ v = 3 → ∃ t, exec (.tallyCtrlSrc v) s = .next t ∧ t.tally.state = .acquiring ∧ tsrc t = v
        ∧ t.tally.now = u.now ∧ sameBut (.tally :: .held :: settleParts) s t))
    ∧ (y.testBusy = false → tsrc s ≠ 0 → ∃ t, exec (.tallyCtrlSrc 0) s = .next t ∧ t.tally.state = .off ∧ tsrc t = 0
      ∧ t.tally.now = u.now)
    ∧ (y.testBusy = true → ∀ v, v < 4 → ∃ t, exec (.tallyCtrlSrc v) s = .next t ∧ t.tally = { y with srcPending := some v }
      ∧ sameBut (.tally :: settleParts) s t)
    ∧ (∀ p, p < 2 ^ 64 → presetAtZ s = false → tsrc s ≠ 0 → y.state ≠ .off →
      (u.now.pair ≤ p → ∃ t, exec (.tallyPreset p) s = .next t ∧ t.tally.now = ⟨p, 0⟩ ∧ sameBut [.tally] s t)
      ∧ (p < u.now.pair → ∃ t, exec (.tallyPreset p) s = .next t ∧ t.tally = { u with presetErr := true }
        ∧ sameBut [.tally] s t))
    ∧ (∀ p, p < 2 ^ 64 → presetAtZ s = true → u.now.pair ≤ p → ∃ t, exec (.tallyPreset p) s = .next t
      ∧ t.tally = { u with preset := some p } ∧ sameBut [.tally] s t)
    ∧ (∃ t, exec .tallyNowLoRead s = .next t ∧ t.resp = .word (u.now.pair % 2 ^ 32)
      ∧ t.tally = { u with nowHi := u.now.pair / 2 ^ 32, nowFrac := u.now.frac } ∧ sameBut [.tally, .resp] s t)
    ∧ (tsrc s = 0 → exec .tallyTestGo s = .next { s with tally := { y with testBusy := true } })
    ∧ (∀ n, n < 16 → y.testBusy = true → (y.srcPending = none → ∃ t, exec (.tallyTestDone n) s = .next t
        ∧ t.tally = { y with testBusy := false, testPass := n } ∧ sameBut (.tally :: settleParts) s t)
      ∧ (y.srcPending = some 2 → tsrc s = 0 → ∃ t, exec (.tallyTestDone n) s = .next t ∧ t.tally.testPass = n
        ∧ t.tally.testBusy = false ∧ t.tally.state = .acquiring ∧ tsrc t = 2))
    ∧ (y.state ≠ .off → y.state ≠ .lost → ∃ t, exec .tallyBusStamp s = .next t ∧ t.tally = { u with bus := u.now }
      ∧ sameBut [.tally] s t)
    ∧ (y.state = .off ∨ y.state = .lost → exec .tallyBusStamp s = .next s)

/-- A write that arms an alarm of software that is not armed sets its fraction and armed; its mark is not moved by this write, and late_arm is set when the tally bus has passed the mark already. A write that disarms clears armed, and fires an alarm that is due. Writes to alarms 448 to 511 are ignored. Nothing else moves but the alarm. An alarm of software that is the next of those due fires: fired is set and armed cleared, and with irq_en a valid vector gets its request; one whose mark the tally bus has not reached does not fire, and in LOST none does. (R233, R234, R235, R237, 09_tally_timebase.md) -/
def Obligations.Alarms : Prop :=
  ∀ (s : State) (n v : Nat), n < 512 →
    (n < 448 → hostBlock s = true → almArmed s n = false →
      ∃ t, exec (.almArm n v) s = .next t ∧ almArmed t n = true ∧ almMark t n = ⟨(almMark s n).pair, v % 256⟩
        ∧ bitsAt (almCtrl t n) 22 16 = bitsAt v 22 16 ∧ bitAt (almCtrl t n) 11 = bitAt v 11
        ∧ bitAt (almCtrl t n) 10 = ((bitAt (almCtrl s n) 10 && !bitAt v 10)
          || stampGe s.tally.bus ⟨(almMark s n).pair, v % 256⟩)
        ∧ (∀ k, k < 512 → k ≠ n → almCtrl t k = almCtrl s k ∧ almMark t k = almMark s k) ∧ sameBut [.held] s t)
    ∧ (n < 448 → hostBlock s = true → almArmed s n = true →
      ∃ t, exec (.almDisarm n v) s = .next t ∧ almArmed t n = false ∧ almMark t n = almMark s n
        ∧ (∀ k, k < 512 → k ≠ n → almCtrl t k = almCtrl s k ∧ almMark t k = almMark s k)
        ∧ (almFires s n = true → bitAt (almCtrl t n) 9 = true ∧ sameBut [.held, .tally, .ring, .counters] s t)
        ∧ (almFires s n = false → bitAt (almCtrl t n) 9 = (bitAt (almCtrl s n) 9 && !bitAt v 9)
          ∧ sameBut [.held, .tally] s t))
    ∧ (448 ≤ n → exec (.almArm n v) s = .next s ∧ exec (.almDisarm n v) s = .next s)
    ∧ (n < 448 → almTurn s n = true →
      ∃ t, exec (.alarmFire n) s = .next t ∧ almArmed t n = false ∧ bitAt (almCtrl t n) 9 = true
        ∧ almMark t n = almMark s n ∧ (∀ k, k < 512 → k ≠ n → almCtrl t k = almCtrl s k)
        ∧ sameBut [.held, .tally, .ring, .counters] s t
        ∧ (bitAt (almCtrl s n) 11 = false ∨ 64 < bitsAt (almCtrl s n) 22 16 → t.host = s.host)
        ∧ (bitAt (almCtrl s n) 11 = true → bitsAt (almCtrl s n) 22 16 ≤ 64 →
          t.host.vectors = (requestVector (bitsAt (almCtrl s n) 22 16) s).host.vectors))
    ∧ (almDue s n = false → exec (.alarmFire n) s = .next s)
    ∧ (s.tally.state = .lost → s.tally.forming = false → exec (.alarmFire n) s = .next s)

/-- With the host block taking writes, enabling a DISABLED port whose credit pools fit makes it DOWN, and one whose pools do not fit stays DISABLED with credit_err of its link tile; disabling an enabled port makes it DISABLED, empty but for Peppermill, and retraining it makes it DOWN. In DOWN a termination without a driver leads to TRAIN and is counted, and a driver sets tx_conflict and stays. Training with no trained lane returns to DOWN; else the trained lanes become data lanes in ascending order up to eight, the ninth the spare and the others failed, in ALIGN; each failed lane is told to the far side by a LANE_FAIL, which is the model's reading for lanes that did not train (log 69), with a code of the model's (log 65); lanes that all lock go on to IDENT; there the port sends the module's node ID and its own number, and an identity that PORT_EXPECT matches goes on to CREDIT and another stays with miscabled set; and the exchange of pools makes the port UP with those credits, its own pools sent. A port that is not UP a second after it went down drops what it kept. No other port and nothing else moves, but for the ledger and events of failed lanes, for memory errors of the port's buffer lines, which its wipe clears, and for what is found as a port that goes down reads such lines (log 79). (R283, R284, R285, R422, 11_berquel_links.md) -/
def Obligations.PortStates : Prop :=
  ∀ (s : State) (p : Nat), p < 48 →
    let x := port s p
    let moves (c : Instr) (l : List Part) (f : Port → Prop) : Prop := ∃ t, exec c s = .next t ∧ f (port t p)
      ∧ (∀ q, q ≠ p → port t q = port s q) ∧ sameBut (.ports :: l) s t
    (hostBlock s = true →
      (x.state = 0 → creditsFit s p = true → moves (.portEnable p) [.held] (fun y => y.state = 1)
        ∧ ∃ t, exec (.portEnable p) s = .next t ∧ bitAt (pctl t p) 0 = true)
      ∧ (x.state = 0 → creditsFit s p = false → exec (.portEnable p) s
        = .next { s with link := { s.link with creditErr := (s.link.creditErr ++ [p / 6]).dedup } })
      ∧ (x.state ≠ 0 → moves (.portDisable p) [.held, .mem] (fun y => y = { Port.empty with pm := x.pm })
        ∧ (s.mem.faults = [] → moves (.portDisable p) [.held] (fun y => y.state = 0))
        ∧ ∃ t, exec (.portDisable p) s = .next t ∧ bitAt (pctl t p) 0 = false)
      ∧ (x.state ≠ 0 → ∃ t, exec (.portRetrain p) s = .next t ∧ (port t p).state = 1 ∧ (port t p).keeping = true
        ∧ (port t p).lanes = [] ∧ (port t p).queues = x.queues ∧ (∀ q, q ≠ p → port t q = port s q)
        ∧ (x.txLine = [] → sameBut [.ports] s t)))
    ∧ (x.state = 1 → s.safe.stop = false →
      moves (.portDetect p true false) [.counters] (fun y => y.state = 2 ∧ y.txConflict = false)
      ∧ (∃ t, exec (.portDetect p true false) s = .next t
        ∧ ctr t (portBase p + 0x24) = ctr (count (portBase p + 0x24) 1 s) (portBase p + 0x24))
      ∧ ∀ b, moves (.portDetect p b true) [] (fun y => y = { x with txConflict := true }))
    ∧ (∀ (trained inverted : Nat) (arrived : List Nat), x.state = 2 →
      ((∀ n, n < 9 → bitAt trained n = false) →
        moves (.portTrainDone p trained inverted arrived) [] (fun y => y = { x with state := 1, lanes := [] }))
      ∧ ((∃ n, n < 9 ∧ bitAt trained n = true) →
        moves (.portTrainDone p trained inverted arrived) (.safe :: eventParts) (fun y => y.state = 3
          ∧ (∀ n, n < 9 → (lane y n).pair = arrived.getD n n % 16 ∧ (lane y n).inverted = bitAt inverted n
            ∧ (lane y n).role = if bitAt trained n = false then roleFailed
              else if ((List.range n).filter (bitAt trained)).length < 8 then roleData else roleSpare)
          ∧ ∀ n, n < 9 → bitAt trained n = false → ∃ f ∈ y.moved, f.kind = 2 ∧ f.payload = .lctrl 1 n))
      ∧ ((∀ n, n < 9 → bitAt trained n = true) →
        moves (.portTrainDone p trained inverted arrived) [] (fun y => y.state = 3 ∧ y.spareFault = x.spareFault)))
    ∧ (x.state = 3 → (∃ n, n < 9 ∧ (lane x n).role ≠ roleFailed) →
      moves (.portAlignDone p 0x1FF) (.safe :: eventParts) (fun y => y.state = 4 ∧ ∀ n, n < 9 → (lane x n).role = roleFailed →
        (lane y n).role = roleFailed))
    ∧ (∀ node far, x.state = 4 →
      let e := reg4 s (portBase p + 8)
      let ok := (bitsAt e 15 0 = 0xFFFF ∨ bitsAt e 15 0 = node) ∧ (bitsAt e 21 16 = 0x3F ∨ bitsAt e 21 16 = far)
      moves (.identExchange p node far) [.mem] (fun y => y.farNode = node ∧ y.farPort = far ∧ y.farValid = true
        ∧ y.sentIdent = some (nodeId s, p)
        ∧ (ok → y.state = 5 ∧ y.miscabled = false) ∧ (¬ ok → y.state = 4 ∧ y.miscabled = true)))
    ∧ (∀ credits : List Nat, x.state = 5 → x.keeping = false →
      moves (.portCreditDone p credits) [.mem] (fun y => y.state = 6 ∧ y.sentPools = (List.range 8).map (creditOf s p)
        ∧ ∀ v, v < 8 → sget 0 y.credit v = credits.getD v 0))
    ∧ (x.keeping = true → x.state ≠ 6 → moves (.portKeepExpire p) [.mem] (fun y => y = { x with
      moved := x.moved.filter (fun f => decide (f.kind = 2)), reorder := [], vcSeqTx := [], vcSeqRx := [], credit := []
      freed := [], crSeen := [], keeping := false, broken := [], inflow := [], rxLine := [], txLine := [] }))

/-- VC5 sends before VC0, VC0 before VC6 and VC6 before the weighted ones, only a VC with a flit and a credit sends, and when one has both, one is picked; the lane picked for a new flit is a data lane whose window of 64 is not full and which has nothing to resend. With nothing else to send, the flit at the head of that VC's queue goes out on that lane: it takes the lane's next lane_seq and the VC's next vc_seq and is kept in the lane's replay buffer, one credit of the VC is consumed, and the rotation goes on behind the lane. A lane with flits to resend sends the next of them, with the lane_seq and the vc_seq that it had, counted in replays, and a lane with flits that moved to it sends the next of those under its own lane_seq. A lane that has sent 256 flits since its last FRAME flit sends the FRAME flit of its lane, port and node instead, and a port with nothing to send an IDLE flit, and neither is kept. Each flit goes out as the 256 bytes of header, payload and CRC. A port that is not UP sends nothing. No other port moves, nor anything else of a memory without errors (an injected fault of a buffer line draws a free value, log 79). (R276, R277, R278, R279, R281, R282, R287, R321, 11_berquel_links.md) -/
def Obligations.FlitsSent : Prop :=
  ∀ (s : State) (p : Nat), p < 48 → s.link.msgs = [] → (∀ m ∈ (port s p).order, m < 9) →
    let x := port s p
    (∀ v w k, pickVc s p x = some (v, w, k) → vcReady x v = true ∧ (vcReady x 5 = true → v = 5)
      ∧ (vcReady x 5 = false → vcReady x 0 = true → v = 0)
      ∧ (vcReady x 5 = false → vcReady x 0 = false → vcReady x 6 = true → v = 6))
    ∧ (∀ v, v < 8 → vcReady x v = true → pickVc s p x ≠ none)
    ∧ (∀ n, pickLane x (fun _ => true) = some n → n < 9 ∧ (lane x n).txRole = roleData ∧ (lane x n).replay.length < 64
      ∧ (lane x n).again = 0 ∧ (lane x n).todo = [])
    ∧ (∀ v w k n f rest, x.state = 6 → x.moved = [] → frameDue x n = false → pickVc s p x = some (v, w, k) →
      slotLane x = some n → laneFree (lane x n) = true → sget [] x.queues v = f :: rest →
      ∃ t g, exec (.flitSend p) s = .next t ∧ (lane (port t p) n).replay = (lane x n).replay ++ [g]
        ∧ g.laneSeq = (lane x n).txNext ∧ g.vcSeq = sget 0 x.vcSeqTx v ∧ g.kind = f.kind ∧ g.vc = f.vc ∧ g.eom = f.eom
        ∧ g.src = f.src ∧ g.dst = f.dst ∧ g.ctx = f.ctx ∧ g.payload = f.payload
        ∧ g.data = f.data ∧ (port t p).wire = flitBytes g ∧ (lane (port t p) n).txNext = ((lane x n).txNext + 1) % 256
        ∧ sget [] (port t p).queues v = rest ∧ sget 0 (port t p).credit v = sget 0 x.credit v - 1
        ∧ sget 0 (port t p).vcSeqTx v = (sget 0 x.vcSeqTx v + 1) % 65536 
        ∧ (port t p).rotation = ((rotationOf x).findIdx (· == n) + 1) % max 1 (rotationOf x).length
        ∧ (port t p).sent = some (n, g) ∧ (lane (port t p) n).slot = (lane x n).slot + 1
        ∧ (∀ u, u ≠ v → sget [] (port t p).queues u = sget [] x.queues u ∧ sget 0 (port t p).credit u = sget 0 x.credit u)
        ∧ (∀ q, q ≠ p → port t q = port s q) ∧ sameBut [.ports, .mem, .free] s t ∧ (cleanMem s → sameBut [.ports] s t))
    ∧ (∀ n f, x.state = 6 → slotLane x = some n → frameDue x n = false → cleanMem s → 0 < (lane x n).again →
      (lane x n).replay[(lane x n).replay.length - (lane x n).again]? = some f →
      ∃ t g, exec (.flitSend p) s = .next t ∧ (port t p).sent = some (n, g) ∧ (port t p).wire = flitBytes g
        ∧ g.laneSeq = f.laneSeq ∧ g.vc = f.vc ∧ g.vcSeq = f.vcSeq ∧ g.payload = f.payload ∧ g.data = f.data
        ∧ (lane (port t p) n).replay = (lane x n).replay ∧ (lane (port t p) n).again = (lane x n).again - 1
        ∧ (lane (port t p) n).slot = (lane x n).slot + 1 ∧ t.reg.ctr = (count (laneReg p n 0x10) 1 s).reg.ctr
        ∧ (port t p).queues = x.queues ∧ (port t p).credit = x.credit ∧ (∀ q, q ≠ p → port t q = port s q)
        ∧ sameBut [.ports, .counters] s t)
    ∧ (∀ n f rest, x.state = 6 → slotLane x = some n → frameDue x n = false → (lane x n).again = 0 →
      (lane x n).todo = f :: rest →
      ∃ t g, exec (.flitSend p) s = .next t ∧ (port t p).sent = some (n, g) ∧ (port t p).wire = flitBytes g
        ∧ g.laneSeq = (lane x n).txNext ∧ g.vc = f.vc ∧ g.vcSeq = f.vcSeq ∧ g.payload = f.payload ∧ g.data = f.data
        ∧ (lane (port t p) n).replay = (lane x n).replay ++ [g] ∧ (lane (port t p) n).todo = rest
        ∧ (lane (port t p) n).txNext = ((lane x n).txNext + 1) % 256
        ∧ (port t p).queues = x.queues ∧ (port t p).credit = x.credit ∧ (∀ q, q ≠ p → port t q = port s q)
        ∧ sameBut [.ports, .mem, .free] s t ∧ (cleanMem s → sameBut [.ports] s t))
    ∧ (∀ n, x.state = 6 →
      (slotLane x = some n ∧ frameDue x n = true
        ∧ (laneFree (lane x n) = false ∨ (x.moved = [] ∧ ∃ v w k, pickVc s p x = some (v, w, k))))
        ∨ ((sendOrder x).head? = some n ∧ (slotLane x = none
          ∨ ∃ m, slotLane x = some m ∧ laneFree (lane x m) = true ∧ x.moved = [] ∧ pickVc s p x = none)) →
      ∃ t g, exec (.flitSend p) s = .next t ∧ (port t p).sent = some (n, g) ∧ (port t p).wire = flitBytes g
        ∧ g.src = logicalNode s
        ∧ (frameDue x n = true → g.kind = 15 ∧ g.payload = .frame n p (nodeId s) ∧ (lane (port t p) n).slot = 0)
        ∧ (frameDue x n = false → g.kind = 0 ∧ (lane (port t p) n).slot = (lane x n).slot + 1)
        ∧ (port t p).queues = x.queues ∧ (port t p).credit = x.credit ∧ (lane (port t p) n).replay = (lane x n).replay
        ∧ (∀ q, q ≠ p → port t q = port s q) ∧ sameBut [.ports] s t)
    ∧ (x.state ≠ 6 → exec (.flitSend p) s = .next s)

/-- On a lane in service of an UP port, with a memory without errors and no engine that waits for a buffer: a flit whose CRC, codeword, kind or length is bad is discarded and counted in crc_err beside the FEC's counters, and a NAK is due; that the fifth bad flit, after four NAKs for the flit expected, makes the lane failed is the model's reading (log 124). A good header frees from the acknowledged lane every flit before its ack_seq and adds the credits that it returns. A good DATA flit of the expected lane_seq and vc_seq with its end of message, for this module and of no broken message, is delivered: both numbers advance and a credit of its VC is freed; one whose vc_seq lies ahead waits in the reorder buffer; one that the port has had is discarded, and one of another lane_seq is too. A FRAME flit of its own lane moves nothing but what its header says. After 2 us without progress all that a lane holds is to be resent; when four resends have brought no progress the lane fails, at the next one (log 124). No other port and nothing else moves but counters, status lines and phase records. (R276, R277, R278, R279, R281, R282, R422, 11_berquel_links.md) -/
def Obligations.FlitsReceived : Prop :=
  ∀ (s : State) (p n : Nat), p < 48 → n < 9 → (port s p).state = 6 → (lane (port s p) n).role < 2 →
    cleanMem s → enginesArmed s →
    let x := port s p
    let moves (c : Instr) (l : List Part) (f : Port → Prop) : Prop := ∃ t, exec c s = .next t ∧ f (port t p)
      ∧ (∀ q, q ≠ p → port t q = port s q) ∧ sameBut (.ports :: l) s t
    let credits (f : Flit) (y : Port) : Prop := sget 0 y.credit f.crVc
      = sget 0 x.credit f.crVc + (f.crTotal + 4096 - sget 0 x.crSeen f.crVc) % 4096
    (∀ f c, crcGood f c = false ∨ c.codeword = false ∨ (2 < f.kind ∧ f.kind ≠ 15) ∨ 232 < f.length →
      ((lane x n).naks < 4 → moves (.flitReceive p n f c) settleParts (fun y => (lane y n).nakDue = true
          ∧ (lane y n).rxNext = (lane x n).rxNext ∧ y.credit = x.credit ∧ y.reorder = x.reorder)
        ∧ ∃ t, exec (.flitReceive p n f c) s = .next t
          ∧ t.reg.ctr = (count (laneReg p n 0xC) 1 (countFec p n c s)).reg.ctr)
      ∧ (4 ≤ (lane x n).naks → ∃ t, exec (.flitReceive p n f c) s = .next t
        ∧ ((lane (port t p) n).role = roleFailed ∨ (port t p).state = 1)))
    ∧ (∀ (f g : Flit) (l : List Flit) (c : FlitCheck), crcGood f c = true → c.codeword = true → f.kind = 0 → f.length ≤ 232 → f.nak = false → x.recalTx = none →
      (lane x f.ackLane).replay = g :: l → (f.ackSeq + 256 - g.laneSeq) % 256 ≤ l.length + 1 →
      moves (.flitReceive p n f c) settleParts (fun y => credits f y
        ∧ (lane y f.ackLane).replay = (g :: l).drop ((f.ackSeq + 256 - g.laneSeq) % 256)
        ∧ (lane y n).rxNext = (lane x n).rxNext))
    ∧ (∀ (f : Flit) (b : List Byte) (c : FlitCheck), crcGood f c = true → c.codeword = true → f.kind = 1 → f.length ≤ 232 → (lane x f.ackLane).replay = [] → f.payload = .bytes b →
      x.reorder = [] → f.vcSeq < 65536 → sget 0 x.vcSeqRx f.vc < 65536 →
      (f.laneSeq = (lane x n).rxNext → f.vcSeq = sget 0 x.vcSeqRx f.vc → f.eom = true → f.dst = nodeId s →
        x.broken.contains (flowOf f) = false →
        moves (.flitReceive p n f c) settleParts (fun y => credits f y ∧ y.reorder = []
          ∧ (lane y n).rxNext = (f.laneSeq + 1) % 256 ∧ sget 0 y.vcSeqRx f.vc = (f.vcSeq + 1) % 65536
          ∧ sget 0 y.freed f.vc = (sget 0 x.freed f.vc + 1) % 4096))
      ∧ (f.laneSeq = (lane x n).rxNext → f.vcSeq ≠ sget 0 x.vcSeqRx f.vc →
        (f.vcSeq + 65536 - sget 0 x.vcSeqRx f.vc) % 65536 < 32768 →
        moves (.flitReceive p n f c) settleParts (fun y => credits f y ∧ y.reorder = [f]
          ∧ (lane y n).rxNext = (f.laneSeq + 1) % 256 ∧ y.vcSeqRx = x.vcSeqRx ∧ y.freed = x.freed))
      ∧ (f.laneSeq = (lane x n).rxNext → 32768 ≤ (f.vcSeq + 65536 - sget 0 x.vcSeqRx f.vc) % 65536 →
        moves (.flitReceive p n f c) settleParts (fun y => credits f y ∧ y.reorder = []
          ∧ (lane y n).rxNext = (f.laneSeq + 1) % 256 ∧ y.vcSeqRx = x.vcSeqRx ∧ y.freed = x.freed))
      ∧ (f.laneSeq ≠ (lane x n).rxNext →
        moves (.flitReceive p n f c) settleParts (fun y => credits f y ∧ y.reorder = [] ∧ y.lanes = x.lanes
          ∧ y.vcSeqRx = x.vcSeqRx ∧ y.freed = x.freed)))
    ∧ (∀ (f : Flit) (q w : Nat) (c : FlitCheck), crcGood f c = true → c.codeword = true → f.kind = 15 → f.length ≤ 232 →
      (lane x f.ackLane).replay = [] → f.payload = .frame n q w →
      moves (.flitReceive p n f c) settleParts (fun y => credits f y ∧ y.lanes = x.lanes ∧ y.reorder = x.reorder))
    ∧ ((lane x n).replay ≠ [] →
      ((lane x n).resends < 4 → moves (.replayTimeout p n) [] (fun y => lane y n = { lane x n with
        again := (lane x n).replay.length, resends := (lane x n).resends + 1 }))
      ∧ (4 ≤ (lane x n).resends → ∃ t, exec (.replayTimeout p n) s = .next t
        ∧ ((lane (port t p) n).txRole = roleFailed ∨ (port t p).state = 1)))

/-- On an UP port: a data lane that fails in the receive direction becomes failed, the spare takes its place, even from Peppermill, LANE_FAIL goes out, and the ledger keeps the port. That it goes out behind other LCTRL flits and before the rest, and the codes of LCTRL messages, are the model's (log 65). LANE_FAIL received for a send lane does the same in the send direction, where the spare takes its place in the rotation, and the flits that the lane held are to go out on the spare with their vc_seq and order; the other direction stays as it was. RECAL_REQ moves the send lane's place to the spare, and RECAL_ACK answers at once when the lane holds no flit. RECAL_ACK puts the receive lane into training and the spare into service; the trained lane becomes the spare with its recalibration done and told; RECAL_DONE makes the send lane the spare. An eye is measured, and a measure below PORT_MARGIN makes recalibration pending. No other port moves. This for a memory without errors. (R274, R285, R286, R287, R288, R431, 11_berquel_links.md) -/
def Obligations.LanesReplaced : Prop :=
  ∀ (s : State) (p n k : Nat), p < 48 → n < 9 → k ≠ n → (port s p).state = 6 → cleanMem s →
    let x := port s p
    let moves (c : Instr) (l : List Part) (f : Port → Prop) : Prop := ∃ t, exec c s = .next t ∧ f (port t p)
      ∧ (∀ q, q ≠ p → port t q = port s q) ∧ sameBut (.ports :: l) s t
    let tells (code : Nat) (y : Port) : Prop := ∃ f, f.kind = 2 ∧ f.payload = .lctrl code n
      ∧ y.moved = x.moved.takeWhile (fun g => g.kind == 2) ++ [f] ++ x.moved.dropWhile (fun g => g.kind == 2)
    let place (y : Port) : Prop := y.order = ((rotationOf x).filter (· != k)).map (fun m => if m = n then k else m)
    ((lane x n).role = roleData → spareOf x = some k → (∃ m, m < 9 ∧ (lane x m).txRole = roleData) → x.recal = none →
      moves (.laneFailure p n) (.held :: .safe :: eventParts) (fun y => y.state = 6 ∧ tells 1 y
        ∧ (lane y n).role = roleFailed ∧ (lane y k).role = roleData ∧ y.spareFault = true ∧ y.txFault = x.txFault
        ∧ (pmOf y k).owned = false
        ∧ ∀ m, m ≠ n → m ≠ k → lane y m = lane x m)
      ∧ ∃ t, exec (.laneFailure p n) s = .next t ∧ p ∈ t.safe.ledger.ports)
    ∧ ((lane x n).txRole = roleData → txSpareOf x = some k → (∃ m, m < 9 ∧ (lane x m).role = roleData) → x.recalTx = none →
      moves (.laneFail p n) (.held :: .safe :: eventParts) (fun y => y.state = 6 ∧ y.moved = x.moved
        ∧ (lane y n).txRole = roleFailed ∧ (lane y n).replay = [] ∧ (lane y n).todo = [] ∧ (lane y k).txRole = roleData ∧ y.txFault = true
        ∧ y.spareFault = x.spareFault ∧ place y ∧ (∀ m, m < 9 → (lane y m).role = (lane x m).role)
        ∧ (lane y k).replay = (lane x k).replay
        ∧ (lane y k).todo = (lane x k).todo ++ (lane x n).replay ++ (lane x n).todo))
    ∧ ((lane x n).txRole = roleData → txSpareOf x = some k →
      ((lane x n).replay ≠ [] → moves (.recalReq p n) [] (fun y => (lane y n).txRole = roleTraining
        ∧ (lane y k).txRole = roleData ∧ place y ∧ y.recalTx = some n ∧ y.moved = x.moved))
      ∧ ((lane x n).replay = [] → moves (.recalReq p n) [] (fun y => (lane y n).txRole = roleTraining
        ∧ (lane y k).txRole = roleData ∧ place y ∧ y.recalTx = none ∧ tells 3 y)))
    ∧ (x.recal = some ⟨n, 0⟩ → spareOf x = some k → moves (.recalAck p n) [] (fun y => (lane y n).role = roleTraining
      ∧ (lane y k).role = roleData ∧ y.recal = some ⟨n, 1⟩))
    ∧ (x.recal = some ⟨n, 1⟩ → (∀ m, m < 9 → (lane x m).role ≠ roleFailed) → moves (.recalDone p n) [] (fun y =>
      (lane y n).role = roleSpare ∧ (lane y n).recalPending = false ∧ y.recal = none ∧ tells 4 y))
    ∧ (x.recal = none → (lane x n).txRole = roleTraining → (∀ m ∈ rotationOf x, (lane x m).txRole ≠ roleFailed) →
      moves (.recalDone p n) [] (fun y => (lane y n).txRole = roleSpare ∧ y.recalTx = none ∧ y.moved = x.moved))
    ∧ (∀ h w, (lane x n).role = roleData → moves (.eyeMonitorBelowMargin p n h w) [] (fun y =>
      let m := reg4 s (portBase p + 0x14)
      let low := decide (h < bitsAt m 7 0 ∨ w < bitsAt m 15 8)
      lane y n = { lane x n with eyeHeight := h, eyeWidth := w, recalPending := (lane x n).recalPending || low }))

/-- With the host block taking writes, setting PM_CTRL.en gives Peppermill a lane of a DISABLED port, or the spare of an UP port that covers no fault, and is refused elsewhere. An inverted bit is sent while the lane is owned and its generator runs, which far-end loopback forbids, and counts one error in near-end loopback while the checker is locked. The checker of an owned lane locks, in near-end loopback if what the lane sends has 128 bits in a row as its pattern predicts, and not otherwise; when it loses lock, lost_lock is set and the errors counted since it locked are 256 at least: how many is a free value (log 66). No other lane or port moves, nor anything else. (R431, R432, R433, 18_production_test.md) -/
def Obligations.Peppermill : Prop :=
  ∀ (s : State) (p n : Nat), p < 48 → n < 9 →
    let x := port s p
    let y := pmOf x n
    let c := reg4 s (pmReg p n 0)
    let near := decide (x.state = 0 ∧ y.owned = true ∧ bitsAt c 7 6 = 1)
    let moves (i : Instr) (l : List Part) (z : Pm) : Prop := ∃ t, exec i s = .next t
      ∧ port t p = { x with pm := sset Pm.empty x.pm n z } ∧ (∀ q, q ≠ p → port t q = port s q) ∧ sameBut (.ports :: l) s t
    let free := x.state = 0 ∨ (x.state = 6 ∧ (lane x n).role = roleSpare ∧ x.spareFault = false ∧ x.txFault = false)
    (hostBlock s = true →
      (free → moves (.pmOwn p n) [.held] { y with owned := true }
        ∧ ∃ t, exec (.pmOwn p n) s = .next t ∧ bitAt (reg4 t (pmReg p n 0)) 0 = true)
      ∧ (¬ free → moves (.pmOwn p n) [] { y with refused := true })
      ∧ (y.owned = true → bitAt c 4 = true → ¬ (x.state = 0 ∧ bitsAt c 7 6 = 2) →
        (near = true → y.locked = true → moves (.pmInject p n) [.counters] { y with injected := y.injected + 1, errs := y.errs + 1 }
          ∧ ∃ t, exec (.pmInject p n) s = .next t ∧ t.reg = (count (pmReg p n 8) 1 s).reg)
        ∧ (¬ (near = true ∧ y.locked = true) → moves (.pmInject p n) [] { y with injected := y.injected + 1 }))
      ∧ (x.state = 0 → y.owned = true → bitsAt c 7 6 = 2 → exec (.pmInject p n) s = .next s))
    ∧ (y.owned = true → bitAt c 5 = true →
      (near = false → moves (.peppermillLock p n) [] { y with locked := true, errs := 0 })
      ∧ (near = true → nearLocks s p n = true → moves (.peppermillLock p n) [] { y with locked := true, errs := 0 })
      ∧ (near = true → nearLocks s p n = false → exec (.peppermillLock p n) s = .next s))
    ∧ (y.locked = true → ∃ k, 256 ≤ y.errs + k
      ∧ moves (.peppermillLostLock p n) [.counters, .free] { y with locked := false, lostLock := true, errs := y.errs + k }
      ∧ ∃ t, exec (.peppermillLostLock p n) s = .next t ∧ t.reg = (count (pmReg p n 8) k s).reg)

/-- An adder adds words as integers, in w bits. A sum of at most 2^G contributions, each of magnitude at most C, is below 2^(w-1) in magnitude, so it never wraps and never saturates: adding them in any order, and joining any two partial sums, gives the exact integer sum. (R293) -/
def Obligations.SaffronSums : Prop :=
  ∀ (word : Bool) (n c : Nat) (ws : List Int), contribLimit word n = some c → ws.length ≤ 2 ^ guardBits n →
    (∀ q ∈ ws, q.natAbs ≤ c) →
    let add : List Int → Int := List.foldl (combineWord 0 word) 0
    (∀ a b, (combineWord 0 word a b - (a + b)) % 2 ^ wordBits word = 0)
    ∧ ws.sum.natAbs < 2 ^ (wordBits word - 1) ∧ add ws = ws.sum
    ∧ (∀ us, us.Perm ws → add us = ws.sum)
    ∧ ∀ us vs, (us ++ vs).Perm ws → combineWord 0 word (add us) (add vs) = ws.sum

/-- The word of a finite element is its value times 2^-e rounded to the nearest integer, ties to even, clipped to the contribution limit with the element's sign and counted as clipped exactly when the rounded magnitude is above it; an infinity or a NaN gives 0. The contribution limit is 2^(w-1-G) - 1, and there is none for a plan whose n leaves less than 8 bits. (R292, 12_collectives_and_dispatch.md) -/
def Obligations.Contributions : Prop :=
  (∀ (m : Nat) (d : Int), |(scaleHalfEven m d : ℚ) - m * 2 ^ d| ≤ 1 / 2
      ∧ (|(scaleHalfEven m d : ℚ) - m * 2 ^ d| = 1 / 2 → scaleHalfEven m d % 2 = 0))
    ∧ (∀ (c m : Nat) (e k : Int) (s : Bool),
      let q := scaleHalfEven m (k - e)
      (saffron c e (.fin s m k)).2 = decide (c < q) ∧ ((saffron c e (.fin s m k)).1).natAbs = min q c
        ∧ (s = false → 0 ≤ (saffron c e (.fin s m k)).1) ∧ (s = true → (saffron c e (.fin s m k)).1 ≤ 0))
    ∧ (∀ (c : Nat) (e : Int) (x : Machine.Num), x.special = true → saffron c e x = (0, false))
    ∧ (∀ word n, 0 < n → 8 ≤ wordBits word - 1 - Nat.clog 2 n →
      contribLimit word n = some (2 ^ (wordBits word - 1 - Nat.clog 2 n) - 1))
    ∧ (∀ word n, wordBits word - 1 - Nat.clog 2 n < 8 → contribLimit word n = none)

/-- An instance in WAIT_ARM whose plan's reservation fits arms: the pools hold its reservation, each child of each tree gets a grant of the window, and, its local contributions not all in, it is COLLECTING; one that does not fit stays. A grant from the parent adds to the tree's grants; a grant of 16 chunks or more is taken for the arming grant of an instance, kept, with what follows it, until that arms, and a grant of less that no instance has a use for goes: both are the model's choice (log 143). A chunk of a child that is not closed becomes its input's next chunk; one of an input that its deadline has closed is late and counted once. A result chunk from the parent is kept and sent to every child. A due deadline whose turn it is among the due marks marks the tree, closes every input that is not whole and takes it from the copy held for it; another changes nothing. What the words and trailers carry is in the model's own form (log 80). Other instances stay. (R300, R301, R306, R307, 12_collectives_and_dispatch.md) -/
def Obligations.BucketsGather : Prop :=
  ∀ (s : State) (b u : Nat), b < 4096 → u < 8 →
    let x := bucket s b
    let y := treeOf x u
    let moves (c : Instr) (f : State → Prop) : Prop := ∃ t, exec c s = .next t ∧ f t
      ∧ ∀ k, k ≠ b → bucket t k = bucket s k
    let links (c : Instr) (f : State → Prop) : Prop := moves c (fun t => f t ∧ sameBut (.link :: settleParts) s t)
    (∀ p : Plan, x.state = .waitArm → readPlan [x.plan.kind] x.planNo 0x14 s = (.ok p, s) → 0 < p.trees →
      (poolsFit s p = false → moves (.bucketArm b) (fun t => bucket t b = x ∧ sameBut settleParts s t))
      ∧ (poolsFit s p = true → samePlan x p = true → x.e.isSome = true → x.locals.length < p.localCount →
        x.locals.any (fun l => !l.gone) = true → s.link.early.all (fun g => g.1 != b) = true →
        s.link.heldCopies.all (fun c => c.bucket != b) = true →
        links (.bucketArm b) (fun t => (bucket t b).state = .collecting ∧ (bucket t b).plan = p
          ∧ (bucket t b).locals = x.locals
          ∧ (∀ k, k < 8 → sget 0 t.link.redUsed k = sget 0 s.link.redUsed k + poolNeed p k)
          ∧ t.link.msgs = s.link.msgs ++ (List.range p.trees).flatMap (fun v =>
            (childPorts p v).map (fun k => neighbourMsg s 0 k (treeCtx b v true) (.grant b v p.window))))))
    ∧ (∀ n p, p < 48 → (if onTree x u = true then 16 ≤ n ∧ y.granted = true
        else 16 ≤ n ∨ s.link.early.any (fun g => g.1 == b && g.2.1 == u) = true) →
      links (.grantReceive p b u n) (fun t => t.link = { s.link with early := s.link.early ++ [(b, u, n)] }))
    ∧ (∀ n p, p < 48 → onTree x u = false → n < 16 → s.link.early.any (fun g => g.1 == b && g.2.1 == u) = false →
      links (.grantReceive p b u n) (fun t => t.link = s.link))
    ∧ (onTree x u = true → u < x.trees.length → x.e.isSome = true → y.trailer = none → 0 < chunksOn x u →
      let quiet := ∀ v ∈ activeTrees x, localsReady x v = false
      (∀ n p, p < 48 → quiet → ¬ (16 ≤ n ∧ y.granted = true) → x.plan.parent.getD u 0x3F = p →
        links (.grantReceive p b u n) (fun t => (treeOf (bucket t b) u).grants = y.grants + n
          ∧ (treeOf (bucket t b) u).granted = (y.granted || decide (16 ≤ n)) ∧ t.link.msgs = s.link.msgs))
      ∧ (∀ p ws i c, p < 48 → y.inputs.find? (fun d => d.port == p) = some c →
        (quiet → c.closed = false → x.twoPhase = false → c.chunks.length < chunksOn x u →
          links (.reduceChunkReceive p b u ws i) (fun t => t.link.msgs = s.link.msgs
            ∧ ∃ d, (treeOf (bucket t b) u).inputs.find? (fun d => d.port == p) = some d ∧ d.chunks = c.chunks ++ [ws]))
        ∧ (c.closed = true → c.late = false →
          links (.reduceChunkReceive p b u ws i) (fun t => (treeOf (bucket t b) u).late = y.late + 1
            ∧ ∃ d, (treeOf (bucket t b) u).inputs.find? (fun d => d.port == p) = some d ∧ d.late = true
              ∧ d.chunks = c.chunks)))
      ∧ (∀ p ws r, p < 48 → cleanMem s → isRoot x.plan u = false → x.plan.parent.getD u 0x3F = p → x.twoPhase = false →
        y.result.length + 1 < chunksOn x u → (∀ v ∈ activeTrees x, chunksOn x v ≤ (treeOf x v).sent) →
        moves (.resultChunkReceive p b u ws r) (fun t => (treeOf (bucket t b) u).result = y.result ++ [ws]
          ∧ t.link.msgs = s.link.msgs ++ (childPorts x.plan u).map (fun k =>
            neighbourMsg s 1 k (treeCtx b u true) (.chunkDown b u ws r))))
      ∧ (deadlineTurn s b u = true → isRoot x.plan u = false → y.grants = 0 →
        (∀ v ∈ activeTrees x, v ≠ u → localsReady x v = false) →
        links (.reduceDeadline b u) (fun t => (treeOf (bucket t b) u).fired = true ∧ t.link.msgs = s.link.msgs
          ∧ (treeOf (bucket t b) u).inputs = y.inputs.map (fun c => if c.info.isSome then c else { c with
            closed := true
            standIn := x.copies.find? (fun d => decide (d.standIn = (port s c.port).farNode)) }))))
    ∧ (deadlineTurn s b u = false → exec (.reduceDeadline b u) s = .next s)

/-- A copy for an instance that is not armed is held once for each stand-in and discarded and counted else; one that fits an armed instance is held by it and one that does not is discarded and counted; a held copy's time ends it and is counted. The trailer that comes back completes the shadow REDUCE with status OK and sets its step's flag when it is NONFINITE. With the host block taking writes, LNK_BKT with its write bit records an entry of a FREE bucket and sets busy_err for another, and without it only selects; LNK_BKT_CANCEL, where no operation waits for a receive buffer, completes every local REDUCE of an instance with STREAM_STALL, frees the bucket and releases its reservation. (R187, R294, R295, R304, R305, R308, R425, 12_collectives_and_dispatch.md) -/
def Obligations.CopiesAndEntries : Prop :=
  ∀ s : State,
    (∀ c : BackupCopy, c.bucket < 4096 →
      let x := bucket s c.bucket
      let idle := x.state = .free ∨ x.state = .waitArm
      let first := s.link.heldCopies.any (fun d => d.bucket == c.bucket && d.standIn == c.standIn) = false
      (idle → first → exec (.backupCopyReceive c) s
        = .next { s with link := { s.link with heldCopies := s.link.heldCopies ++ [c] } })
      ∧ (idle → ¬ first → ∃ t, exec (.backupCopyReceive c) s = .next t ∧ t.reg = (count (linkBase 0 + 0x2004) 1 s).reg
        ∧ sameBut [.counters] s t)
      ∧ (¬ idle → copyFits s x c = true → ∃ t, exec (.backupCopyReceive c) s = .next t
        ∧ bucket t c.bucket = { x with askers := (x.askers ++ [c.sender]).dedup, copies := x.copies ++ [c] }
        ∧ sameBut [.link] s t)
      ∧ (¬ idle → copyFits s x c = false → ∃ t, exec (.backupCopyReceive c) s = .next t
        ∧ (bucket t c.bucket).copies = x.copies ∧ (bucket t c.bucket).trees = x.trees
        ∧ t.reg = (count (linkBase (treeTile x.plan 0) + 0x2004) 1 s).reg ∧ sameBut [.link, .counters] s t))
    ∧ (∀ b n, b < 4096 → s.link.heldCopies.any (fun d => d.bucket == b && d.standIn == n) = true →
      ∃ t, exec (.copyHoldExpire b n) s = .next t
        ∧ t.link = { s.link with heldCopies := s.link.heldCopies.filter (fun d => !(d.bucket == b && d.standIn == n)) }
        ∧ t.reg = (count (linkBase 0 + 0x2028) 1 s).reg ∧ sameBut [.link, .counters] s t)
    ∧ (∀ b i q r, ∀ z : Trailer, b < 4096 → s.link.shadows.find? (fun x => x.1 == b) = some (b, i, q) →
      findRec s i q = some r → r ∈ (stream s i).window → r.life ≠ .done →
      ∃ t r', exec (.shadowTrailerReceive b z) s = .next t ∧ findRec t i q = some r' ∧ r'.life = .done ∧ r'.status = stOK
        ∧ (b, i, q) ∉ t.link.shadows ∧ (z.nonfinite = true → stepFlag t r.step = true)
        ∧ (z.nonfinite = false → t.step = s.step) ∧ sameBut (.link :: .streams :: .stepGuard :: settleParts) s t)
    ∧ (∀ v, hostBlock s = true → v < 2 ^ 32 → bitAt v 30 = false →
      let b := bitsAt v 11 0
      let entry (v : Nat) : BktEntry := ⟨signedN 16 (bitsAt v 27 12), bitAt v 28, 0, bitAt v 29, reg4 s (linkBase 0 + 0x28)⟩
      let writes (t : State) : Prop := exec (.lnkBktWrite v) s = .next t ∧ reg4 t (linkBase 0 + 0x20) = b
        ∧ sameBut [.link, .held] s t
      (bitAt v 31 = false → ∃ t, writes t ∧ t.link = s.link)
      ∧ (bitAt v 31 = true → (bucket s b).state ≠ .free → ∃ t, writes t ∧ t.link = { s.link with bktBusyErr := true })
      ∧ (bitAt v 31 = true → (bucket s b).state = .free → ∃ t, writes t
        ∧ t.link = { s.link with entries := sset BktEntry.empty s.link.entries b (entry v) }))
    ∧ (∀ b, hostBlock s = true → b < 4096 → enginesArmed s → (bucket s b).state ≠ .free → (bucket s b).state ≠ .waitArm →
      (∀ l ∈ (bucket s b).locals, commitAt s l.stream l.seq = none) → s.link.waiting.all (fun o => o.bucket != b) = true →
      ∃ t, exec (.lnkBktCancel b) s = .next t ∧ bucket t b = Bucket.empty ∧ (∀ k, k ≠ b → bucket t k = bucket s k)
        ∧ (∀ k, k < 8 → sget 0 t.link.redUsed k = sget 0 s.link.redUsed k - poolNeed (bucket s b).plan k)
        ∧ t.link.msgs = s.link.msgs ∧ sameBut (.link :: .streams :: settleParts) s t
        ∧ ∀ l ∈ (bucket s b).locals, l.gone = false → ∀ r ∈ (stream s l.stream).window, r.seq = l.seq → r.life ≠ .done →
          ∃ r' ∈ (stream t l.stream).window, r'.seq = l.seq ∧ r'.life = .done ∧ r'.status = stStall)

/-- With the host block taking writes and no load running, a read of HOME_DATA answers the entry that HOME_ADDR names and a write sets its node, slot, valid bit and epoch; either advances HOME_ADDR by one, from 0xF_FFFF to 0. While a load runs, an access waits. HOME_LOAD.go starts a load, or is ignored while one of its link tile runs. The end of a load from memory without errors has written count entries from first on, wrapping, with the 8-byte words at src, and no other. Nothing else moves. (R318, R425, R426, 17_register_reference.md) -/
def Obligations.HomeTable : Prop :=
  ∀ (s : State) (k : Nat), k < 8 → hostBlock s = true →
    let a := homeAddr s k
    let waits (w : Option Nat) (c : Instr) : Prop := exec c s
      = .next { s with link := { s.link with homeWaiting := s.link.homeWaiting ++ [(k, w)] } }
    (s.link.homeBusy = [] →
      (∃ t, exec (.homeDataRead k) s = .next t ∧ t.resp = .bytes (leBytes 8 (homeEntry s a))
        ∧ homeAddr t k = (a + 1) % 2 ^ 20 ∧ sameBut [.resp, .held] s t)
      ∧ (∀ v, ∃ t, exec (.homeDataWrite k v) s = .next t ∧ homeAddr t k = (a + 1) % 2 ^ 20
        ∧ homeNode (homeEntry t a) = v % 2 ^ 16 ∧ homeValid (homeEntry t a) = bitAt v 24
        ∧ bitsAt (homeEntry t a) 23 16 = bitsAt v 23 16 ∧ homeEpoch (homeEntry t a) = bitsAt v 47 32
        ∧ (∀ e, e ≠ a → homeEntry t e = homeEntry s e) ∧ sameBut [.link, .held] s t))
    ∧ (s.link.homeBusy ≠ [] → waits none (.homeDataRead k) ∧ ∀ v, waits (some v) (.homeDataWrite k v))
    ∧ (homeLoading s k = false → exec (.homeLoadGo k) s = .next { s with link := { s.link with
        homeBusy := s.link.homeBusy ++ [(k, reg8 s (linkBase k + 0x40), reg8 s (linkBase k + 0x48))] } })
    ∧ (homeLoading s k = true → exec (.homeLoadGo k) s = .next s)
    ∧ (∀ src v, s.link.homeBusy = [(k, src, v)] → s.link.homeWaiting = [] → cleanMem s → bitsAt v 40 20 ≤ 2 ^ 20 →
      access s src (8 * bitsAt v 40 20) = .ok →
      ∃ t, exec (.homeLoadDone k) s = .next t ∧ t.link.homeBusy = []
        ∧ (∀ j, j < bitsAt v 40 20 →
          homeEntry t ((bitsAt v 19 0 + j) % 2 ^ 20) = homeMask (numAt s.mem.data (src + 8 * j) 8))
        ∧ (∀ e, (∀ j, j < bitsAt v 40 20 → e ≠ (bitsAt v 19 0 + j) % 2 ^ 20) → homeEntry t e = homeEntry s e)
        ∧ sameBut [.link] s t)

/-- Where no operation waits for its receive buffer. At a home: a record or request for an expert in an ACTIVE slot joins the DISPATCH of its layer or plan while that waits for its count, and a request of a round that has passed, or that a timeout left missing, is answered with a grant of 0; for another expert it goes on unchanged to the node that a valid entry of a later epoch names and is counted, or is refused: the origin gets an output without a row, or a grant of 0. At an origin: the count result moves every waiting choice to requested and sends each requested expert's home its count; a grant sends the first choices and, under DROP, drops the rest and counts each in its expert's counter; an output joins its COMBINE, or waits for one. The count timeout marks the DISPATCH and is counted once. What comes before the DISPATCH or the COMBINE that it is for is kept until then, and a late request is told by its round: both are the model's reading (log 56). (R314, R317, R319, 12_collectives_and_dispatch.md) -/
def Obligations.TokenMessages : Prop :=
  ∀ s : State, enginesArmed s →
    let links (c : Instr) (f : State → Prop) : Prop :=
      ∃ t, exec c s = .next t ∧ f t ∧ sameBut (.link :: settleParts) s t
    let sends (c : Instr) (m : Msg) : Prop := links c (fun t => t.link = { s.link with msgs := s.link.msgs ++ [m] })
    let counts (a : Nat) (t : State) : Prop := ∀ k, k ≠ hostBase + 0x58 → ctr t k = ctr (count a 1 s) k
    let forwards (c : Instr) (e : Nat) (m : Msg) : Prop := links c (fun t =>
      t.link = { s.link with msgs := s.link.msgs ++ [m] } ∧ counts (expertCtr e 3) t)
    (∀ (r : TokenRec) (row : List Byte),
      let v := homeEntry s r.expert
      let on := homeValid v = true ∧ laterEpoch (homeEpoch v) r.epoch = true ∧ homeNode v ≠ logicalNode s
      (∀ n o, activeSlot s r.expert = some n → opOfExpert s r.expert = some o → findOp s o.stream o.seq = some o →
        o.expects = none → links (.tokenRecordReceive r row) (fun t =>
          findOp t o.stream o.seq = some { o with rows := o.rows ++ [⟨r, row⟩] } ∧ t.link.msgs = s.link.msgs))
      ∧ (activeSlot s r.expert = none → on →
        forwards (.tokenRecordReceive r row) r.expert ⟨2, homeNode v, none, r.expert, .token r row⟩)
      ∧ (activeSlot s r.expert = none → ¬ on → r.origin ≠ logicalNode s →
        sends (.tokenRecordReceive r row) ⟨2, r.origin, none, r.expert, .output r []⟩))
    ∧ (∀ plan e origin round n epoch,
      let v := homeEntry s e
      let on := homeValid v = true ∧ laterEpoch (homeEpoch v) epoch = true ∧ homeNode v ≠ logicalNode s
      let q : HomeReq := ⟨plan, e, origin, round, n, epoch, none⟩
      let c : Instr := .dispatchRequestReceive plan e origin round ⟨n, epoch⟩
      let none_ : Msg := ⟨0, origin, none, e, .allot plan e origin round 0⟩
      (∀ k o, activeSlot s e = some k → lateOf s q = none → opOfPlan s plan = some o → findOp s o.stream o.seq = some o →
        o.expects = none → o.timedOut = false →
        (o.round ≤ round → links c (fun t => findOp t o.stream o.seq = some { o with reqs := o.reqs ++ [q] }))
        ∧ (1 ≤ round → round < o.round → origin ≠ logicalNode s → links c (fun t => t.link.msgs = s.link.msgs ++ [none_])))
      ∧ (∀ k, activeSlot s e = some k → lateOf s q = none → opOfPlan s plan = none →
        links c (fun t => t.link = { s.link with earlyReqs := s.link.earlyReqs ++ [q] }))
      ∧ (∀ k y, activeSlot s e = some k → lateOf s q = some y → findOp s y.stream y.seq = none → origin ≠ logicalNode s →
        links c (fun t => t.link.msgs = s.link.msgs ++ [none_] ∧ t.link.ops = s.link.ops))
      ∧ (activeSlot s e = none → on → forwards c e ⟨0, homeNode v, none, e, .request plan e origin round n epoch⟩)
      ∧ (activeSlot s e = none → ¬ on → origin ≠ logicalNode s → sends c none_))
    ∧ (∀ plan counts, ∀ o : DispOp, opOfPlan s plan = some o → o.expects = none → layerSlots s o.plan = [] →
      requestsOf o ≠ [] → (∀ x ∈ requestsOf o, homeNode (homeEntry s x.1) ≠ logicalNode s) →
      let x := bucket s o.plan.countBucket
      x.use = .count → countAgrees x counts = true → x.askers = [] →
      (∀ m, mergedTrailer x = some m → m.short = false ∧ m.nonfinite = false) →
      s.link.waiting.all (fun w => w.bucket != o.plan.countBucket) = true →
      links (.countResult plan o.round counts) (fun t => ∃ o', findOp t o.stream o.seq = some o' ∧ o'.expects = some counts
        ∧ o'.choices = o.choices.map (fun c => if c.round = o.round ∧ c.state = .waiting then
            { c with state := .requested } else c)
        ∧ bucket t o.plan.countBucket = Bucket.empty
        ∧ t.link.msgs = s.link.msgs ++ (requestsOf o).map (fun y => ⟨0, homeNode (homeEntry s y.1), none, y.1,
            .request plan y.1 (logicalNode s) o.round y.2 (homeEpoch (homeEntry s y.1))⟩)))
    ∧ (∀ plan, ∀ o : DispOp, opOfPlan s plan = some o → findOp s o.stream o.seq = some o → o.expects.isSome = true →
      o.timedOut = false → slotsDone s o = false → o.reqs = [] → originDone o = false →
      links (.countTimeout plan) (fun t => findOp t o.stream o.seq = some { o with timedOut := true }
        ∧ counts (linkBase 0 + 0x2020) t))
    ∧ (∀ plan e n c, ∀ o : DispOp, opOfPlan s plan = some o → findOp s o.stream o.seq = some o → slotsDone s o = false →
      choiceOrder ((choicesOf o .requested).filter (fun c => c.expert == e)) = [c] →
      (∀ r row, 0 < n → choiceRow o c s = (.ok (r, row), s) → homeNode (homeEntry s c.expert) ≠ logicalNode s →
        links (.dispatchGrantReceive plan e o.round n) (fun t => findOp t o.stream o.seq
            = some (setChoice { c with state := .sent } o)
          ∧ t.link.msgs = s.link.msgs ++ [⟨2, homeNode (homeEntry s c.expert), none, c.expert, .token r row⟩]))
      ∧ (n = 0 → o.policy = 0 → links (.dispatchGrantReceive plan e o.round n) (fun t => findOp t o.stream o.seq
          = some (setChoice { c with state := .dropped } o) ∧ t.link.msgs = s.link.msgs ∧ counts (expertCtr c.expert 5) t)))
    ∧ (∀ (r : TokenRec) (row : List Byte), row ≠ [] →
      (combOfExpert s r.expert = none → links (.expertOutputReceive r row) (fun t =>
        t.link = { s.link with earlyOuts := s.link.earlyOuts ++ [⟨r, row⟩] }))
      ∧ (∀ o : CombOp, s.link.combines = [o] → inLayer o.plan r.expert = true →
        allReturned { o with rows := o.rows ++ [⟨r, row⟩] } = false → links (.expertOutputReceive r row) (fun t =>
          t.link = { s.link with combines := [{ o with rows := o.rows ++ [⟨r, row⟩] }] })))

/-- A stream that holds nothing before it takes a MATMUL, a BWD_PAIR, a product-table MATMUL, a VECOP or a SCAN whose position, group and slot are good, with nothing outstanding that its kind waits for, and whose own checks pass: it gets the stream's next sequence number and runs on the pods of its group, with as many items, chunks and parts to finish as its operands give; with no part at all it is complete, with status OK. A SCAN is one item. Memory, the link tiles and every other stream are as before; only clove scheduling, counters, phase records and status lines move. (R83, R144, R193, R195, R197, R198, R199, R441, 08_clove_scheduling.md) -/
def Obligations.OperationsStart : Prop :=
  ∀ (s : State) (i : Nat) (h : Header), cleanMem s →
    let q := (stream s i).seqNext
    let starts (c : Instr) (d : Desc) (w : MM Unit) (parts : Rec → Nat) (f : Rec → Prop) : Prop :=
      startsNow i h d s → passes w (atWork i h d s) = true →
      ∃ t n, exec c s = .next t ∧ tookOne i h d (if n = 0 then .done else .running) s t
        ∧ (∀ r ∈ (stream t i).window, parts r = n ∧ r.left = n ∧ r.pods = groupPods s h.group ∧ f r)
        ∧ sameBut (.comp :: .streams :: settleParts) s t
    let matmul (c : Instr) (b : MatmulBody) : Prop :=
      starts c (.matmul b) (dispatchMatmul i q h b) (fun r => matmulParts b r.tes)
        (fun r => r.nItems = matmulItems b r.tes ∧ r.nSplit = b.splitN)
    (∀ b, matmul (.matmul i h b) { b with kind := 0 })
    ∧ (∀ b, matmul (.bwdPair i h b) { b with kind := 1 })
    ∧ (∀ b, matmul (.productTableMatmul i h b) { b with kind := 2 })
    ∧ (∀ b, starts (.vecop i h b) (.vecop b) (dispatchVecop i q h b) (fun r => r.nItems) (fun r => r.nSplit = 1))
    ∧ (∀ b, starts (.scan i h b) (.scan b) (dispatchScan i q h b) (fun _ => 1) (fun r => r.nItems = 1 ∧ r.nSplit = 1))

/-- A stream that holds nothing before it takes one of these, with good position, group and slot, its own checks passing and its plans readable. A REDUCE of a reduction or low-rank plan whose bucket is FREE opens the bucket: WAIT_ARM, with the plan, op, word and deadline that it names and itself the only local contribution, of as many elements as its source has where its rank is 0. A DISPATCH has its own capacity, policy and k and takes up the defer records that the plan's list in memory holds; where its receive buffer can be reserved and its count bucket is FREE, it begins round 1 and opens the count bucket with a word for each expert; where the buffer does not fit it waits, and no bucket moves. A COMBINE with no slot of its own and a choice sent that has not returned waits for it, and takes what its DISPATCH kept; its buffer is reserved exactly where it fits. The form of the defer list in memory is the model's (log 33), and so is what a DISPATCH and a COMBINE keep for each other (log 56). Each runs, no other operation waiting for a buffer before it; memory, cloves and every other stream are as before. (R193, R212, R295, R297, R306, R310, R312, R314, R315, R317, 12_collectives_and_dispatch.md) -/
def Obligations.ExchangesStart : Prop :=
  ∀ (s : State) (i : Nat) (h : Header), cleanMem s → enginesArmed s →
    let q := (stream s i).seqNext
    let key (d : Desc) : Rec := { taken i h d s with key := (stream s i).keySeed }
    let starts (c : Instr) (d : Desc) (w : MM Unit) (f : State → Prop) : Prop :=
      startsNow i h d s → passes w (atWork i h d s) = true →
      ∃ t, exec c s = .next t ∧ tookOne i h d .running s t ∧ sameBut (.link :: .streams :: settleParts) s t ∧ f t
    (∀ (b : ReduceBody) (p : Plan), (bucket s b.bucket).state = .free → p.kind ≠ 1 →
      (readPlan (if b.rank = 0 then [0, 1] else [2]) b.plan 0x14 s).1 = .ok p →
      starts (.reduce i h b) (.reduce b) (dispatchReduce i q (key (.reduce b)) b) (fun t =>
        let x := bucket t b.bucket
        x.state = .waitArm ∧ x.plan = p ∧ x.planNo = b.plan ∧ x.op = b.op ∧ x.word = b.word
          ∧ x.deadline = (if b.deadlineEn then some ⟨b.deadline, b.deadlineFrac⟩ else none)
          ∧ x.use = (if b.rank = 0 then .reduce else .lowrank)
          ∧ (∃ l, x.locals = [l] ∧ l.stream = i ∧ l.seq = q ∧ l.backup = (if b.backupEn then some b.backup else none)
            ∧ (b.rank = 0 → l.dst = some b.dst))
          ∧ (b.rank = 0 → ∃ e, peekTE s b.src = some e ∧ x.elements = e.rows * e.cols)
          ∧ ∀ k, k ≠ b.bucket → bucket t k = bucket s k))
    ∧ (∀ (b : DispatchBody) (p : DispPlan) (k : Plan), (readDispPlan b.plan 0x1C s).1 = .ok p →
      (readPlan [0] p.countPlan 0x1C s).1 = .ok k → findOp s i q = none →
      let l := sget [] s.link.deferred b.plan
      let bytes (x : Deferred × Nat) : List Byte := memBytes s (deferAt p.defer l x.2) (16 + x.1.data.length)
      let fits (e : TEntry) : Bool :=
        bufferFits s (receiveBuffer s e ((layerSlots s p).map (fun n => (slotExpert (slotReg s n), b.capacity))))
      let begun (armed : Bool) (t : State) : Prop := sget [] t.link.deferred b.plan = []
        ∧ ∃ o, findOp t i q = some o ∧ o.planNo = b.plan ∧ o.plan = p ∧ o.round = 1 ∧ o.k = b.k ∧ o.capacity = b.capacity
          ∧ o.policy = b.policy ∧ o.expects = none ∧ o.armed = armed
          ∧ o.held = l.zipIdx.map (fun x => { x.1 with tok := tokenOf (bytes x), data := (bytes x).drop 16 })
      let does (f : State → Prop) : Prop := starts (.dispatch i h b) (.dispatch b) (dispatchDispatch i q (key (.dispatch b)) b) f
      ((bucket s p.countBucket).state = .free → (∀ e, peekTE s b.tokens = some e → fits e = true) → does (fun t =>
        let x := bucket t p.countBucket
        begun true t ∧ x.state = .waitArm ∧ x.use = .count ∧ x.plan = k ∧ x.planNo = p.countPlan ∧ x.elements = p.experts
          ∧ ∀ k, k ≠ p.countBucket → bucket t k = bucket s k))
      ∧ ((∀ e, peekTE s b.tokens = some e → fits e = false) → does (fun t =>
        begun false t ∧ ∀ k, bucket t k = bucket s k)))
    ∧ (∀ b : DispatchBody, s.link.combines = [] → s.link.earlyOuts = [] →
      let d := sget Placed.empty s.link.placed b.plan
      d.slots = [] → d.choices.any (fun c => decide (c.state = .sent)) = true →
      starts (.combine i h b) (.combine b) (dispatchCombine i q (key (.combine b)) b) (fun t =>
        (∃ o, t.link.combines = [o] ∧ o.stream = i ∧ o.seq = q ∧ o.planNo = b.plan ∧ o.placed = d ∧ o.rows = []
          ∧ ∀ e, peekTE s b.tokens = some e → o.armed = bufferFits s (receiveBuffer s e
            ((d.choices.filter (fun c => decide (c.state = .sent))).map (fun c => (c.expert, 1)))))
        ∧ sget Placed.empty t.link.placed b.plan = Placed.empty))

/-- With good position, group and slot and its own checks passing, on a stream that holds nothing before it: a STASH_SAVE that no row of the ladder places waits, and one that is placed makes the entry of the lowest free index of its clove, present or dropped, takes one reference on its weight record and completes with the entry's handle, the free pages that it takes being a free value (log 18); a STASH_LOAD of a present entry completes, and frees entry and reference exactly when its release bit is set. A waiting save that now fits is made as the first was; one whose clove was quarantined since completes with status OK and its entry LOST; while none can be made, nothing moves. An UPDATE becomes the record's last of its step and the last of its list and waits, or completes skipped where its STEP_COMMIT ended without a COMMIT. UPDATE_START of a record whose UPDATE may start and passes its checks leaves it UPDATING with one result for each block, held by the engines, to be written in the record's arrays, and memory as before; that results are held so is the model's reading (log 84), and so are the groups of the moments that they hold (log 54). UPDATE_COMPLETE writes the results that are held and nothing else, makes the next version, modulo 256, leaves the record IDLE and completes the UPDATE with status OK and with the flags that its blocks give; with none running nothing moves. (R170, R171, R172, R173, R174, R176, R178, R181, R193, R354, 07_backward_and_update.md) -/
def Obligations.StashAndUpdate : Prop :=
  ∀ (s : State) (i : Nat) (h : Header), cleanMem s →
    let q := (stream s i).seqNext
    let key (d : Desc) : Rec := { taken i h d s with key := (stream s i).keySeed }
    let saved (b : StashSaveBody) (p k : Nat) (t : State) : Prop :=
      let e := sget StashEntry.none (clove t p).stash k
      e.order = s.comp.orderNo + 1 ∧ (e.state = .present ∨ b.recompute = true ∧ e.state = .dropped)
        ∧ e.weightId = b.weightId ∧ e.version = (weight s b.weightId).version
        ∧ weight t b.weightId = { weight s b.weightId with refs := (weight s b.weightId).refs + 1 }
        ∧ sameBut (.mem :: .comp :: .streams :: .ring :: .free :: settleParts) s t
    (∀ (b : StashSaveBody) (e : TEntry) (p : Nat), startsNow i h (.stashSave b) s →
      passes (dispatchStashSave i q (key (.stashSave b)) b) (atWork i h (.stashSave b) s) = true →
      peekTE s b.src = some e → sliceOf e.base = some p →
      let row := placeOf s p (worstPages (rowBlocks e * colBlocks e)) b.recompute
      (row = .hold → ∃ t, exec (.stashSave i h b) s = .next t ∧ tookOne i h (.stashSave b) .stashWait s t
        ∧ sameBut (.ring :: .streams :: settleParts) s t)
      ∧ (∀ k, row ≠ .hold → freeIndex s p = some k → ∃ t, exec (.stashSave i h b) s = .next t
        ∧ tookOne i h (.stashSave b) .done s t ∧ (∀ r ∈ (stream t i).window, r.value = k + 256 * p) ∧ saved b p k t))
    ∧ (∀ (r : Rec) (p : Nat) (b : StashSaveBody) (e : TEntry) (k : Nat), i < 64 → (stream s i).window = [r] →
      resumable s r = some (p, b, e) → freeIndex s p = some k →
      let made (f : State → Prop) : Prop := ∃ t, exec (.stashSaveResume i) s = .next t ∧ f t
        ∧ (∀ j, j ≠ i → stream t j = stream s j)
        ∧ ∃ x, (stream t i).window = [x] ∧ x.seq = r.seq ∧ x.life = .done ∧ x.status = stOK ∧ x.value = k + 256 * p
      (r.lostIn.contains p = false → passes (placeSave i r.seq p r b e) s = true → made (saved b p k))
      ∧ (r.lostIn.contains p = true → made (fun t => (sget StashEntry.none (clove t p).stash k).state = .lost
        ∧ (weight t b.weightId).refs = (weight s b.weightId).refs + 1 ∧ sameBut (.comp :: .streams :: settleParts) s t)))
    ∧ (i < 64 → (∀ r ∈ (stream s i).window, resumable s r = none) →
      ∃ t, exec (.stashSaveResume i) s = .next t ∧ sameBut [.phases] s t)
    ∧ (∀ b : StashLoadBody, startsNow i h (.stashLoad b) s →
      let e := sget StashEntry.none (clove s b.clove).stash b.index
      e.state = .present → passes (dispatchStashLoad i q h b) (atWork i h (.stashLoad b) s) = true →
      ∃ t, exec (.stashLoad i h b) s = .next t ∧ tookOne i h (.stashLoad b) .done s t
        ∧ sameBut (.mem :: .comp :: .streams :: settleParts) s t ∧ (b.release = false → t.comp = s.comp)
        ∧ (b.release = true → sget StashEntry.none (clove t b.clove).stash b.index = StashEntry.none
          ∧ weight t e.weightId = { weight s e.weightId with refs := (weight s e.weightId).refs - 1 }))
    ∧ (∀ b : UpdateBody, startsNow i h (.update b) s →
      passes (takeUpdate (taken i h (.update b) s) b) (pushRec i (taken i h (.update b) s) s) = true →
      let w := weight s b.weightId
      let gone : Prop := ∃ c, commitOf s s.step.issued = some c ∧ c.finished = true ∧ c.committed = false
      (¬ gone → ∃ t, exec (.update i h b) s = .next t ∧ tookOne i h (.update b) .running s t
        ∧ weight t b.weightId = { w with lastStep := some s.step.tag, updates := w.updates ++ [(i, q)] }
        ∧ (∀ v, v ≠ b.weightId → weight t v = weight s v) ∧ sameBut (.comp :: .streams :: settleParts) s t)
      ∧ (gone → (∀ x ∈ allRecs s, x.2.life = .running → x.2.commitNo ≠ s.step.issued) →
        ∃ t, exec (.update i h b) s = .next t ∧ tookOne i h (.update b) .done s t
        ∧ (∀ r ∈ (stream t i).window, r.flags.skipped = true) ∧ (i, q) ∉ (weight t b.weightId).updates
        ∧ (weight t b.weightId).version = w.version ∧ sameBut (.comp :: .streams :: settleParts) s t))
    ∧ (∀ (w j n : Nat) (b : UpdateBody), w < 4096 → startable s w = some (j, n, b) → b.weightId = w →
      passes (runUpdate b) s = true →
      let r := wrecOf (bytesAt s.mem.data (weight s w).addr 128)
      let m := (r.rows + 63) / 64 * ((r.cols + 63) / 64)
      let within (y : Nat × List Byte) (a z : Nat) : Prop := a ≤ y.1 ∧ y.1 + y.2.length ≤ a + z
      ∃ t l, exec (.updateStart w) s = .next t
        ∧ weight t w = { weight s w with state := 1, held := (weight s w).held ++ l }
        ∧ (∀ v, v ≠ w → weight t v = weight s v) ∧ sameBut (.comp :: settleParts) s t
        ∧ l.map (·.block) = List.range m
        ∧ ∀ x ∈ l, ∀ y ∈ x.writes, (∃ a ∈ r.high :: r.copies, within y a (8192 * m + m)) ∨ within y r.low (8192 * m)
          ∨ within y r.m (4224 * m) ∨ within y r.v (4224 * m))
    ∧ (∀ (w j n : Nat) (l : List (Nat × Nat)), w < 4096 → (weight s w).updates = (j, n) :: l →
      let held := (weight s w).held
      ((weight s w).state = 1 → passes (held.forM (writeHeld j n)) s = true → (∀ r, findRec s j n = some r → r.life ≠ .done) →
        ∃ t, exec (.updateComplete w) s = .next t
        ∧ weight t w = { weight s w with
          version := ((weight s w).version + 1) % 256, state := 0, updates := l.filter (· != (j, n)), held := [] }
        ∧ (∀ v, v ≠ w → weight t v = weight s v)
        ∧ (∀ r ∈ (stream s j).window, r.seq = n → ∃ x ∈ (stream t j).window, x.seq = n ∧ x.life = .done
          ∧ x.status = stOK ∧ x.flags.sat = (r.flags.sat || held.any (fun y => decide (0 < y.sat)))
          ∧ x.flags.nonfinite = (r.flags.nonfinite || held.any (fun y => decide (0 < y.kept))))
        ∧ (∀ x, byteAt t.mem.data x
          = match ((held.flatMap (·.writes)).reverse).find? (fun y => decide (y.1 ≤ x) && decide (x < y.1 + y.2.length)) with
            | some y => y.2.getD (x - y.1) 0#8
            | none => byteAt s.mem.data x)
        ∧ sameBut (.mem :: .comp :: .streams :: settleParts) s t)
      ∧ ((weight s w).state ≠ 1 → ∃ t, exec (.updateComplete w) s = .next t ∧ sameBut [.phases] s t))

/-- SCALE_COMMIT of slots 0 to 4,095 whose records end in HBM that can be accessed writes a record of 320 bytes for each slot and nothing else in memory, stages each proposal it forms, clears the slot's partial records, its binding and its miss, and completes. STEP_COMMIT taken right after a BARRIER of group 0, its step's operations complete and its vote bucket FREE, advances the step counter and opens the vote bucket: one element, the OR of its step's flag and its veto. Taken otherwise it completes with DESC_ERROR, detail ORDER (11), and leaves the step counter, the flags, the first-setter records and every bucket as they were. A vote result that agrees with the instance frees the bucket; where an abort has ended the STEP_COMMIT (R370) and the result has neither NONFINITE nor SHORT, it does no more. A result that comes before the instance's own ends the vote too: that is the model's choice (log 32). Otherwise it clears the step's flag and sets STEP_LAST; without NONFINITE and SHORT it commits every valid staged code and completes the STEP_COMMIT with status OK; with either it clears every staged code, completes the UPDATEs of that STEP_COMMIT skipped, keeps every weight version and completes with the outcome bit. (R113, R114, R115, R186, R188, R189, R190, R309, R370, 07_backward_and_update.md) -/
def Obligations.StepGuard : Prop :=
  ∀ s : State, cleanMem s →
    (∀ (i : Nat) (h : Header) (b : ScaleCommitBody), startsNow i h (.scaleCommit b) s → 0 < b.count →
      b.first + b.count ≤ 4096 → b.dst + 320 * b.count ≤ hbmEnd → access s b.dst (320 * b.count) = .ok →
      ∃ t, exec (.scaleCommit i h b) s = .next t ∧ tookOne i h (.scaleCommit b) .done s t
        ∧ sameBut (.mem :: .comp :: .streams :: .free :: settleParts) s t
        ∧ (∀ k, k < b.count →
          let n := b.first + k
          let x := slotStat s n
          let y := slotRecord s b.headroom n
          bytesAt t.mem.data (b.dst + 320 * k) 320 = y.1
            ∧ slotStat t n = { x with
              staged := y.2.getD x.staged, stagedValid := x.stagedValid || y.2.isSome, outFmt := 0, histBase := 0
              bound := false, missSeen := false }
            ∧ ∀ j, partialRec t j n = Stats.empty)
        ∧ (∀ n, n < b.first ∨ b.first + b.count ≤ n → slotStat t n = slotStat s n)
        ∧ ∀ a, a < b.dst ∨ b.dst + 320 * b.count ≤ a → byteAt t.mem.data a = byteAt s.mem.data a)
    ∧ (∀ (i : Nat) (h : Header) (b : StepCommitBody) (p : Plan), startsNow i h (.stepCommit b) s →
      (stream s i).afterBarrier0 = true → commitAt s i (stream s i).seqNext = none →
      (readPlan [0] b.plan 0x14 s).1 = .ok p → (bucket s b.vote).state = .free →
      let bad := stepFlag s s.step.tag || b.veto
      ∃ t, exec (.stepCommit i h b) s = .next t ∧ tookOne i h (.stepCommit b) .running s t
        ∧ t.step.tag = s.step.tag + 1 ∧ t.step.issued = s.step.issued + 1 ∧ t.step.flags = s.step.flags
        ∧ (∃ c ∈ t.step.commits, c.no = s.step.issued + 1 ∧ c.stream = i ∧ c.seq = (stream s i).seqNext
          ∧ c.tag = s.step.tag ∧ c.vote = b.vote ∧ c.contributed = true ∧ c.finished = false)
        ∧ (let x := bucket t b.vote
          x.state = .waitArm ∧ x.use = .vote ∧ x.op = 2 ∧ x.elements = 1 ∧ x.plan = p
            ∧ ∃ l, x.locals = [l] ∧ l.raw = [b2n bad] ∧ l.nonfinite = bad)
        ∧ sameBut (.comp :: .stepGuard :: .link :: .streams :: settleParts) s t)
    ∧ (∀ (i : Nat) (h : Header) (b : StepCommitBody), clearStream s i → h.pos < 2 ^ 20 →
      (stream s i).afterBarrier0 = false →
      ∃ t r, exec (.stepCommit i h b) s = .next t ∧ (stream t i).window = [r] ∧ r.life = .done
        ∧ r.status = stDescError ∧ r.detail = 11 ∧ t.step.tag = s.step.tag ∧ t.step.flags = s.step.flags
        ∧ t.step.first = s.step.first ∧ sameBut (.stepGuard :: .streams :: .ring :: settleParts) s t)
    ∧ (∀ (b : Nat) (bad short : Bool) (f : FirstSetter) (c : Commit), b < 4096 → votingCommit s b = some c →
      (bucket s b).use = .vote → voteAgrees (bucket s b) bad short f = true → (bucket s b).askers = [] →
      (∀ o ∈ s.link.waiting, o.bucket ≠ b) → s.link.residuals = [] →
      (∀ x ∈ allRecs s, x.1 = c.stream → x.2.seq = c.seq → ∃ d, x.2.desc = .stepCommit d) →
      let skip := bad || short
      (c.finished = true → skip = false → ∃ t, exec (.voteResult b bad short f) s = .next t ∧ (bucket t b).state = .free
        ∧ t.step.lastValid = s.step.lastValid ∧ t.step.flags = s.step.flags
        ∧ sameBut (.stepGuard :: .link :: .free :: settleParts) s t)
      ∧ (c.finished = false ∨ skip = true → ∃ t, exec (.voteResult b bad short f) s = .next t
        ∧ (bucket t b).state = .free ∧ stepFlag t c.tag = false ∧ t.step.lastOutcome = skip ∧ t.step.lastValid = true
        ∧ t.step.lastTag = c.tag ∧ (∃ k ∈ t.step.commits, k.no = c.no ∧ k.finished = true ∧ (k.committed = true ∨ skip = true))
        ∧ (∀ w, (weight t w).version = (weight s w).version)
        ∧ (∀ r ∈ (stream s c.stream).window, r.seq = c.seq → r.life ≠ .done → ∃ x ∈ (stream t c.stream).window,
          x.seq = c.seq ∧ x.life = .done ∧ x.status = stOK ∧ x.flags.outcome = (r.flags.outcome || skip))
        ∧ (skip = false → (∀ n, let y := slotStat s n; slotStat t n = if y.stagedValid then
            { y with code := y.staged, codeValid := true, staged := 0, stagedValid := false } else y)
          ∧ sameBut (.comp :: .stepGuard :: .link :: .streams :: .free :: settleParts) s t)
        ∧ (skip = true → (Canon SlotStat.empty s.comp.slots →
            ∀ n, slotStat t n = { slotStat s n with staged := 0, stagedValid := false })
          ∧ (∀ j, ∀ r ∈ (stream s j).window, (∃ d, r.desc = .update d) → r.life = .running → r.commitNo = c.no →
            ∃ x ∈ (stream t j).window, x.seq = r.seq ∧ x.life = .done ∧ x.flags.skipped = true)
          ∧ sameBut (.comp :: .stepGuard :: .link :: .streams :: .free :: .ring :: settleParts) s t)))

/-- A stream that holds nothing reads the 64 bytes of its ring's next slot when its produced count is later than its taken count and the slot is not busy: a NOP of the expected phase is complete with the next sequence number, one of the other phase completes with DESC_ERROR, detail PHASE (2), a reserved opcode with detail OPCODE (1), and the taken count goes up by one each time; else nothing is taken. CALL of a valid entry puts the stream in its list, with the entry's address and count, and its record waits as the list's caller; the list's descriptors are then read one after another, whatever their phase, at the caller's slot where slot_en is set and at a position raised by pos_add. The head of a window retires when it is complete, a DEPEND when its waits are met and none is cancelled, a BARRIER when the items it noted have left; with an entry needed and a place in the ring, the 16 bytes of the entry are written to the ring's next slot and the produced count goes up by one; with no place full is set and nothing else moves. A BARRIER of group 0 brings a pending bandwidth split and a pending interlock into force. That a caller's entry follows those of its list, and what a BARRIER notes, are the model's reading (log 41). (R193, R206, R207, R210, R248, R251, R262, R263, R265, R267, 10_command_rings.md) -/
def Obligations.RingsAndLists : Prop :=
  ∀ (s : State) (i : Nat),
    let z := stream s i
    let q := z.seqNext
    (clearStream s i →
      (∀ (h : Header) (b : CallBody) (a n : Nat), cleanMem s → h.pos < 2 ^ 20 → (callEntry b.list 0x10 s).1 = .ok (a, n) →
        ∃ t f, exec (.call i h b) s = .next t ∧ (stream t i).window = [] ∧ (stream t i).calls = [f] ∧ f.addr = a ∧ f.left = n
          ∧ f.slotEn = b.slotEn ∧ f.slot = b.slot ∧ f.posAdd = b.posAdd ∧ f.caller.seq = q ∧ f.caller.hdr = h
          ∧ (stream t i).seqNext = (q + 1) % 2 ^ 32 ∧ (∀ j, j ≠ i → stream t j = stream s j)
          ∧ sameBut (.streams :: settleParts) s t)
      ∧ (ringReady s i = false → ∃ t, exec (.descriptorTake i) s = .next t ∧ sameBut [.phases] s t)
      ∧ (ringReady s i = true → s.host.bad = [] →
        let bs := bytesAt s.host.mem (reg8 s (ringReg i 0) / 4096 * 4096 + 64 * (z.taken % sqSize s i)) 64
        let (op, phase, h) := headerOf bs
        let takes (ps : List Part) (f : Rec → Prop) : Prop := ∃ t r, exec (.descriptorTake i) s = .next t
          ∧ (stream t i).window = [r] ∧ r.seq = q ∧ r.life = .done ∧ f r ∧ (stream t i).taken = (z.taken + 1) % 2 ^ 32
          ∧ (stream t i).seqNext = (q + 1) % 2 ^ 32 ∧ sameBut (ps ++ .streams :: settleParts) s t
        (b2n phase ≠ ringPhase z.taken (sqSize s i) → takes [.ring] (fun r => r.status = stDescError ∧ r.detail = 2))
        ∧ (b2n phase = ringPhase z.taken (sqSize s i) → h.pos < 2 ^ 20 →
          (op = 0 → takes [] (fun r => r.status = stOK ∧ r.hdr = h ∧ r.desc = .nop))
          ∧ (0x11 < op → takes [.ring] (fun r => r.status = stDescError ∧ r.detail = 1 ∧ r.hdr = h)))))
    ∧ (∀ (f : Frame) (n : Nat), i < 64 → cleanMem s → mayTake s i = true → z.window = [] → z.kept = [] → z.calls = [f] →
      f.left = n + 2 → access s f.addr 64 = .ok →
      let (op, _, h) := headerOf (bytesAt s.mem.data f.addr 64)
      op = 0 → h.pos + f.posAdd < 2 ^ 20 →
      ∃ t r, exec (.descriptorTake i) s = .next t ∧ (stream t i).window = [r] ∧ r.seq = q ∧ r.life = .done ∧ r.status = stOK
        ∧ r.hdr = { h with slot := if f.slotEn then f.slot else h.slot, pos := h.pos + f.posAdd }
        ∧ (stream t i).calls = [{ f with addr := f.addr + 64, left := n + 1 }] ∧ (stream t i).taken = z.taken
        ∧ sameBut (.streams :: settleParts) s t)
    ∧ (i < 64 → coreRuns s = false → exec (.descriptorTake i) s = .next s)
    ∧ (∀ (r x : Rec) (l : List Rec), i < 64 → s.host.linkUp = true → z.window = r :: l → (∀ y ∈ l, y.seq ≠ r.seq) →
      let met : Prop := match r.desc, r.snap with
        | .depend ws, _ => ws.any (waitCancelled s) = false ∧ ws.all (waitMet s i r.seq) = true
        | .barrier, some k => ∀ y ∈ k, y ∉ itemsLeft s
        | _, _ => False
      (r.life = .done ∧ x = r ∨ r.life = .waiting ∧ met ∧ x = { r with life := .done, status := stOK, detail := 0, value := 0 }) →
      let zero : Prop := r.desc = .barrier ∧ r.hdr.group = 0
      let moved (t : State) : Prop := (stream t i).window.map (·.seq) = l.map (·.seq)
        ∧ (stream t i).retired = (if r.ring then (z.retired + 1) % 2 ^ 32 else z.retired)
        ∧ (zero → t.host.bwsplit = s.host.bwPending.getD s.host.bwsplit ∧ t.host.bwPending = none
          ∧ t.host.interlock = s.host.interlockPending.getD s.host.interlock ∧ t.host.interlockPending = none
          ∧ sameBut (.comp :: .hostLink :: .streams :: settleParts) s t)
        ∧ (¬ zero → sameBut (.streams :: settleParts) s t)
      let slot := reg8 s (cqReg i 0) / 4096 * 4096 + 16 * (z.cqProduced % cqSize s i)
      (needsEntry x = true → cqFull s i = false → r.hdr.irq = false → ∃ t, exec (.completionEntryWrite i) s = .next t ∧ moved t
        ∧ (stream t i).cqProduced = (z.cqProduced + 1) % 2 ^ 32
        ∧ bytesAt t.host.mem slot 16 = entryBytes x (ringPhase z.cqProduced (cqSize s i)) ∧ storesOnly s t true slot 16)
      ∧ (needsEntry x = false → ∃ t, exec (.completionEntryWrite i) s = .next t ∧ moved t
        ∧ (stream t i).cqProduced = z.cqProduced ∧ ∀ a, ¬ inStatus s a → byteAt t.host.mem a = byteAt s.host.mem a)
      ∧ (needsEntry x = true → cqFull s i = true → r.life = .done →
        ∃ t, exec (.completionEntryWrite i) s = .next t ∧ stream t i = { z with full := true }
          ∧ (∀ j, j ≠ i → stream t j = stream s j) ∧ sameBut [.streams, .phases] s t))
    ∧ (∀ (r : Rec) (l : List Rec), i < 64 → z.window = r :: l → (r.life = .running ∨ r.life = .held ∨ r.life = .stashWait) →
      ∃ t, exec (.completionEntryWrite i) s = .next t ∧ sameBut [.phases] s t)

/-- A pod looks through its items in their order, by priority and then by age, for the first that some clove can take, and hands it to that clove's context: the context holds it, ready, as the newest order, and a unit that served none serves it; a MATMUL item opens its tile, with zeros where nothing is preloaded, SHARED for a shared member and OPEN else. With no item to be taken nothing moves. TILE_WAIT_OPEN does the same for the first item of the order that names the FREE tile and that the tile's clove can take. A pod whose own items cannot be taken steals the last item of its right neighbour's queue of two or more, if that may be stolen and one of its cloves can take it, and the context says so; if none can, it steals nothing. A context switch sets the ready bits it is told; a unit keeps a ready context unless one of priority 3 takes its place, and else turns to the next ready one, counting a change. A shared member whose turn has come adds its values to the tile's words, group by group of the lanes that it loads, becomes a member of the tile and frees its context. A completed MATMUL item adds its values likewise and closes its tile, COMBINING where its reduction is split, and a completed VECOP or SCAN item leaves its operation one part less, complete with the last; each frees its context. How items are numbered and which clove of a pod takes one is the model's reading (log 51). (R76, R77, R70, R79, R80, R196, R199, R200, R201, R203, R204, 08_clove_scheduling.md) -/
def Obligations.Items : Prop :=
  ∀ s : State, cleanMem s →
    let given (t : State) (i : QItem) (p k n : Nat) (stolen : Bool) : Prop :=
      let u := unitOfItem i.kind
      ctxOf t p k = ⟨i, true, false, stolen, s.comp.orderNo + 1, 0⟩
        ∧ servingOf t p u = some ((servingOf s p u).getD k)
        ∧ (∀ r, findRec s i.id.stream i.id.seq = some r →
          (matmulBody r = none → ∀ m, tile t p m = tile s p m)
          ∧ (∀ b, matmulBody r = some b → i.kind ≠ .bwd → (i.kind = .shared → priorOf r i = []) → b.preload < 2 →
            let y := tile t p n
            y.state = (if b.shared then .shared else .open_) ∧ y.words = List.replicate 4096 0 ∧ y.item = i
              ∧ y.stream = i.id.stream ∧ y.owner = i.id.seq ∧ y.pass = b.pass ∧ y.use = .out ∧ y.members = []
              ∧ ∀ m, m ≠ n → tile t p m = tile s p m))
        ∧ sameBut (.comp :: .streams :: settleParts) s t
    let still (c : Instr) : Prop := ∃ t, exec c s = .next t ∧ sameBut [.phases] s t
    let adds (p n : Nat) (r : Rec) (b : MatmulBody) (i : QItem) (y : Tile) : Prop :=
      let (br, bc) := itemBlock b r.tes i.id.n
      let (k0, k1) := chunkRange b r.tes i.id.chunk
      let a := teAt r.tes 0
      let w := teAt r.tes 1
      let g := glenOf b.glen
      let blocks := (List.range ((k1 + 63) / 64)).filterMap (fun k =>
        if k < k0 / 64 then none else some (if b.transB then (bc, k) else (k, bc)))
      ∀ t u v la lb, checkBlocksRead p b r.tes blocks s = (.ok (), t) →
        loadLanes p (portA b a) g br k0 k1 (reqClove p) t = (.ok la, u) →
        loadLanes p (portB b w) g bc k0 k1 (reqClove p) u = (.ok lb, v) →
        y.words = (addProducts (arrayMode b.pass (eFmt a) (eFmt w) (b.kind = 2)) g la lb (tile s p n).words).words
    (∀ q, q < 96 →
      (∀ i h l p k n, handOrder s q = h ++ i :: l → (∀ j ∈ h, takerOf s q j = none) → takerOf s q i = some (p, k, n) →
        (∀ r b, findRec s i.id.stream i.id.seq = some r → matmulBody r = some b → i.kind = .bwd ∨ b.preload < 2) →
        ∃ t, exec (.itemHandout q) s = .next t ∧ given t i p k n false)
      ∧ ((∀ i ∈ handOrder s q, takerOf s q i = none) → still (.itemHandout q))
      ∧ (∀ l i p k, let v := q / 6 * 6 + (q % 6 + 1) % 6
        (∀ j ∈ handOrder s q, takerOf s q j = none) → sget [] s.comp.podQueue v = l ++ [i] → l ≠ [] → mayBeStolen s i = true →
        thiefOf s q i = some (p, k) →
        (∀ r b, findRec s i.id.stream i.id.seq = some r → matmulBody r = some b → i.kind = .bwd ∨ b.preload < 2) →
        ∃ t, exec (.workSteal q) s = .next t ∧ given t i p k i.tile true)
      ∧ (∀ l i, (∀ j ∈ handOrder s q, takerOf s q j = none) →
        sget [] s.comp.podQueue (q / 6 * 6 + (q % 6 + 1) % 6) = l ++ [i] → l ≠ [] → mayBeStolen s i = true →
        thiefOf s q i = none → still (.workSteal q))
      ∧ ((∀ j ∈ handOrder s q, takerOf s q j = none) →
        (∀ d, 1 ≤ d → d ≤ 5 → (sget [] s.comp.podQueue (q / 6 * 6 + (q % 6 + d) % 6)).length < 2) → still (.workSteal q)))
    ∧ (∀ p n, p < 1216 → n < 128 →
      (∀ q z i h l k m, ringPos s p = some (q, z) → tileFree s p n = true → handOrder s q = h ++ i :: l →
        (∀ j ∈ h, namesTile s j n = true → ∀ x, takerOf s q j = some x → x.1 ≠ p) → namesTile s i n = true →
        takerOf s q i = some (p, k, m) →
        (∀ r b, findRec s i.id.stream i.id.seq = some r → matmulBody r = some b → i.kind = .bwd ∨ b.preload < 2) →
        ∃ t, exec (.tileWaitOpen p n) s = .next t ∧ given t i p k m false)
      ∧ (tileFree s p n = false → still (.tileWaitOpen p n))
      ∧ (∀ k c r b, waitingMember s p n = some (k, c, r, b) → c.item.kind ≠ .bwd → b.shared = true →
        itemTile s p r c.item .out = some n → passes (itemProducts p n b r.tes c.item) s = true →
        ∃ t, exec (.sharedMemberAdd p n) s = .next t ∧ ctxOf t p k = Ctx.none
          ∧ (let x := tile s p n
            let y := tile t p n
            adds p n r b c.item y ∧ y.members = x.members ++ [c.item.id.seq] ∧ y.owner = c.item.id.seq
              ∧ y.state = (if b.close then (if 1 < x.splitN then .combining else .closing) else x.state))
          ∧ sameBut (.comp :: .streams :: .stepGuard :: settleParts) s t)
      ∧ (waitingMember s p n = none → still (.sharedMemberAdd p n)))
    ∧ (∀ p u mask, p < 1216 → u < 3 →
      ∃ t, exec (.contextSwitch p u mask) s = .next t ∧ sameBut [.comp, .counters] s t
        ∧ (∀ k, (clove s p).ctx.any (fun x => x.1 == k) = true →
          ctxOf t p k = { ctxOf s p k with ready := bitAt mask k })
        ∧ (∀ k, servingOf s p u = some k → (ctxOf t p k).ready = true →
          (∀ n, nextReady t p u = some n → (ctxOf t p n).item.prio < 3) → servingOf t p u = some k ∧ t.reg = s.reg)
        ∧ (∀ k, servingOf s p u = some k → (ctxOf t p k).ready = false → servingOf t p u = nextReady t p u
          ∧ (∀ n, nextReady t p u = some n → n ≠ k → t.reg = (count (cloveBase p + 0x130) 1 s).reg))
        ∧ (servingOf s p u = none → servingOf t p u = nextReady t p u ∧ t.reg = s.reg))
    ∧ (∀ p k r, p < 1216 → k < 4 →
      let c := ctxOf s p k
      let i := c.item.id.stream
      c.order ≠ 0 → findRec s i c.item.id.seq = some r → r ∈ (stream s i).window → r.life = .running →
      let part (w : MM Unit) : Prop := passes w s = true →
        ∃ t x, exec (.workItemComplete p k) s = .next t ∧ ctxOf t p k = Ctx.none ∧ findRec t i r.seq = some x
          ∧ (1 < r.left → x.life = .running ∧ x.left = r.left - 1)
          ∧ (r.left ≤ 1 → x.life = .done ∧ x.status = stOK ∧ x.left = 0)
          ∧ sameBut (.mem :: .comp :: .streams :: .stepGuard :: .free :: settleParts) s t
      (∀ b, r.desc = .vecop b → part (if vopRow b.vop then vecRow i p r b c.item.id.n else vecBlock i p r b c.item.id.n))
      ∧ (∀ b, r.desc = .scan b → part (if b.mode = 1 then scanFold i p r b else scanChunk i p r b))
      ∧ (∀ b n, r.desc = .matmul b → b.shared = false → c.item.kind ≠ .bwd → itemTile s p r c.item .out = some n →
        passes (itemProducts p n b r.tes c.item) s = true →
        ∃ t, exec (.workItemComplete p k) s = .next t ∧ ctxOf t p k = Ctx.none
          ∧ (let x := tile s p n
            adds p n r b c.item (tile t p n) ∧ (tile t p n).owner = c.item.id.seq
              ∧ (1 < x.splitN → (tile t p n).state = .combining ∧ (clove t p).closing = (clove s p).closing)
              ∧ (x.splitN ≤ 1 → (tile t p n).state = .closing ∧ (clove t p).closing = (clove s p).closing ++ [n]))
          ∧ sameBut (.comp :: .streams :: settleParts) s t))

/-- A member adds the partial sum of its partner, as the left operand, element by element; its tile then starts where the partner's did, is CLOSING once every chunk is in, and the partner's tile is FREE. A FREE tile takes a thief's chunk sum whole, without adding, and the thief's tile is FREE. The drain converter, free, takes the oldest CLOSING tile, converts it once and writes its block, the codes of the pass in the order of the block's sub-tiles, and, for a scaled format, the pass's group codes in its plane, and nothing else. A first pass that does not have to be redrained frees the tile and the converter, with the scale_miss flag exactly when it missed; a miss with AUTO_RETRY keeps the tile and marks the redrain; a miss marks its slot. The redrain, a late pass, writes the block and its group codes again and frees the tile. Which sum a FREE tile takes first is the model's reading (log 126), and so is that a drain which ends after another stream's SCALE_COMMIT counts into the slot as it then is (log 127). With nothing to do, nothing moves. (R76, R84, R85, R87, R88, R103, R117, R118, 05_scaling_and_conversion.md) -/
def Obligations.Tiles : Prop :=
  ∀ (s : State) (p : Nat), cleanMem s → p < 1216 →
    let still (c : Instr) : Prop := ∃ t, exec c s = .next t ∧ sameBut [.phases] s t
    let writes (r : Rec) (b : MatmulBody) (y : Tile) (late : Bool) (t : State) : Prop :=
      let (e, br, bc) := drainTarget r b y
      let m := e.base + blockNo e br bc * blockBytes e
      let g := planeAt e br bc
      let bare : Prop := fmtScaled (eFmt e) = false ∨ plainDrain y = true
      e.timeMajor = false → (fmtScaled (eFmt e) = true → e.glen ≤ 1) →
      (∀ x, (x < m ∨ m + blockBytes e ≤ x) → (bare ∨ x < g.1 ∨ g.1 + g.2 ≤ x) →
        byteAt t.mem.data x = byteAt s.mem.data x)
      ∧ ∀ u v w z saved ys rnds,
        (if plainDrain y then pure () else drainInto r.hdr.tensorId e.fmt b.histBase : MM Unit) s = (.ok (), u) →
        savedWords p r b y br bc u = (.ok saved, v) → drainValues p b y e br bc saved v = (.ok ys, w) →
        drainRandom p r b y e br bc w = (.ok rnds, z) →
        let out := drainPass b y e (drainCode r b e) late rnds ys
        (∀ x, m ≤ x → x < m + blockBytes e → (bare ∨ x < g.1 ∨ g.1 + g.2 ≤ x) →
          byteAt t.mem.data x = (blockBytesOf (eBits e) out.1).getD (x - m) 0#8)
        ∧ (¬ bare → ∀ k, k < out.2.1.length → byteAt t.mem.data (g.1 + k) = BitVec.ofNat 8 (out.2.1.getD k 0))
    (∀ n, n < 128 →
      (∀ a u y, partnerOf s p n = some (a, u, y) → (a, u) ≠ (p, n) →
        let z := tile s p n
        let x := addTiles (sumOf y) (sumOf z)
        let whole := y.lo = 0 ∧ z.hi + 1 = z.splitN
        ∃ t, exec (.combinePartialReceive p n) s = .next t
          ∧ tile t p n = { z with
            words := x.words, sat := x.sat, flush := x.flush, nonfinite := x.nonfinite, lo := y.lo
            order := z.order || y.order, state := if whole then .closing else .combining }
          ∧ (whole → n ∈ (clove t p).closing) ∧ tile t a u = Tile.empty
          ∧ (∀ c m, (c, m) ≠ (p, n) → (c, m) ≠ (a, u) → tile t c m = tile s c m) ∧ sameBut (.comp :: settleParts) s t)
      ∧ (partnerOf s p n = none → still (.combinePartialReceive p n))
      ∧ (∀ a u y, tileFree s p n = true → stolenFor s p n = some (a, u, y) →
        ∃ t, exec (.stolenChunkReceive p n) s = .next t ∧ tile t p n = y ∧ ((a, u) ≠ (p, n) → tile t a u = Tile.empty)
          ∧ (∀ c m, (c, m) ≠ (p, n) → (c, m) ≠ (a, u) → tile t c m = tile s c m) ∧ sameBut (.comp :: settleParts) s t)
      ∧ (tileFree s p n = false ∨ stolenFor s p n = none → still (.stolenChunkReceive p n)))
    ∧ (∀ n l r b, (clove s p).drain = none → (clove s p).closing = n :: l → drainRec s (tile s p n) = some (r, b) →
      let y := tile s p n
      let e := (drainTarget r b y).1
      passes (drainOnce p r b y (startsLate r b e)) s = true →
      ∃ t d, exec (.tileDrain p) s = .next t ∧ (clove t p).drain = some d ∧ d.tile = n ∧ d.redrain = false
        ∧ (d.missOver = true → d.missUnder = false) ∧ (drainCode r b e = none → d.missOver = false ∧ d.missUnder = false)
        ∧ (clove t p).closing = n :: l ∧ (∀ c m, tile t c m = tile s c m) ∧ writes r b y (startsLate r b e) t
        ∧ sameBut (.mem :: .comp :: .free :: settleParts) s t)
    ∧ ((clove s p).drain ≠ none ∨ (clove s p).closing = [] → still (.tileDrain p))
    ∧ (∀ d r b, (clove s p).drain = some d → drainRec s (tile s p d.tile) = some (r, b) →
      let y := tile s p d.tile
      let freed (t : State) : Prop := (clove t p).drain = none ∧ tile t p d.tile = Tile.empty
        ∧ d.tile ∉ (clove t p).closing ∧ ∀ c m, (c, m) ≠ (p, d.tile) → tile t c m = tile s c m
      let miss := d.missOver || d.missUnder
      (d.redrain = false →
        (¬ (miss = true ∧ b.autoRetry = true) → ∃ t, exec (.drainPassEnd p) s = .next t ∧ freed t
          ∧ (slotStat t r.hdr.tensorId).missSeen = ((slotStat s r.hdr.tensorId).missSeen || miss)
          ∧ (r ∈ (stream s y.stream).window → r.life = .running →
            ∃ x, findRec t y.stream r.seq = some x ∧ x.flags.scaleMiss = (r.flags.scaleMiss || miss)
              ∧ (1 < r.left → x.life = .running ∧ x.left = r.left - 1) ∧ (r.left ≤ 1 → x.life = .done ∧ x.status = stOK))
          ∧ (miss = false → sameBut (.comp :: .streams :: .stepGuard :: settleParts) s t)
          ∧ sameBut (.comp :: .streams :: .stepGuard :: .ring :: settleParts) s t)
        ∧ (miss = true → b.autoRetry = true → ∃ t, exec (.drainPassEnd p) s = .next t
          ∧ (clove t p).drain = some { d with redrain := true } ∧ (∀ c m, tile t c m = tile s c m)
          ∧ (slotStat t r.hdr.tensorId).missSeen = true ∧ sameBut (.comp :: .ring :: settleParts) s t)
        ∧ still (.redrainComplete p))
      ∧ (d.redrain = true → still (.drainPassEnd p) ∧ (passes (drainOnce p r b y true) s = true →
        ∃ t, exec (.redrainComplete p) s = .next t ∧ freed t ∧ writes r b y true t
          ∧ sameBut (.mem :: .comp :: .streams :: .stepGuard :: .free :: settleParts) s t)))
    ∧ ((clove s p).drain = none → still (.drainPassEnd p) ∧ still (.redrainComplete p))

/-- The end of a row copy makes its remap entry valid and leaves only poison in the row; where its corrected errors bring no address to the threshold, it takes the copy off the list and no other remap starts. What a copy's errors are, and the layout of rows, is the model's reading (log 24). An expired tracker entry is gone. MEM_INJ of a unit whose block takes writes holds what is written, less its reserved bits. HBM_RETIRE, with its bit 31 set, starts the migration of a channel in service when the reserve is enabled, the stack has fewer than two retirements and none is under way, waits behind one that is, and else marks the channel; the end of a migration makes it RETIRED and leaves every byte below the reserve at its address, where the reserve held none. Alarm 480, when it is the next to fire, opens the window: both passes run, and the alarms of the next opening and of this closing are armed; alarm 481 closes it. A pass that starts or is brought to its rate outside a window sets its forced bit (log 75); a pass that completes counts, and with period 0 the next starts at once. A scrub read clears a single error and tracks its address from 1, and poisons a unit it cannot correct, in SRAM with every other unit of its line. Nothing else moves. (R329, R330, R338, R340, R343, R344, R346, R361, R362, R414, 13_memory_integrity.md) -/
def Obligations.MemoryUpkeep : Prop :=
  ∀ s : State,
    let rings (l : List Part) : List Part := l ++ [.ring, .hostMem, .counters]
    (∀ c, c < 512 →
      (rowCopyOf s c = none → exec (.hbmRowRemapDone c) s = .next s)
      ∧ (∀ row k, rowCopyOf s c = some (c, row, k) →
        let a := hbmPlace (c / 32) (row * 4) (c % 32) 0
        let n := remapKey (0x2000 + c) a
        let bad (x : State) := faultsOf x.mem (0x2000 + c) (fun x => decide (trackedAddr (0x2000 + c) x = a))
        ∃ t, exec (.hbmRowRemapDone c) s = .next t ∧ (∀ f ∈ bad t, f.2 = .poison)
          ∧ t.mem.data = s.mem.data ∧ sameBut (rings [.mem, .safe]) s t
          ∧ ((∀ x ∈ sget [] s.mem.tracker (0x2000 + c), x.addr ≠ a) → (bad s).countP (fun f => decide (f.2 = .single)) < 3 →
            t.mem.rowCopies = s.mem.rowCopies.erase (c, row, k)
            ∧ sget [] t.mem.remap n = (sget [] s.mem.remap n).modify k (fun e => { e with valid := true })
            ∧ sameBut (rings [.mem]) s t))
      ∧ (chState s c ≠ 1 → exec (.hbmMigrationDone c) s = .next s)
      ∧ (chState s c = 1 → ∃ t, exec (.hbmMigrationDone c) s = .next t ∧ chState t c = 2 ∧ c ∈ t.safe.ledger.retired
        ∧ (MemInv s → s.mem.moved = [] → (∀ x ∈ s.mem.data, x.1 < hbmEnd → x.1 % stackSize < liveRows * 8192) →
          ∀ a, a < hbmEnd → a % stackSize < liveRows * 8192 → memBytes t a 1 = memBytes s a 1)
        ∧ sameBut (rings [.mem, .safe]) s t))
    ∧ (∀ u a, isUnit u = true → ∃ t, exec (.trackerEntryExpire u a) s = .next t ∧ sameBut [.mem] s t
      ∧ sget [] t.mem.tracker u = (sget [] s.mem.tracker u).filter (fun x => x.addr != a)
      ∧ (∀ v, v ≠ u → sget [] t.mem.tracker v = sget [] s.mem.tracker v) ∧ t.mem.data = s.mem.data
      ∧ t.mem.faults = s.mem.faults)
    ∧ (∀ u v, isUnit u = true → u < 0x3000 →
      ((hostBlock s = false ∨ injTakes s u = false) → exec (.memInjArm u v) s = .next s)
      ∧ (hostBlock s = true → injTakes s u = true → ∃ t, exec (.memInjArm u v) s = .next t
        ∧ sget 0 t.mem.inj (injKey u) = injBits v ∧ (∀ k, k ≠ injKey u → sget 0 t.mem.inj k = sget 0 s.mem.inj k)
        ∧ t.mem.data = s.mem.data ∧ sameBut [.mem] s t))
    ∧ (∀ v, let c := bitsAt v 8 0
      let room := retiredIn s (c / 32) + (s.mem.migrationWaiting.filter (fun d => d / 32 == c / 32)).length < 2
      let busy := s.mem.chState.any (fun x => decide (x.1 / 32 = c / 32) && decide (x.2 = 1))
      ((hostBlock s = false ∨ bitAt v 31 = false ∨ chState s c ≠ 0 ∨ c ∈ s.mem.migrationWaiting) →
        exec (.hbmRetire v) s = .next s)
      ∧ (hostBlock s = true → bitAt v 31 = true → chState s c = 0 → c ∉ s.mem.migrationWaiting →
        (reserveOn s = true → room → busy = false → ∃ t, exec (.hbmRetire v) s = .next t ∧ chState t c = 1
          ∧ t.mem.data = s.mem.data ∧ sameBut [.mem] s t)
        ∧ (reserveOn s = true → room → busy = true → exec (.hbmRetire v) s
          = .next { s with mem := { s.mem with migrationWaiting := s.mem.migrationWaiting ++ [c] } })
        ∧ ((reserveOn s = false ∨ ¬ room) → ∃ t, exec (.hbmRetire v) s = .next t ∧ chState t c = 0 ∧ c ∈ t.mem.marked
          ∧ 0x2000 + c ∈ t.mem.remapExhausted ∧ t.mem.data = s.mem.data ∧ sameBut (rings [.mem, .safe]) s t)))
    ∧ (almTurn s 480 = false → exec .scrubWindowOpen s = .next s)
    ∧ (almTurn s 480 = true → let m := (almMark s 480).pair
      ∃ t, exec .scrubWindowOpen s = .next t ∧ t.mem.windowOpen = true
        ∧ (∀ h, (passOf t h).running = true ∧ (passOf t h).count = (passOf s h).count)
        ∧ (t.mem.forcedSram, t.mem.forcedHbm) = (s.mem.forcedSram, s.mem.forcedHbm)
        ∧ (winPeriod s ≠ 0 → m + winPeriod s < 2 ^ 64 → m + winLen s < 2 ^ 64 →
          almMark t 480 = ⟨m + winPeriod s, 0⟩ ∧ almArmed t 480 = true
            ∧ almMark t 481 = ⟨m + winLen s, 0⟩ ∧ almArmed t 481 = true)
        ∧ sameBut (rings [.mem, .held, .tally]) s t)
    ∧ (almTurn s 481 = false → exec .scrubWindowClose s = .next s)
    ∧ (almTurn s 481 = true → ∃ t, exec .scrubWindowClose s = .next t ∧ t.mem.windowOpen = false
      ∧ (∀ h, passOf t h = passOf s h)
      ∧ ((passOf s true).running = true → (passOf s true).atRate = true ∨ winPeriod s = 0 → t.mem.forcedHbm = true)
      ∧ ((passOf s false).running = true → (passOf s false).atRate = true ∨ winPeriod s = 0 → t.mem.forcedSram = true)
      ∧ sameBut (rings [.mem, .held, .tally]) s t)
    ∧ (∀ h : Bool,
      let p := passOf s h
      let forced (x : State) : Bool := if h then x.mem.forcedHbm else x.mem.forcedSram
      let moves (c : Instr) (q : Pass) (f : Bool) : Prop := ∃ t, exec c s = .next t ∧ passOf t h = q
        ∧ passOf t (!h) = passOf s (!h) ∧ forced t = f ∧ t.mem.data = s.mem.data ∧ sameBut [.mem] s t
      ((s.power.main = false ∨ p.running = true) → exec (.scrubForcedStart h) s = .next s)
      ∧ (s.power.main = true → p.running = false →
        moves (.scrubForcedStart h) { p with running := true, atRate := false } (forced s || !s.mem.windowOpen))
      ∧ (p.running = false → exec (.scrubForcedRate h) s = .next s)
      ∧ (p.running = true → moves (.scrubForcedRate h) { p with atRate := true } (forced s || !s.mem.windowOpen))
      ∧ (scrubbing s h = false → exec (.scrubPassComplete h) s = .next s)
      ∧ (scrubbing s h = true → let q := { p with running := false, atRate := false, lastMs := nowMs s, count := p.count + 1 }
        (winPeriod s ≠ 0 → moves (.scrubPassComplete h) q (forced s))
        ∧ (winPeriod s = 0 → s.power.main = true →
          moves (.scrubPassComplete h) { q with running := true } (forced s || !s.mem.windowOpen))))
    ∧ (∀ u a, isUnit u = true →
      let on := scrubbing s (decide (0x2000 ≤ u) && decide (u < 0x3000)) && scrubReads s u
      let here (x : State) := faultsOf x.mem u (fun b => decide (b = a))
      let l := sget [] s.mem.tracker u
      (on = false ∨ here s = [] → exec (.scrubRead u a) s = .next s)
      ∧ (∀ f r, on = true → here s = (a, f) :: r →
        (f = .single → l.length < 32 → (∀ x ∈ l, x.addr ≠ trackedAddr u a) →
          ∃ t, exec (.scrubRead u a) s = .next t ∧ here t = []
            ∧ sget [] t.mem.tracker u = l ++ [⟨trackedAddr u a, 1, nowMs s⟩] ∧ t.mem.data = s.mem.data
            ∧ sameBut (rings [.mem]) s t)
        ∧ (f ≠ .single → a % unitBytes u = 0 → ∃ t, exec (.scrubRead u a) s = .next t ∧ here t = [(a, .poison)]
          ∧ (∀ b ∈ poisoned u a, faultsOf t.mem u (fun x => decide (x = b)) = [(b, .poison)]) ∧ t.mem.data = s.mem.data
          ∧ sameBut (rings [.mem]) s t)))

/-- A failed array check (mechanism 1, or 2 for parity), a failed canary (3) and QUAR_REQ (8) quarantine a clove that is not quarantined and whose tile is in service: it holds no ring position, no tile and no item, its slice reads zeros, the ledger keeps it, and the lowest usable spare begins to join its position; nothing outside the slice changes in memory. A spare that holds no ring position and fails its canary is marked failed, and the ledger keeps it. A joining spare takes the ring position and keeps the seed that it was given. A failed canary retires an update engine, and the UPDATEs that it computes for stop with their records IDLE at the old version. A lock-step mismatch takes a tile out of service and aborts every stream with work there; where none of those has an open STEP_COMMIT and nothing waits for a place in a queue, no other stream changes. A clock fault is a safe stop: every enabled stream is aborted with its window dropped, and every enabled port is DOWN. Disagreeing sensors make the governor act on the hotter, which THERM_JMAX shows while it is the hottest of all. A failed adder lane gives way to the spare and marks the bucket NONFINITE; the next failure stops the link tile's adders, and the ledger keeps it. A residue failure of an engine is recorded, and a second within 24 hours retires the engine. With the core clocks stopped, or the check passed, nothing moves. When these checks act (log 83), what a retired engine leaves (log 84), how adder lanes fail (log 85) and that a failed canary of a spare marks it (log 101) are the model's reading. (R18, R19, R68, R354, R355, R356, R357, R359, R360, R363, R368, 14_safety_and_service.md) -/
def Obligations.ServiceInPlace : Prop :=
  ∀ s : State,
    let still (c : Instr) : Prop := ∃ t, exec c s = .next t ∧ sameBut [.phases] s t
    let quarantines (c : Instr) (p mech : Nat) : Prop :=
      ((clove s p).quarantined = true ∨ tileIsOut s (p / 76) = true → ∃ t, exec c s = .next t ∧ sameBut [.phases, .counters] s t)
      ∧ ((clove s p).quarantined = false → tileIsOut s (p / 76) = false → ∃ t, exec c s = .next t
        ∧ (clove t p).quarantined = true ∧ (clove t p).mechanism = mech ∧ (clove t p).seat = .out ∧ ringPos t p = none
        ∧ (Canon Clove.empty s.comp.cloves → (clove t p).tiles = [] ∧ (clove t p).ctx = [])
        ∧ (p, mech) ∈ t.safe.ledger.quarantines
        ∧ (∀ b x, seatOwner s p = some b →
          freeSpare (modClove s p (fun y => { y with quarantined := true })) (p / 76) = some x → (clove t x).joining = some b)
        ∧ (∀ a, byteAt t.mem.data a = if sliceBase p ≤ a ∧ a < sliceBase p + 0x2000000 then 0#8 else byteAt s.mem.data a)
        ∧ sameBut (.mem :: .comp :: .safe :: .streams :: .ring :: settleParts) s t)
    let fails (c : Instr) (p mech : Nat) : Prop := tileIsOut s (p / 76) = false → ∃ t, exec c s = .next t
      ∧ (clove t p).failedSpare = true ∧ (clove t p).quarantined = (clove s p).quarantined ∧ ringPos t p = none
      ∧ (p, mech) ∈ t.safe.ledger.quarantines
      ∧ sameBut (.mem :: .comp :: .safe :: .streams :: .ring :: settleParts) s t
    let retires (c : Instr) (n : Nat) : Prop := ∃ t, exec c s = .next t ∧ n ∈ t.comp.updateOut ∧ n ∈ t.safe.ledger.enginesOut
      ∧ (∀ w, usesEngine s n w = true → (weight s w).updates ≠ [] → (weight t w).state = 0 ∧ (weight t w).held = []
        ∧ (weight t w).version = (weight s w).version)
      ∧ sameBut (.mem :: .comp :: .safe :: .stepGuard :: .streams :: .ring :: .free :: settleParts) s t
    (∀ p, p < 1216 →
      (∀ par : Bool, coreRuns s = true → quarantines (.arrayFault p par) p (if par then 2 else 1))
      ∧ (∀ par : Bool, coreRuns s = false → still (.arrayFault p par))
      ∧ (canariesOn s = true → canaryClove s p = true →
        ((seatOwner s p).isSome = true → quarantines (.canaryRun false p false) p 3) ∧ (seatOwner s p = none → fails (.canaryRun false p false) p 3))
      ∧ (hostBlock s = true → cloveTakes s p = true → canaryClove s p = true →
        ((seatOwner s p).isSome = true → quarantines (.canaryNow p false) p 3) ∧ (seatOwner s p = none → fails (.canaryNow p false) p 3))
      ∧ still (.canaryRun false p true) ∧ still (.canaryNow p true)
      ∧ (hostBlock s = false → exec (.canaryNow p false) s = .next s)
      ∧ (∀ b, coreRuns s = true → tileIsOut s (p / 76) = false → (clove s p).joining = some b →
        ∃ t, exec (.spareJoin p) s = .next t ∧ (clove t p).seat = .replacing b ∧ (clove t p).joining = none
          ∧ (clove t p).seed = (clove s p).seed ∧ ringPos t p = builtPos b ∧ (clove t p).tiles = []
          ∧ sameBut [.mem, .comp, .ring, .hostMem, .counters, .free] s t)
      ∧ ((coreRuns s = false ∨ (clove s p).joining = none) → exec (.spareJoin p) s = .next s))
    ∧ (∀ v, hostBlock s = true → bitAt v 31 = true → bitsAt v 10 0 < 1216 → quarantines (.quarReq v) (bitsAt v 10 0) 8)
    ∧ (∀ v, (hostBlock s = false ∨ bitAt v 31 = false) → exec (.quarReq v) s = .next s)
    ∧ (∀ n, n < 16 →
      (canariesOn s = true → coreRuns s = true → n ∉ s.comp.updateOut → tileIsOut s n = false →
        retires (.canaryRun true n false) n)
      ∧ still (.canaryRun true n true)
      ∧ (coreRuns s = true → tileIsOut s n = false → enginesArmed s → ∃ t, exec (.lockstepMismatch n) s = .next t
        ∧ tileIsOut t n = true ∧ (n, 4) ∈ t.safe.ledger.tilesOut
        ∧ (allCut s → ∀ j, stream t j = stream s j ∨ j ∈ streamsOn s n ∧ (stream t j).state = .aborted
          ∨ ∃ c ∈ s.step.commits, c.finished = false ∧ c.stream ∈ streamsOn s n)
        ∧ sameBut (.comp :: .stepGuard :: .link :: .safe :: .streams :: .ring :: settleParts) s t)
      ∧ ((coreRuns s = false ∨ tileIsOut s n = true) → enginesArmed s → still (.lockstepMismatch n))
      ∧ (∀ w, w < 4096 →
        (coreRuns s = false ∨ usesEngine s n w = false → still (.updateResidueFault n w))
        ∧ (coreRuns s = true → usesEngine s n w = true →
          let again := s.safe.ledger.residues.any (fun x => x.1 == n && decide (stewardMs s < x.2 + 86400000))
          (again = false → ∃ t, exec (.updateResidueFault n w) s = .next t
            ∧ t.safe.ledger.residues = s.safe.ledger.residues ++ [(n, stewardMs s)] ∧ sameBut [.safe, .phases] s t)
          ∧ (again = true → n ∉ s.comp.updateOut → retires (.updateResidueFault n w) n))))
    ∧ (∀ n, n < 24 →
      (coreRuns s = false → exec (.clockFault n) s = .next s)
      ∧ (coreRuns s = true → ∃ t, exec (.clockFault n) s = .next t ∧ t.safe.stop = true ∧ t.safe.clockFault = true
        ∧ (∀ j, (stream s j).state ≠ .disabled → (stream t j).state = .aborted ∧ (stream t j).window = [])
        ∧ (∀ k, (port t k).state = if (port s k).state = 0 then 0 else 1)
        ∧ sameBut (.comp :: .stepGuard :: .link :: .safe :: .streams :: .ports :: .ring :: settleParts) s t))
    ∧ (∀ die hot, die < 64 →
      (s.power.main = false → exec (.tempDisagree die hot) s = .next s)
      ∧ (s.power.main = true → ∃ t, exec (.tempDisagree die hot) s = .next t ∧ t.safe.tempDisagree = true
        ∧ t.power.jmax = max s.power.jmax hot ∧ t.power.jdie = (if s.power.jmax ≤ hot then die else s.power.jdie)
        ∧ (hot < 420 → t.power.allowed = s.power.allowed ∧ sameBut [.safe, .power] s t)
        ∧ (420 ≤ hot → t.power.thermal = true ∧ t.power.allowed ≤ max clockMin (s.power.allowed - 1))))
    ∧ (∀ k l b, k < 8 → l < 9 → b < 4096 →
      let m := adderLanes s k
      (coreRuns s = false ∨ k ∈ s.link.addStopped ∨ bitAt m l = false → exec (.linkAdderResidueFault k l b) s
        = .next s ∨ still (.linkAdderResidueFault k l b))
      ∧ (coreRuns s = true → k ∉ s.link.addStopped → bitAt m l = true →
        (m = 0xFF → ∃ t, exec (.linkAdderResidueFault k l b) s = .next t ∧ adderLanes t k = 0xFF - 2 ^ l + 2 ^ 8
          ∧ ((bucket s b).state ≠ .free → (bucket t b).nonfinite = true) ∧ (∀ c, c ≠ b → bucket t c = bucket s c)
          ∧ sameBut (.link :: settleParts) s t)
        ∧ (m ≠ 0xFF → ∃ t, exec (.linkAdderResidueFault k l b) s = .next t ∧ k ∈ t.link.addStopped ∧ k ∈ t.safe.ledger.linksOut
          ∧ adderLanes t k = m - 2 ^ l ∧ t.safe.linkAddOut = s.safe.linkAddOut ||| 2 ^ k)))

/-- A write of UCODE_CTRL.go checks the image at UCODE_ADDR: an image that passes and whose version is not below the running one is pending, any other sets FAILED; while an image is checked or pending the write does nothing. Tiles that wait at a BARRIER load it once their contexts are empty, and with the last of them the version is the image's and the status DONE. STEWARD_IMG.switch restarts the steward once no boost window is open; it comes back in the other slot, at the version of the image there, the one known or a new image's, of at least the fused minimum (a free choice: assumption 121), or in its own with fallback set. BIST starts only on a clove that holds no ring position, quarantined or not (log 135); its end wipes the clove and reports its result, and a spare not in use that fails becomes a failed spare that the ledger keeps. MBIST starts only on a RETIRED channel or while every stream is DISABLED, and is refused otherwise; a channel that is not RETIRED is wiped as it starts, requests waiting for its end (log 131); its end remaps failing rows as far as entries are free, and marks the channel, with MEM_CE, when rows are left. (What an image, a BIST and an MBIST find is the model's input: assumptions 10 and 19; when a microcode image is loaded and what a BIST keeps are assumptions 86 and 87.) (R342, R365, R366, R414, R435, R436, 18_production_test.md) -/
def Obligations.StewardAndTests : Prop :=
  ∀ s : State,
    (stewardTakes s = false → exec .ucodeGo s = .next s ∧ exec .stewardSwitch s = .next s)
    ∧ (stewardTakes s = true →
      ((s.safe.steward.ucodeStatus = 1 ∨ s.safe.steward.ucodeStatus = 2) → exec .ucodeGo s = .next s)
      ∧ (s.safe.steward.ucodeStatus ≠ 1 → s.safe.steward.ucodeStatus ≠ 2 → ∃ t, exec .ucodeGo s = .next t
        ∧ (∀ v, Config.ucodeImage s.free (reg8 s (safeBase + 0xC0)) = some v → s.safe.steward.ucodeVersion ≤ v →
          t.safe.steward = { s.safe.steward with ucodeStatus := 2, ucodePending := some v })
        ∧ ((∀ v, Config.ucodeImage s.free (reg8 s (safeBase + 0xC0)) = some v → v < s.safe.steward.ucodeVersion) →
          t.safe.steward = { s.safe.steward with ucodeStatus := 4 })
        ∧ sameBut [.safe, .free] s t)
      ∧ (∃ t, exec .stewardSwitch s = .next t ∧ t.safe.steward =
          (if s.power.boost.opened then { s.safe.steward with switchReq := true }
           else { s.safe.steward with restarting := true, switchReq := false }) ∧ sameBut [.safe] s t))
    ∧ ((coreRuns s = false ∨ s.comp.ucodeWait = []) → exec .ucodeApply s = .next s)
    ∧ (coreRuns s = true → s.comp.ucodeWait ≠ [] →
      ((∀ n ∈ s.comp.ucodeWait, tileBusy s n = false) → ∃ t, exec .ucodeApply s = .next t ∧ t.comp.ucodeWait = []
        ∧ t.safe.steward = { s.safe.steward with
            ucodeStatus := 3, ucodeVersion := s.safe.steward.ucodePending.getD s.safe.steward.ucodeVersion
            ucodeStored := some (s.safe.steward.ucodePending.getD s.safe.steward.ucodeVersion)
            ucodePending := none }
        ∧ sameBut [.comp, .safe] s t)
      ∧ (∀ n ∈ s.comp.ucodeWait, tileBusy s n = true → ∃ t, exec .ucodeApply s = .next t ∧ n ∈ t.comp.ucodeWait
        ∧ (∀ k ∈ t.comp.ucodeWait, k ∈ s.comp.ucodeWait ∧ tileBusy s k = true) ∧ sameBut [.comp] s t))
    ∧ (∀ ok : Bool,
      (s.safe.steward.restarting = false → exec (.stewardRestartDone ok) s = .next s)
      ∧ (s.safe.steward.restarting = true → ∃ t, exec (.stewardRestartDone ok) s = .next t
        ∧ (ok = false → t.safe.steward = { s.safe.steward with restarting := false, fallback := true } ∧ sameBut [.safe] s t)
        ∧ (ok = true → (∃ v, (v = (if s.safe.steward.slot = 1 then s.safe.steward.verA else s.safe.steward.verB)
              ∨ Config.fwMinimum.toNat ≤ v ∧ v < 2 ^ 16) ∧ t.safe.steward = { s.safe.steward with
            restarting := false, slot := 1 - s.safe.steward.slot, fallback := false
            verA := if s.safe.steward.slot = 1 then v else s.safe.steward.verA
            verB := if s.safe.steward.slot = 0 then v else s.safe.steward.verB }) ∧ sameBut [.safe, .free] s t)))
    ∧ (∀ p, p < 1216 →
      ((hostBlock s = false ∨ ringPos s p ≠ none ∨ (clove s p).joining ≠ none ∨ (clove s p).bist.busy = true) →
        exec (.clvBistGo p) s = .next s)
      ∧ (hostBlock s = true → ringPos s p = none → (clove s p).joining = none → (clove s p).bist.busy = false →
        ∃ t, exec (.clvBistGo p) s = .next t
          ∧ clove t p = { clove s p with bist := { (clove s p).bist with busy := true } }
          ∧ (∀ q, q ≠ p → clove t q = clove s q) ∧ sameBut [.comp] s t)
      ∧ (∀ fail, fail < 16 →
        ((coreRuns s = false ∨ (clove s p).bist.busy = false) → exec (.clvBistDone p fail) s = .next s)
        ∧ (coreRuns s = true → (clove s p).bist.busy = true → ∃ t, exec (.clvBistDone p fail) s = .next t
          ∧ (clove t p).bist = ⟨false, decide (fail = 0), false, fail⟩ ∧ (clove t p).tiles = [] ∧ (clove t p).scaleFile = []
          ∧ (clove t p).seed = resetSeed ∧ (clove t p).quarantined = (clove s p).quarantined
          ∧ (∀ a, byteAt t.mem.data a = if sliceBase p ≤ a ∧ a < sliceBase p + 0x2000000 then 0#8 else byteAt s.mem.data a)
          ∧ (fail = 0 → (clove t p).failedSpare = (clove s p).failedSpare ∧ t.safe = s.safe)
          ∧ (fail ≠ 0 → 72 ≤ p % 76 → (clove s p).seat = .asBuilt → (clove s p).quarantined = false →
            (clove s p).failedSpare = false → (clove t p).failedSpare = true ∧ p ∈ t.safe.ledger.failedSpares)
          ∧ (∀ q, q ≠ p → clove t q = clove s q) ∧ sameBut [.mem, .comp, .safe] s t)))
    ∧ (∀ c, c < 512 →
      ((hostBlock s = false ∨ (mbistOf s c).busy = true) → exec (.hbmMbistGo c) s = .next s)
      ∧ (hostBlock s = true → (mbistOf s c).busy = false → ∃ t, exec (.hbmMbistGo c) s = .next t
        ∧ mbistOf t c = (if chState s c = 2 ∨ streamsOff s = true then { mbistOf s c with busy := true }
            else { mbistOf s c with refused := true })
        ∧ (∀ d, d ≠ c → mbistOf t d = mbistOf s d)
        ∧ (chState s c = 2 ∨ streamsOff s = false → sameBut [.test] s t)
        ∧ (chState s c ≠ 2 → streamsOff s = true → (∀ a, byteAt t.mem.data a =
            if a < hbmEnd ∧ chanOf a = c then 0#8 else byteAt s.mem.data a) ∧ sameBut [.mem, .test] s t))
      ∧ (∀ rows : List Nat,
        ((coreRuns s = false ∨ (mbistOf s c).busy = false) → exec (.hbmMbistDone c rows) s = .next s)
        ∧ (coreRuns s = true → (mbistOf s c).busy = true →
          let held := sget [] s.mem.remap (remapKey (0x2000 + c) 0)
          ∃ t, exec (.hbmMbistDone c rows) s = .next t
            ∧ mbistOf t c = ⟨false, rows.isEmpty, (mbistOf s c).refused, min 255 rows.length⟩
            ∧ sget [] t.mem.remap (remapKey (0x2000 + c) 0) = (held ++ rows.map (fun r => Remap.mk r true 1)).take 8
            ∧ t.mem.data = s.mem.data ∧ (rows.length ≤ 8 - held.length → t.mem.marked = s.mem.marked ∧ sameBut [.mem, .test] s t)
            ∧ (8 - held.length < rows.length → c ∈ t.mem.marked ∧ c ∈ t.safe.ledger.marked
              ∧ sameBut (.mem :: .test :: .safe :: eventParts) s t))))

/-- A strobe copies every counter, timer and phase record in one tick; the copy becomes readable all at once when it is distributed, and the previous one is read until then. With clear the live counters then return to zero, overflow bits stand, and an occurrence after the strobe is kept; a strobe while one is distributed joins it, its clear with it. While the steward restarts, the copies of the governor's counters stand. The automatic strobe does the same without clear when a period is set. A register write of fewer than 4 bytes, one not aligned to its size, and one that no block covers do nothing; held fields take the written value and reserved ones do not; each 1 clears an overflow bit; a 4-byte write of a 64-bit register writes that half alone, an 8-byte write the whole. Which registers stand while the steward restarts (log 72), that the safety block takes no write in safe stop (log 89) and the stamp of a strobe and of one that joins it (log 91) are the model's reading. (R413, R416) (R9, R10, R412, R413, R415, R416, 17_register_reference.md) -/
def Obligations.Registers : Prop :=
  ∀ s : State,
    let joins (c : Instr) (clear : Bool) : Prop := s.reg.snap.busy = true →
      ((clear = false ∨ s.reg.snap.clear = true) → exec c s = .next s)
      ∧ (clear = true → s.reg.snap.clear = false → s.safe.steward.restarting = false → Canon 0 s.reg.ctr →
        ∃ t, exec c s = .next t ∧ (∀ x, sget 0 t.reg.ctr x = sget 0 s.reg.ctr x - sget 0 s.reg.nextCopy x)
          ∧ t.reg.snap = { s.reg.snap with clear := true } ∧ t.reg.copy = s.reg.copy ∧ t.reg.nextCopy = s.reg.nextCopy
          ∧ t.reg.ovf = s.reg.ovf ∧ sameBut [.counters, .copies] s t)
    let strobes (c : Instr) (auto clear : Bool) : Prop := s.reg.snap.busy = false → ∃ t, exec c s = .next t
      ∧ t.reg.snap = ⟨true, clear, t.tally.now.pair, t.tally.now.frac, tstateCode t.tally.state, auto,
          (s.reg.snap.seq + 1) % 2 ^ 32⟩
      ∧ t.tally.nowHi = t.tally.now.pair / 2 ^ 32 ∧ t.tally.nowFrac = t.tally.now.frac
      ∧ t.reg.phaseNext = s.reg.phase ∧ t.reg.copy = s.reg.copy ∧ t.reg.phaseCopy = s.reg.phaseCopy
      ∧ (s.safe.steward.restarting = false → t.reg.nextCopy = s.reg.ctr)
      ∧ (s.safe.steward.restarting = true → Canon 0 s.reg.ctr → Canon 0 s.reg.copy →
        ∀ x, sget 0 t.reg.nextCopy x = sget 0 (if govCounter x = true then s.reg.copy else s.reg.ctr) x)
      ∧ (clear = false → t.reg.ctr = s.reg.ctr)
      ∧ (clear = true → s.safe.steward.restarting = false → Canon 0 s.reg.ctr → t.reg.ctr = [])
      ∧ t.reg.ovf = s.reg.ovf ∧ sameBut [.counters, .copies, .tally] s t
    (hostBlock s = false → ∀ clear a size v, exec (.glbSnapStrobe clear) s = .next s ∧ exec (.registerWrite a size v) s = .next s)
    ∧ (hostBlock s = true → ∀ clear, joins (.glbSnapStrobe clear) clear ∧ strobes (.glbSnapStrobe clear) false clear)
    ∧ ((snapPeriod s = 0 ∨ started s = false) → exec .autoSnapshot s = .next s)
    ∧ (snapPeriod s ≠ 0 → started s = true → joins .autoSnapshot false ∧ strobes .autoSnapshot true false)
    ∧ (s.reg.snap.busy = false → exec .snapshotDistributed s = .next s)
    ∧ (s.reg.snap.busy = true → ∃ t, exec .snapshotDistributed s = .next t
      ∧ t.reg = { s.reg with
          copy := s.reg.nextCopy, phaseCopy := s.reg.phaseNext, snap := { s.reg.snap with busy := false } }
      ∧ sameBut [.copies] s t)
    ∧ (hostBlock s = true → ∀ v, v < 2 ^ 32 →
      (∀ a size, (size < 4 ∨ 4 < size ∧ size < 8 ∨ size = 4 ∧ a % 4 ≠ 0 ∨ 8 ≤ size ∧ a % 8 ≠ 0) →
        exec (.registerWrite a size v) s = .next s)
      ∧ (∀ a, (0x20000 ≤ a ∧ a < 0x100000 ∨ 0x2300000 ≤ a ∧ a < 0x3000000 ∨ 0x3804000 ≤ a) →
        exec (.registerWrite a 4 v) s = .next s)
      ∧ (∀ x ∈ [(hostBase, 0x3), (hostBase + 0x18, 0xFFFF), (hostBase + 0x3004, 0xFFFFF), (tallyBase + 8, 0xFFFFF),
          (tallyBase + 0x34, 0x3F), (linkBase 0 + 0x28, 0xFFFFFFFF)] ++ (List.range 48).map (fun p => (portBase p + 8, 0x3FFFFF)),
        ∃ t, exec (.registerWrite x.1 4 v) s = .next t ∧ reg4 t x.1 = v &&& x.2
          ∧ (∀ b, b ≠ x.1 → reg4 t b = reg4 s b) ∧ sameBut [.held] s t)
      ∧ (∀ a ∈ [hostBase + 0x5C, tallyBase + 0x5C, safeBase + 0x70],
        ∃ t, exec (.registerWrite a 4 v) s = .next t ∧ sget 0 t.reg.ovf a = sget 0 s.reg.ovf a - (sget 0 s.reg.ovf a &&& v)
          ∧ (∀ b, b ≠ a → sget 0 t.reg.ovf b = sget 0 s.reg.ovf b) ∧ t.reg.ctr = s.reg.ctr ∧ sameBut [.counters] s t)
      ∧ (∃ t, exec (.registerWrite (hostBase + 8) 4 v) s = .next t
        ∧ reg8 t (hostBase + 8) = (reg8 s (hostBase + 8) / 2 ^ 32 * 2 ^ 32 + v) &&& (2 ^ 64 - 2 ^ 10) ∧ sameBut [.held] s t)
      ∧ (∃ t, exec (.registerWrite (hostBase + 12) 4 v) s = .next t
        ∧ reg8 t (hostBase + 8) = (reg8 s (hostBase + 8) % 2 ^ 32 + 2 ^ 32 * v) &&& (2 ^ 64 - 2 ^ 10) ∧ sameBut [.held] s t)
      ∧ (∀ w, w < 2 ^ 64 → ∃ t, exec (.registerWrite (hostBase + 8) 8 w) s = .next t
        ∧ reg8 t (hostBase + 8) = w &&& (2 ^ 64 - 2 ^ 10) ∧ sameBut [.held] s t))

/-- Elements narrower than 8 bits are packed two to a byte: element 2i occupies bits [3:0] of byte i, and element 2i + 1 bits [7:4]. Elements of 16 or 32 bits are little-endian. Packing codes and reading them back gives the codes. (R27) -/
def Obligations.PackedElements : Prop :=
  (∀ (b : List Byte) (i : Nat), i < b.length →
      (unpackCodes 4 b).getD (2 * i) 0 = bitsAt (b.getD i 0#8).toNat 3 0
        ∧ (unpackCodes 4 b).getD (2 * i + 1) 0 = bitsAt (b.getD i 0#8).toNat 7 4)
    ∧ (∀ (b : List Byte) (w k : Nat), w = 2 ∨ w = 4 → (k + 1) * w ≤ b.length →
      (unpackCodes (8 * w) b).getD k 0 = leNat ((b.drop (w * k)).take w))
    ∧ ∀ s ∈ [4, 8, 16, 32], ∀ cs : List Nat, (∀ c ∈ cs, c < 2 ^ s) →
      (unpackCodes s (packCodes s cs)).take cs.length = cs ∧ (packCodes s cs).length = (cs.length * s + 7) / 8

/-- A step of a state with a command at the front of its queue is exec of that command on the state with the queue's rest; on an empty queue it is one tick of the reference clock, which is the model's choice (assumption 2). (R3, 00_scope.md) -/
def Obligations.QueueStep : Prop :=
  (∀ (s : State) (c : Instr) (rest : List Instr), s.pending = c :: rest → step s = exec c { s with pending := rest })
    ∧ ∀ s : State, s.pending = [] → step s = .next (tick s)

/-- The memories of the state after reset are in canonical form, they list nothing, and no command waits. (The contents of memory at reset: R347; that nothing waits and that host memory is empty is the model's choice, assumptions 2 and 5.) (R347, 13_memory_integrity.md) -/
def Obligations.ResetMemInv : Prop :=
  MemInv State.reset ∧ (∀ a, byteAt State.reset.mem.data a = 0#8) ∧ State.reset.pending = []

/-- From every state whose two memories are in canonical form, a step that answers a next state gives one whose memories are again, and takes at most the command at the front from the queue. (R16, R347, 13_memory_integrity.md) -/
def Obligations.StepKeepsMemInv : Prop :=
  ∀ s t : State, MemInv s → step s = .next t → MemInv t ∧ t.pending = s.pending.tail

/-- A well-formed command answers a next state from every state; a command that names a unit beyond those the module has (R7) faults with noSuchUnit; no command is refused. (R7, 00_scope.md) -/
def Obligations.CommandsComplete : Prop :=
  ∀ (i : Instr) (s : State),
    (wellFormed i = true → ∃ t, exec i s = .next t)
    ∧ ((∃ u ∈ Sys2Proof.Laws.UnitsExist.units i, u.1 ≤ u.2) → exec i s = .fault .noSuchUnit)
    ∧ ∀ r, exec i s ≠ .refused r
end

