-- ==== Sys2Proof/Laws/Sparse.lean ====
section
/-! SUPPORT. Sparse collections: what a read after a write gives, and the canonical form every write keeps. -/

namespace Sys2Proof.Machine

variable {α : Type}

theorem find_filter_key (p : Nat → Bool) (l : List (Nat × α)) (k : Nat) :
    (l.filter (fun x => p x.1)).find? (fun x => x.1 == k) = if p k then l.find? (fun x => x.1 == k) else none := by
  induction l with
  | nil => simp
  | cons x l ih =>
    by_cases hx : x.1 = k
    · subst hx
      cases hp : p x.1
      · simpa [hp] using ih
      · simp [hp]
    · cases hp : p x.1 <;> simp_all

/-- A read of the number written gives the value written. -/
theorem sget_sset_same [DecidableEq α] (d : α) (l : Sparse α) (k : Nat) (v : α) : sget d (sset d l k v) k = v := by
  unfold sget sset
  rw [List.find?_append, List.find?_append, find_filter_key (fun n => decide (n < k)),
    find_filter_key (fun n => decide (k < n))]
  by_cases hv : v = d <;> simp [hv]

/-- A read of another number gives what it gave. -/
theorem sget_sset_other [DecidableEq α] (d e : α) (l : Sparse α) {k j : Nat} (v : α) (h : j ≠ k) :
    sget e (sset d l k v) j = sget e l j := by
  unfold sget sset
  rw [List.find?_append, List.find?_append, find_filter_key (fun n => decide (n < k)),
    find_filter_key (fun n => decide (k < n))]
  have hv : (if v = d then [] else [(k, v)]).find? (fun x => x.1 == j) = none := by
    split <;> simp [Ne.symm h]
  rw [hv]
  rcases Nat.lt_or_gt_of_ne h with h1 | h1
  · simp [h1, Nat.not_lt.mpr (Nat.le_of_lt h1)]
  · simp [h1, Nat.not_lt.mpr (Nat.le_of_lt h1)]

/-- Every write keeps the canonical form. -/
theorem canon_sset [DecidableEq α] {d : α} {l : Sparse α} (k : Nat) (v : α) (h : Canon d l) : Canon d (sset d l k v) := by
  obtain ⟨hp, hd⟩ := h
  refine ⟨?_, ?_⟩
  · unfold sset
    rw [List.pairwise_append, List.pairwise_append]
    refine ⟨⟨hp.filter _, ?_, ?_⟩, hp.filter _, ?_⟩
    · split <;> simp
    · intro a ha b hb
      split at hb <;> simp_all
    · intro a ha b hb
      simp only [List.mem_append, List.mem_filter, decide_eq_true_eq] at ha hb
      rcases ha with ha | ha
      · omega
      · split at ha <;> simp_all
  · intro p hp'
    unfold sset at hp'
    simp only [List.mem_append, List.mem_filter] at hp'
    rcases hp' with (h1 | h1) | h1
    · exact hd p h1.1
    · split at h1 <;> simp_all
    · exact hd p h1.1

theorem canon_smod [DecidableEq α] {d : α} {l : Sparse α} (k : Nat) (f : α → α) (h : Canon d l) : Canon d (smod d l k f) :=
  canon_sset k _ h

theorem canon_nil (d : α) : Canon d ([] : Sparse α) := ⟨List.Pairwise.nil, fun _ h => nomatch h⟩

theorem canon_filter {d : α} {l : Sparse α} (p : Nat × α → Bool) (h : Canon d l) : Canon d (l.filter p) :=
  ⟨h.1.filter p, fun x hx => h.2 x (List.mem_filter.mp hx).1⟩

end Sys2Proof.Machine
end

