-- ==== Sys2Proof/Laws/State.lean ====
section
/-! SUPPORT. What each update of the state leaves and gives, one field at a time. -/

namespace Sys2Proof.Machine

/-! ### Parts of the state -/

@[simp] theorem modMem_pending (s : State) (f : MemSt → MemSt) : (modMem s f).pending = s.pending := rfl
@[simp] theorem modMem_resp (s : State) (f : MemSt → MemSt) : (modMem s f).resp = s.resp := rfl
@[simp] theorem modMem_free (s : State) (f : MemSt → MemSt) : (modMem s f).free = s.free := rfl
@[simp] theorem modMem_time (s : State) (f : MemSt → MemSt) : (modMem s f).time = s.time := rfl
@[simp] theorem modMem_mem (s : State) (f : MemSt → MemSt) : (modMem s f).mem = f s.mem := rfl
@[simp] theorem modMem_reg (s : State) (f : MemSt → MemSt) : (modMem s f).reg = s.reg := rfl
@[simp] theorem modMem_host (s : State) (f : MemSt → MemSt) : (modMem s f).host = s.host := rfl
@[simp] theorem modMem_comp (s : State) (f : MemSt → MemSt) : (modMem s f).comp = s.comp := rfl
@[simp] theorem modMem_step (s : State) (f : MemSt → MemSt) : (modMem s f).step = s.step := rfl
@[simp] theorem modMem_tally (s : State) (f : MemSt → MemSt) : (modMem s f).tally = s.tally := rfl
@[simp] theorem modMem_ports (s : State) (f : MemSt → MemSt) : (modMem s f).ports = s.ports := rfl
@[simp] theorem modMem_link (s : State) (f : MemSt → MemSt) : (modMem s f).link = s.link := rfl
@[simp] theorem modMem_safe (s : State) (f : MemSt → MemSt) : (modMem s f).safe = s.safe := rfl
@[simp] theorem modMem_power (s : State) (f : MemSt → MemSt) : (modMem s f).power = s.power := rfl
@[simp] theorem modMem_test (s : State) (f : MemSt → MemSt) : (modMem s f).test = s.test := rfl

@[simp] theorem modReg_pending (s : State) (f : RegSt → RegSt) : (modReg s f).pending = s.pending := rfl
@[simp] theorem modReg_resp (s : State) (f : RegSt → RegSt) : (modReg s f).resp = s.resp := rfl
@[simp] theorem modReg_free (s : State) (f : RegSt → RegSt) : (modReg s f).free = s.free := rfl
@[simp] theorem modReg_time (s : State) (f : RegSt → RegSt) : (modReg s f).time = s.time := rfl
@[simp] theorem modReg_mem (s : State) (f : RegSt → RegSt) : (modReg s f).mem = s.mem := rfl
@[simp] theorem modReg_reg (s : State) (f : RegSt → RegSt) : (modReg s f).reg = f s.reg := rfl
@[simp] theorem modReg_host (s : State) (f : RegSt → RegSt) : (modReg s f).host = s.host := rfl
@[simp] theorem modReg_comp (s : State) (f : RegSt → RegSt) : (modReg s f).comp = s.comp := rfl
@[simp] theorem modReg_step (s : State) (f : RegSt → RegSt) : (modReg s f).step = s.step := rfl
@[simp] theorem modReg_tally (s : State) (f : RegSt → RegSt) : (modReg s f).tally = s.tally := rfl
@[simp] theorem modReg_ports (s : State) (f : RegSt → RegSt) : (modReg s f).ports = s.ports := rfl
@[simp] theorem modReg_link (s : State) (f : RegSt → RegSt) : (modReg s f).link = s.link := rfl
@[simp] theorem modReg_safe (s : State) (f : RegSt → RegSt) : (modReg s f).safe = s.safe := rfl
@[simp] theorem modReg_power (s : State) (f : RegSt → RegSt) : (modReg s f).power = s.power := rfl
@[simp] theorem modReg_test (s : State) (f : RegSt → RegSt) : (modReg s f).test = s.test := rfl

@[simp] theorem modHost_pending (s : State) (f : HostSt → HostSt) : (modHost s f).pending = s.pending := rfl
@[simp] theorem modHost_resp (s : State) (f : HostSt → HostSt) : (modHost s f).resp = s.resp := rfl
@[simp] theorem modHost_free (s : State) (f : HostSt → HostSt) : (modHost s f).free = s.free := rfl
@[simp] theorem modHost_time (s : State) (f : HostSt → HostSt) : (modHost s f).time = s.time := rfl
@[simp] theorem modHost_mem (s : State) (f : HostSt → HostSt) : (modHost s f).mem = s.mem := rfl
@[simp] theorem modHost_reg (s : State) (f : HostSt → HostSt) : (modHost s f).reg = s.reg := rfl
@[simp] theorem modHost_host (s : State) (f : HostSt → HostSt) : (modHost s f).host = f s.host := rfl
@[simp] theorem modHost_comp (s : State) (f : HostSt → HostSt) : (modHost s f).comp = s.comp := rfl
@[simp] theorem modHost_step (s : State) (f : HostSt → HostSt) : (modHost s f).step = s.step := rfl
@[simp] theorem modHost_tally (s : State) (f : HostSt → HostSt) : (modHost s f).tally = s.tally := rfl
@[simp] theorem modHost_ports (s : State) (f : HostSt → HostSt) : (modHost s f).ports = s.ports := rfl
@[simp] theorem modHost_link (s : State) (f : HostSt → HostSt) : (modHost s f).link = s.link := rfl
@[simp] theorem modHost_safe (s : State) (f : HostSt → HostSt) : (modHost s f).safe = s.safe := rfl
@[simp] theorem modHost_power (s : State) (f : HostSt → HostSt) : (modHost s f).power = s.power := rfl
@[simp] theorem modHost_test (s : State) (f : HostSt → HostSt) : (modHost s f).test = s.test := rfl

@[simp] theorem modComp_pending (s : State) (f : ComputeSt → ComputeSt) : (modComp s f).pending = s.pending := rfl
@[simp] theorem modComp_resp (s : State) (f : ComputeSt → ComputeSt) : (modComp s f).resp = s.resp := rfl
@[simp] theorem modComp_free (s : State) (f : ComputeSt → ComputeSt) : (modComp s f).free = s.free := rfl
@[simp] theorem modComp_time (s : State) (f : ComputeSt → ComputeSt) : (modComp s f).time = s.time := rfl
@[simp] theorem modComp_mem (s : State) (f : ComputeSt → ComputeSt) : (modComp s f).mem = s.mem := rfl
@[simp] theorem modComp_reg (s : State) (f : ComputeSt → ComputeSt) : (modComp s f).reg = s.reg := rfl
@[simp] theorem modComp_host (s : State) (f : ComputeSt → ComputeSt) : (modComp s f).host = s.host := rfl
@[simp] theorem modComp_comp (s : State) (f : ComputeSt → ComputeSt) : (modComp s f).comp = f s.comp := rfl
@[simp] theorem modComp_step (s : State) (f : ComputeSt → ComputeSt) : (modComp s f).step = s.step := rfl
@[simp] theorem modComp_tally (s : State) (f : ComputeSt → ComputeSt) : (modComp s f).tally = s.tally := rfl
@[simp] theorem modComp_ports (s : State) (f : ComputeSt → ComputeSt) : (modComp s f).ports = s.ports := rfl
@[simp] theorem modComp_link (s : State) (f : ComputeSt → ComputeSt) : (modComp s f).link = s.link := rfl
@[simp] theorem modComp_safe (s : State) (f : ComputeSt → ComputeSt) : (modComp s f).safe = s.safe := rfl
@[simp] theorem modComp_power (s : State) (f : ComputeSt → ComputeSt) : (modComp s f).power = s.power := rfl
@[simp] theorem modComp_test (s : State) (f : ComputeSt → ComputeSt) : (modComp s f).test = s.test := rfl

@[simp] theorem modStep_pending (s : State) (f : StepSt → StepSt) : (modStep s f).pending = s.pending := rfl
@[simp] theorem modStep_resp (s : State) (f : StepSt → StepSt) : (modStep s f).resp = s.resp := rfl
@[simp] theorem modStep_free (s : State) (f : StepSt → StepSt) : (modStep s f).free = s.free := rfl
@[simp] theorem modStep_time (s : State) (f : StepSt → StepSt) : (modStep s f).time = s.time := rfl
@[simp] theorem modStep_mem (s : State) (f : StepSt → StepSt) : (modStep s f).mem = s.mem := rfl
@[simp] theorem modStep_reg (s : State) (f : StepSt → StepSt) : (modStep s f).reg = s.reg := rfl
@[simp] theorem modStep_host (s : State) (f : StepSt → StepSt) : (modStep s f).host = s.host := rfl
@[simp] theorem modStep_comp (s : State) (f : StepSt → StepSt) : (modStep s f).comp = s.comp := rfl
@[simp] theorem modStep_step (s : State) (f : StepSt → StepSt) : (modStep s f).step = f s.step := rfl
@[simp] theorem modStep_tally (s : State) (f : StepSt → StepSt) : (modStep s f).tally = s.tally := rfl
@[simp] theorem modStep_ports (s : State) (f : StepSt → StepSt) : (modStep s f).ports = s.ports := rfl
@[simp] theorem modStep_link (s : State) (f : StepSt → StepSt) : (modStep s f).link = s.link := rfl
@[simp] theorem modStep_safe (s : State) (f : StepSt → StepSt) : (modStep s f).safe = s.safe := rfl
@[simp] theorem modStep_power (s : State) (f : StepSt → StepSt) : (modStep s f).power = s.power := rfl
@[simp] theorem modStep_test (s : State) (f : StepSt → StepSt) : (modStep s f).test = s.test := rfl

@[simp] theorem modTally_pending (s : State) (f : TallySt → TallySt) : (modTally s f).pending = s.pending := rfl
@[simp] theorem modTally_resp (s : State) (f : TallySt → TallySt) : (modTally s f).resp = s.resp := rfl
@[simp] theorem modTally_free (s : State) (f : TallySt → TallySt) : (modTally s f).free = s.free := rfl
@[simp] theorem modTally_time (s : State) (f : TallySt → TallySt) : (modTally s f).time = s.time := rfl
@[simp] theorem modTally_mem (s : State) (f : TallySt → TallySt) : (modTally s f).mem = s.mem := rfl
@[simp] theorem modTally_reg (s : State) (f : TallySt → TallySt) : (modTally s f).reg = s.reg := rfl
@[simp] theorem modTally_host (s : State) (f : TallySt → TallySt) : (modTally s f).host = s.host := rfl
@[simp] theorem modTally_comp (s : State) (f : TallySt → TallySt) : (modTally s f).comp = s.comp := rfl
@[simp] theorem modTally_step (s : State) (f : TallySt → TallySt) : (modTally s f).step = s.step := rfl
@[simp] theorem modTally_tally (s : State) (f : TallySt → TallySt) : (modTally s f).tally = f s.tally := rfl
@[simp] theorem modTally_ports (s : State) (f : TallySt → TallySt) : (modTally s f).ports = s.ports := rfl
@[simp] theorem modTally_link (s : State) (f : TallySt → TallySt) : (modTally s f).link = s.link := rfl
@[simp] theorem modTally_safe (s : State) (f : TallySt → TallySt) : (modTally s f).safe = s.safe := rfl
@[simp] theorem modTally_power (s : State) (f : TallySt → TallySt) : (modTally s f).power = s.power := rfl
@[simp] theorem modTally_test (s : State) (f : TallySt → TallySt) : (modTally s f).test = s.test := rfl

@[simp] theorem modLink_pending (s : State) (f : LinkSt → LinkSt) : (modLink s f).pending = s.pending := rfl
@[simp] theorem modLink_resp (s : State) (f : LinkSt → LinkSt) : (modLink s f).resp = s.resp := rfl
@[simp] theorem modLink_free (s : State) (f : LinkSt → LinkSt) : (modLink s f).free = s.free := rfl
@[simp] theorem modLink_time (s : State) (f : LinkSt → LinkSt) : (modLink s f).time = s.time := rfl
@[simp] theorem modLink_mem (s : State) (f : LinkSt → LinkSt) : (modLink s f).mem = s.mem := rfl
@[simp] theorem modLink_reg (s : State) (f : LinkSt → LinkSt) : (modLink s f).reg = s.reg := rfl
@[simp] theorem modLink_host (s : State) (f : LinkSt → LinkSt) : (modLink s f).host = s.host := rfl
@[simp] theorem modLink_comp (s : State) (f : LinkSt → LinkSt) : (modLink s f).comp = s.comp := rfl
@[simp] theorem modLink_step (s : State) (f : LinkSt → LinkSt) : (modLink s f).step = s.step := rfl
@[simp] theorem modLink_tally (s : State) (f : LinkSt → LinkSt) : (modLink s f).tally = s.tally := rfl
@[simp] theorem modLink_ports (s : State) (f : LinkSt → LinkSt) : (modLink s f).ports = s.ports := rfl
@[simp] theorem modLink_link (s : State) (f : LinkSt → LinkSt) : (modLink s f).link = f s.link := rfl
@[simp] theorem modLink_safe (s : State) (f : LinkSt → LinkSt) : (modLink s f).safe = s.safe := rfl
@[simp] theorem modLink_power (s : State) (f : LinkSt → LinkSt) : (modLink s f).power = s.power := rfl
@[simp] theorem modLink_test (s : State) (f : LinkSt → LinkSt) : (modLink s f).test = s.test := rfl

@[simp] theorem modSafe_pending (s : State) (f : SafeSt → SafeSt) : (modSafe s f).pending = s.pending := rfl
@[simp] theorem modSafe_resp (s : State) (f : SafeSt → SafeSt) : (modSafe s f).resp = s.resp := rfl
@[simp] theorem modSafe_free (s : State) (f : SafeSt → SafeSt) : (modSafe s f).free = s.free := rfl
@[simp] theorem modSafe_time (s : State) (f : SafeSt → SafeSt) : (modSafe s f).time = s.time := rfl
@[simp] theorem modSafe_mem (s : State) (f : SafeSt → SafeSt) : (modSafe s f).mem = s.mem := rfl
@[simp] theorem modSafe_reg (s : State) (f : SafeSt → SafeSt) : (modSafe s f).reg = s.reg := rfl
@[simp] theorem modSafe_host (s : State) (f : SafeSt → SafeSt) : (modSafe s f).host = s.host := rfl
@[simp] theorem modSafe_comp (s : State) (f : SafeSt → SafeSt) : (modSafe s f).comp = s.comp := rfl
@[simp] theorem modSafe_step (s : State) (f : SafeSt → SafeSt) : (modSafe s f).step = s.step := rfl
@[simp] theorem modSafe_tally (s : State) (f : SafeSt → SafeSt) : (modSafe s f).tally = s.tally := rfl
@[simp] theorem modSafe_ports (s : State) (f : SafeSt → SafeSt) : (modSafe s f).ports = s.ports := rfl
@[simp] theorem modSafe_link (s : State) (f : SafeSt → SafeSt) : (modSafe s f).link = s.link := rfl
@[simp] theorem modSafe_safe (s : State) (f : SafeSt → SafeSt) : (modSafe s f).safe = f s.safe := rfl
@[simp] theorem modSafe_power (s : State) (f : SafeSt → SafeSt) : (modSafe s f).power = s.power := rfl
@[simp] theorem modSafe_test (s : State) (f : SafeSt → SafeSt) : (modSafe s f).test = s.test := rfl

@[simp] theorem modPower_pending (s : State) (f : PowerSt → PowerSt) : (modPower s f).pending = s.pending := rfl
@[simp] theorem modPower_resp (s : State) (f : PowerSt → PowerSt) : (modPower s f).resp = s.resp := rfl
@[simp] theorem modPower_free (s : State) (f : PowerSt → PowerSt) : (modPower s f).free = s.free := rfl
@[simp] theorem modPower_time (s : State) (f : PowerSt → PowerSt) : (modPower s f).time = s.time := rfl
@[simp] theorem modPower_mem (s : State) (f : PowerSt → PowerSt) : (modPower s f).mem = s.mem := rfl
@[simp] theorem modPower_reg (s : State) (f : PowerSt → PowerSt) : (modPower s f).reg = s.reg := rfl
@[simp] theorem modPower_host (s : State) (f : PowerSt → PowerSt) : (modPower s f).host = s.host := rfl
@[simp] theorem modPower_comp (s : State) (f : PowerSt → PowerSt) : (modPower s f).comp = s.comp := rfl
@[simp] theorem modPower_step (s : State) (f : PowerSt → PowerSt) : (modPower s f).step = s.step := rfl
@[simp] theorem modPower_tally (s : State) (f : PowerSt → PowerSt) : (modPower s f).tally = s.tally := rfl
@[simp] theorem modPower_ports (s : State) (f : PowerSt → PowerSt) : (modPower s f).ports = s.ports := rfl
@[simp] theorem modPower_link (s : State) (f : PowerSt → PowerSt) : (modPower s f).link = s.link := rfl
@[simp] theorem modPower_safe (s : State) (f : PowerSt → PowerSt) : (modPower s f).safe = s.safe := rfl
@[simp] theorem modPower_power (s : State) (f : PowerSt → PowerSt) : (modPower s f).power = f s.power := rfl
@[simp] theorem modPower_test (s : State) (f : PowerSt → PowerSt) : (modPower s f).test = s.test := rfl

@[simp] theorem modTest_pending (s : State) (f : TestSt → TestSt) : (modTest s f).pending = s.pending := rfl
@[simp] theorem modTest_resp (s : State) (f : TestSt → TestSt) : (modTest s f).resp = s.resp := rfl
@[simp] theorem modTest_free (s : State) (f : TestSt → TestSt) : (modTest s f).free = s.free := rfl
@[simp] theorem modTest_time (s : State) (f : TestSt → TestSt) : (modTest s f).time = s.time := rfl
@[simp] theorem modTest_mem (s : State) (f : TestSt → TestSt) : (modTest s f).mem = s.mem := rfl
@[simp] theorem modTest_reg (s : State) (f : TestSt → TestSt) : (modTest s f).reg = s.reg := rfl
@[simp] theorem modTest_host (s : State) (f : TestSt → TestSt) : (modTest s f).host = s.host := rfl
@[simp] theorem modTest_comp (s : State) (f : TestSt → TestSt) : (modTest s f).comp = s.comp := rfl
@[simp] theorem modTest_step (s : State) (f : TestSt → TestSt) : (modTest s f).step = s.step := rfl
@[simp] theorem modTest_tally (s : State) (f : TestSt → TestSt) : (modTest s f).tally = s.tally := rfl
@[simp] theorem modTest_ports (s : State) (f : TestSt → TestSt) : (modTest s f).ports = s.ports := rfl
@[simp] theorem modTest_link (s : State) (f : TestSt → TestSt) : (modTest s f).link = s.link := rfl
@[simp] theorem modTest_safe (s : State) (f : TestSt → TestSt) : (modTest s f).safe = s.safe := rfl
@[simp] theorem modTest_power (s : State) (f : TestSt → TestSt) : (modTest s f).power = s.power := rfl
@[simp] theorem modTest_test (s : State) (f : TestSt → TestSt) : (modTest s f).test = f s.test := rfl

/-! ### Streams, cloves, weights, statistics slots, ports, buckets, vectors -/

@[simp] theorem setStream_pending (s : State) (i : Nat) (v : Stream) : (setStream s i v).pending = s.pending := rfl
@[simp] theorem setStream_resp (s : State) (i : Nat) (v : Stream) : (setStream s i v).resp = s.resp := rfl
@[simp] theorem setStream_free (s : State) (i : Nat) (v : Stream) : (setStream s i v).free = s.free := rfl
@[simp] theorem setStream_time (s : State) (i : Nat) (v : Stream) : (setStream s i v).time = s.time := rfl
@[simp] theorem setStream_mem (s : State) (i : Nat) (v : Stream) : (setStream s i v).mem = s.mem := rfl
@[simp] theorem setStream_reg (s : State) (i : Nat) (v : Stream) : (setStream s i v).reg = s.reg := rfl
@[simp] theorem setStream_comp (s : State) (i : Nat) (v : Stream) : (setStream s i v).comp = s.comp := rfl
@[simp] theorem setStream_step (s : State) (i : Nat) (v : Stream) : (setStream s i v).step = s.step := rfl
@[simp] theorem setStream_tally (s : State) (i : Nat) (v : Stream) : (setStream s i v).tally = s.tally := rfl
@[simp] theorem setStream_ports (s : State) (i : Nat) (v : Stream) : (setStream s i v).ports = s.ports := rfl
@[simp] theorem setStream_link (s : State) (i : Nat) (v : Stream) : (setStream s i v).link = s.link := rfl
@[simp] theorem setStream_safe (s : State) (i : Nat) (v : Stream) : (setStream s i v).safe = s.safe := rfl
@[simp] theorem setStream_power (s : State) (i : Nat) (v : Stream) : (setStream s i v).power = s.power := rfl
@[simp] theorem setStream_test (s : State) (i : Nat) (v : Stream) : (setStream s i v).test = s.test := rfl

/-- What is set at a number reads back. -/
@[simp] theorem stream_setStream (s : State) (i : Nat) (v : Stream) : stream (setStream s i v) i = v := sget_sset_same _ _ _ _

/-- What stands at another number stays. -/
theorem stream_setStream_other (s : State) {i j : Nat} (v : Stream) (h : j ≠ i) : stream (setStream s i v) j = stream s j :=
  sget_sset_other _ _ _ _ h

@[simp] theorem setClove_pending (s : State) (i : Nat) (v : Clove) : (setClove s i v).pending = s.pending := rfl
@[simp] theorem setClove_resp (s : State) (i : Nat) (v : Clove) : (setClove s i v).resp = s.resp := rfl
@[simp] theorem setClove_free (s : State) (i : Nat) (v : Clove) : (setClove s i v).free = s.free := rfl
@[simp] theorem setClove_time (s : State) (i : Nat) (v : Clove) : (setClove s i v).time = s.time := rfl
@[simp] theorem setClove_mem (s : State) (i : Nat) (v : Clove) : (setClove s i v).mem = s.mem := rfl
@[simp] theorem setClove_reg (s : State) (i : Nat) (v : Clove) : (setClove s i v).reg = s.reg := rfl
@[simp] theorem setClove_host (s : State) (i : Nat) (v : Clove) : (setClove s i v).host = s.host := rfl
@[simp] theorem setClove_step (s : State) (i : Nat) (v : Clove) : (setClove s i v).step = s.step := rfl
@[simp] theorem setClove_tally (s : State) (i : Nat) (v : Clove) : (setClove s i v).tally = s.tally := rfl
@[simp] theorem setClove_ports (s : State) (i : Nat) (v : Clove) : (setClove s i v).ports = s.ports := rfl
@[simp] theorem setClove_link (s : State) (i : Nat) (v : Clove) : (setClove s i v).link = s.link := rfl
@[simp] theorem setClove_safe (s : State) (i : Nat) (v : Clove) : (setClove s i v).safe = s.safe := rfl
@[simp] theorem setClove_power (s : State) (i : Nat) (v : Clove) : (setClove s i v).power = s.power := rfl
@[simp] theorem setClove_test (s : State) (i : Nat) (v : Clove) : (setClove s i v).test = s.test := rfl

/-- What is set at a number reads back. -/
@[simp] theorem clove_setClove (s : State) (i : Nat) (v : Clove) : clove (setClove s i v) i = v := sget_sset_same _ _ _ _

/-- What stands at another number stays. -/
theorem clove_setClove_other (s : State) {i j : Nat} (v : Clove) (h : j ≠ i) : clove (setClove s i v) j = clove s j :=
  sget_sset_other _ _ _ _ h

@[simp] theorem setWeight_pending (s : State) (i : Nat) (v : Weight) : (setWeight s i v).pending = s.pending := rfl
@[simp] theorem setWeight_resp (s : State) (i : Nat) (v : Weight) : (setWeight s i v).resp = s.resp := rfl
@[simp] theorem setWeight_free (s : State) (i : Nat) (v : Weight) : (setWeight s i v).free = s.free := rfl
@[simp] theorem setWeight_time (s : State) (i : Nat) (v : Weight) : (setWeight s i v).time = s.time := rfl
@[simp] theorem setWeight_mem (s : State) (i : Nat) (v : Weight) : (setWeight s i v).mem = s.mem := rfl
@[simp] theorem setWeight_reg (s : State) (i : Nat) (v : Weight) : (setWeight s i v).reg = s.reg := rfl
@[simp] theorem setWeight_host (s : State) (i : Nat) (v : Weight) : (setWeight s i v).host = s.host := rfl
@[simp] theorem setWeight_step (s : State) (i : Nat) (v : Weight) : (setWeight s i v).step = s.step := rfl
@[simp] theorem setWeight_tally (s : State) (i : Nat) (v : Weight) : (setWeight s i v).tally = s.tally := rfl
@[simp] theorem setWeight_ports (s : State) (i : Nat) (v : Weight) : (setWeight s i v).ports = s.ports := rfl
@[simp] theorem setWeight_link (s : State) (i : Nat) (v : Weight) : (setWeight s i v).link = s.link := rfl
@[simp] theorem setWeight_safe (s : State) (i : Nat) (v : Weight) : (setWeight s i v).safe = s.safe := rfl
@[simp] theorem setWeight_power (s : State) (i : Nat) (v : Weight) : (setWeight s i v).power = s.power := rfl
@[simp] theorem setWeight_test (s : State) (i : Nat) (v : Weight) : (setWeight s i v).test = s.test := rfl

/-- What is set at a number reads back. -/
@[simp] theorem weight_setWeight (s : State) (i : Nat) (v : Weight) : weight (setWeight s i v) i = v := sget_sset_same _ _ _ _

/-- What stands at another number stays. -/
theorem weight_setWeight_other (s : State) {i j : Nat} (v : Weight) (h : j ≠ i) : weight (setWeight s i v) j = weight s j :=
  sget_sset_other _ _ _ _ h

@[simp] theorem setSlotStat_pending (s : State) (i : Nat) (v : SlotStat) : (setSlotStat s i v).pending = s.pending := rfl
@[simp] theorem setSlotStat_resp (s : State) (i : Nat) (v : SlotStat) : (setSlotStat s i v).resp = s.resp := rfl
@[simp] theorem setSlotStat_free (s : State) (i : Nat) (v : SlotStat) : (setSlotStat s i v).free = s.free := rfl
@[simp] theorem setSlotStat_time (s : State) (i : Nat) (v : SlotStat) : (setSlotStat s i v).time = s.time := rfl
@[simp] theorem setSlotStat_mem (s : State) (i : Nat) (v : SlotStat) : (setSlotStat s i v).mem = s.mem := rfl
@[simp] theorem setSlotStat_reg (s : State) (i : Nat) (v : SlotStat) : (setSlotStat s i v).reg = s.reg := rfl
@[simp] theorem setSlotStat_host (s : State) (i : Nat) (v : SlotStat) : (setSlotStat s i v).host = s.host := rfl
@[simp] theorem setSlotStat_step (s : State) (i : Nat) (v : SlotStat) : (setSlotStat s i v).step = s.step := rfl
@[simp] theorem setSlotStat_tally (s : State) (i : Nat) (v : SlotStat) : (setSlotStat s i v).tally = s.tally := rfl
@[simp] theorem setSlotStat_ports (s : State) (i : Nat) (v : SlotStat) : (setSlotStat s i v).ports = s.ports := rfl
@[simp] theorem setSlotStat_link (s : State) (i : Nat) (v : SlotStat) : (setSlotStat s i v).link = s.link := rfl
@[simp] theorem setSlotStat_safe (s : State) (i : Nat) (v : SlotStat) : (setSlotStat s i v).safe = s.safe := rfl
@[simp] theorem setSlotStat_power (s : State) (i : Nat) (v : SlotStat) : (setSlotStat s i v).power = s.power := rfl
@[simp] theorem setSlotStat_test (s : State) (i : Nat) (v : SlotStat) : (setSlotStat s i v).test = s.test := rfl

/-- What is set at a number reads back. -/
@[simp] theorem slotStat_setSlotStat (s : State) (i : Nat) (v : SlotStat) : slotStat (setSlotStat s i v) i = v := sget_sset_same _ _ _ _

/-- What stands at another number stays. -/
theorem slotStat_setSlotStat_other (s : State) {i j : Nat} (v : SlotStat) (h : j ≠ i) : slotStat (setSlotStat s i v) j = slotStat s j :=
  sget_sset_other _ _ _ _ h

@[simp] theorem setPort_pending (s : State) (i : Nat) (v : Port) : (setPort s i v).pending = s.pending := rfl
@[simp] theorem setPort_resp (s : State) (i : Nat) (v : Port) : (setPort s i v).resp = s.resp := rfl
@[simp] theorem setPort_free (s : State) (i : Nat) (v : Port) : (setPort s i v).free = s.free := rfl
@[simp] theorem setPort_time (s : State) (i : Nat) (v : Port) : (setPort s i v).time = s.time := rfl
@[simp] theorem setPort_mem (s : State) (i : Nat) (v : Port) : (setPort s i v).mem = s.mem := rfl
@[simp] theorem setPort_reg (s : State) (i : Nat) (v : Port) : (setPort s i v).reg = s.reg := rfl
@[simp] theorem setPort_host (s : State) (i : Nat) (v : Port) : (setPort s i v).host = s.host := rfl
@[simp] theorem setPort_comp (s : State) (i : Nat) (v : Port) : (setPort s i v).comp = s.comp := rfl
@[simp] theorem setPort_step (s : State) (i : Nat) (v : Port) : (setPort s i v).step = s.step := rfl
@[simp] theorem setPort_tally (s : State) (i : Nat) (v : Port) : (setPort s i v).tally = s.tally := rfl
@[simp] theorem setPort_link (s : State) (i : Nat) (v : Port) : (setPort s i v).link = s.link := rfl
@[simp] theorem setPort_safe (s : State) (i : Nat) (v : Port) : (setPort s i v).safe = s.safe := rfl
@[simp] theorem setPort_power (s : State) (i : Nat) (v : Port) : (setPort s i v).power = s.power := rfl
@[simp] theorem setPort_test (s : State) (i : Nat) (v : Port) : (setPort s i v).test = s.test := rfl

/-- What is set at a number reads back. -/
@[simp] theorem port_setPort (s : State) (i : Nat) (v : Port) : port (setPort s i v) i = v := sget_sset_same _ _ _ _

/-- What stands at another number stays. -/
theorem port_setPort_other (s : State) {i j : Nat} (v : Port) (h : j ≠ i) : port (setPort s i v) j = port s j :=
  sget_sset_other _ _ _ _ h

@[simp] theorem setBucket_pending (s : State) (i : Nat) (v : Bucket) : (setBucket s i v).pending = s.pending := rfl
@[simp] theorem setBucket_resp (s : State) (i : Nat) (v : Bucket) : (setBucket s i v).resp = s.resp := rfl
@[simp] theorem setBucket_free (s : State) (i : Nat) (v : Bucket) : (setBucket s i v).free = s.free := rfl
@[simp] theorem setBucket_time (s : State) (i : Nat) (v : Bucket) : (setBucket s i v).time = s.time := rfl
@[simp] theorem setBucket_mem (s : State) (i : Nat) (v : Bucket) : (setBucket s i v).mem = s.mem := rfl
@[simp] theorem setBucket_reg (s : State) (i : Nat) (v : Bucket) : (setBucket s i v).reg = s.reg := rfl
@[simp] theorem setBucket_host (s : State) (i : Nat) (v : Bucket) : (setBucket s i v).host = s.host := rfl
@[simp] theorem setBucket_comp (s : State) (i : Nat) (v : Bucket) : (setBucket s i v).comp = s.comp := rfl
@[simp] theorem setBucket_step (s : State) (i : Nat) (v : Bucket) : (setBucket s i v).step = s.step := rfl
@[simp] theorem setBucket_tally (s : State) (i : Nat) (v : Bucket) : (setBucket s i v).tally = s.tally := rfl
@[simp] theorem setBucket_ports (s : State) (i : Nat) (v : Bucket) : (setBucket s i v).ports = s.ports := rfl
@[simp] theorem setBucket_safe (s : State) (i : Nat) (v : Bucket) : (setBucket s i v).safe = s.safe := rfl
@[simp] theorem setBucket_power (s : State) (i : Nat) (v : Bucket) : (setBucket s i v).power = s.power := rfl
@[simp] theorem setBucket_test (s : State) (i : Nat) (v : Bucket) : (setBucket s i v).test = s.test := rfl

/-- What is set at a number reads back. -/
@[simp] theorem bucket_setBucket (s : State) (i : Nat) (v : Bucket) : bucket (setBucket s i v) i = v := sget_sset_same _ _ _ _

/-- What stands at another number stays. -/
theorem bucket_setBucket_other (s : State) {i j : Nat} (v : Bucket) (h : j ≠ i) : bucket (setBucket s i v) j = bucket s j :=
  sget_sset_other _ _ _ _ h

@[simp] theorem setVector_pending (s : State) (i : Nat) (v : Vector) : (setVector s i v).pending = s.pending := rfl
@[simp] theorem setVector_resp (s : State) (i : Nat) (v : Vector) : (setVector s i v).resp = s.resp := rfl
@[simp] theorem setVector_free (s : State) (i : Nat) (v : Vector) : (setVector s i v).free = s.free := rfl
@[simp] theorem setVector_time (s : State) (i : Nat) (v : Vector) : (setVector s i v).time = s.time := rfl
@[simp] theorem setVector_mem (s : State) (i : Nat) (v : Vector) : (setVector s i v).mem = s.mem := rfl
@[simp] theorem setVector_reg (s : State) (i : Nat) (v : Vector) : (setVector s i v).reg = s.reg := rfl
@[simp] theorem setVector_comp (s : State) (i : Nat) (v : Vector) : (setVector s i v).comp = s.comp := rfl
@[simp] theorem setVector_step (s : State) (i : Nat) (v : Vector) : (setVector s i v).step = s.step := rfl
@[simp] theorem setVector_tally (s : State) (i : Nat) (v : Vector) : (setVector s i v).tally = s.tally := rfl
@[simp] theorem setVector_ports (s : State) (i : Nat) (v : Vector) : (setVector s i v).ports = s.ports := rfl
@[simp] theorem setVector_link (s : State) (i : Nat) (v : Vector) : (setVector s i v).link = s.link := rfl
@[simp] theorem setVector_safe (s : State) (i : Nat) (v : Vector) : (setVector s i v).safe = s.safe := rfl
@[simp] theorem setVector_power (s : State) (i : Nat) (v : Vector) : (setVector s i v).power = s.power := rfl
@[simp] theorem setVector_test (s : State) (i : Nat) (v : Vector) : (setVector s i v).test = s.test := rfl

/-- What is set at a number reads back. -/
@[simp] theorem vector_setVector (s : State) (i : Nat) (v : Vector) : vector (setVector s i v) i = v := sget_sset_same _ _ _ _

/-- What stands at another number stays. -/
theorem vector_setVector_other (s : State) {i j : Nat} (v : Vector) (h : j ≠ i) : vector (setVector s i v) j = vector s j :=
  sget_sset_other _ _ _ _ h

@[simp] theorem modStream_pending (s : State) (i : Nat) (f : Stream → Stream) : (modStream s i f).pending = s.pending := rfl
@[simp] theorem modStream_resp (s : State) (i : Nat) (f : Stream → Stream) : (modStream s i f).resp = s.resp := rfl
@[simp] theorem modStream_free (s : State) (i : Nat) (f : Stream → Stream) : (modStream s i f).free = s.free := rfl
@[simp] theorem modStream_time (s : State) (i : Nat) (f : Stream → Stream) : (modStream s i f).time = s.time := rfl
@[simp] theorem modStream_mem (s : State) (i : Nat) (f : Stream → Stream) : (modStream s i f).mem = s.mem := rfl
@[simp] theorem modStream_reg (s : State) (i : Nat) (f : Stream → Stream) : (modStream s i f).reg = s.reg := rfl
@[simp] theorem modStream_comp (s : State) (i : Nat) (f : Stream → Stream) : (modStream s i f).comp = s.comp := rfl
@[simp] theorem modStream_step (s : State) (i : Nat) (f : Stream → Stream) : (modStream s i f).step = s.step := rfl
@[simp] theorem modStream_tally (s : State) (i : Nat) (f : Stream → Stream) : (modStream s i f).tally = s.tally := rfl
@[simp] theorem modStream_ports (s : State) (i : Nat) (f : Stream → Stream) : (modStream s i f).ports = s.ports := rfl
@[simp] theorem modStream_link (s : State) (i : Nat) (f : Stream → Stream) : (modStream s i f).link = s.link := rfl
@[simp] theorem modStream_safe (s : State) (i : Nat) (f : Stream → Stream) : (modStream s i f).safe = s.safe := rfl
@[simp] theorem modStream_power (s : State) (i : Nat) (f : Stream → Stream) : (modStream s i f).power = s.power := rfl
@[simp] theorem modStream_test (s : State) (i : Nat) (f : Stream → Stream) : (modStream s i f).test = s.test := rfl

@[simp] theorem stream_modStream (s : State) (i : Nat) (f : Stream → Stream) : stream (modStream s i f) i = f (stream s i) :=
  sget_sset_same _ _ _ _

theorem stream_modStream_other (s : State) {i j : Nat} (f : Stream → Stream) (h : j ≠ i) : stream (modStream s i f) j = stream s j :=
  sget_sset_other _ _ _ _ h

@[simp] theorem modClove_pending (s : State) (i : Nat) (f : Clove → Clove) : (modClove s i f).pending = s.pending := rfl
@[simp] theorem modClove_resp (s : State) (i : Nat) (f : Clove → Clove) : (modClove s i f).resp = s.resp := rfl
@[simp] theorem modClove_free (s : State) (i : Nat) (f : Clove → Clove) : (modClove s i f).free = s.free := rfl
@[simp] theorem modClove_time (s : State) (i : Nat) (f : Clove → Clove) : (modClove s i f).time = s.time := rfl
@[simp] theorem modClove_mem (s : State) (i : Nat) (f : Clove → Clove) : (modClove s i f).mem = s.mem := rfl
@[simp] theorem modClove_reg (s : State) (i : Nat) (f : Clove → Clove) : (modClove s i f).reg = s.reg := rfl
@[simp] theorem modClove_host (s : State) (i : Nat) (f : Clove → Clove) : (modClove s i f).host = s.host := rfl
@[simp] theorem modClove_step (s : State) (i : Nat) (f : Clove → Clove) : (modClove s i f).step = s.step := rfl
@[simp] theorem modClove_tally (s : State) (i : Nat) (f : Clove → Clove) : (modClove s i f).tally = s.tally := rfl
@[simp] theorem modClove_ports (s : State) (i : Nat) (f : Clove → Clove) : (modClove s i f).ports = s.ports := rfl
@[simp] theorem modClove_link (s : State) (i : Nat) (f : Clove → Clove) : (modClove s i f).link = s.link := rfl
@[simp] theorem modClove_safe (s : State) (i : Nat) (f : Clove → Clove) : (modClove s i f).safe = s.safe := rfl
@[simp] theorem modClove_power (s : State) (i : Nat) (f : Clove → Clove) : (modClove s i f).power = s.power := rfl
@[simp] theorem modClove_test (s : State) (i : Nat) (f : Clove → Clove) : (modClove s i f).test = s.test := rfl

@[simp] theorem clove_modClove (s : State) (i : Nat) (f : Clove → Clove) : clove (modClove s i f) i = f (clove s i) :=
  sget_sset_same _ _ _ _

theorem clove_modClove_other (s : State) {i j : Nat} (f : Clove → Clove) (h : j ≠ i) : clove (modClove s i f) j = clove s j :=
  sget_sset_other _ _ _ _ h

@[simp] theorem modPort_pending (s : State) (i : Nat) (f : Port → Port) : (modPort s i f).pending = s.pending := rfl
@[simp] theorem modPort_resp (s : State) (i : Nat) (f : Port → Port) : (modPort s i f).resp = s.resp := rfl
@[simp] theorem modPort_free (s : State) (i : Nat) (f : Port → Port) : (modPort s i f).free = s.free := rfl
@[simp] theorem modPort_time (s : State) (i : Nat) (f : Port → Port) : (modPort s i f).time = s.time := rfl
@[simp] theorem modPort_mem (s : State) (i : Nat) (f : Port → Port) : (modPort s i f).mem = s.mem := rfl
@[simp] theorem modPort_reg (s : State) (i : Nat) (f : Port → Port) : (modPort s i f).reg = s.reg := rfl
@[simp] theorem modPort_host (s : State) (i : Nat) (f : Port → Port) : (modPort s i f).host = s.host := rfl
@[simp] theorem modPort_comp (s : State) (i : Nat) (f : Port → Port) : (modPort s i f).comp = s.comp := rfl
@[simp] theorem modPort_step (s : State) (i : Nat) (f : Port → Port) : (modPort s i f).step = s.step := rfl
@[simp] theorem modPort_tally (s : State) (i : Nat) (f : Port → Port) : (modPort s i f).tally = s.tally := rfl
@[simp] theorem modPort_link (s : State) (i : Nat) (f : Port → Port) : (modPort s i f).link = s.link := rfl
@[simp] theorem modPort_safe (s : State) (i : Nat) (f : Port → Port) : (modPort s i f).safe = s.safe := rfl
@[simp] theorem modPort_power (s : State) (i : Nat) (f : Port → Port) : (modPort s i f).power = s.power := rfl
@[simp] theorem modPort_test (s : State) (i : Nat) (f : Port → Port) : (modPort s i f).test = s.test := rfl

@[simp] theorem port_modPort (s : State) (i : Nat) (f : Port → Port) : port (modPort s i f) i = f (port s i) :=
  sget_sset_same _ _ _ _

theorem port_modPort_other (s : State) {i j : Nat} (f : Port → Port) (h : j ≠ i) : port (modPort s i f) j = port s j :=
  sget_sset_other _ _ _ _ h

@[simp] theorem modBucket_pending (s : State) (i : Nat) (f : Bucket → Bucket) : (modBucket s i f).pending = s.pending := rfl
@[simp] theorem modBucket_resp (s : State) (i : Nat) (f : Bucket → Bucket) : (modBucket s i f).resp = s.resp := rfl
@[simp] theorem modBucket_free (s : State) (i : Nat) (f : Bucket → Bucket) : (modBucket s i f).free = s.free := rfl
@[simp] theorem modBucket_time (s : State) (i : Nat) (f : Bucket → Bucket) : (modBucket s i f).time = s.time := rfl
@[simp] theorem modBucket_mem (s : State) (i : Nat) (f : Bucket → Bucket) : (modBucket s i f).mem = s.mem := rfl
@[simp] theorem modBucket_reg (s : State) (i : Nat) (f : Bucket → Bucket) : (modBucket s i f).reg = s.reg := rfl
@[simp] theorem modBucket_host (s : State) (i : Nat) (f : Bucket → Bucket) : (modBucket s i f).host = s.host := rfl
@[simp] theorem modBucket_comp (s : State) (i : Nat) (f : Bucket → Bucket) : (modBucket s i f).comp = s.comp := rfl
@[simp] theorem modBucket_step (s : State) (i : Nat) (f : Bucket → Bucket) : (modBucket s i f).step = s.step := rfl
@[simp] theorem modBucket_tally (s : State) (i : Nat) (f : Bucket → Bucket) : (modBucket s i f).tally = s.tally := rfl
@[simp] theorem modBucket_ports (s : State) (i : Nat) (f : Bucket → Bucket) : (modBucket s i f).ports = s.ports := rfl
@[simp] theorem modBucket_safe (s : State) (i : Nat) (f : Bucket → Bucket) : (modBucket s i f).safe = s.safe := rfl
@[simp] theorem modBucket_power (s : State) (i : Nat) (f : Bucket → Bucket) : (modBucket s i f).power = s.power := rfl
@[simp] theorem modBucket_test (s : State) (i : Nat) (f : Bucket → Bucket) : (modBucket s i f).test = s.test := rfl

@[simp] theorem bucket_modBucket (s : State) (i : Nat) (f : Bucket → Bucket) : bucket (modBucket s i f) i = f (bucket s i) :=
  sget_sset_same _ _ _ _

theorem bucket_modBucket_other (s : State) {i j : Nat} (f : Bucket → Bucket) (h : j ≠ i) : bucket (modBucket s i f) j = bucket s j :=
  sget_sset_other _ _ _ _ h

/-! ### Register words and counters -/

@[simp] theorem setReg4_pending (s : State) (a v : Nat) : (setReg4 s a v).pending = s.pending := rfl
@[simp] theorem setReg4_resp (s : State) (a v : Nat) : (setReg4 s a v).resp = s.resp := rfl
@[simp] theorem setReg4_free (s : State) (a v : Nat) : (setReg4 s a v).free = s.free := rfl
@[simp] theorem setReg4_time (s : State) (a v : Nat) : (setReg4 s a v).time = s.time := rfl
@[simp] theorem setReg4_mem (s : State) (a v : Nat) : (setReg4 s a v).mem = s.mem := rfl
@[simp] theorem setReg4_host (s : State) (a v : Nat) : (setReg4 s a v).host = s.host := rfl
@[simp] theorem setReg4_comp (s : State) (a v : Nat) : (setReg4 s a v).comp = s.comp := rfl
@[simp] theorem setReg4_step (s : State) (a v : Nat) : (setReg4 s a v).step = s.step := rfl
@[simp] theorem setReg4_tally (s : State) (a v : Nat) : (setReg4 s a v).tally = s.tally := rfl
@[simp] theorem setReg4_ports (s : State) (a v : Nat) : (setReg4 s a v).ports = s.ports := rfl
@[simp] theorem setReg4_link (s : State) (a v : Nat) : (setReg4 s a v).link = s.link := rfl
@[simp] theorem setReg4_safe (s : State) (a v : Nat) : (setReg4 s a v).safe = s.safe := rfl
@[simp] theorem setReg4_power (s : State) (a v : Nat) : (setReg4 s a v).power = s.power := rfl
@[simp] theorem setReg4_test (s : State) (a v : Nat) : (setReg4 s a v).test = s.test := rfl

/-- A register word set reads back, to its 32 bits. -/
@[simp] theorem reg4_setReg4 (s : State) (a v : Nat) : reg4 (setReg4 s a v) a = v % 2 ^ 32 :=
  (congrArg (· % 2 ^ 32) (sget_sset_same _ _ _ _)).trans (Nat.mod_mod _ _)

/-- A register word has 32 bits. -/
theorem reg4_lt (s : State) (a : Nat) : reg4 s a < 2 ^ 32 := Nat.mod_lt _ (by decide)

/-- Another register word stays. -/
theorem reg4_setReg4_other (s : State) {a b : Nat} (v : Nat) (h : b ≠ a) : reg4 (setReg4 s a v) b = reg4 s b := by
  exact congrArg (· % 2 ^ 32) (sget_sset_other (regReset a) (regReset b) s.reg.held _ h)

@[simp] theorem setReg4_ctr (s : State) (a v b : Nat) : ctr (setReg4 s a v) b = ctr s b := rfl

/-- What a count does: it changes counters and overflow bits alone. -/
theorem count_eq (a n : Nat) (s : State) : ∃ c o, count a n s = modReg s (fun r => { r with ctr := c, ovf := o }) := by
  unfold count
  by_cases h : n = 0 ∨ ctr s a = max32
  · exact ⟨s.reg.ctr, s.reg.ovf, by simp [h, modReg]⟩
  · by_cases h2 : ctr s a + n < max32
    · exact ⟨sset 0 s.reg.ctr a (ctr s a + n), s.reg.ovf, by simp only [h, h2, if_true, if_false]; rfl⟩
    · exact ⟨sset 0 s.reg.ctr a max32, _, by simp only [h, h2, if_false]; rfl⟩

/-- A counter counts, and sticks at its largest value (R415). -/
theorem ctr_count (a n : Nat) (s : State) (h : ctr s a ≤ max32) : ctr (count a n s) a = min (ctr s a + n) max32 := by
  unfold count
  by_cases h1 : n = 0 ∨ ctr s a = max32
  · rw [if_pos h1]; rcases h1 with h1 | h1 <;> omega
  · rw [if_neg h1]
    by_cases h2 : ctr s a + n < max32
    · rw [if_pos h2]
      exact (sget_sset_same 0 s.reg.ctr a (ctr s a + n)).trans (by omega)
    · rw [if_neg h2]
      exact (sget_sset_same 0 s.reg.ctr a max32).trans (by omega)

/-- Another counter stays. -/
theorem ctr_count_other (n : Nat) (s : State) {a b : Nat} (h : b ≠ a) : ctr (count a n s) b = ctr s b := by
  unfold count
  by_cases h1 : n = 0 ∨ ctr s a = max32
  · rw [if_pos h1]
  · rw [if_neg h1]
    by_cases h2 : ctr s a + n < max32
    · rw [if_pos h2]; exact sget_sset_other 0 0 s.reg.ctr _ h
    · rw [if_neg h2]; exact sget_sset_other 0 0 s.reg.ctr _ h

@[simp] theorem count_pending (a n : Nat) (s : State) : (count a n s).pending = s.pending := by
  obtain ⟨c, o, h⟩ := count_eq a n s; rw [h]; rfl
@[simp] theorem count_resp (a n : Nat) (s : State) : (count a n s).resp = s.resp := by
  obtain ⟨c, o, h⟩ := count_eq a n s; rw [h]; rfl
@[simp] theorem count_free (a n : Nat) (s : State) : (count a n s).free = s.free := by
  obtain ⟨c, o, h⟩ := count_eq a n s; rw [h]; rfl
@[simp] theorem count_time (a n : Nat) (s : State) : (count a n s).time = s.time := by
  obtain ⟨c, o, h⟩ := count_eq a n s; rw [h]; rfl
@[simp] theorem count_mem (a n : Nat) (s : State) : (count a n s).mem = s.mem := by
  obtain ⟨c, o, h⟩ := count_eq a n s; rw [h]; rfl
@[simp] theorem count_host (a n : Nat) (s : State) : (count a n s).host = s.host := by
  obtain ⟨c, o, h⟩ := count_eq a n s; rw [h]; rfl
@[simp] theorem count_comp (a n : Nat) (s : State) : (count a n s).comp = s.comp := by
  obtain ⟨c, o, h⟩ := count_eq a n s; rw [h]; rfl
@[simp] theorem count_step (a n : Nat) (s : State) : (count a n s).step = s.step := by
  obtain ⟨c, o, h⟩ := count_eq a n s; rw [h]; rfl
@[simp] theorem count_tally (a n : Nat) (s : State) : (count a n s).tally = s.tally := by
  obtain ⟨c, o, h⟩ := count_eq a n s; rw [h]; rfl
@[simp] theorem count_ports (a n : Nat) (s : State) : (count a n s).ports = s.ports := by
  obtain ⟨c, o, h⟩ := count_eq a n s; rw [h]; rfl
@[simp] theorem count_link (a n : Nat) (s : State) : (count a n s).link = s.link := by
  obtain ⟨c, o, h⟩ := count_eq a n s; rw [h]; rfl
@[simp] theorem count_safe (a n : Nat) (s : State) : (count a n s).safe = s.safe := by
  obtain ⟨c, o, h⟩ := count_eq a n s; rw [h]; rfl
@[simp] theorem count_power (a n : Nat) (s : State) : (count a n s).power = s.power := by
  obtain ⟨c, o, h⟩ := count_eq a n s; rw [h]; rfl
@[simp] theorem count_test (a n : Nat) (s : State) : (count a n s).test = s.test := by
  obtain ⟨c, o, h⟩ := count_eq a n s; rw [h]; rfl
@[simp] theorem timer_pending (a n : Nat) (s : State) : (timer a n s).pending = s.pending := rfl
@[simp] theorem timer_resp (a n : Nat) (s : State) : (timer a n s).resp = s.resp := rfl
@[simp] theorem timer_free (a n : Nat) (s : State) : (timer a n s).free = s.free := rfl
@[simp] theorem timer_time (a n : Nat) (s : State) : (timer a n s).time = s.time := rfl
@[simp] theorem timer_mem (a n : Nat) (s : State) : (timer a n s).mem = s.mem := rfl
@[simp] theorem timer_host (a n : Nat) (s : State) : (timer a n s).host = s.host := rfl
@[simp] theorem timer_comp (a n : Nat) (s : State) : (timer a n s).comp = s.comp := rfl
@[simp] theorem timer_step (a n : Nat) (s : State) : (timer a n s).step = s.step := rfl
@[simp] theorem timer_tally (a n : Nat) (s : State) : (timer a n s).tally = s.tally := rfl
@[simp] theorem timer_ports (a n : Nat) (s : State) : (timer a n s).ports = s.ports := rfl
@[simp] theorem timer_link (a n : Nat) (s : State) : (timer a n s).link = s.link := rfl
@[simp] theorem timer_safe (a n : Nat) (s : State) : (timer a n s).safe = s.safe := rfl
@[simp] theorem timer_power (a n : Nat) (s : State) : (timer a n s).power = s.power := rfl
@[simp] theorem timer_test (a n : Nat) (s : State) : (timer a n s).test = s.test := rfl

end Sys2Proof.Machine
end

