-- ==== Sys2Proof/Laws/Frames.lean ====
section
/-! SUPPORT. What the shared operations leave: interrupts, events, writes to host memory, status lines, phase records, and the completion of descriptors. -/

namespace Sys2Proof.Machine

theorem Part.same_refl (p : Part) (s : State) : p.same s s := by cases p <;> simp [Part.same]

theorem Part.same_trans {p : Part} {s t u : State} (h : p.same s t) (k : p.same t u) : p.same s u := by
  cases p <;> simp_all [Part.same]

theorem sameBut_refl (l : List Part) (s : State) : sameBut l s s := ⟨rfl, fun p _ => p.same_refl s⟩

theorem sameBut_trans {l : List Part} {s t u : State} (h : sameBut l s t) (k : sameBut l t u) : sameBut l s u :=
  ⟨k.1.trans h.1, fun p hp => Part.same_trans (h.2 p hp) (k.2 p hp)⟩

theorem sameBut_mono {l m : List Part} {s t : State} (h : sameBut l s t) (k : ∀ p ∈ l, p ∈ m) : sameBut m s t :=
  ⟨h.1, fun p hp => h.2 p (fun q => hp (k p q))⟩

/-- One more change, whose parts are among those listed. -/
theorem sameBut_then {l m : List Part} {s t u : State} (k : sameBut m t u) (hm : ∀ p ∈ m, p ∈ l) (h : sameBut l s t) :
    sameBut l s u := sameBut_trans h (sameBut_mono k hm)

theorem sameBut_ite {l : List Part} {s t u : State} {c : Prop} [Decidable c] (h : sameBut l s t) (k : sameBut l s u) :
    sameBut l s (if c then t else u) := by split <;> assumption

theorem sameBut_foldl {α : Type} {l : List Part} {f : State → α → State} (h : ∀ s a, sameBut l s (f s a)) (xs : List α)
    (s : State) : sameBut l s (xs.foldl f s) := by
  induction xs generalizing s with
  | nil => exact sameBut_refl l s
  | cons a xs ih => exact sameBut_trans (h s a) (ih (f s a))

/-- A count moves counters alone. -/
theorem count_sameBut (a n : Nat) (s : State) : sameBut [.counters] s (count a n s) := by
  obtain ⟨c, o, h⟩ := count_eq a n s
  rw [h]
  exact ⟨rfl, fun p hp => by cases p <;> simp_all [Part.same]⟩

/-- A register word set moves held bits alone. -/
theorem setReg4_sameBut (a v : Nat) (s : State) : sameBut [.held] s (setReg4 s a v) :=
  ⟨rfl, fun p hp => by cases p <;> simp_all [Part.same, setReg4]⟩

/-- A write to host memory moves host memory, or counts that it was dropped (Table 10.24). -/
theorem hostWrite_sameBut (a : Nat) (bs : List Byte) (s : State) : sameBut [.hostMem, .counters] s (hostWrite a bs s) := by
  unfold hostWrite
  split
  · exact ⟨rfl, fun p hp => by cases p <;> simp_all [Part.same]⟩
  · exact sameBut_mono (count_sameBut _ _ s) (by simp)

theorem setVector_sameBut (v : Nat) (x : Vector) (s : State) : sameBut [.ring] s (setVector s v x) :=
  ⟨rfl, fun p hp => by cases p <;> simp_all [Part.same, setVector]⟩

/-- A vector's message moves its vector, or counts that it was dropped (R271). -/
theorem sendVector_sameBut (v : Nat) (s : State) : sameBut [.ring, .counters] s (sendVector v s) := by
  unfold sendVector
  have h (x : Vector) : sameBut [.ring, .counters] s (setVector s v x) := sameBut_mono (setVector_sameBut v x s) (by simp)
  simp only
  split
  · exact h _
  · split
    · exact h _
    · exact sameBut_trans (h _) (sameBut_mono (count_sameBut _ _ _) (by simp))

/-- A request moves its vector (R270, R271). -/
theorem requestVector_sameBut (v : Nat) (s : State) : sameBut [.ring, .counters] s (requestVector v s) := by
  unfold requestVector
  have h (x : Vector) : sameBut [.ring, .counters] s (setVector s v x) := sameBut_mono (setVector_sameBut v x s) (by simp)
  simp only
  split
  · exact sameBut_trans (h _) (sendVector_sameBut v _)
  · exact h _

/-- An event moves the event ring, host memory and counters alone (R268). -/
theorem raiseEv_sameBut (e : Ev) (s : State) : sameBut eventParts s (raiseEv e s) := by
  have ring (t : State) (f : HostSt → HostSt) (h : ∀ x, (f x).streams = x.streams ∧ (f x).mem = x.mem ∧ (f x).bad = x.bad
      ∧ (f x).aer = x.aer ∧ (f x).rate = x.rate ∧ (f x).width = x.width ∧ (f x).flit = x.flit ∧ (f x).linkUp = x.linkUp
      ∧ (f x).perstLow = x.perstLow ∧ (f x).needReset = x.needReset ∧ (f x).bwsplit = x.bwsplit
      ∧ (f x).bwPending = x.bwPending ∧ (f x).bwErr = x.bwErr ∧ (f x).slotLen = x.slotLen ∧ (f x).stashErr = x.stashErr
      ∧ (f x).interlock = x.interlock ∧ (f x).interlockPending = x.interlockPending) : sameBut eventParts t (modHost t f) :=
    ⟨rfl, fun p hp => by cases p <;> simp_all [Part.same, eventParts]⟩
  unfold raiseEv
  simp only
  split
  · exact sameBut_refl _ s
  · split
    · exact sameBut_trans (ring s _ (fun x => by simp)) (sameBut_mono (count_sameBut _ _ _) (by simp [eventParts]))
    · have h1 := sameBut_mono (hostWrite_sameBut (reg8 s (hostBase + 0x30) / 4096 * 4096
          + 32 * (s.host.eqProduced % eqSize s)) (evBytes s e) s) (m := eventParts) (by simp [eventParts])
      have h2 := sameBut_trans h1 (ring _ (fun h => { h with eqProduced := (h.eqProduced + 1) % 2 ^ 32, eqLost := 0 })
        (fun x => by simp))
      have h3 := sameBut_trans h2 (sameBut_mono (requestVector_sameBut 64 _) (by simp [eventParts]))
      split
      · exact sameBut_trans h3 (sameBut_mono (sendVector_sameBut 64 _) (by simp [eventParts]))
      · exact h3

/-- Status lines move host memory alone, or count that a write was dropped (R249). -/
theorem statusLines_sameBut (old s : State) : sameBut settleParts s (statusLines old s) := by
  unfold statusLines
  refine sameBut_foldl (fun t i => ?_) _ s
  unfold statusLine
  split
  · exact sameBut_mono (hostWrite_sameBut _ _ t) (by simp [settleParts])
  · exact sameBut_refl _ t

theorem setPhase_sameBut (on : Bool) (s : State) (f : Nat) : sameBut settleParts s (setPhase on s f) := by
  unfold setPhase
  simp only
  split
  · exact sameBut_refl _ s
  · exact ⟨rfl, fun p hp => by cases p <;> simp_all [Part.same, settleParts]⟩

/-- Phase records move alone (R429). -/
theorem settlePhases_sameBut (s : State) : sameBut settleParts s (settlePhases s) := by
  unfold settlePhases
  exact sameBut_trans (sameBut_foldl (fun t f => setPhase_sameBut _ t f) _ s) (setPhase_sameBut _ _ 6)

/-- What a command of streams does last moves host memory, counters and phase records alone. -/
theorem settle_sameBut (old s : State) : sameBut settleParts s (settle old s) :=
  sameBut_trans (statusLines_sameBut old s) (settlePhases_sameBut _)

theorem settle_streams (old s : State) : (settle old s).host.streams = s.host.streams :=
  (settle_sameBut old s).2 .streams (by simp [settleParts])

/-- A stream after the settling is the stream before it. -/
@[simp] theorem stream_settle (old s : State) (i : Nat) : stream (settle old s) i = stream s i := by
  unfold stream; rw [settle_streams]

@[simp] theorem findRec_settle (old s : State) (i seq : Nat) : findRec (settle old s) i seq = findRec s i seq := by
  unfold findRec; rw [stream_settle]

/-- Changing a record moves streams alone. -/
theorem modRec_sameBut (i seq : Nat) (f : Rec → Rec) (s : State) : sameBut [.streams] s (modRec i seq f s) :=
  ⟨rfl, fun p hp => by cases p <;> simp_all [Part.same, modRec, modStream, setStream]⟩

/-- The completion of a descriptor moves streams alone. -/
theorem complete_sameBut (i seq st d v : Nat) (fl : CFlags) (s : State) : sameBut [.streams] s (complete i seq st d v fl s) :=
  modRec_sameBut i seq _ s

end Sys2Proof.Machine
end

