-- ==== Sys2Proof/Laws/Memory.lean ====
section
/-! SUPPORT. Bytes of memory: what a read after a write gives, and the canonical form every write keeps. -/

namespace Sys2Proof.Machine

theorem cellsOf_ge (a : Nat) (bs : List Byte) : ∀ p ∈ cellsOf a bs, a ≤ p.1 ∧ p.1 < a + bs.length ∧ p.2 ≠ 0#8 := by
  induction bs generalizing a with
  | nil => simp [cellsOf]
  | cons b bs ih =>
    intro p hp
    unfold cellsOf at hp
    simp only [List.length_cons]
    split at hp
    · have := ih _ p hp; exact ⟨by omega, by omega, this.2.2⟩
    · rcases List.mem_cons.mp hp with h | h
      · subst h; exact ⟨Nat.le_refl _, by simp, by assumption⟩
      · have := ih _ p h; exact ⟨by omega, by omega, this.2.2⟩

theorem cellsOf_pairwise (a : Nat) (bs : List Byte) : (cellsOf a bs).Pairwise (fun p q => p.1 < q.1) := by
  induction bs generalizing a with
  | nil => exact List.Pairwise.nil
  | cons b bs ih =>
    unfold cellsOf
    split
    · exact ih _
    · exact List.pairwise_cons.mpr ⟨fun p hp => by have := cellsOf_ge (a + 1) bs p hp; omega, ih _⟩

/-- Bytes put into a memory keep its canonical form. -/
theorem wf_putBytes {m : List Host.Cell} (a : Nat) (bs : List Byte) (h : Memory.wf m) : Memory.wf (putBytes m a bs) := by
  obtain ⟨hp, hd⟩ := h
  refine ⟨?_, ?_⟩
  · unfold putBytes
    rw [List.pairwise_append, List.pairwise_append]
    refine ⟨⟨hp.filter _, cellsOf_pairwise a bs, ?_⟩, hp.filter _, ?_⟩
    · intro x hx y hy
      have h1 := (List.mem_filter.mp hx).2
      have h2 := cellsOf_ge a bs y hy
      simp only [decide_eq_true_eq] at h1
      omega
    · intro x hx y hy
      simp only [List.mem_append, List.mem_filter, decide_eq_true_eq] at hx hy
      rcases hx with hx | hx
      · omega
      · have := cellsOf_ge a bs x hx; omega
  · intro p hp'
    simp only [putBytes, List.mem_append] at hp'
    rcases hp' with (h1 | h1) | h1
    · exact hd p (List.mem_filter.mp h1).1
    · exact (cellsOf_ge a bs p h1).2.2
    · exact hd p (List.mem_filter.mp h1).1

theorem find_cellsOf (a : Nat) (bs : List Byte) (j : Nat) :
    sget 0#8 (cellsOf a bs) j = if a ≤ j then bs.getD (j - a) 0#8 else 0#8 := by
  induction bs generalizing a with
  | nil => simp [cellsOf, sget]
  | cons b bs ih =>
    by_cases hj : j = a
    · subst hj
      unfold cellsOf
      split
      · rename_i hb; rw [ih]; simp [hb]
      · simp [sget]
    · have hrest : sget 0#8 (cellsOf a (b :: bs)) j = sget 0#8 (cellsOf (a + 1) bs) j := by
        show sget 0#8 (if b = 0#8 then cellsOf (a + 1) bs else (a, b) :: cellsOf (a + 1) bs) j = _
        split
        · rfl
        · simp [sget, Ne.symm hj]
      rw [hrest, ih]
      by_cases h1 : a ≤ j
      · have h2 : a + 1 ≤ j := by omega
        have h3 : j - a = (j - (a + 1)) + 1 := by omega
        simp [h1, h2, h3]
      · have h2 : ¬ a + 1 ≤ j := by omega
        simp [h1, h2]

theorem sget_append_none {m l : List Host.Cell} {j : Nat} (h : ∀ p ∈ m, p.1 ≠ j) : sget 0#8 (m ++ l) j = sget 0#8 l j := by
  unfold sget
  rw [List.find?_append, List.find?_eq_none.mpr (fun p hp => by simpa using h p hp)]
  rfl

/-- A byte outside those put reads as before. -/
theorem byteAt_putBytes_outside (m : List Host.Cell) (a : Nat) (bs : List Byte) (j : Nat)
    (h : j < a ∨ a + bs.length ≤ j) : byteAt (putBytes m a bs) j = byteAt m j := by
  unfold byteAt putBytes
  rcases h with h | h
  · unfold sget
    rw [List.find?_append, List.find?_append, find_filter_key (fun n => decide (n < a)),
      find_filter_key (fun n => decide (a + bs.length ≤ n))]
    have h2 : (cellsOf a bs).find? (fun x => x.1 == j) = none := by
      rw [List.find?_eq_none]
      intro p hp
      have := cellsOf_ge a bs p hp
      simp; omega
    have h3 : ¬ a + bs.length ≤ j := by omega
    simp [h, h2, h3]
  · rw [sget_append_none]
    · unfold sget
      rw [find_filter_key (fun n => decide (a + bs.length ≤ n))]
      simp [h]
    · intro p hp
      simp only [List.mem_append, List.mem_filter, decide_eq_true_eq] at hp
      rcases hp with hp | hp
      · omega
      · have := cellsOf_ge a bs p hp; omega

/-- A byte put reads as it was put. -/
theorem byteAt_putBytes_inside (m : List Host.Cell) (a : Nat) (bs : List Byte) (i : Nat) (h : i < bs.length) :
    byteAt (putBytes m a bs) (a + i) = bs.getD i 0#8 := by
  unfold byteAt putBytes
  rw [List.append_assoc, sget_append_none]
  · have hc := find_cellsOf a bs (a + i)
    simp only [Nat.le_add_right, if_true, Nat.add_sub_cancel_left] at hc
    rw [← hc]
    unfold sget
    rw [List.find?_append, find_filter_key (fun n => decide (a + bs.length ≤ n))]
    have : ¬ a + bs.length ≤ a + i := by omega
    simp [this]
  · intro p hp
    simp only [List.mem_filter, decide_eq_true_eq] at hp
    omega

/-- Module memory keeps its canonical form under every write. -/
theorem wf_memPut (a : Nat) (bs : List Byte) (s : State) (h : Memory.wf s.mem.data) : Memory.wf (memPut a bs s).mem.data := by
  unfold memPut
  split
  · exact wf_putBytes _ _ h
  · generalize pieces a bs.length = l
    suffices ∀ t : State, Memory.wf t.mem.data → Memory.wf (l.foldl (fun t p =>
        modMem t (fun m => { m with data := putBytes m.data (phys s p.1) ((bs.drop (p.1 - a)).take p.2) })) t).mem.data from
      this s h
    induction l with
    | nil => exact fun t ht => ht
    | cons p l ih => exact fun t ht => ih _ (wf_putBytes _ _ ht)

end Sys2Proof.Machine
end

