-- ==== Sys2Proof/Laws/Power.lean ====
section
/-! SUPPORT. What the shared operations of alarms, the governor and boost windows do. -/

namespace Sys2Proof.Machine

/-- Disarming an alarm moves its register word, and the tally's list of alarms that a preset passed. -/
theorem disarm_sameBut (n : Nat) (s : State) : sameBut [.held, .tally] s (disarm n s) :=
  ⟨rfl, fun p hp => by cases p <;> simp_all [Part.same, disarm, forget, setReg4]⟩

@[simp] theorem disarm_power (n : Nat) (s : State) : (disarm n s).power = s.power := rfl

theorem modBoost_sameBut (f : BoostSt → BoostSt) (s : State) : sameBut [.power] s (modBoost s f) :=
  ⟨rfl, fun p hp => by cases p <;> simp_all [Part.same, modBoost]⟩

/-- The parts that the end of a plan entry may move. -/
theorem closePlan_sameBut (i st r : Nat) (s : State) : sameBut [.held, .tally, .power] s (closePlan i st r s) := by
  unfold closePlan
  exact sameBut_then (modBoost_sameBut _ _) (by simp) (sameBut_then (setReg4_sameBut _ _ _) (by simp)
    (sameBut_then (disarm_sameBut _ _) (by simp) (sameBut_mono (disarm_sameBut _ s) (by simp))))

theorem closePlan_power (i st r : Nat) (s : State) : (closePlan i st r s).power = { s.power with
    boost := { s.power.boost with status := sset 0 s.power.boost.status i st, reason := sset 0 s.power.boost.reason i r } } := rfl

/-- An event leaves the supplies, the governor and the ledger. -/
@[simp] theorem raiseEv_power (e : Ev) (s : State) : (raiseEv e s).power = s.power :=
  (raiseEv_sameBut e s).2 .power (by simp [eventParts])

@[simp] theorem runSwitch_power (s : State) : (runSwitch s).power = s.power := by
  unfold runSwitch restartSteward; split <;> rfl

theorem followAllowed_sameBut (s : State) : sameBut [.power] s (followAllowed s) := by
  unfold followAllowed setClock
  simp only
  split
  · exact ⟨rfl, fun p hp => by cases p <;> simp_all [Part.same]⟩
  · split
    · exact sameBut_refl _ s
    · exact ⟨rfl, fun p hp => by cases p <;> simp_all [Part.same]⟩

theorem allow_sameBut (a : Nat) (s : State) : sameBut [.power] s (allow a s) :=
  sameBut_then (followAllowed_sameBut _) (by simp) ⟨rfl, fun p hp => by cases p <;> simp_all [Part.same]⟩

/-- The allowance of the governor stands, and boost windows with it, where the clock follows. -/
theorem followAllowed_power (s : State) : ∃ c m r, (followAllowed s).power =
    { s.power with clock := c, maxClock := m, returning := r } := by
  unfold followAllowed setClock
  simp only
  split
  · exact ⟨_, _, _, rfl⟩
  · split
    · exact ⟨_, _, _, rfl⟩
    · exact ⟨_, _, _, rfl⟩

theorem allow_power (a : Nat) (s : State) : ∃ c m r, (allow a s).power =
    { s.power with allowed := a, clock := c, maxClock := m, returning := r } := followAllowed_power _

theorem runSwitch_sameBut (s : State) : sameBut [.safe] s (runSwitch s) := by
  unfold runSwitch restartSteward
  split
  · exact ⟨rfl, fun p hp => by cases p <;> simp_all [Part.same]⟩
  · exact sameBut_refl _ s

/-- The parts that the end of a window may move (R386). -/
theorem endWindow_sameBut (r : Nat) (s : State) :
    sameBut (eventParts ++ [.held, .tally, .power, .safe]) s (endWindow r s) := by
  unfold endWindow
  simp only
  split
  · exact sameBut_refl _ s
  · refine sameBut_then (runSwitch_sameBut _) (by simp) (sameBut_then (raiseEv_sameBut _ _) (by simp [eventParts])
      (sameBut_then (allow_sameBut _ _) (by simp) (sameBut_then (modBoost_sameBut _ _) (by simp)
        (sameBut_mono (closePlan_sameBut _ _ _ s) (by simp)))))

/-- A window that was open has ended, with its reason; the allowance is at most 1.6 GHz (R386). -/
theorem endWindow_power (r : Nat) (s : State) (h : s.power.boost.opened = true) : ∃ c m q b,
    (endWindow r s).power = { s.power with
      allowed := min s.power.allowed clockBase, clock := c, maxClock := m, returning := q, boost := b }
    ∧ b.opened = false ∧ b.lastReason = r ∧ b.lastLen = nowUs s - s.power.boost.openedAt
    ∧ b.closedAt = some (nowUs s) ∧ sget 0 b.status s.power.boost.entry = 2 ∧ sget 0 b.reason s.power.boost.entry = r := by
  have e : (endWindow r s).power = (allow (min s.power.allowed clockBase) (modBoost (closePlan s.power.boost.entry 2 r s)
      (fun x => { x with opened := false, closedAt := some (nowUs s), lastReason := r, lastLen := nowUs s - s.power.boost.openedAt }))).power := by
    unfold endWindow
    rw [if_neg (by simp [h])]
    simp only [runSwitch_power, raiseEv_power]
    rfl
  rw [e]
  generalize hm : modBoost (closePlan s.power.boost.entry 2 r s) (fun x => { x with
    opened := false, closedAt := some (nowUs s), lastReason := r, lastLen := nowUs s - s.power.boost.openedAt }) = m
  obtain ⟨c, k, q, e⟩ := allow_power (min s.power.allowed clockBase) m
  have hp : m.power = { s.power with boost := m.power.boost } := by subst hm; rfl
  rw [e, hp]
  refine ⟨c, k, q, m.power.boost, rfl, ?_⟩
  subst hm
  exact ⟨rfl, rfl, rfl, rfl, sget_sset_same _ _ _ _, sget_sset_same _ _ _ _⟩

/-- Without an open window nothing happens. -/
theorem endWindow_closed (r : Nat) (s : State) (h : s.power.boost.opened = false) : endWindow r s = s := by
  unfold endWindow; simp [h]

end Sys2Proof.Machine
end

