-- ==== Sys2Proof/Tests/Slice0.lean ====
section
/-! SUPPORT. The model's own tests: ill-formed terms that the checks refuse, and for each statement a state and operands that meet its hypotheses. -/

namespace Sys2Proof.Tests

open Sys2Proof Sys2Proof.Machine

set_option Elab.async false

theorem test_reset_memory : MemInv State.reset := by decide

/-! ### Ill-formed terms, one for each check, which the check refuses -/

theorem test_wfHeader_refuses : let x : Header := default; wfHeader x = true ∧ [{ x with slot := 2 ^ 2 }, { x with
  group := 2 ^ 6 }, { x with tag := 2 ^ 32 }, { x with pos := 2 ^ 20 }, { x with tensorId := 2 ^ 12 }, { x with layer
  := 2 ^ 16 }].all (!wfHeader ·) = true := by decide

theorem test_wfMatmul_refuses : let x : MatmulBody := default; wfMatmul x = true ∧ [{ x with a := 2 ^ 16 }, { x with
  b := 2 ^ 16 }, { x with out := 2 ^ 16 }, { x with aux := 2 ^ 16 }, { x with saved := 2 ^ 16 }, { x with weightId :=
  2 ^ 12 }, { x with version := 2 ^ 8 }, { x with accTile := 2 ^ 7 }, { x with dwTile := 2 ^ 7 }, { x with splitN := 2
  ^ 4 }, { x with start := 2 ^ 4 }, { x with kind := 2 ^ 2 }, { x with dir := 2 ^ 2 }, { x with pass := 2 ^ 2 }, { x
  with preload := 2 ^ 2 }, { x with glen := 2 ^ 2 }, { x with fileA := 2 ^ 12 }, { x with fileB := 2 ^ 12 }, { x with
  rowBase := 2 ^ 12 }, { x with underBits := 2 ^ 4 }, { x with histBase := 2 ^ 8 }, { x with fn := 2 ^ 5 }, { x with
  alpha := 2 ^ 32 }].all (!wfMatmul ·) = true := by decide

theorem test_wfVecop_refuses : let x : VecopBody := default; wfVecop x = true ∧ [{ x with vop := 2 ^ 8 }, { x with
  fn := 2 ^ 5 }, { x with k := 2 ^ 7 }, { x with norm := 2 ^ 2 }, { x with in0 := 2 ^ 16 }, { x with in1 := 2 ^ 16 },
  { x with in2 := 2 ^ 16 }, { x with out0 := 2 ^ 16 }, { x with out1 := 2 ^ 16 }, { x with threshold := 2 ^ 16 }, { x
  with s0 := 2 ^ 32 }, { x with s1 := 2 ^ 32 }, { x with file0 := 2 ^ 12 }, { x with file1 := 2 ^ 12 }, { x with file2
  := 2 ^ 12 }, { x with histBase := 2 ^ 8 }].all (!wfVecop ·) = true := by decide

theorem test_wfScan_refuses : let x : ScanBody := default; wfScan x = true ∧ [{ x with mode := 2 ^ 2 }, { x with
  chunkLen := 2 ^ 21 }, { x with chunk := 2 ^ 32 }, { x with nchunks := 2 ^ 16 }, { x with a := 2 ^ 16 }, { x with b
  := 2 ^ 16 }, { x with out := 2 ^ 16 }, { x with record := 2 ^ 64 }, { x with cin := 2 ^ 64 }, { x with foldOut := 2
  ^ 64 }].all (!wfScan ·) = true := by decide

theorem test_wfMove_refuses : let x : MoveBody := default; wfMove x = true ∧ [{ x with length := 2 ^ 32 }, { x with
  src := 2 ^ 64 }, { x with dst := 2 ^ 64 }, { x with arg0 := 2 ^ 32 }, { x with arg1 := 2 ^ 32 }, { x with mark := 2
  ^ 64 }, { x with markFrac := 2 ^ 8 }].all (!wfMove ·) = true := by decide

theorem test_wfReduce_refuses : let x : ReduceBody := default; wfReduce x = true ∧ [{ x with bucket := 2 ^ 12 }, { x
  with op := 2 ^ 3 }, { x with rank := 2 ^ 7 }, { x with src := 2 ^ 16 }, { x with plan := 2 ^ 16 }, { x with backup
  := 2 ^ 16 }, { x with dst := 2 ^ 64 }, { x with deadline := 2 ^ 64 }, { x with deadlineFrac := 2 ^ 8 }].all
  (!wfReduce ·) = true := by decide

theorem test_wfDispatch_refuses : let x : DispatchBody := default; wfDispatch x = true ∧ [{ x with tokens := 2 ^ 16
  }, { x with route := 2 ^ 16 }, { x with weights := 2 ^ 16 }, { x with out := 2 ^ 16 }, { x with capacity := 2 ^ 16
  }, { x with policy := 2 ^ 2 }, { x with k := 2 ^ 7 }, { x with plan := 2 ^ 16 }].all (!wfDispatch ·) = true := by
  decide

theorem test_wfUpdate_refuses : let x : UpdateBody := default; wfUpdate x = true ∧ [{ x with weightId := 2 ^ 12 }, {
  x with grad := 2 ^ 16 }, { x with gradAddr := 2 ^ 64 }, { x with hyper := 2 ^ 64 }].all (!wfUpdate ·) = true := by
  decide

theorem test_wfStashSave_refuses : let x : StashSaveBody := default; wfStashSave x = true ∧ [{ x with src := 2 ^ 16
  }, { x with weightId := 2 ^ 12 }, { x with file := 2 ^ 12 }].all (!wfStashSave ·) = true := by decide

theorem test_wfStashLoad_refuses : let x : StashLoadBody := default; wfStashLoad x = true ∧ [{ x with index := 2 ^ 8
  }, { x with clove := 2 ^ 11 }, { x with list := 2 ^ 12 }, { x with dst := 2 ^ 16 }].all (!wfStashLoad ·) = true :=
  by decide

theorem test_wfGate_refuses : let x : GateBody := default; wfGate x = true ∧ [{ x with mark := 2 ^ 64 }, { x with
  frac := 2 ^ 8 }].all (!wfGate ·) = true := by decide

theorem test_wfCall_refuses : let x : CallBody := default; wfCall x = true ∧ [{ x with list := 2 ^ 12 }, { x with
  slot := 2 ^ 2 }, { x with posAdd := 2 ^ 20 }].all (!wfCall ·) = true := by decide

theorem test_wfScaleCommit_refuses : let x : ScaleCommitBody := default; wfScaleCommit x = true ∧ [{ x with first :=
  2 ^ 12 }, { x with count := 2 ^ 13 }, { x with headroom := 2 ^ 2 }, { x with dst := 2 ^ 64 }].all (!wfScaleCommit ·)
  = true := by decide

theorem test_wfStepCommit_refuses : let x : StepCommitBody := default; wfStepCommit x = true ∧ [{ x with vote := 2 ^
  12 }, { x with plan := 2 ^ 16 }, { x with deadline := 2 ^ 64 }, { x with deadlineFrac := 2 ^ 8 }].all (!wfStepCommit
  ·) = true := by decide

theorem test_wfEvent_refuses : let x : EventBody := default; wfEvent x = true ∧ [{ x with addr := 2 ^ 64 }, { x with
  value := 2 ^ 64 }, { x with vector := 2 ^ 7 }].all (!wfEvent ·) = true := by decide

theorem test_wfFirst_refuses : let x : FirstSetter := default; wfFirst x = true ∧ [{ x with tally := 2 ^ 64 }, { x
  with node := 2 ^ 16 }, { x with layer := 2 ^ 16 }, { x with tensor := 2 ^ 12 }].all (!wfFirst ·) = true := by decide

theorem test_wfTrailer_refuses : let x : Trailer := default; wfTrailer x = true ∧ [{ x with count := 2 ^ 16 }, { x
  with expected := 2 ^ 16 }, { x with tag := 2 ^ 32 }, { x with tally := 2 ^ 64 }, { x with elements := 2 ^ 32 }, { x
  with clippedCount := 2 ^ 32 }].all (!wfTrailer ·) = true := by decide

theorem test_wfMeta_refuses : let x : InputMeta := default; wfMeta x = true ∧ [{ x with count := 2 ^ 16 }].all
  (!wfMeta ·) = true := by decide

theorem test_wfToken_refuses : let x : TokenRec := default; wfToken x = true ∧ [{ x with origin := 2 ^ 16 }, { x
  with choice := 2 ^ 8 }, { x with row := 2 ^ 32 }, { x with expert := 2 ^ 20 }, { x with epoch := 2 ^ 16 }, { x with
  round := 2 ^ 8 }].all (!wfToken ·) = true := by decide

theorem test_wfTally_refuses : let x : TallyMsg := default; wfTally x = true ∧ [{ x with pair := 2 ^ 64 }, { x with
  frac := 2 ^ 8 }, { x with rate := 2 ^ 32 }, { x with sender := 2 ^ 16 }, { x with master := 2 ^ 16 }, { x with hop
  := 2 ^ 8 }, { x with flags := 2 ^ 8 }, { x with t2 := 2 ^ 64 }, { x with t3 := 2 ^ 64 }].all (!wfTally ·) = true :=
  by decide

theorem test_wfCopy_refuses : let x : BackupCopy := default; wfCopy x = true ∧ [{ x with bucket := 2 ^ 12 }, { x
  with standIn := 2 ^ 16 }, { x with sender := 2 ^ 16 }].all (!wfCopy ·) = true := by decide

theorem test_wfCheck_refuses : let x : FlitCheck := default; wfCheck x = true ∧ [{ x with corrected := 31 }, { x with crc := 2 ^ 64 },
  { x with res := 256 }, { x with codeword := true, lastBad := true }].all (!wfCheck ·) = true := by decide

theorem test_wfFlit_refuses : let x : Flit := default; wfFlit x = true ∧ [{ x with kind := 16 }, { x with laneSeq
  := 2 ^ 8 }, { x with ackSeq := 2 ^ 8 }, { x with dst := 2 ^ 16 }, { x with src := 2 ^ 16 }, { x with vcSeq := 2 ^ 16
  }, { x with crTotal := 2 ^ 12 }, { x with ctx := 2 ^ 20 }, { x with vc := 8 }, { x with ackLane := 9 }, { x with
  crVc := 8 }, { x with length := 256 }, { x with data := List.replicate 233 0 }].all (!wfFlit ·) = true := by
  decide +kernel

theorem test_wfFaults_refuses : let x : StartFaults := default; wfFaults x = true ∧ [{ x with vinA := 2 ^ 16 }, { x
  with vinB := 2 ^ 16 }].all (!wfFaults ·) = true := by decide

theorem test_wfSense_refuses : let x : Sense := default; wfSense x = true ∧ [{ x with vinA := 2 ^ 16 }, { x with
  vinB := 2 ^ 16 }, { x with iinA := 2 ^ 16 }, { x with iinB := 2 ^ 16 }, { x with pin10us := 2 ^ 16 }, { x with
  pin10ms := 2 ^ 16 }, { x with pin60s := 2 ^ 16 }, { x with jmax := 2 ^ 12 }, { x with jdie := 2 ^ 6 }, { x with
  hbmMax := 2 ^ 12 }, { x with coolIn := 2 ^ 12 }, { x with coolOut := 2 ^ 12 }, { x with flow := 2 ^ 12 }].all
  (!wfSense ·) = true := by decide

/-- A header whose slot number is too large. -/
def badHdr : Header := { (default : Header) with slot := 4 }

theorem test_wellFormed_refuses_1 : ([.nop 64 default, .nop 0 badHdr, .matmul 64 default default, .matmul 0 badHdr
  default, .bwdPair 64 default default, .bwdPair 0 badHdr default, .productTableMatmul 64 default default,
  .productTableMatmul 0 badHdr default, .vecop 64 default default, .vecop 0 badHdr default, .scan 64 default default,
  .scan 0 badHdr default, .moveCopy 64 default default, .moveCopy 0 badHdr default, .moveScaleFile 64 default default,
  .moveScaleFile 0 badHdr default, .moveInt4Table 64 default default, .moveInt4Table 0 badHdr default, .moveRowBank 64
  default default, .moveRowBank 0 badHdr default, .moveSpline 64 default default, .moveSpline 0 badHdr default,
  .moveGroup 64 default default, .moveGroup 0 badHdr default, .moveWeightTable 64 default default, .moveWeightTable 0
  badHdr default, .moveStatSlot 64 default default, .moveStatSlot 0 badHdr default, .snapshot 64 default default,
  .snapshot 0 badHdr default, .seed 64 default default, .seed 0 badHdr default, .keyseed 64 default default, .keyseed
  0 badHdr default, .deliver 64 default default, .deliver 0 badHdr default, .reduce 64 default default, .reduce 0
  badHdr default, .dispatch 64 default default, .dispatch 0 badHdr default] : List Instr).all (!wellFormed ·) = true
  := by decide

theorem test_wellFormed_refuses_2 : ([.combine 64 default default, .combine 0 badHdr default, .gate 64 default
  default, .gate 0 badHdr default, .depend 64 default [], .depend 0 badHdr [], .barrier 64 default, .barrier 0 badHdr,
  .call 64 default default, .call 0 badHdr default, .update 64 default default, .update 0 badHdr default, .stashSave
  64 default default, .stashSave 0 badHdr default, .stashLoad 64 default default, .stashLoad 0 badHdr default,
  .scaleCommit 64 default default, .scaleCommit 0 badHdr default, .stepCommit 64 default default, .stepCommit 0 badHdr
  default, .event 64 default default, .event 0 badHdr default, .descriptorTake 64, .completionEntryWrite 64,
  .itemHandout 96, .workSteal 96, .contextSwitch 1216 0 0, .contextSwitch 0 3 0, .contextSwitch 0 0 (2 ^ 4),
  .tileWaitOpen 1216 0, .tileWaitOpen 0 128, .sharedMemberAdd 1216 0, .sharedMemberAdd 0 128, .combinePartialReceive
  1216 0, .combinePartialReceive 0 128, .stolenChunkReceive 1216 0, .stolenChunkReceive 0 128, .tileDrain 1216,
  .drainPassEnd 1216, .redrainComplete 1216] : List Instr).all (!wellFormed ·) = true := by decide

theorem test_wellFormed_refuses_3 : ([.stashSaveResume 64, .updateStart (2 ^ 12), .voteResult (2 ^ 12) false false
  default, .streamEnable 64, .streamDisable 64, .streamResume 64, .streamAbort 64, .streamRestart 64, .stallDetect 64
  0, .stallDetect 0 64, .sqDb 64 0, .sqDb 0 (2 ^ 64), .cqDb 64 0, .cqDb 0 (2 ^ 64), .eqDb (2 ^ 64), .msixModTimer 65,
  .msixUnmask 65, .glbIrqTest (2 ^ 64), .bar4Read (2 ^ 36) 0, .bar4Read 0 (2 ^ 32), .bar4Write (2 ^ 36) [],
  .hbmRowRemapDone 512, .trackerEntryExpire 1216 0, .trackerEntryExpire default (2 ^ 44), .memInjArm 12288 0,
  .memInjArm 1216 0, .memInjArm default (2 ^ 96), .hbmRetire (2 ^ 64), .hbmMigrationDone 512, .arrayFault 1216 false,
  .spareJoin 1216, .canaryRun true 16 false, .canaryRun false 1216 false, .canaryNow 1216 false, .quarReq (2 ^ 64),
  .lockstepMismatch 16, .clockFault 24, .tempDisagree 64 0, .tempDisagree 0 (2 ^ 12), .linkAdderResidueFault 8 0 0] :
  List Instr).all (!wellFormed ·) = true := by decide

theorem test_wellFormed_refuses_4 : ([.linkAdderResidueFault 0 9 0, .linkAdderResidueFault 0 0 (2 ^ 12),
  .updateResidueFault 16 0, .updateResidueFault 0 (2 ^ 12), .serialFrame (2 ^ 4) 0 0 0 0 0, .serialFrame 0 (2 ^ 4) 0 0
  0 0, .serialFrame 0 0 (2 ^ 16) 0 0 0, .serialFrame 0 0 0 (2 ^ 48) 0 0, .serialFrame 0 0 0 0 (2 ^ 8) 0, .serialFrame
  0 0 0 0 0 (2 ^ 16), .fabricTick 48 default, .fabricPing 48 default, .fabricEcho 48 default, .pairFault 4,
  .pairRestore 4, .alarmFire 512, .gateRelease 64, .tallyCtrlSrc (2 ^ 2), .tallyPreset (2 ^ 64), .almArm 512 0,
  .almArm 0 (2 ^ 64), .almDisarm 512 0, .almDisarm 0 (2 ^ 64), .tallyTestDone (2 ^ 4), .portEnable 48, .portDisable
  48, .portRetrain 48, .portDetect 48 false false, .portTrainDone 48 0 0 [], .portTrainDone 0 (2 ^ 9) 0 [],
  .portTrainDone 0 0 (2 ^ 9) [], .portAlignDone 48 0, .portAlignDone 0 (2 ^ 9), .identExchange 48 0 0, .identExchange
  0 (2 ^ 16) 0, .identExchange 0 0 (2 ^ 8), .portCreditDone 48 [], .flitSend 48, .flitReceive 48 0 default default,
  .flitReceive 0 9 default default] : List Instr).all (!wellFormed ·) = true := by decide

theorem test_wellFormed_refuses_5 : ([.replayTimeout 48 0, .replayTimeout 0 9, .laneFailure 48 0, .laneFailure 0 9,
  .laneFail 48 0, .laneFail 0 9, .recalReq 48 0, .recalReq 0 9, .recalAck 48 0, .recalAck 0 9, .recalDone 48 0,
  .recalDone 0 9, .portKeepExpire 48, .pmOwn 48 0, .pmOwn 0 9, .pmInject 48 0, .pmInject 0 9, .bucketArm (2 ^ 12),
  .grantReceive 48 0 0 0, .grantReceive 0 (2 ^ 12) 0 0, .grantReceive 0 0 (2 ^ 3) 0, .grantReceive 0 0 0 (2 ^ 32),
  .reduceChunkReceive 48 0 0 [] none, .reduceChunkReceive 0 (2 ^ 12) 0 [] none, .reduceChunkReceive 0 0 (2 ^ 3) []
  none, .resultChunkReceive 48 0 0 [] none, .resultChunkReceive 0 (2 ^ 12) 0 [] none, .resultChunkReceive 0 0 (2 ^ 3)
  [] none, .reduceDeadline (2 ^ 12) 0, .reduceDeadline 0 (2 ^ 3), .copyHoldExpire (2 ^ 12) 0, .copyHoldExpire 0 (2 ^
  16), .shadowTrailerReceive (2 ^ 12) default, .lnkBktWrite (2 ^ 64), .lnkBktCancel (2 ^ 12), .countResult (2 ^ 16) 0
  [], .countResult 0 (2 ^ 8) [], .countTimeout (2 ^ 16), .dispatchRequestReceive (2 ^ 16) 0 0 0 default,
  .dispatchRequestReceive 0 (2 ^ 20) 0 0 default] : List Instr).all (!wellFormed ·) = true := by decide

theorem test_wellFormed_refuses_6 : ([.dispatchRequestReceive 0 0 (2 ^ 16) 0 default, .dispatchRequestReceive 0 0 0 (2 ^
  8) default, .dispatchRequestReceive 0 0 0 0 ⟨2 ^ 32, 0⟩, .dispatchRequestReceive 0 0 0 0 ⟨0, 2 ^ 16⟩,
  .dispatchGrantReceive (2 ^ 16) 0 0 0, .dispatchGrantReceive 0 (2 ^ 20) 0 0, .dispatchGrantReceive 0 0 (2 ^ 8) 0,
  .dispatchGrantReceive 0 0 0 (2 ^ 32), .homeDataRead 8, .homeDataWrite 8 0, .homeDataWrite 0 (2 ^ 64), .homeLoadGo 8,
  .homeLoadDone 8, .schedBwsplitWrite (2 ^ 32), .slotLenWrite 4 0, .slotLenWrite 0 (2 ^ 32), .registerWrite (2 ^ 26) 0
  0, .registerWrite 0 0 (2 ^ 64), .clvBistGo 1216, .clvBistDone 1216 0, .clvBistDone 0 (2 ^ 4), .hbmMbistGo 512,
  .hbmMbistDone 512 [], .glbResetModule (2 ^ 64) default, .glbResetHost (2 ^ 64), .bladeLoss false (2 ^ 16) false
  false, .bladeReturn ⟨false, 2 ^ 16⟩, .supplyWarning (2 ^ 16), .boostPlanArm 16 false, .boostStartMark 16 default 0,
  .boostStartMark 0 default (2 ^ 16), .boostEndMark 16, .coolantOut (2 ^ 12) 0, .coolantOut 0 (2 ^ 12),
  .thermalThrottle (2 ^ 12) 0, .thermalThrottle 0 (2 ^ 12), .workItemComplete 1216 0, .workItemComplete 0 4,
  .updateComplete (2 ^ 12), .scrubRead 1216 0] : List Instr).all (!wellFormed ·) = true := by decide

theorem test_wellFormed_refuses_7 : ([.scrubRead default (2 ^ 44), .eyeMonitorBelowMargin 48 0 0 0,
  .eyeMonitorBelowMargin 0 9 0 0, .eyeMonitorBelowMargin 0 0 (2 ^ 8) 0, .eyeMonitorBelowMargin 0 0 0 (2 ^ 8),
  .pcieLinkUp (2 ^ 3) 0, .pcieLinkUp 0 (2 ^ 5), .peppermillLock 48 0, .peppermillLock 0 9, .peppermillLostLock 48 0,
  .peppermillLostLock 0 9] : List Instr).all (!wellFormed ·) = true := by decide

theorem test_registerWrite_refuses : wellFormed (.registerWrite 0 2 0) = false := by decide

theorem test_payload_refuses : ([.frame 9 0 0, .frame 0 48 0, .frame 0 0 (2 ^ 16), .lctrl 256 0, .lctrl 1 9,
  .bytes (List.replicate 257 0#8), .chunkUp 4096 0 [] none, .chunkUp 0 8 [] none, .chunkDown 4096 0 [] none,
  .chunkDown 0 8 [] none, .grant 4096 0 0, .grant 0 8 0, .request (2 ^ 16) 0 0 0 0 0, .request 0 (2 ^ 20) 0 0 0 0, .request 0 0 0 0 0 (2 ^ 16),
  .allot 0 0 (2 ^ 16) 0 0, .allot 0 0 0 256 0, .error 512] : List Payload).all (!wfPayload ·) = true := by decide +kernel

theorem test_unit_refuses : ([1216, 0x7FF, 0x800 + 1216, 0x1008, 0x2200, 0x3010] : List Nat).all (!wfUnit ·) = true := by decide

theorem test_faults_refuse : let x : StartFaults := default; wfFaults x = true ∧ ([{ x with cloves := [1216] },
  { x with banks := [(8, 0)] }, { x with channels := [512] }, { x with tiles := [16] }, { x with canaries := [1216] },
  { x with engines := [16] }, { x with vinA := 2 ^ 16 }, { x with vinB := 2 ^ 16 }] : List StartFaults).all (!wfFaults ·) = true := by decide

theorem test_waits_refuse : wfWaits (List.replicate 5 ⟨0, 0, false, false⟩) = false ∧ wfWaits [⟨2 ^ 32, 0, false, false⟩] = false
  ∧ wfWaits [⟨0, 64, false, false⟩] = false := by decide

/-! ### States for the witnesses -/

/-- A module that runs: both supplies, the steward booted, the link up at 16 GT/s, software let in. -/
def up : State :=
  { State.reset with
    power := { PowerSt.empty with aux := true, main := true, ok := true, mateA := true, mateB := true, outA := false, outB := false }
    safe := { SafeSt.empty with steward := { StewardSt.empty with on := true, booted := true }, ready := true, phase := 5 }
    host := { HostSt.empty with linkUp := true, perstLow := false, rate := 4, width := 16 } }

theorem witness_JtagInstructions : ∃ s : State, s.power.aux = true := ⟨up, rfl⟩

theorem witness_PmbusCommands : ∃ s : State, s.power.aux = true ∧ stewardUp s = true := ⟨up, rfl, by decide⟩

theorem witness_SupplyDip :
    (up.power.main = true ∧ up.power.warning = false) ∧ State.reset.power.main = false
    ∧ (∃ s : State, s.power.main = true ∧ s.power.warning = true ∧ s.power.qualifying = true)
    ∧ (∃ s : State, stewardUp s = false)
    ∧ ∃ s : State, stewardUp s = true ∧ s.power.returning = true ∧ s.power.warning = false ∧ s.power.tripHold = false
      ∧ s.power.clock < s.power.allowed :=
  ⟨⟨rfl, rfl⟩, rfl, ⟨{ up with power := { up.power with warning := true, qualifying := true } }, rfl, rfl, rfl⟩,
    ⟨State.reset, by decide⟩,
    ⟨{ up with power := { up.power with returning := true, clock := 0x20 } }, by decide, rfl, rfl, rfl, by decide⟩⟩

theorem witness_MainPowerLost : ∃ s : State, s.power.main = true := ⟨up, rfl⟩

theorem witness_Blades :
    (up.power.main = true ∧ up.power.outA = false ∧ up.power.outB = false)
    ∧ ∃ s : State, s.power.outA = true ∧ s.power.outB = true :=
  ⟨⟨rfl, rfl, rfl⟩, ⟨State.reset, rfl, rfl⟩⟩

/-- A reading of `pin` tenths of a watt and nothing else. -/
def reading (pin : Nat) : Sense := ⟨0, 0, 0, 0, 0, pin, 0, 0, 0, 0, 0, 0, 0⟩

/-- `up` with 1.0 GHz allowed. -/
def slow : State := { up with power := { up.power with allowed := 0x28 } }

theorem witness_GovernorSteps :
    (slow.power.main = true ∧ stewardUp slow = true ∧ slow.power.boost.opened = false)
    ∧ currentOver (sense { reading 0 with iinA := 1301 } slow).power = true
    ∧ (let w : State := { slow with power := { slow.power with boost := { slow.power.boost with opened := true } } }
      w.power.main = true ∧ stewardUp w = true ∧ w.power.boost.opened = true ∧ w.power.thermal = false
        ∧ w.power.allowed < clockBoost ∧ currentOver (sense (reading 0) w).power = false
        ∧ currentOver (sense { reading 0 with iinA := 1301 } w).power = true
        ∧ clockBoost ≤ { w.power with allowed := clockBoost }.allowed)
    ∧ 420 ≤ { reading 0 with jmax := 420 }.jmax ∧ { reading 0 with jmax := 419 }.jmax < 420
    ∧ 7500 ≤ { reading 0 with pin60s := 7500 }.pin60s ∧ { reading 0 with pin60s := 7499 }.pin60s < 7500
    ∧ 9500 < { reading 0 with pin10us := 9501 }.pin10us ∧ { reading 0 with pin10us := 9500 }.pin10us ≤ 9500
    ∧ 7500 < (reading 7501).pin10ms ∧ 7500 < { reading 0 with pin60s := 7501 }.pin60s
    ∧ ((reading 7199).pin10ms < 7200 ∧ (reading 7199).pin60s < 7500 ∧ currentLow (sense (reading 7199) slow).power = true
      ∧ currentOver (sense (reading 7199) slow).power = false ∧ slow.power.thermal = false ∧ slow.power.allowed < clockBase)
    ∧ (7200 ≤ (reading 7200).pin10ms ∧ (reading 7500).pin10ms ≤ 7500 ∧ (reading 7500).pin60s ≤ 7500 ∧ currentOver (sense (reading 7200) slow).power = false
      ∧ currentOver (sense (reading 7500) slow).power = false) := by decide

/-- `up` with a boost window open for plan entry 0. -/
def boosting : State :=
  { up with power := { up.power with allowed := clockBoost, clock := clockBoost, boost := { BoostSt.empty with opened := true } } }

theorem witness_CurrentAndHeat :
    up.power.main = true ∧ up.power.boost.opened = false
    ∧ (∃ s : State, s.power.tripHold = true) ∧ boosting.power.boost.opened = true
    ∧ (420 ≤ 420 ∨ 380 ≤ 0) ∧ (420 ≤ 0 ∨ 380 ≤ 380) ∧ (400 < 401 ∨ 300 < 120) ∧ (400 < 0 ∨ 119 < 120) :=
  ⟨rfl, rfl, ⟨{ up with power := { up.power with tripHold := true } }, rfl⟩, rfl, by decide, by decide, by decide, by decide⟩

/-- `up` in TRACKING, the tally bus at pair 100, plan entry 0 from pair 50 to 200 armed. -/
def planned : State :=
  writePlanArm 0 true (setReg8 (setReg8 { up with tally := { TallySt.empty with state := .tracking, bus := ⟨40, 0⟩ } }
    (planReg 0 0) 50) (planReg 0 8) 200)

/-- `planned` when the tally bus has passed the start mark. -/
def starting : State := { planned with tally := { planned.tally with bus := ⟨100, 0⟩ } }

/-- What the monitors read in an easy module: 30 °C, coolant 25 °C at 20 l/min. -/
def easy : Sense := ⟨48000, 48000, 0, 0, 0, 0, 0, 120, 0, 100, 250, 300, 200⟩

/-- The window of entry 0 open, its end mark passed. -/
def ending : State :=
  let s := fireAlarm 448 starting
  { s with
    tally := { s.tally with bus := ⟨250, 0⟩ }
    power := { starting.power with boost := { starting.power.boost with opened := true } } }

/-- Where one alarm alone is due, its turn has come. -/
theorem turn_of_only (s : State) (n : Nat) (h : (List.range 512).filter (almFires s) = [n])
    (hd : dueGates s ++ dueDeadlines s = []) : almTurn s n = true := by
  unfold almTurn dueAlarms; rw [h, hd]; simp

theorem witness_BoostWindow_opens : almTurn starting 448 = true ∧ denial starting 0 easy 0 = none :=
  ⟨turn_of_only _ _ (by decide +kernel) (by decide), by decide⟩

theorem witness_BoostWindow_denied : denial starting 0 { easy with jmax := 400 } 0 = some 0x05 := by decide

theorem witness_BoostWindow_ends : ending.power.boost.opened = true ∧ ending.power.boost.entry = 0
    ∧ almTurn ending 449 = true ∧ govTakes ending = true :=
  ⟨rfl, rfl, turn_of_only _ _ (by decide +kernel) (by decide), by decide⟩

theorem witness_BoostRegisters : govTakes planned = true ∧ planArmed planned 0 = true ∧ planArmed planned 1 = false := by decide

theorem witness_WearLedger : up.power.main = true ∧ up.safe.ledger.wear + wearWeight up.power.maxClock ≤ wearLimit := by decide

theorem witness_AuxiliaryPower : State.reset.power.aux = false ∧ up.power.aux = true
    ∧ State.reset.safe.steward.slot = 0
    ∧ (∃ s : State, s.power.aux = false ∧ s.safe.steward.slot = 1)
    ∧ (∀ v, (false && v) = false) ∧ (true && decide (Config.fwMinimum.toNat ≤ 65535)) = true :=
  ⟨rfl, rfl, rfl, ⟨{ State.reset with safe := { SafeSt.empty with steward := { StewardSt.empty with slot := 1 } } }, rfl, rfl⟩,
    fun _ => rfl, by have := Config.fwMinimum.isLt; simp; omega⟩

/-- `up` before main power is enabled. -/
def waiting : State := { up with power := { up.power with main := false, ok := false }, safe := { up.safe with ready := false, phase := 0 } }

/-- Nothing fails, and both blades read 48 V. -/
def sound : StartFaults := ⟨[], [], [], [], [], [], false, true, 48000, 48000⟩

theorem witness_StartUpToReady :
    mayEnable sound waiting = true ∧ noneFail sound ∧ tilesLeft sound waiting
    ∧ (∃ s : State, s.power.shutdown = true ∧ mayEnable sound { s with power := { s.power with shutdown := false } } = true)
    ∧ (mayPower sound up = true ∧ up.power.aux = true ∧ mayPower { sound with vinA := 0, vinB := 0 } up = false)
    ∧ hostBlock up = true ∧ bitAt 0xA501 0 = true ∧ bitsAt 0xA501 15 8 = 0xA5 :=
  ⟨by decide, ⟨rfl, rfl, rfl, rfl, rfl, rfl⟩, ⟨rfl, 0, by decide, by decide⟩,
    ⟨{ waiting with power := { waiting.power with shutdown := true } }, rfl, by decide⟩, ⟨by decide, rfl, by decide⟩, by decide, by decide, by decide⟩

theorem witness_StartUpToReady_failed : ¬ tilesLeft { sound with lt0Ok := false } waiting := by
  rintro ⟨h, _⟩; exact absurd h (by decide)

theorem witness_HostResets : hostBlock up = true ∧ bitAt 0xA502 1 = true ∧ bitsAt 0xA502 15 8 = 0xA5
    ∧ up.power.main = true ∧ up.host.linkUp = true := by decide

theorem witness_HostLink : State.reset.host.perstLow = true ∧ up.power.main = true ∧ up.host.perstLow = false
    ∧ up.host.linkUp = true ∧ 1 ≤ 1 ∧ 4 ≤ 4 ∧ (16 = 4 ∨ 16 = 8 ∨ 16 = 16) := by decide

theorem witness_LifeCycleCommand : up.power.aux = true ∧ stewardUp up = true ∧ lcResult (List.replicate 248 0) up = 1
    ∧ (List.replicate 248 (0 : Byte)).length = 248 ∧ leNat ((List.replicate 248 (0 : Byte)).take 1) ≠ 0x4C
    ∧ (∃ s : State, s.power.aux = true ∧ stewardUp s = true ∧ s.safe.life.state = 3) ∧ up.safe.life.state ≠ 3 :=
  ⟨rfl, by decide, by decide +kernel, by decide +kernel, by decide +kernel,
    ⟨{ up with safe := { up.safe with life := { up.safe.life with state := 3 } } }, rfl, by decide, rfl⟩, by decide⟩

/-- `up` with stream 3 in state `x`. -/
def inState (x : StreamState) : State := setStream up 3 { Stream.empty with state := x }

theorem witness_StreamActions : ∀ x ∈ [StreamState.disabled, .active, .idle, .halted, .aborted],
    hostBlock (inState x) = true ∧ (stream (inState x) 3).state = x ∧ (inState x).safe.ready = true := by decide

theorem witness_StreamActions_abort : enginesArmed (inState .active) ∧ allCut (inState .active) :=
  ⟨⟨by decide, by decide⟩, by unfold allCut; decide⟩

/-- A record of descriptor `d` with number `q`. -/
def record (q : Nat) (d : Desc) (l : Life) : Rec :=
  { (default : Rec) with seq := q, desc := d, life := l, flags := CFlags.none }

/-- `up` with stream 0 waiting on a DEPEND for descriptor 5 of stream 1, which is ACTIVE. -/
def stalled : State :=
  setStream (setStream up 0 { Stream.empty with
    state := .active, seqNext := 1, window := [record 0 (.depend [⟨5, 1, false, true⟩]) .waiting] })
    1 { Stream.empty with state := .active }

theorem witness_StallDetector : watched stalled 0 1 = true ∧ waitsFor stalled 0 1 = some 0 ∧ enginesArmed stalled
    ∧ allCut stalled := ⟨by decide, by decide, ⟨by decide, by decide⟩, by unfold allCut; decide⟩

/-- `up` with stream 3 ACTIVE and a submission ring of 16 slots. -/
def ringed (x : StreamState) : State := setReg4 (inState x) (ringReg 3 8) 4

theorem witness_Doorbells : hostReady (ringed .active) = true ∧ hostReady (ringed .idle) = true
    ∧ (stream (ringed .active) 3).state = .active
    ∧ (16 ≠ (stream (ringed .active) 3).produced ∧ sub32 16 (stream (ringed .active) 3).produced < 2 ^ 31
      ∧ sub32 16 (stream (ringed .active) 3).taken ≤ sqSize (ringed .active) 3)
    ∧ sqSize (ringed .active) 3 < sub32 17 (stream (ringed .active) 3).taken
    ∧ 2 ^ 31 ≤ sub32 (2 ^ 31) (stream (ringed .active) 3).produced := by decide

/-- `up` with vector 2 unmasked, or its PBA bit set. -/
def vectored (mask : Nat) (x : Vector) : State := setVector (setReg4 up (hostBase + 0x8000 + 16 * 2 + 12) mask) 2 x

theorem witness_InterruptVectors :
    (0 < (vector (vectored 0 ⟨1, false, true, 0⟩) 2).pending ∧ masked (vectored 0 ⟨1, false, true, 0⟩) 2 = false)
    ∧ masked (vectored 1 ⟨1, false, true, 0⟩) 2 = true
    ∧ (hostBlock (vectored 1 ⟨0, true, false, 0⟩) = true ∧ (vector (vectored 1 ⟨0, true, false, 0⟩) 2).pba = true)
    ∧ (bitAt 0x80000002 31 = true ∧ bitsAt 0x80000002 6 0 = 2 ∧ modTimer (vectored 0 ⟨0, false, false, 0⟩) 2 = 0) := by decide

/-- An access below 1 GiB lies in BAR4 whatever its size. -/
theorem apertureReaches_low (s : State) (o n : Nat) (h : (s.safe.ready && !s.safe.stop) = true) (hb : o + n ≤ 2 ^ 30)
    (hm : aperture s + o + n ≤ hbmEnd) : apertureReaches s o n = true := by
  unfold apertureReaches
  rw [h, decide_eq_true (hb.trans bar4Size_least), decide_eq_true hm]; rfl

theorem apertureReaches_beyond (s : State) (o n : Nat) (h : 2 ^ 36 < o + n) : apertureReaches s o n = false := by
  unfold apertureReaches
  rw [decide_eq_false (by have := bar4Size_most; omega), Bool.and_false, Bool.false_and]

theorem witness_ApertureReadsAndWrites : hostUp up = true ∧ up.mem.moved = [] ∧ up.mem.faults = [] ∧ up.mem.inj = []
    ∧ apertureReaches up 0 4 = true ∧ apertureReaches up (2 ^ 30 - 4) 4 = true ∧ apertureReaches up (2 ^ 36) 4 = false
    ∧ hostUp { up with safe := { up.safe with ready := false } } = true :=
  ⟨by decide, rfl, rfl, rfl, apertureReaches_low _ _ _ (by decide) (by decide) (by decide),
    apertureReaches_low _ _ _ (by decide) (by decide) (by decide), apertureReaches_beyond _ _ _ (by decide), by decide⟩

theorem witness_ScheduleRegisters : hostBlock up = true
    ∧ bitsAt 0x080810 5 0 + bitsAt 0x080810 13 8 + bitsAt 0x080810 21 16 = 32
    ∧ bitsAt 0x080811 5 0 + bitsAt 0x080811 13 8 + bitsAt 0x080811 21 16 ≠ 32
    ∧ (1 ≤ bitsAt 1 20 0 ∧ bitsAt 0x100000 20 0 ≤ 1048576) ∧ bitsAt 0 20 0 = 0 ∧ 1048576 < bitsAt 0x100001 20 0 := by decide

/-- `up` with stream 0 ACTIVE and empty. -/
def clear : State := setStream up 0 { Stream.empty with state := .active }

/-- A header of no group, slot 0, position 0. -/
def hdr : Header := default

theorem clear_ok : clearStream clear 0 := by unfold clearStream; decide

theorem witness_ControlDescriptors : hdr.pos < 2 ^ 20
    ∧ (∃ s, clearStream s 0 ∧ s.tally.state = .tracking) ∧ (∃ s, clearStream s 0 ∧ s.tally.state = .lost)
    ∧ ([⟨5, 1, false, true⟩] : List Wait).any (·.valid) = true
    ∧ ([⟨5, 1, false, true⟩] : List Wait).all (fun w => !selfWait 0 (stream clear 0).seqNext w) = true
    ∧ badGroup clear 0 = false ∧ clear.mem.faults = [] :=
  ⟨by decide, ⟨{ clear with tally := { TallySt.empty with state := .tracking } }, by unfold clearStream; decide, rfl⟩,
    ⟨{ clear with tally := { TallySt.empty with state := .lost } }, by unfold clearStream; decide, rfl⟩,
    by decide, by decide, by decide, by decide⟩

/-- `up` in TRACKING with stream 0 at a GATE for pair 100, which the tally bus has reached. -/
def gated : State :=
  setStream { up with tally := { TallySt.empty with state := .tracking, bus := ⟨100, 0⟩ } } 0
    { Stream.empty with state := .active, seqNext := 1, window := [record 0 (.gate ⟨100, 0, false⟩) .waiting] }

theorem witness_ControlDescriptors_gate : (stream gated 0).window = [record 0 (.gate ⟨100, 0, false⟩) .waiting]
    ∧ (stream gated 0).calls = [] ∧ gateDue gated (record 0 (.gate ⟨100, 0, false⟩) .waiting) = true
    ∧ gateTurn gated 0 = true := ⟨by decide, by decide, by decide, by
      have h : (List.range 512).filter (almFires gated) = [] := by decide +kernel
      unfold gateTurn markTurn dueAlarms; rw [h, List.mergeSort_nil]; decide⟩

theorem witness_MovesOfBytes : clearStream clear 0 ∧ cleanMem clear ∧ endOk clear true 4096 64 ∧ endOk clear false 8192 96
    ∧ endOk clear false (hbmEnd - 64) 64 ∧ endOk clear true 16 8 :=
  ⟨clear_ok, by unfold cleanMem; decide, by unfold endOk; decide, by unfold endOk; decide, by unfold endOk; decide,
    by unfold endOk; decide⟩

/-- `clear` with the cloves of one pod as group 1. -/
def grouped : State := modComp clear (fun c => { c with groups := sset 0 c.groups 1 1 })

def hdr1 : Header := { hdr with group := 1 }

/-- A load of one entry from host memory. -/
def one : MoveBody := ⟨true, false, 1, 4096, 0, 0, 0, 0, 0⟩

theorem witness_LoadsOfCloveStores : cleanMem grouped ∧ endOk grouped true 4096 32
    ∧ (∀ k ∈ [1, 2, 3, 4], startsNow 0 hdr1 (.move k one) grouped) ∧ one.dst + one.length ≤ (storeSize 1).2
    ∧ breaksRise (segmentsOf 1 (endBytes grouped true 4096 20)) = true ∧ 0 ∈ groupCloves grouped 1 := by
  unfold cleanMem endOk startsNow clearStream; decide

/-- A MOVE from module address 4096 with arg0 5. -/
def five : MoveBody := ⟨false, false, 0, 4096, 0, 5, 0x17F, 0, 0⟩

theorem witness_MovesOfTables : cleanMem clear ∧ endOk clear false 4096 16 ∧ access clear 4096 128 = .ok
    ∧ (∀ k ∈ [5, 6, 7, 10], startsNow 0 hdr (.move k five) clear) := by
  unfold cleanMem endOk startsNow clearStream; decide

theorem witness_MovesOfTables_adapter : adapterTooWide (wrecOf (bytesAt clear.mem.data 4096 128)) = false
    ∧ adapterTooWide { wrecOf [] with kind := 2, rows := 257, cols := 257 } = true := by decide

theorem witness_MovesOfTables_seed : startsNow 0 hdr1 (.move 9 one) grouped ∧ endOk grouped true 4096 9728 := by
  unfold endOk startsNow clearStream; decide

/-- `clear` with weight 5 registered at 8192: a LINEAR record of 1 by 1, snapshot at 0x10000 in BF16. -/
def recorded : State :=
  setWeight (modMem clear (fun m => { m with data := [(8196, 1#8), (8200, 1#8), (8266, 1#8), (8272, 1#8)] })) 5
    { Weight.empty with addr := 8192, version := 3, registered := true }

theorem witness_GenerationSnapshot : cleanMem recorded ∧ startsNow 0 hdr (.move 8 five) recorded
    ∧ (weight recorded 5).registered = true ∧ access recorded (weight recorded 5).addr 128 = .ok := by
  unfold cleanMem startsNow clearStream; decide

theorem witness_GenerationSnapshot_record :
    let r := wrecOf (bytesAt recorded.mem.data 8192 128)
    fmtOf r.snapFmt = some .bf16 ∧ snapOk .bf16 = true ∧ fmtScaled .bf16 = false ∧ r.snapshot = 0x10000 ∧ r.rows = 1
      ∧ r.cols = 1 ∧ r.high % 4096 = 0 ∧ adapterTooWide r = false ∧ access recorded r.snapshot (tensorBytes (snapEntry r) + 1) = .ok
      ∧ access recorded r.high (tensorBytes (highEntry r r.high)) = .ok := by decide

/-- `up` with TALLY_CTRL `c` and the tally in state `x` at pair `p`, held for `n` counts. -/
def tallied (c : Nat) (x : TState) (p n : Nat) : State :=
  setReg4 { up with tally := { TallySt.empty with state := x, now := ⟨p, 0⟩, behind := n, depth := n } } tallyBase c

theorem witness_QuadratureCounts : ∀ c ∈ [1, 5, 9], ∀ x ∈ [(TState.tracking, 0), (.reverseHold, 1)], ∀ p ∈ [0, 7],
    tallyLive (tallied c x.1 p x.2) = true ∧ tsrc (tallied c x.1 p x.2) = 1 ∧ (tallied c x.1 p x.2).tally.faultA = false
      ∧ (tallied c x.1 p x.2).tally.a = false ∧ (tallied c x.1 p x.2).tally.b = false
      ∧ (tallied c x.1 p x.2).tally.now.pair < lastPair := by decide

/-- Bidirectional QUAD with both index checks at pair 103, TALLY_CPI 8 and TALLY_ZOFF `z`. -/
def indexed (z : Nat) (y : TallySt → TallySt) : State :=
  setReg4 (setReg4 (modTally (tallied 0x35 .tracking 103 0) y) (tallyBase + 0xC) 8) (tallyBase + 0x10) z

theorem witness_IndexChecks :
    (zChecks (indexed 7 id) = true ∧ decodedCount (indexed 7 id).tally % cpi (indexed 7 id) = zoff (indexed 7 id)
      ∧ (indexed 7 id).tally.resync = false)
    ∧ (zChecks (indexed 5 id) = true ∧ decodedCount (indexed 5 id).tally % cpi (indexed 5 id) ≠ zoff (indexed 5 id))
    ∧ (let s := indexed 5 (fun y => { y with resync := true, sinceZ := 12 });
      zChecks s = true ∧ zRealign s = true ∧ bidir s = true ∧ s.tally.behind = 0 ∧ zoff s < cpi s ∧ 3 * cpi s ≤ 2 * s.tally.sinceZ)
    ∧ (let s := indexed 5 (fun y => { y with preset := some 103 });
      tallyLive s = true ∧ tsrc s = 1 ∧ s.tally.preset = some 103 ∧ s.tally.now.pair ≤ 103) := by decide

/-- A tally message of pair `n`. -/
def tick (n : Nat) : TallyMsg := ⟨n, 0, 0, 0, 0, 0, 0, 0, 0⟩

/-- A stamp of pair 20 is near the prediction of `s`. -/
def near (s : State) : Bool :=
  decide (((20 : Int) - ((predicted (refresh s).tally s.time.refTicks).getD (fine (refresh s).tally.now)) / 256).natAbs ≤ 2 ^ 20)

theorem witness_StampsAccepted_serial : ∀ p ∈ [0, 50], tallyLive (tallied 2 .tracking p 0) = true
    ∧ tsrc (tallied 2 .tracking p 0) = 2 ∧ (tallied 2 .tracking p 0).tally.faultSer = false
    ∧ stampGe ⟨20, 0⟩ (refresh (tallied 2 .tracking p 0)).tally.now = decide (p = 0)
    ∧ near (tallied 2 .tracking p 0) = true := by decide

theorem witness_StampsAccepted :
    (let s := modTally (tallied (3 + 42 * 2 ^ 16) .acquiring 0 0) (fun y => { y with accepted := 2 });
      s.power.main = true ∧ tsrc s = 3 ∧ fabricPort s = 42 ∧ (refresh s).tally.accepted = 2 ∧ (tick 0).hop ≤ 63) := by decide

theorem witness_TallyMessages : (let s := modTally (tallied (3 + 42 * 2 ^ 16) .tracking 7 0) (fun y => { y with pingAt := some 0 });
      s.power.main = true ∧ tsrc s = 3 ∧ fabricPort s = 42 ∧ s.tally.pingAt = some 0 ∧ marksFire s = true
        ∧ tMaster s = false ∧ (tick 0).hop ≤ 63)
    ∧ (let s := tallied 0x41 .tracking 7 0;
      s.power.main = true ∧ marksFire s = true ∧ tMaster s = true) := by decide

theorem witness_TallyFaults : (∀ c ∈ [1, 2, 3], let s := tallied c .tracking 7 0;
      tallyLive s = true ∧ tsrc s = c ∧ holdTicks s ≠ 0 ∧ illegalNow s ≤ 16)
    ∧ 16 < illegalNow (modTally (tallied 1 .tracking 7 0) (fun y => { y with illegal := List.replicate 17 0 }))
    ∧ ∀ c ∈ [1, 2, 4], let s := modTally (tallied 1 .holdover 7 0) (fun y => { y with cause := c });
      tallyLive s = true ∧ tsrc s = 1 ∧ s.tally.state = .holdover ∧ s.tally.cause = c ∧ illegalNow s ≤ 16 := by decide

theorem witness_TallyRegisters : (let s := tallied 0 .off 7 0;
      hostBlock s = true ∧ tsrc s = 0 ∧ s.tally.testBusy = false ∧ s.tally.faultA = false)
    ∧ (∀ v ∈ [none, some 2], let s := modTally (tallied 0 .off 7 0) (fun y => { y with testBusy := true, srcPending := v });
      hostBlock s = true ∧ s.tally.testBusy = true ∧ s.tally.srcPending = v)
    ∧ (let s := tallied 1 .tracking 7 0;
      hostBlock s = true ∧ presetAtZ s = false ∧ tsrc s ≠ 0 ∧ (refresh s).tally.now.pair = 7)
    ∧ (let s := tallied 0x81 .tracking 7 0;
      hostBlock s = true ∧ presetAtZ s = true ∧ (refresh s).tally.now.pair ≤ 7) := by decide

/-- `up` tracking with alarm 3 armed at pair 0. -/
def alarmed : State := setReg4 (tallied 1 .tracking 7 0) (almReg 3 8) (2 ^ 8 + 2 ^ 11)

theorem witness_Alarms : (hostBlock up = true ∧ almArmed up 3 = false)
    ∧ almArmed alarmed 3 = true ∧ hostBlock alarmed = true ∧ almDue up 3 = false
    ∧ (∃ s, hostBlock s = true ∧ almArmed s 3 = true ∧ almFires s 3 = false) :=
  ⟨by decide, by decide, by decide, by decide, ⟨setReg4 up (almReg 3 8) (2 ^ 8), by decide, by decide, by decide⟩⟩

theorem witness_Alarms_due : almFires alarmed 3 = true ∧ almTurn alarmed 3 = true := by
  exact ⟨by decide, turn_of_only _ _ (by decide +kernel) (by decide)⟩

/-- `up` with port 7 in state `n`, its lanes those listed. -/
def ported (n : Nat) (l : Sparse Lane) : State := setPort up 7 { Port.empty with state := n, lanes := l }

theorem witness_PortStates : hostBlock (ported 0 []) = true ∧ creditsFit (ported 0 []) 7 = true
    ∧ creditsFit (setReg4 (ported 0 []) (linkBase 1 + 0x18) 0) 7 = false
    ∧ (∀ n ∈ [1, 2, 3, 4, 5], (port (ported n []) 7).state = n ∧ hostBlock (ported n []) = true
      ∧ (ported n []).safe.stop = false)
    ∧ (lane (port (ported 3 []) 7) 0).role ≠ roleFailed
    ∧ (port (setPort up 7 { Port.empty with keeping := true }) 7).state ≠ 6
    ∧ bitAt 0x1FF 0 = true ∧ bitAt 0x1FE 0 = false := by decide

/-- A DATA flit of 8 bytes on VC `v`. -/
def flit (v n q : Nat) : Flit := ⟨1, v, true, n, 0, false, 0, 0, 9, q, 8, 0, 0, 0, .bytes [], []⟩

/-- Port 7 is UP, lane 8 its spare, with a flit and a credit on VC1 and VC5. -/
def flowing : State :=
  setPort up 7 { Port.empty with
    state := 6
    queues := [(1, [flit 1 0 0]), (5, [flit 5 0 0])], credit := [(1, 4), (5, 4)] }

theorem witness_FlitsSent : flowing.link.msgs = [] ∧ (port flowing 7).state = 6 ∧ (port flowing 7).moved = []
    ∧ pickVc flowing 7 (port flowing 7) = some (5, 1, 0) ∧ pickLane (port flowing 7) (fun _ => true) = some 0
    ∧ slotLane (port flowing 7) = some 0 ∧ laneFree (lane (port flowing 7) 0) = true
    ∧ sget [] (port flowing 7).queues 5 = [flit 5 0 0] ∧ vcReady (port flowing 7) 1 = true
    ∧ frameDue (port flowing 7) 0 = false ∧ (port flowing 7).order = [] := by decide

/-- `flowing` where lane 0 owes its FRAME flit, or with nothing to send. -/
def framing : State := modLane 7 0 (fun l => { l with slot := 256 }) flowing
def idling : State := modPort flowing 7 (fun x => { x with queues := [] })

/-- `flowing` where lane 0 has a flit to resend, or one that moved to it. -/
def resending : State := modLane 7 0 (fun l => { l with replay := [flit 1 0 0], again := 1, txNext := 1 }) flowing
def moving : State := modLane 7 0 (fun l => { l with todo := [flit 1 0 0] }) flowing

theorem witness_FlitsSent_again : resending.link.msgs = [] ∧ (port resending 7).state = 6 ∧ slotLane (port resending 7) = some 0
    ∧ frameDue (port resending 7) 0 = false ∧ cleanMem resending ∧ (lane (port resending 7) 0).again = 1
    ∧ (lane (port resending 7) 0).replay[0]? = some (flit 1 0 0) ∧ (port resending 7).order = []
    ∧ moving.link.msgs = [] ∧ (port moving 7).state = 6 ∧ slotLane (port moving 7) = some 0
    ∧ frameDue (port moving 7) 0 = false ∧ (lane (port moving 7) 0).again = 0 ∧ (lane (port moving 7) 0).todo = [flit 1 0 0]
    ∧ laneFree (lane (port moving 7) 0) = false := by
  unfold cleanMem; decide

theorem witness_FlitsSent_fill : framing.link.msgs = [] ∧ (port framing 7).state = 6 ∧ (port framing 7).moved = []
    ∧ pickVc framing 7 (port framing 7) = some (5, 1, 0) ∧ slotLane (port framing 7) = some 0
    ∧ frameDue (port framing 7) 0 = true ∧ (sendOrder (port idling 7)).head? = some 0
    ∧ slotLane (port idling 7) = some 0 ∧ laneFree (lane (port idling 7) 0) = true
    ∧ pickVc idling 7 (port idling 7) = none ∧ frameDue (port idling 7) 0 = false := by decide

/-- Port 7 is UP, and lane 0 holds one flit that is not acknowledged. -/
def held : State :=
  setPort up 7 { Port.empty with
    state := 6, lanes := [(0, { Lane.empty with txNext := 1, replay := [flit 1 0 0] })] }

/-- A flit has a CRC with which it is good. -/
theorem witness_FlitsReceived_good (f : Flit) : crcGood f ⟨crc64 (coveredBytes f 0), 0, true, false, 0⟩ = true := by
  simp [crcGood]

theorem witness_FlitsReceived : (port held 7).state = 6 ∧ (lane (port held 7) 1).role < 2 ∧ (port held 7).recalTx = none
    ∧ (lane (port held 7) 0).replay = [flit 1 0 0] ∧ (lane (port held 7) 0).naks < 4
    ∧ (lane (port held 7) 0).resends < 4 ∧ (lane (port (modLane 7 0 (fun l => { l with resends := 4 }) held) 7) 0).resends = 4
    ∧ (lane (port (modLane 7 0 (fun l => { l with resends := 4 }) held) 7) 0).replay = [flit 1 0 0]
    ∧ (lane (port (modLane 7 0 (fun l => { l with naks := 4 }) held) 7) 0).naks = 4
    ∧ cleanMem held ∧ enginesArmed held ∧ cleanMem flowing ∧ enginesArmed flowing
    ∧ (lane (port flowing 7) 0).replay = [] ∧ (port flowing 7).reorder = []
    ∧ (flit 1 0 0).dst = nodeId flowing ∧ (port flowing 7).broken.contains (flowOf (flit 1 0 0)) = false
    ∧ (flit 1 0 0).laneSeq = (lane (port flowing 7) 0).rxNext ∧ (flit 1 5 0).laneSeq ≠ (lane (port flowing 7) 0).rxNext
    ∧ (flit 1 0 7).vcSeq ≠ sget 0 (port flowing 7).vcSeqRx 1
    ∧ 32768 ≤ ((flit 1 0 65535).vcSeq + 65536 - sget 0 (port flowing 7).vcSeqRx 1) % 65536 := by
  unfold cleanMem enginesArmed; decide

/-- Port 7 is UP with lane 8 its spare; lane 0 holds `l`, in send role `r`, and `c` is its recalibration. -/
def spared (l : List Flit) (r : Nat) (c : Option Recal) : State :=
  setPort up 7 { Port.empty with
    state := 6, recal := c
    lanes := sset Lane.empty [] 0 { Lane.empty with txRole := r, replay := l } }

theorem witness_LanesReplaced : (∀ l ∈ [[], [flit 1 0 0]], let x := port (spared l 0 none) 7;
      x.state = 6 ∧ (lane x 0).role = roleData ∧ (lane x 0).txRole = roleData ∧ (lane x 0).replay = l
        ∧ spareOf x = some 8 ∧ txSpareOf x = some 8 ∧ x.recal = none ∧ x.recalTx = none
        ∧ (lane x 1).txRole = roleData)
    ∧ (∀ m, m < 9 → (lane (port (spared [] 3 none) 7) m).role ≠ roleFailed)
    ∧ (∀ m ∈ rotationOf (port (spared [] 3 none) 7), (lane (port (spared [] 3 none) 7) m).txRole ≠ roleFailed)
    ∧ cleanMem (spared [] 0 none)
    ∧ (lane (port (spared [] 3 none) 7) 0).txRole = roleTraining
    ∧ ∀ k ∈ [0, 1], (port (spared [] 0 (some ⟨0, k⟩)) 7).recal = some ⟨0, k⟩ := by
  unfold cleanMem; decide

/-- Port 7 is DISABLED and Peppermill owns lane 2 with PM_CTRL `c`, its checker locked or not. -/
def ownedAs (c : Nat) (l : Bool) : State :=
  setReg4 (setPort up 7 { Port.empty with pm := [(2, { Pm.empty with owned := true, locked := l })] }) (pmReg 7 2 0) c
def owned (l : Bool) : State := ownedAs 0x71 l

/-- In near-end loopback PRBS7, PRBS31 and USER lock, an inverted PRBS7 does not, and without a generator nothing does. -/
theorem witness_Peppermill_locks : (∀ c ∈ [0x71, 0x7B, 0x7D, 0x17D], nearLocks (ownedAs c false) 7 2 = true)
    ∧ ∀ c ∈ [0x171, 0x61], nearLocks (ownedAs c false) 7 2 = false := by decide +kernel

theorem witness_Peppermill_far : (pmOf (port (ownedAs 0xB1 false) 7) 2).owned = true
    ∧ bitsAt (reg4 (ownedAs 0xB1 false) (pmReg 7 2 0)) 7 6 = 2 ∧ bitsAt (reg4 (ownedAs 0x31 false) (pmReg 7 2 0)) 7 6 = 0 := by decide

theorem witness_Peppermill : (port up 7).state = 0 ∧ hostBlock up = true ∧ (lane (port held 7) 8).role = roleSpare
    ∧ (port held 7).spareFault = false ∧ (port held 7).txFault = false ∧ (lane (port held 7) 0).role ≠ roleSpare
    ∧ ∀ l ∈ [true, false], (pmOf (port (owned l) 7) 2).owned = true ∧ (pmOf (port (owned l) 7) 2).locked = l
      ∧ loopOf (owned l) 7 2 = 1 ∧ bitsAt (reg4 (owned l) (pmReg 7 2 0)) 7 6 = 1 ∧ bitAt (reg4 (owned l) (pmReg 7 2 0)) 4 = true
      ∧ bitAt (reg4 (owned l) (pmReg 7 2 0)) 5 = true := by decide

theorem witness_SaffronSums : contribLimit false 3 = some (2 ^ 29 - 1) ∧ guardBits 3 = 2
    ∧ ∀ q ∈ [2 ^ 29 - 1, -(2 ^ 29 - 1), (5 : Int), 2 ^ 29 - 1], q.natAbs ≤ 2 ^ 29 - 1 := by decide

theorem witness_Contributions : (Machine.Num.inf false).special = true ∧ 8 ≤ wordBits false - 1 - Nat.clog 2 3
    ∧ wordBits false - 1 - Nat.clog 2 (2 ^ 24) < 8 := by
  refine ⟨by decide, by decide, ?_⟩
  rw [Nat.clog_pow 2 24 (by decide)]
  decide

/-- Plan 5 of one tree with parent port 6 and child port 7, two local contributions. -/
def planA : Plan := ⟨0, 1, 3, 2, false, false, 0, 16, [6], [1], [2 ^ 7], []⟩

/-- `up` tracking, with bucket 9 in state `x`: its tree's input, and one local contribution of one element. -/
def bucketed (x : BucketState) (c : ChildIn) (d : Option Stamp) : State :=
  setBucket (tallied 1 .tracking 7 0) 9 { Bucket.empty with
    state := x, plan := planA, elements := 100, e := some 0, deadline := d, locals := [default]
    trees := [{ TreeIn.none with inputs := [c] }] }

theorem witness_BucketsGather : (bucket (bucketed .waitArm (ChildIn.none 7) none) 9).state = .waitArm
    ∧ poolsFit (bucketed .waitArm (ChildIn.none 7) none) planA = true
    ∧ samePlan (bucket (bucketed .waitArm (ChildIn.none 7) none) 9) planA = true
    ∧ onTree (bucket up 9) 0 = false ∧ up.link.early.any (fun g => g.1 == 9 && g.2.1 == 0) = false
    ∧ (treeOf (bucket (bucketed .collecting (ChildIn.none 7) none) 9) 0).granted = false
    ∧ let x := bucket (bucketed .collecting (ChildIn.none 7) none) 9;
      onTree x 0 = true ∧ (∀ v ∈ activeTrees x, localsReady x v = false) ∧ (treeOf x 0).sent < chunksOn x 0 ∧ 0 < x.trees.length
        ∧ (treeOf x 0).inputs.find? (fun d => d.port == 7) = some (ChildIn.none 7) ∧ isRoot x.plan 0 = false := by decide

theorem witness_BucketsGather_deadline :
    let s := bucketed .collecting { ChildIn.none 7 with closed := true } (some ⟨0, 0⟩);
    (let r := modBucket s 9 (fun x => { x with trees := x.trees.map (fun y => { y with granted := true }) });
      onTree (bucket r 9) 0 = true ∧ (treeOf (bucket r 9) 0).granted = true) ∧
    deadlineTurn s 9 0 = true ∧ (treeOf (bucket s 9) 0).grants = 0 ∧ (treeOf (bucket s 9) 0).trailer = none := by
  have h : (List.range 512).filter (almFires (bucketed .collecting { ChildIn.none 7 with closed := true } (some ⟨0, 0⟩))) = [] := by
    decide +kernel
  refine ⟨by decide, ?_, by decide, by decide⟩
  unfold deadlineTurn markTurn dueAlarms; rw [h, List.mergeSort_nil]; decide

/-- Plan 0 in memory at 4096: a reduction of one tree without parent or children, two contributors. -/
def planned0 : State :=
  modMem (setReg4 (bucketed .waitArm (ChildIn.none 7) none) (linkBase 0 + 0x10) 4096) (fun m => { m with
    data := [(4100, 1#8), (4104, 2#8), (4112, 16#8), (4128, 0x3F#8)] })

/-- The plan that `planned0` holds. -/
def planB : Plan := ⟨0, 1, 1, 2, false, false, 0, 16, [0x3F], [0], [0], [0, 0, 0, 0]⟩

theorem witness_BucketsGather_plan : readPlan [0] 0 0x14 planned0 = (.ok planB, planned0) := by
  have a : access planned0 (planAddr planned0 0) 128 = .ok := by decide +kernel
  have f : faultsIn planned0 (planAddr planned0 0) 128 = [] := by decide +kernel
  have h : mRead (planAddr planned0 0) 128 (reqLink 0) planned0
      = (.ok (memBytes planned0 (planAddr planned0 0) 128), planned0) := by
    simp [mRead, readMem, a, checkRead, readBad, f]
  have b : readPlanBytes 0 0x14 planned0 = (.ok (memBytes planned0 (planAddr planned0 0) 128), planned0) := h
  have p : planOf (memBytes planned0 (planAddr planned0 0) 128) = planB := by decide +kernel
  have l : bitsAt (word4 (memBytes planned0 (planAddr planned0 0) 128) 8) 7 0 = 2 := by decide +kernel
  simp only [readPlan, bind, ExceptT.bind, ExceptT.mk, ExceptT.bindCont, b, StateT.bind]
  rw [p, l]
  rfl

theorem witness_BucketsGather_plan_holds : 0 < planB.trees ∧ (bucket planned0 9).locals.length < planB.localCount := by decide

theorem witness_BucketsGather_result : let s := modBucket (bucketed .result (ChildIn.none 7) none) 9 (fun x => { x with
      trees := [{ TreeIn.none with sent := 2, inputs := [ChildIn.none 7] }] });
    onTree (bucket s 9) 0 = true ∧ chunksOn (bucket s 9) 0 = 2
      ∧ (∀ v ∈ activeTrees (bucket s 9), chunksOn (bucket s 9) v ≤ (treeOf (bucket s 9) v).sent) := by decide

/-- A copy for bucket 9 in stead of node 5. -/
def copyA : BackupCopy := ⟨9, 5, 6, 0, List.replicate 100 0, InputMeta.none⟩

/-- Bucket 9 is armed, and node 5 is its child. -/
def armed9 : State :=
  setPort (bucketed .collecting (ChildIn.none 7) none) 7 { Port.empty with farNode := 5 }

/-- A shadow REDUCE of stream 0 waits for the trailer of bucket 9. -/
def shadowed : State :=
  modLink (setStream up 0 { Stream.empty with
    state := .active, seqNext := 1, window := [record 0 (.reduce default) .running] }) (fun l => { l with
    shadows := [(9, 0, 0)], heldCopies := [copyA] })

theorem witness_CopiesAndEntries : (bucket up 9).state = .free ∧ hostBlock up = true
    ∧ up.link.heldCopies.any (fun d => d.bucket == 9 && d.standIn == 5) = false
    ∧ copyFits armed9 (bucket armed9 9) copyA = true
    ∧ copyFits armed9 (bucket armed9 9) { copyA with standIn := 4 } = false
    ∧ shadowed.link.heldCopies.any (fun d => d.bucket == 9 && d.standIn == 5) = true
    ∧ shadowed.link.shadows.find? (fun x => x.1 == 9) = some (9, 0, 0)
    ∧ findRec shadowed 0 0 = some (record 0 (.reduce default) .running)
    ∧ hostBlock armed9 = true ∧ (bucket armed9 9).state = .collecting
    ∧ (∀ l ∈ (bucket armed9 9).locals, commitAt armed9 l.stream l.seq = none)
    ∧ armed9.link.waiting.all (fun o => o.bucket != 9) = true ∧ bitAt (2 ^ 31) 31 = true ∧ bitAt (2 ^ 31) 30 = false := by
  decide

theorem witness_CopiesAndEntries_armed : enginesArmed armed9 := ⟨by decide, by decide⟩

theorem witness_HomeTable : up.link.homeBusy = [] ∧ hostBlock up = true ∧ homeLoading up 3 = false
    ∧ ∃ s, s.link.homeBusy = [(3, 4096, 5 + 2 ^ 20 * 2)] ∧ s.link.homeWaiting = [] ∧ cleanMem s ∧ hostBlock s = true
      ∧ homeLoading s 3 = true ∧ access s 4096 (8 * bitsAt (5 + 2 ^ 20 * 2) 40 20) = .ok :=
  ⟨rfl, by decide, by decide, modLink up (fun l => { l with homeBusy := [(3, 4096, 5 + 2 ^ 20 * 2)] }), rfl, rfl,
    by unfold cleanMem; decide, by decide, by decide, by decide⟩

/-- A choice of expert 4 in round 1. -/
def choice (x : ChoiceState) : Choice := ⟨none, 0, 0, 0, 4, 1, x⟩

/-- A DISPATCH of plan 2, over experts 0 to 7, with one choice. -/
def opA (x : ChoiceState) (e : Option (List Nat)) : DispOp :=
  { (default : DispOp) with
    planNo := 2, plan := { (default : DispPlan) with experts := 8, countBucket := 9 }, round := 1, choices := [choice x]
    expects := e, k := 1, reqs := [], policy := 0, timedOut := false, armed := true }

/-- Expert 4 is homed at node 11; slot 1 holds expert `e`, ACTIVE; a DISPATCH runs, its count bucket at work. -/
def homed (e : Nat) (o : DispOp) : State :=
  setReg4 (setBucket (modLink up (fun l => { l with home := [(4, 11 + 2 ^ 24 + 2 ^ 32 * 3)], ops := [o] })) 9
    { Bucket.empty with state := .collecting, use := .count, elements := 8 }) (linkBase 0 + 0x1008) (e + 2 ^ 20)

/-- A record of expert 4 from node 6. -/
def tokenA : TokenRec := ⟨6, 0, 0, 4, 1, 1⟩

theorem witness_TokenMessages_home : (let s := homed 4 (opA .waiting none);
      activeSlot s 4 = some 1 ∧ opOfExpert s 4 = some (opA .waiting none) ∧ opOfPlan s 2 = some (opA .waiting none)
        ∧ findOp s (opA .waiting none).stream (opA .waiting none).seq = some (opA .waiting none) ∧ opOfPlan s 3 = none
        ∧ (opA .waiting none).round = 1 ∧ 6 ≠ logicalNode s ∧ lateOf s ⟨2, 4, 6, 1, 8, 3, none⟩ = none)
    ∧ (let s := homed 0xFFFFF (opA .waiting none);
      activeSlot s 4 = none ∧ homeValid (homeEntry s 4) = true ∧ laterEpoch (homeEpoch (homeEntry s 4)) tokenA.epoch = true
        ∧ homeNode (homeEntry s 4) ≠ logicalNode s ∧ activeSlot s 5 = none ∧ homeValid (homeEntry s 5) = false
        ∧ tokenA.origin ≠ logicalNode s ∧ combOfExpert s 4 = none) := by decide

/-- `homed` without the DISPATCH, which timed out in round 1 with one request for expert 4 missing. -/
def lateAt : State := modLink (homed 4 (opA .waiting none)) (fun l => { l with ops := [], lateReqs := [⟨0, 7, 2, 4, 1, 1, []⟩] })

theorem witness_TokenMessages_late : lateOf lateAt ⟨2, 4, 6, 1, 8, 3, none⟩ = some ⟨0, 7, 2, 4, 1, 1, []⟩
    ∧ activeSlot lateAt 4 = some 1 ∧ findOp lateAt 0 7 = none ∧ 6 ≠ logicalNode lateAt
    ∧ (let s := homed 4 { opA .waiting none with round := 2 };
      opOfPlan s 2 = some { opA .waiting none with round := 2 } ∧ lateOf s ⟨2, 4, 6, 1, 8, 3, none⟩ = none) := by decide

theorem witness_TokenMessages_count : let s := homed 0xFFFFF (opA .waiting none);
    layerSlots s (opA .waiting none).plan = [] ∧ countAgrees (bucket s 9) [0, 0, 0, 0, 1, 0, 0, 0] = true ∧ (bucket s 9).use = .count ∧ (bucket s 9).askers = []
      ∧ mergedTrailer (bucket s 9) = none := by decide

theorem witness_TokenMessages_requests : requestsOf (opA .waiting none) = [(4, 1)] := by
  simp [requestsOf, choicesOf, opA, choice]

theorem witness_TokenMessages_grant : let o := opA .requested (some [0, 0, 0, 0, 1, 0, 0, 0]);
    let s := homed 4 o;
    opOfPlan s 2 = some o ∧ slotsDone s o = false ∧ originDone o = false ∧ o.reqs = [] ∧ o.round = 1
      ∧ homeNode (homeEntry s 4) ≠ logicalNode s := by decide

theorem witness_TokenMessages_order : choiceOrder ((choicesOf (opA .requested (some [0, 0, 0, 0, 1, 0, 0, 0])) .requested).filter
    (fun c => c.expert == 4)) = [choice .requested] := by simp [choiceOrder, choicesOf, opA, choice]

/-- A COMBINE over experts 0 to 7 that waits for one choice. -/
def combA : CombOp := { (default : CombOp) with
    armed := true, plan := (opA .sent none).plan, placed := ⟨[choice .sent, { choice .sent with row := 1 }], [], []⟩ }

/-- A module with one running COMBINE. -/
def combining : State := modLink up (fun l => { l with combines := [combA] })

theorem witness_TokenMessages_armed : enginesArmed (homed 4 (opA .waiting none)) ∧ enginesArmed lateAt
    ∧ enginesArmed combining :=
  ⟨⟨by decide, by decide⟩, ⟨by decide, by decide⟩, ⟨by decide, by decide⟩⟩

theorem witness_TokenMessages_output : inLayer combA.plan 4 = true
    ∧ allReturned { combA with rows := combA.rows ++ [⟨tokenA, [1#8]⟩] } = false := by decide

/-- A tensor entry of the table: base, rows, columns and the word of its format, valid. -/
def entryOf (base rows cols w : Nat) : List Byte :=
  leBytes 8 base ++ leBytes 4 rows ++ leBytes 4 cols ++ leBytes 4 (w + 1024) ++ leBytes 12 0

/-- `clear` with a tensor table at 0: 0 BF16, 1 INT4T, 2 FP32, 3 FP32 by steps of 256 channels, 4 FP32; 5 FP32 of no rows;
weight 0 registered. -/
def tabled : State := setWeight (
  modMem (setReg4 clear (hostBase + 0x18) 8) (fun m => { m with
    data := putBytes [] 0 (entryOf 4096 1 1 1 ++ entryOf 8192 1 1 0x27 ++ entryOf 12288 1 1 0 ++ entryOf 16384 4 256 512
      ++ entryOf 20480 1 1 0 ++ entryOf 24576 0 0 0) })) 0 { Weight.empty with registered := true }

/-- A product of entries `a` and 1 or 0 into 2, in one chunk, preloaded with zeros. -/
def product (a b k : Nat) : MatmulBody :=
  { (default : MatmulBody) with
    a := a, b := b, out := 2, splitN := 1, kind := k, dir := k % 2, pass := 1, preload := 1, passThrough := k == 1, dwTile := 64 }

def mulBody : MatmulBody := product 0 0 0
def backBody : MatmulBody := product 0 0 1
def tableBody : MatmulBody := product 0 1 2
def vecBody : VecopBody := { (default : VecopBody) with vop := 1, in0 := 2, in1 := 4, in2 := 0xFFFF, out0 := 4, out1 := 0xFFFF }
def scanBody : ScanBody := { (default : ScanBody) with chunkLen := 1, a := 3, b := 3, record := 0x10000 }

theorem clean_tabled : cleanMem tabled := by unfold cleanMem; decide

theorem starts_of {i : Nat} {h : Header} {d : Desc} {s : State} (a : clearStream s i) (b : h.pos < 2 ^ 20)
    (c : (kindReady (pushRec i (taken i h d s) s) i (taken i h d s)
      && passes (dispatchChecks i (taken i h d s)) (atWork i h d s)) = true) : startsNow i h d s := by
  simp only [Bool.and_eq_true] at c
  exact ⟨a, b, c.1, c.2⟩

theorem clear_tabled : clearStream tabled 0 := by unfold clearStream; decide

theorem witness_OperationsStart_matmul : startsNow 0 hdr (.matmul mulBody) tabled
    ∧ passes (dispatchMatmul 0 0 hdr mulBody) (atWork 0 hdr (.matmul mulBody) tabled) = true :=
  ⟨starts_of clear_tabled (by decide) (by decide +kernel), by decide +kernel⟩

theorem witness_OperationsStart_pair : startsNow 0 hdr (.matmul backBody) tabled
    ∧ passes (dispatchMatmul 0 0 hdr backBody) (atWork 0 hdr (.matmul backBody) tabled) = true :=
  ⟨starts_of clear_tabled (by decide) (by decide +kernel), by decide +kernel⟩

theorem witness_OperationsStart_table : startsNow 0 hdr (.matmul tableBody) tabled
    ∧ passes (dispatchMatmul 0 0 hdr tableBody) (atWork 0 hdr (.matmul tableBody) tabled) = true :=
  ⟨starts_of clear_tabled (by decide) (by decide +kernel), by decide +kernel⟩

theorem witness_OperationsStart_vecop : startsNow 0 hdr (.vecop vecBody) tabled
    ∧ passes (dispatchVecop 0 0 hdr vecBody) (atWork 0 hdr (.vecop vecBody) tabled) = true :=
  ⟨starts_of clear_tabled (by decide) (by decide +kernel), by decide +kernel⟩

theorem witness_OperationsStart_scan : startsNow 0 hdr (.scan scanBody) tabled
    ∧ passes (dispatchScan 0 0 hdr scanBody) (atWork 0 hdr (.scan scanBody) tabled) = true :=
  ⟨starts_of clear_tabled (by decide) (by decide +kernel), by decide +kernel⟩

/-- `tabled` with plans at 0x8000: 0 a reduction of one tree, two contributors; 1 DISPATCH of four experts with count
plan 0 and count bucket 7; 2 low-rank; a choice sent under plan 1. -/
def plansAt : State :=
  modLink (setReg4 (modMem tabled (fun m => { m with
    data := putBytes m.data 0x8000 (
      leBytes 4 0 ++ leBytes 4 2 ++ leBytes 4 1 ++ leBytes 4 0 ++ leBytes 16 16 ++ leBytes 96 0x3F
      ++ leBytes 4 3 ++ leBytes 4 0 ++ leBytes 4 4 ++ leBytes 4 0x70000 ++ leBytes 112 0
      ++ leBytes 4 2 ++ leBytes 4 2 ++ leBytes 4 1 ++ leBytes 4 0 ++ leBytes 16 16 ++ leBytes 64 0x3F
      ++ leBytes 8 0x20000 ++ leBytes 8 0x30000 ++ leBytes 8 0x40000 ++ leBytes 8 0x50000) }))
    (linkBase 0 + 0x10) 0x8000) (fun l => { l with
      placed := [(1, ⟨[{ (default : Choice) with state := .sent }], [], []⟩)] })

def sumBody : ReduceBody := { (default : ReduceBody) with bucket := 9, src := 2, dst := 0x60000 }
def lowBody : ReduceBody := { sumBody with rank := 1, plan := 2 }
def routeBody : DispatchBody :=
  { (default : DispatchBody) with tokens := 0, route := 2, weights := 0xFFFF, capacity := 1, k := 1, plan := 1 }
def mergeBody : DispatchBody :=
  { (default : DispatchBody) with tokens := 0, weights := 0, out := 0, k := 1, plan := 1 }

theorem armed_plansAt : enginesArmed plansAt := ⟨by decide, by decide⟩

/-- `plansAt` with a DISPATCH of stream 5 that holds a whole partition of link tile 0. -/
def fullAt : State := modLink plansAt (fun l => { l with ops := [{ (default : DispOp) with
  stream := 5, planNo := 9, armed := true, buffers := [2 ^ 27] }] })

theorem witness_ExchangesStart_full : cleanMem fullAt ∧ findOp fullAt 0 0 = none
    ∧ (∀ e, peekTE fullAt routeBody.tokens = some e → bufferFits fullAt (receiveBuffer fullAt e
      ((layerSlots fullAt (dispPlanOf (memBytes fullAt 0x8080 128))).map (fun n => (slotExpert (slotReg fullAt n), 1)))) = false)
    ∧ (∀ e, peekTE plansAt routeBody.tokens = some e → bufferFits plansAt (receiveBuffer plansAt e
      ((layerSlots plansAt (dispPlanOf (memBytes plansAt 0x8080 128))).map (fun n => (slotExpert (slotReg plansAt n), 1)))) = true) := by
  have a : peekTE fullAt routeBody.tokens = some (teOf (entryOf 4096 1 1 1)).2 := by decide +kernel
  have b : peekTE plansAt routeBody.tokens = some (teOf (entryOf 4096 1 1 1)).2 := by decide +kernel
  refine ⟨by unfold cleanMem; decide, by decide, ?_, ?_⟩ <;> intro e h
  · rw [a] at h; cases h; decide +kernel
  · rw [b] at h; cases h; decide +kernel

theorem clear_plansAt : clearStream plansAt 0 := by unfold clearStream; decide

theorem witness_ExchangesStart : cleanMem plansAt ∧ (bucket plansAt 9).state = .free ∧ (bucket plansAt 7).state = .free
    ∧ findOp plansAt 0 0 = none ∧ plansAt.link.combines = [] ∧ plansAt.link.earlyOuts = []
    ∧ (sget Placed.empty plansAt.link.placed 1).slots = []
    ∧ (sget Placed.empty plansAt.link.placed 1).choices.any (fun c => decide (c.state = .sent)) = true := by
  unfold cleanMem; decide

/-- An answer of some work, as far as a field of it shows. -/
def gives {α β : Type} [DecidableEq β] (w : MM α) (s : State) (f : α → β) (x : β) : Bool :=
  match (w s).1 with
  | .ok y => decide (f y = x)
  | .error _ => false

theorem gives_some {α β : Type} [DecidableEq β] {w : MM α} {s : State} {f : α → β} {x : β} (h : gives w s f x = true) :
    ∃ p, (w s).1 = .ok p ∧ f p = x := by
  unfold gives at h
  split at h
  · next y e => exact ⟨y, e, by simpa using h⟩
  · cases h

theorem witness_ExchangesStart_plans : (∃ p, (readPlan [0, 1] 0 0x14 plansAt).1 = .ok p ∧ p.kind = 0)
    ∧ (∃ p, (readPlan [2] 2 0x14 plansAt).1 = .ok p ∧ p.kind = 2)
    ∧ (∃ p, (readDispPlan 1 0x1C plansAt).1 = .ok p ∧ (p.countPlan, p.countBucket) = (0, 7))
    ∧ ∃ k, (readPlan [0] 0 0x1C plansAt).1 = .ok k ∧ k.kind = 0 :=
  ⟨gives_some (by decide +kernel), gives_some (by decide +kernel), gives_some (by decide +kernel), gives_some (by decide +kernel)⟩

theorem witness_ExchangesStart_sum : startsNow 0 hdr (.reduce sumBody) plansAt
    ∧ passes (dispatchReduce 0 0 { taken 0 hdr (.reduce sumBody) plansAt with key := 0 } sumBody)
      (atWork 0 hdr (.reduce sumBody) plansAt) = true :=
  ⟨starts_of clear_plansAt (by decide) (by decide +kernel), by decide +kernel⟩

theorem witness_ExchangesStart_low : startsNow 0 hdr (.reduce lowBody) plansAt
    ∧ passes (dispatchReduce 0 0 { taken 0 hdr (.reduce lowBody) plansAt with key := 0 } lowBody)
      (atWork 0 hdr (.reduce lowBody) plansAt) = true :=
  ⟨starts_of clear_plansAt (by decide) (by decide +kernel), by decide +kernel⟩

theorem witness_ExchangesStart_dispatch : startsNow 0 hdr (.dispatch routeBody) plansAt
    ∧ passes (dispatchDispatch 0 0 { taken 0 hdr (.dispatch routeBody) plansAt with key := 0 } routeBody)
      (atWork 0 hdr (.dispatch routeBody) plansAt) = true :=
  ⟨starts_of clear_plansAt (by decide) (by decide +kernel), by decide +kernel⟩

theorem witness_ExchangesStart_waits : enginesArmed fullAt ∧ startsNow 0 hdr (.dispatch routeBody) fullAt
    ∧ passes (dispatchDispatch 0 0 { taken 0 hdr (.dispatch routeBody) fullAt with key := 0 } routeBody)
      (atWork 0 hdr (.dispatch routeBody) fullAt) = true :=
  ⟨⟨by decide, by decide⟩, starts_of (by unfold clearStream; decide) (by decide) (by decide +kernel), by decide +kernel⟩

theorem witness_ExchangesStart_combine : startsNow 0 hdr (.combine mergeBody) plansAt
    ∧ passes (dispatchCombine 0 0 { taken 0 hdr (.combine mergeBody) plansAt with key := 0 } mergeBody)
      (atWork 0 hdr (.combine mergeBody) plansAt) = true :=
  ⟨starts_of clear_plansAt (by decide) (by decide +kernel), by decide +kernel⟩

/-- A save of entry 6, BF16 in clove 0's slice, for weight 0: with `re` marked recompute. -/
def saveBody (re : Bool) : StashSaveBody := { (default : StashSaveBody) with src := 6, recompute := re }

/-- Entry 6 of `stashed`. -/
def inSlice : TEntry := (teOf (entryOf (2 ^ 40) 1 1 1)).2

/-- `tabled` with a sixth entry in clove 0's slice, a seventh in LG8 of no rows, and a present stash entry 3 of clove 0. -/
def stashed : State :=
  modClove (modMem tabled (fun m => { m with
    data := putBytes m.data 192 (entryOf (2 ^ 40) 1 1 1 ++ entryOf (2 ^ 40 + 8192) 0 0 0x119) })) 0 (fun c => { c with
      stash := [(3, { StashEntry.none with state := .present, order := 1 })] })

theorem clear_stashed : clearStream stashed 0 := by unfold clearStream; decide

theorem witness_StashAndUpdate : cleanMem stashed ∧ peekTE stashed 6 = some inSlice ∧ sliceOf inSlice.base = some 0
    ∧ placeOf stashed 0 (worstPages (rowBlocks inSlice * colBlocks inSlice)) false = .hold
    ∧ freeIndex stashed 0 = some 0 := by
  unfold cleanMem; decide +kernel

theorem witness_StashAndUpdate_placed :
    placeOf stashed 0 (worstPages (rowBlocks inSlice * colBlocks inSlice)) true ≠ .hold := by
  simp [placeOf, show (freeIndex stashed 0).isNone = false by decide, show (freeSlice stashed 0).length = 0 by decide,
    show worstPages (rowBlocks inSlice * colBlocks inSlice) = 1 by decide]

theorem witness_StashAndUpdate_hold : startsNow 0 hdr (.stashSave (saveBody false)) stashed
    ∧ passes (dispatchStashSave 0 0 { taken 0 hdr (.stashSave (saveBody false)) stashed with key := 0 } (saveBody false))
      (atWork 0 hdr (.stashSave (saveBody false)) stashed) = true :=
  ⟨starts_of clear_stashed (by decide) (by decide +kernel), by decide +kernel⟩

theorem witness_StashAndUpdate_save : startsNow 0 hdr (.stashSave (saveBody true)) stashed
    ∧ passes (dispatchStashSave 0 0 { taken 0 hdr (.stashSave (saveBody true)) stashed with key := 0 } (saveBody true))
      (atWork 0 hdr (.stashSave (saveBody true)) stashed) = true :=
  ⟨starts_of clear_stashed (by decide) (by decide +kernel), by decide +kernel⟩

def loadBody : StashLoadBody := { (default : StashLoadBody) with index := 3, release := true, dst := 7 }

theorem witness_StashAndUpdate_load : startsNow 0 hdr (.stashLoad loadBody) stashed
    ∧ (sget StashEntry.none (clove stashed loadBody.clove).stash loadBody.index).state = .present
    ∧ passes (dispatchStashLoad 0 0 hdr loadBody) (atWork 0 hdr (.stashLoad loadBody) stashed) = true :=
  ⟨starts_of clear_stashed (by decide) (by decide +kernel), by decide, by decide +kernel⟩

/-- A waiting save of entry 6. -/
def waitingSave : Rec := { record 0 (.stashSave (saveBody true)) .stashWait with tes := [some inSlice] }
def saveWaits : State := modStream stashed 0 (fun x => { x with window := [waitingSave] })

theorem witness_StashAndUpdate_resume : cleanMem saveWaits ∧ (stream saveWaits 0).window = [waitingSave]
    ∧ resumable saveWaits waitingSave = some (0, saveBody true, inSlice)
    ∧ passes (placeSave 0 waitingSave.seq 0 waitingSave (saveBody true) inSlice) saveWaits = true
    ∧ freeIndex saveWaits 0 = some 0 ∧ waitingSave.lostIn.contains 0 = false
    ∧ (let r := { waitingSave with lostIn := [0] };
      r.lostIn.contains 0 = true ∧ resumable saveWaits r = some (0, saveBody true, inSlice)) := by
  unfold cleanMem; decide +kernel

/-- An UPDATE of weight 0 from tensor 5, with the hyperparameters of `stepped`. -/
def stepBody : UpdateBody := ⟨0, false, false, 5, 0, 0x100000⟩

/-- `tabled` with weight 0 at 0xC000, of no rows: its arrays and its hyperparameters in HBM, and STEP_COMMIT 1 issued. -/
def stepped (done committed : Bool) (l : List (Nat × Nat)) (n : Nat) : State :=
  modStep (setWeight (modMem tabled (fun m => { m with
    data := putBytes (putBytes m.data 0xC000 (leBytes 16 0
      ++ leBytes 8 0x20000 ++ leBytes 8 0x30000 ++ leBytes 8 0x40000 ++ leBytes 8 0x50000))
      0x100000 (leBytes 20 0 ++ leBytes 4 0x3F800000 ++ leBytes 4 0 ++ leBytes 4 0x3F800000 ++ leBytes 4 0x3F800000) })) 0
    { Weight.empty with addr := 0xC000, registered := true, updates := l, state := n }) (fun x => { x with
      issued := 1, commits := [⟨1, 1, 0, 0, 0, false, false, done, committed⟩] })

theorem clear_stepped (done : Bool) : clearStream (stepped done false [] 0) 0 := by
  cases done <;> (unfold clearStream; decide +kernel)

theorem witness_StashAndUpdate_update : startsNow 0 hdr (.update stepBody) (stepped false false [] 0)
    ∧ passes (takeUpdate (taken 0 hdr (.update stepBody) (stepped false false [] 0)) stepBody)
      (pushRec 0 (taken 0 hdr (.update stepBody) (stepped false false [] 0)) (stepped false false [] 0)) = true :=
  ⟨starts_of (clear_stepped false) (by decide) (by decide +kernel), by decide +kernel⟩

theorem witness_StashAndUpdate_skip : startsNow 0 hdr (.update stepBody) (stepped true false [] 0)
    ∧ passes (takeUpdate (taken 0 hdr (.update stepBody) (stepped true false [] 0)) stepBody)
      (pushRec 0 (taken 0 hdr (.update stepBody) (stepped true false [] 0)) (stepped true false [] 0)) = true
    ∧ (∃ c, commitOf (stepped true false [] 0) 1 = some c ∧ c.finished = true ∧ c.committed = false)
    ∧ (∀ x ∈ allRecs (stepped true false [] 0), x.2.life = .running → x.2.commitNo ≠ 1) :=
  ⟨starts_of (clear_stepped true) (by decide) (by decide +kernel), by decide +kernel, ⟨_, rfl, rfl, rfl⟩, by decide⟩

/-- The UPDATE of weight 0 as the record of stream 0 that waits. -/
def waitingUpdate : Rec := { record 0 (.update stepBody) .running with commitNo := 1 }
def readyUpdate : State := modStream (stepped true true [(0, 0)] 0) 0 (fun x => { x with window := [waitingUpdate] })

theorem witness_StashAndUpdate_start : cleanMem readyUpdate ∧ startable readyUpdate 0 = some (0, 0, stepBody)
    ∧ passes (runUpdate stepBody) readyUpdate = true := by
  unfold cleanMem; decide +kernel

theorem witness_StashAndUpdate_complete : (weight (stepped true true [(0, 0)] 1) 0).updates = [(0, 0)]
    ∧ (weight (stepped true true [(0, 0)] 1) 0).state = 1 ∧ (weight (stepped true true [(0, 0)] 0) 0).state ≠ 1 := by decide

/-- `readyUpdate` with one block of four bytes held. -/
def heldUpdate : State := modStream (setWeight (stepped true true [(0, 0)] 1) 0 { weight (stepped true true [(0, 0)] 1) 0 with
  held := [⟨0, 0, [(0x20000, [1#8, 2#8, 3#8, 4#8])], 1, 0, 0⟩] }) 0 (fun x => { x with window := [waitingUpdate] })

theorem witness_StashAndUpdate_held : cleanMem heldUpdate ∧ (weight heldUpdate 0).state = 1
    ∧ passes ((weight heldUpdate 0).held.forM (writeHeld 0 0)) heldUpdate = true
    ∧ findRec heldUpdate 0 0 = some waitingUpdate ∧ waitingUpdate.life ≠ .done := by
  unfold cleanMem; decide +kernel

theorem witness_StepGuard_scale : cleanMem clear ∧ (∃ b : ScaleCommitBody, startsNow 0 hdr (.scaleCommit b) clear
    ∧ 0 < b.count ∧ b.first + b.count ≤ 4096 ∧ b.dst + 320 * b.count ≤ hbmEnd ∧ access clear b.dst (320 * b.count) = .ok) := by
  refine ⟨by unfold cleanMem; decide, ⟨4094, 2, 1, 4096⟩, starts_of clear_ok (by decide) (by decide +kernel), ?_⟩
  decide

/-- A STEP_COMMIT with its vote in bucket 9 on plan 0. -/
def voteBody : StepCommitBody := { (default : StepCommitBody) with vote := 9 }

/-- `plansAt` right after a BARRIER of group 0. -/
def barred : State := modStream plansAt 0 (fun x => { x with afterBarrier0 := true })

theorem witness_StepGuard_commit : startsNow 0 hdr (.stepCommit voteBody) barred ∧ (stream barred 0).afterBarrier0 = true
    ∧ commitAt barred 0 (stream barred 0).seqNext = none ∧ (∃ p, (readPlan [0] 0 0x14 barred).1 = .ok p ∧ p.kind = 0)
    ∧ (bucket barred 9).state = .free ∧ (stream plansAt 0).afterBarrier0 = false :=
  ⟨starts_of (by unfold clearStream; decide) (by decide) (by decide +kernel), by decide, by decide,
    gives_some (by decide +kernel), by decide, by decide⟩

/-- `barred` with STEP_COMMIT 0 of stream 0 voting in bucket 9. -/
def voting (done : Bool) : State :=
  setBucket (modStep (modStream barred 0 (fun x => { x with window := [record 0 (.stepCommit voteBody) .running] }))
    (fun x => { x with issued := 1, commits := [⟨1, 0, 0, 0, 9, true, false, done, false⟩] })) 9
    { Bucket.empty with state := .collecting, use := .vote, op := 2, elements := 1 }

theorem witness_StepGuard_vote : ∀ done, cleanMem (voting done)
    ∧ votingCommit (voting done) 9 = some ⟨1, 0, 0, 0, 9, true, false, done, false⟩
    ∧ (bucket (voting done) 9).use = .vote ∧ (∀ bad short, voteAgrees (bucket (voting done) 9) bad short default = true)
    ∧ (bucket (voting done) 9).askers = [] ∧ (∀ o ∈ (voting done).link.waiting, o.bucket ≠ 9)
    ∧ (voting done).link.residuals = [] := by
  unfold cleanMem; decide

theorem witness_StepGuard_record : ∀ x ∈ allRecs (voting false), x.1 = 0 → x.2.seq = 0 → ∃ d, x.2.desc = .stepCommit d := by
  have h : allRecs (voting false) = [(0, record 0 (.stepCommit voteBody) .running)] := by decide
  rw [h]
  intro x hx _ _
  rw [List.mem_singleton.mp hx]
  exact ⟨voteBody, rfl⟩

/-- `up` with stream 0 ACTIVE and empty, one descriptor produced, and the words `w` and 0 as its first 16 bytes in host
memory at 0; the call table at 0x100 of module memory names a list of 3 at 0x40. -/
def rung (w n : Nat) : State :=
  modMem (modHost (modStream clear 0 (fun x => { x with produced := n })) (fun h => { h with
    mem := putBytes [] 0 (leBytes 4 w) })) (fun m => { m with data := putBytes [] 8 (leBytes 4 (3 + 2 ^ 17)) })

theorem witness_RingsAndLists_take : (∀ n, n < 2 → clearStream (rung 256 n) 0) ∧ ringReady (rung 256 0) 0 = false
    ∧ ringReady (rung 256 1) 0 = true ∧ (rung 256 1).host.bad = [] ∧ cleanMem (rung 256 1)
    ∧ (stream (rung 256 1) 0).taken = 0 := by
  unfold clearStream cleanMem; decide +kernel

theorem witness_RingsAndLists_headers :
    let bs (w : Nat) := headerOf (bytesAt (rung w 1).host.mem (reg8 (rung w 1) (ringReg 0 0) / 4096 * 4096) 64);
    (bs 256).1 = 0 ∧ (bs 256).2.1 = true ∧ (bs 0).2.1 = false ∧ (bs 0x112).1 = 0x12 ∧ (bs 256).2.2.pos < 2 ^ 20
      ∧ (bs 0x112).2.2.pos < 2 ^ 20 ∧ b2n true = ringPhase 0 (sqSize (rung 256 1) 0) := by decide +kernel

theorem witness_RingsAndLists_call : ∃ e, (callEntry 0 0x10 (rung 256 1)).1 = .ok e ∧ e = (0, 3) :=
  gives_some (f := id) (by decide +kernel)

/-- `clear` in a list of three descriptors at 0x40. -/
def listed : State :=
  modStream clear 0 (fun x => { x with calls := [⟨0x40, 3, true, 2, 5, record 0 (.call default) .waiting⟩] })

theorem witness_RingsAndLists_list : cleanMem listed ∧ mayTake listed 0 = true ∧ access listed 0x40 64 = .ok
    ∧ (headerOf (bytesAt listed.mem.data 0x40 64)).1 = 0 ∧ (headerOf (bytesAt listed.mem.data 0x40 64)).2.2.pos + 5 < 2 ^ 20 := by
  unfold cleanMem; decide +kernel

/-- `clear` with one record in its window, and a completion ring of `n` places. -/
def closingRec (r : Rec) (n : Nat) : State :=
  setReg4 (modStream clear 0 (fun x => { x with window := [r], cqProduced := 1 })) (cqReg 0 8) n

theorem witness_RingsAndLists_retire :
    let r := record 0 (.barrier) .done;
    let f := { r with hdr := { hdr with cmpl := true } };
    needsEntry r = false ∧ needsEntry f = true ∧ cqFull (closingRec f 4) 0 = false ∧ cqFull (closingRec f 0) 0 = true
      ∧ (closingRec f 4).host.linkUp = true ∧ (stream (closingRec f 4) 0).window = [f]
      ∧ (let w : Wait := ⟨0, 1, true, true⟩;
        waitCancelled (closingRec f 4) w = false ∧ waitMet (closingRec f 4) 0 0 w = true) := by decide +kernel

/-- An item of descriptor 0 of stream 0, of kind `k`, bound to nothing; its number is `n`. -/
def item0 (k : ItemKind) (n : Nat) : QItem := { QItem.none with id := ⟨0, 0, n, 0⟩, kind := k }

/-- `clear` with record `r` running, and `l` queued in pod `q`. -/
def queued (r : Rec) (q : Nat) (l : List QItem) : State :=
  modComp (modStream clear 0 (fun x => { x with window := [r] })) (fun c => { c with podQueue := [(q, l)] })

def mulRec : Rec := { record 0 (.matmul (product 0 0 0)) .running with nItems := 1, nSplit := 1, left := 1 }

theorem one_order (r : Rec) (q : Nat) (i : QItem) : handOrder (queued r q [i]) q = [i] := by
  simp [handOrder, queued, modComp, sget]

theorem no_order (r : Rec) (q v : Nat) (l : List QItem) (h : v ≠ q) : handOrder (queued r q l) v = [] := by
  simp [handOrder, queued, modComp, sget, Ne.symm h]

theorem witness_Items_handout : cleanMem (queued mulRec 3 [item0 .tile 0])
    ∧ takerOf (queued mulRec 3 [item0 .tile 0]) 3 (item0 .tile 0) = some (36, 0, 0)
    ∧ findRec (queued mulRec 3 [item0 .tile 0]) 0 0 = some mulRec ∧ (product 0 0 0).preload < 2
    ∧ ringPos (queued mulRec 3 [item0 .tile 0]) 36 = some (3, 0)
    ∧ tileFree (queued mulRec 3 [item0 .tile 0]) 36 0 = true
    ∧ namesTile (queued mulRec 3 [item0 .tile 0]) (item0 .tile 0) 0 = true
    ∧ ∃ s, cleanMem s ∧ tileFree s 36 0 = false := by
  refine ⟨by unfold cleanMem; decide, by decide +kernel, by decide, by decide, by decide, by decide, by decide,
    setTile up 36 0 { Tile.empty with state := .open_ }, by unfold cleanMem; decide, by decide⟩

theorem witness_Items_thief : let s := modComp (queued mulRec 4 [item0 .tile 0, item0 .tile 1]) (fun c => { c with ucodeWait := [0] });
    cleanMem s ∧ mayBeStolen s (item0 .tile 1) = true ∧ thiefOf s 3 (item0 .tile 1) = none
      ∧ sget [] s.comp.podQueue (3 / 6 * 6 + (3 % 6 + 1) % 6) = [item0 .tile 0] ++ [item0 .tile 1] := by
  unfold cleanMem; decide +kernel

theorem witness_Items_steal : let s := queued mulRec 4 [item0 .tile 0, item0 .tile 1];
    cleanMem s ∧ sget [] s.comp.podQueue (3 / 6 * 6 + (3 % 6 + 1) % 6) = [item0 .tile 0] ++ [item0 .tile 1]
      ∧ mayBeStolen s (item0 .tile 1) = true ∧ thiefOf s 3 (item0 .tile 1) = some (36, 0) := by
  unfold cleanMem; decide +kernel

theorem witness_Items_search : let i := item0 .tile 0;
    let s := queued mulRec 3 [{ i with id := ⟨5, 0, 0, 0⟩ }, i];
    handOrder s 3 = [{ i with id := ⟨5, 0, 0, 0⟩ }] ++ i :: [] ∧ takerOf s 3 { i with id := ⟨5, 0, 0, 0⟩ } = none
      ∧ namesTile s { i with id := ⟨5, 0, 0, 0⟩ } 0 = false ∧ takerOf s 3 i = some (36, 0, 0) := by
  refine ⟨?_, by decide +kernel, by decide, by decide +kernel⟩
  simp [handOrder, queued, modComp, sget, List.mergeSort, List.MergeSort.Internal.splitInTwo, item0, QItem.none]

/-- The work that the values of a MATMUL item's lanes are. -/
def lanesLoad (p : Nat) (b : MatmulBody) (l : List (Option TEntry)) (i : QItem) : MM Unit := do
  checkBlocksRead p b l []
  let _ ← loadLanes p (portA b (teAt l 0)) (glenOf b.glen) (itemBlock b l i.id.n).1 (chunkRange b l i.id.chunk).1
    (chunkRange b l i.id.chunk).2 (reqClove p)
  let _ ← loadLanes p (portB b (teAt l 1)) (glenOf b.glen) (itemBlock b l i.id.n).2 (chunkRange b l i.id.chunk).1
    (chunkRange b l i.id.chunk).2 (reqClove p)

theorem witness_Items_lanes : passes (lanesLoad 0 (product 0 0 0) [] (item0 .tile 0)) up = true := by decide +kernel

theorem witness_Items_switch : let s := setCtx up 7 2 { Ctx.none with order := 5 };
    servingOf s 7 0 = none ∧ servingOf (setServing 7 0 (some 2) s) 7 0 = some 2
      ∧ (clove s 7).ctx.any (fun x => x.1 == 2) = true := by decide

/-- A shared MATMUL's item that waits for its tile, 5 of clove 0. -/
def memberItem : QItem := { item0 .shared 0 with tile := 5 }
def memberRec : Rec :=
  { record 0 (.matmul { product 0 0 0 with shared := true, accTile := 5 }) .running with tes := [], left := 1, nSplit := 1 }
def memberWaits : State :=
  setTile (setCtx (modStream clear 0 (fun x => { x with window := [memberRec] })) 0 1
    { Ctx.none with item := memberItem, formed := true, order := 1 }) 0 5 { Tile.empty with state := .shared, item := memberItem }

theorem witness_Items_member : cleanMem memberWaits
    ∧ (∃ c b, waitingMember memberWaits 0 5 = some (1, c, memberRec, b) ∧ c.item = memberItem ∧ b.shared = true
      ∧ passes (itemProducts 0 5 b memberRec.tes c.item) memberWaits = true)
    ∧ itemTile memberWaits 0 memberRec memberItem .out = some 5 ∧ waitingMember up 0 5 = none :=
  ⟨by unfold cleanMem; decide, ⟨_, _, rfl, rfl, rfl, by decide +kernel⟩, by decide, by decide⟩

/-- `clear` with context 1 of clove 0 at item 0 of descriptor `d`, which has one part left, and tile 0 OPEN for it. -/
def working (d : Desc) (k : ItemKind) : State :=
  setTile (setCtx (modStream clear 0 (fun x => { x with window := [{ record 0 d .running with left := 1, nSplit := 1 }] })) 0 1
    { Ctx.none with item := item0 k 0, order := 1 }) 0 0 { Tile.empty with state := .open_, splitN := 1, item := item0 k 0 }

theorem witness_Items_complete_matmul : let r := { record 0 (.matmul mulBody) .running with left := 1, nSplit := 1 };
    let s := working (.matmul mulBody) .tile;
    findRec s 0 0 = some r ∧ (ctxOf s 0 1).order ≠ 0 ∧ itemTile s 0 r (item0 .tile 0) .out = some 0
      ∧ passes (itemProducts 0 0 mulBody r.tes (item0 .tile 0)) s = true := by decide +kernel

theorem witness_Items_complete_vecop : let r := { record 0 (.vecop vecBody) .running with left := 1, nSplit := 1 };
    findRec (working (.vecop vecBody) .vecop) 0 0 = some r ∧ vopRow vecBody.vop = false
      ∧ passes (vecBlock 0 0 r vecBody 0) (working (.vecop vecBody) .vecop) = true := by decide +kernel

theorem witness_Items_complete_scan : let b := { scanBody with mode := 0, chunkLen := 0 };
    let r := { record 0 (.scan b) .running with left := 1, nSplit := 1 };
    findRec (working (.scan b) .scan) 0 0 = some r ∧ passes (scanChunk 0 0 r b) (working (.scan b) .scan) = true := by
  decide +kernel

/-- Item 0 in chunk `c`. -/
def chunkItem (c : Nat) : QItem := { item0 .chunk 0 with id := ⟨0, 0, 0, c⟩ }

/-- A tile of chunk `c` of two, its sum whole, of a MATMUL whose output is tensor 2. -/
def chunkTile (c : Nat) : Tile :=
  { Tile.empty with state := .combining, splitN := 2, chunk := c, item := chunkItem c, lo := c, hi := c, words := [0x3F800000] }

/-- Chunk 0 in tile 0 of clove `a`, chunk 1 in tile 0 of clove 1. -/
def halves (a : Nat) : State := setTile (setTile up a 0 (chunkTile 0)) 1 0 (chunkTile 1)

theorem witness_Tiles_combine : cleanMem (halves 0) ∧ partnerOf (halves 0) 1 0 = some (0, 0, chunkTile 0)
    ∧ partnerOf (halves 0) 0 0 = none ∧ (chunkTile 0).lo = 0 ∧ (chunkTile 1).hi + 1 = (chunkTile 1).splitN := by
  unfold cleanMem; decide +kernel

/-- Chunk 0, bound to position 0 of pod 0, formed in tile 9 of clove 20. -/
def stolenTile : Tile := { chunkTile 0 with item := { chunkItem 0 with bound := some 0 } }
def stolenAway : State := setTile up 20 9 stolenTile

theorem witness_Tiles_stolen : cleanMem stolenAway ∧ tileFree stolenAway 0 0 = true
    ∧ stolenFor stolenAway 0 0 = some (20, 9, stolenTile) ∧ stolenFor up 0 0 = none := by
  unfold cleanMem; decide +kernel

/-- A MATMUL into entry 2, FP32, with AUTO_RETRY `a`, its record, and its one tile, CLOSING in clove 0. -/
def drainBody (a : Bool) : MatmulBody := { mulBody with autoRetry := a }
def fp32Out : TEntry := (teOf (entryOf 12288 1 1 0)).2
def drainRec0 (a : Bool) : Rec :=
  { record 0 (.matmul (drainBody a)) .running with left := 1, tes := [none, none, some fp32Out], nSplit := 1 }
def drainTile : Tile := { Tile.empty with state := .closing, splitN := 1, item := item0 .tile 0, words := [0x3F800000] }

/-- Clove 0 with that tile, and a drain of it. -/
def draining (a : Bool) (d : Option Drain) : State :=
  modClove (modStream clear 0 (fun x => { x with window := [drainRec0 a] })) 0 (fun c => { c with
    tiles := [(0, drainTile)], closing := [0], drain := d })

theorem witness_Tiles_drain : let s := draining false none;
    cleanMem s ∧ (clove s 0).drain = none ∧ (clove s 0).closing = [0]
      ∧ drainRec s (tile s 0 0) = some (drainRec0 false, drainBody false)
      ∧ (drainTarget (drainRec0 false) (drainBody false) drainTile).1 = fp32Out ∧ fp32Out.timeMajor = false
      ∧ passes (drainOnce 0 (drainRec0 false) (drainBody false) drainTile
        (startsLate (drainRec0 false) (drainBody false) fp32Out)) s = true := by
  unfold cleanMem; decide +kernel

/-- The work of a drain whose answers `writes` names. -/
def drainWork (p : Nat) (r : Rec) (b : MatmulBody) (y : Tile) (e : TEntry) : MM Unit := do
  if plainDrain y then pure () else drainInto r.hdr.tensorId e.fmt b.histBase
  let saved ← savedWords p r b y 0 0
  let _ ← drainValues p b y e 0 0 saved
  let _ ← drainRandom p r b y e 0 0

theorem witness_Tiles_writes : passes (drainWork 0 (drainRec0 false) (drainBody false) drainTile fp32Out) (draining false none) = true
    ∧ fmtScaled (eFmt fp32Out) = false := by decide +kernel

/-- An output in LG8, of groups of 64 along its rows, and a MATMUL into it. -/
def lgOut : TEntry := (teOf (entryOf 12288 1 1 0x119)).2
def lgRec : Rec := { drainRec0 false with tes := [none, none, some lgOut] }

theorem witness_Tiles_writes_scaled : passes (drainWork 0 lgRec (drainBody false) drainTile lgOut) (draining false none) = true
    ∧ fmtScaled (eFmt lgOut) = true ∧ lgOut.glen ≤ 1 ∧ lgOut.timeMajor = false ∧ plainDrain drainTile = false
    ∧ (drainTarget lgRec (drainBody false) drainTile).1 = lgOut := by decide +kernel

theorem witness_Tiles_passEnd : ∀ miss a : Bool, let s := draining a (some ⟨0, false, Stats.empty, miss, false⟩);
    cleanMem s ∧ (clove s 0).drain = some ⟨0, false, Stats.empty, miss, false⟩
      ∧ drainRec s (tile s 0 0) = some (drainRec0 a, drainBody a) ∧ drainRec0 a ∈ (stream s 0).window
      ∧ (clove up 0).drain = none ∧ (clove up 0).closing = [] := by
  unfold cleanMem; decide +kernel

theorem witness_Tiles_redrain : let s := draining true (some ⟨0, true, Stats.empty, true, false⟩);
    cleanMem s ∧ (clove s 0).drain = some ⟨0, true, Stats.empty, true, false⟩
      ∧ drainRec s (tile s 0 0) = some (drainRec0 true, drainBody true)
      ∧ passes (drainOnce 0 (drainRec0 true) (drainBody true) drainTile true) s = true := by
  unfold cleanMem; decide +kernel

/-- `up` with row 7 of channel 40 being copied to its first spare row. -/
def copying : State :=
  modMem up (fun m => { m with rowCopies := [(40, 7, 0)], remap := [(remapKey (0x2000 + 40) 0, [⟨7, false, 0⟩])] })

theorem witness_MemoryUpkeep_rows : rowCopyOf copying 40 = some (40, 7, 0) ∧ rowCopyOf up 40 = none := by decide

/-- `up` with channel 40 in state `c` and the reserve enabled. -/
def channel (c : Nat) : State := setReg4 (modMem up (fun m => { m with chState := sset 0 m.chState 40 c })) (safeBase + 0x80) 1

theorem witness_MemoryUpkeep_channels : MemInv (channel 1) ∧ chState (channel 1) 40 = 1 ∧ (channel 1).mem.moved = []
    ∧ (∀ x ∈ (channel 1).mem.data, x.1 < hbmEnd → x.1 % stackSize < liveRows * 8192) ∧ hostBlock (channel 0) = true
    ∧ bitAt (2 ^ 31 + 40) 31 = true ∧ bitsAt (2 ^ 31 + 40) 8 0 = 40 ∧ chState (channel 0) 40 = 0
    ∧ 40 ∉ (channel 0).mem.migrationWaiting ∧ reserveOn (channel 0) = true ∧ retiredIn (channel 0) 1 = 0
    ∧ reserveOn up = false ∧ bitsAt (2 ^ 31 + 41) 8 0 = 41 ∧ chState (channel 1) 41 = 0 ∧ retiredIn (channel 1) 1 = 1
    ∧ (channel 1).mem.chState.any (fun x => decide (x.1 / 32 = 1) && decide (x.2 = 1)) = true := by decide

theorem witness_MemoryUpkeep_inject : isUnit 5 = true ∧ isUnit 0x2005 = true ∧ injTakes up 5 = true
    ∧ injTakes (channel 2) 0x2028 = false ∧ hostBlock State.reset = false := by decide

/-- `up` TRACKING at pair 1000 with alarms 480 and 481 armed at 900, windows of 50 each 200, and both passes at rate. -/
def windowed : State :=
  modMem (setReg8 (setReg8 (ownerArm 481 ⟨900, 0⟩ (ownerArm 480 ⟨900, 0⟩ { up with
    tally := { TallySt.empty with state := .tracking, bus := ⟨1000, 0⟩ } })) (safeBase + 0x1008) 200) (safeBase + 0x1010) 50)
    (fun m => { m with
      sramPass := { m.sramPass with running := true, atRate := true }
      hbmPass := { m.hbmPass with running := true, atRate := true }
      faults := [(faultKey 5 (2 ^ 40 + 0xA000000), .single), (faultKey 0x2028 0xC00000800, .double)] })

theorem witness_MemoryUpkeep_turns : almTurn windowed 480 = true ∧ almTurn (disarm 480 windowed) 481 = true
    ∧ almTurn up 480 = false ∧ almTurn up 481 = false := by
  have w : dueGates windowed ++ dueDeadlines windowed = [] := by decide
  have u : dueGates up ++ dueDeadlines up = [] := by decide
  refine ⟨?_, turn_of_only _ _ (by decide +kernel) (by decide), ?_, ?_⟩
  · unfold almTurn dueAlarms
    rw [show (List.range 512).filter (almFires windowed) = [480, 481] by decide +kernel]
    have h : firesFirst windowed 480 481 = true := by decide +kernel
    rw [w]
    simp [List.mergeSort, List.MergeSort.Internal.splitInTwo, h]
  all_goals
    unfold almTurn dueAlarms
    rw [show (List.range 512).filter (almFires up) = [] by decide +kernel, u]
    simp

theorem witness_MemoryUpkeep_windows : winPeriod windowed = 200 ∧ winLen windowed = 50
    ∧ (almMark windowed 480).pair = 900 ∧ (∀ h, (passOf windowed h).running = true ∧ (passOf windowed h).atRate = true)
    ∧ up.power.main = true ∧ (∀ h, (passOf up h).running = false) ∧ (∀ h, scrubbing windowed h = true)
    ∧ (∀ h, scrubbing up h = false) ∧ winPeriod up = 0 := by decide

theorem witness_MemoryUpkeep_read : 0xC00000800 % unitBytes 0x2028 = 0 ∧ scrubReads windowed 5 = true ∧ scrubReads windowed 0x2028 = true
    ∧ faultsOf windowed.mem 5 (fun b => decide (b = 2 ^ 40 + 0xA000000)) = [(2 ^ 40 + 0xA000000, .single)]
    ∧ sget [] windowed.mem.tracker 5 = []
    ∧ faultsOf windowed.mem 0x2028 (fun b => decide (b = 0xC00000800)) = [(0xC00000800, .double)]
    ∧ faultsOf windowed.mem 5 (fun b => decide (b = 2 ^ 40 + 0xA000010)) = [] := by decide

theorem witness_ServiceInPlace : coreRuns up = true ∧ coreRuns State.reset = false ∧ canariesOn up = true
    ∧ canaryClove up 36 = true ∧ hostBlock up = true ∧ cloveTakes up 36 = true ∧ (clove up 36).quarantined = false
    ∧ tileIsOut up 0 = false ∧ seatOwner up 36 = some 36 ∧ seatOwner up 73 = none ∧ canaryClove up 73 = true ∧ cloveTakes up 73 = true
    ∧ freeSpare (modClove up 36 (fun y => { y with quarantined := true })) 0 = some 72 ∧ Canon Clove.empty up.comp.cloves
    ∧ bitAt (2 ^ 31 + 36) 31 = true ∧ bitsAt (2 ^ 31 + 36) 10 0 = 36 ∧ (2 : Nat) ∉ up.comp.updateOut
    ∧ adderLanes up 3 = 0xFF ∧ bitAt (adderLanes up 3) 2 = true ∧ 3 ∉ up.link.addStopped := by decide +kernel

/-- `up` with clove 36 quarantined and spare 72 joining its place. -/
def joining72 : State :=
  modClove (modClove up 36 (fun c => { c with quarantined := true, seat := .out })) 72 (fun c => { c with joining := some 36 })

theorem witness_ServiceInPlace_join : (clove joining72 72).joining = some 36 ∧ (clove joining72 36).quarantined = true
    ∧ coreRuns joining72 = true := by decide

/-- `readyUpdate` with weight 0 UPDATING, of one block, and one failure of engine 0 on record. -/
def engined : State :=
  modSafe (setWeight (modMem up (fun m => { m with data := [(0xC004, 1#8), (0xC008, 1#8)] })) 0
    { Weight.empty with
      addr := 0xC000, registered := true, state := 1, updates := [(0, 0)], held := [⟨0, 0, [], 0, 0, 0⟩] }) (fun x => { x with
      ledger := { x.ledger with residues := [(0, 0)] } })

theorem witness_ServiceInPlace_engine : usesEngine engined 0 0 = true ∧ usesEngine up 0 0 = false ∧ stewardMs engined = 0 ∧ (weight engined 0).updates ≠ []
    ∧ engined.safe.ledger.residues = [(0, 0)] ∧ 0 ∉ engined.comp.updateOut ∧ coreRuns engined = true := by decide +kernel

theorem witness_ServiceInPlace_tile : enginesArmed up ∧ allCut up := ⟨⟨by decide, by decide⟩, by unfold allCut; decide⟩

theorem witness_ServiceInPlace_lanes : let s := modLink up (fun l => { l with addLanes := [(3, 0x1F7)] });
    adderLanes s 3 ≠ 0xFF ∧ bitAt (adderLanes s 3) 8 = true ∧ 3 ∉ s.link.addStopped := by decide

/-- `up` with a microcode image pending at tiles 2 and 3, no work on them, and the steward restarting when `r`. -/
def reloading (r : Bool) : State :=
  modSafe (modComp up (fun c => { c with ucodeWait := [2, 3] })) (fun x => { x with
    steward := { x.steward with ucodeStatus := 2, ucodePending := some 7, restarting := r } })

theorem witness_StewardAndTests : stewardTakes up = true ∧ up.safe.steward.ucodeStatus = 0 ∧ stewardTakes State.reset = false
    ∧ coreRuns (reloading false) = true ∧ (∀ n ∈ (reloading false).comp.ucodeWait, tileBusy (reloading false) n = false)
    ∧ (reloading true).safe.steward.restarting = true := by decide

/-- `up` with a context of clove 152, in tile 2, that holds an item, and tile 2 waiting to load. -/
def reloadingBusy : State :=
  modClove (reloading false) 152 (fun c => { c with ctx := [(0, { Ctx.none with order := 4 })] })

theorem witness_StewardAndTests_busy : tileBusy reloadingBusy 2 = true ∧ tileBusy reloadingBusy 3 = false := by decide

/-- `up` with spare 72 and channel 9 under test. -/
def testing : State :=
  setMbist 9 ⟨true, false, false, 0⟩ (modClove up 72 (fun c => { c with bist := ⟨true, false, false, 0⟩ }))

theorem witness_StewardAndTests_runs : ringPos up 72 = none ∧ (clove up 72).joining = none ∧ (clove up 72).bist.busy = false
    ∧ (clove testing 72).bist.busy = true ∧ 72 ≤ 72 % 76 ∧ (clove testing 72).seat = .asBuilt
    ∧ (clove testing 72).failedSpare = false ∧ ringPos up 0 ≠ none ∧ (mbistOf testing 9).busy = true
    ∧ sget [] testing.mem.remap (remapKey (0x2000 + 9) 0) = [] ∧ chState testing 9 ≠ 2
    ∧ streamsOff up = true ∧ chState up 9 ≠ 2 ∧ (mbistOf up 9).busy = false ∧ streamsOff clear = false := by decide

/-- `up` in service with counter 0x10044 at 9 and its copy at 4, an automatic period of 3 µs, and a strobe at work when `b`. -/
def strobing (b : Bool) : State :=
  modReg (setReg4 up 0x200 0x3000) (fun r => { r with
    ctr := [(0x10044, 9)], nextCopy := [(0x10044, 4)], snap := { r.snap with busy := b, clear := false } })

theorem witness_Registers : hostBlock (strobing true) = true ∧ (strobing true).reg.snap.busy = true
    ∧ (strobing true).reg.snap.clear = false ∧ (strobing true).safe.steward.restarting = false
    ∧ Canon 0 (strobing true).reg.ctr ∧ Canon 0 (strobing true).reg.copy ∧ (strobing false).reg.snap.busy = false
    ∧ snapPeriod (strobing false) = 3 ∧ started (strobing false) = true ∧ hostBlock State.reset = false
    ∧ snapPeriod (setReg4 up 0x200 0) = 0 := by decide

theorem witness_Registers_restart : let s := modSteward (strobing false) (fun x => { x with restarting := true });
    s.safe.steward.restarting = true ∧ hostBlock s = true ∧ govCounter 0x200030 = true ∧ govCounter 0x10044 = false := by
  decide

theorem witness_PackedElements : (1 : Nat) < [0x21#8, 0x43#8].length ∧ (1 + 1) * 2 ≤ [1#8, 2#8, 3#8, 4#8].length
    ∧ (0 + 1) * 4 ≤ [1#8, 2#8, 3#8, 4#8].length ∧ ∀ c ∈ [15, 3, 7], c < 2 ^ 4 := by decide

theorem witness_QueueStep : ({ up with pending := [.readVin] } : State).pending = [Instr.readVin] ∧ up.pending = [] := ⟨rfl, rfl⟩

theorem witness_StepKeepsMemInv : MemInv { up with pending := [.readVin] }
    ∧ ∃ t, step { up with pending := [.readVin] } = .next t := ⟨by decide, _, rfl⟩

theorem witness_CommandsComplete : wellFormed (.sqDb 63 5) = true
    ∧ ∃ u ∈ Sys2Proof.Laws.UnitsExist.units (.sqDb 64 5), u.1 ≤ u.2 := by decide

end Sys2Proof.Tests
end

section
/-! Which commands run: the queue's step, and the check of units that every command makes before it acts (R3, R7). -/

namespace Sys2Proof.Machine

open Sys2Proof.Laws.UnitsExist (units)

/-- Settles O57: each clause is one branch of the step's match on the queue. -/
theorem queueStep : Obligations.QueueStep := by
  unfold Obligations.QueueStep
  refine ⟨fun s c rest h => ?_, fun s h => ?_⟩ <;> simp only [step, h]

@[simp] theorem onUnit_true (s : State) : onUnit true s = .next s := rfl

@[simp] theorem onUnit_false (s : State) : onUnit false s = .fault .noSuchUnit := rfl

/-- Command `i` checks its units before it acts: a number of `units` beyond those the module has fails the check, and no
well-formed command fails it (R7). -/
def ChecksUnits (i : Instr) (s : State) : Prop :=
  ∃ ok t, exec i s = onUnit ok t ∧ (wellFormed i = true → ok = true) ∧ (ok = true → ∀ u ∈ units i, u.2 < u.1)

section
variable {i : Instr} {s t : State}

theorem checksUnits_of_next (h : exec i s = .next t) (hu : units i = []) : ChecksUnits i s :=
  ⟨true, t, h, fun _ => rfl, by simp [hu]⟩

theorem checksUnits_of_onUnit {ok : Bool} (h : exec i s = onUnit ok t) (hw : wellFormed i = true → ok = true)
    (hu : ok = true → ∀ u ∈ units i, u.2 < u.1) : ChecksUnits i s := ⟨ok, t, h, hw, hu⟩

/-- A well-formed command answers a next state. -/
theorem ChecksUnits.next (h : ChecksUnits i s) (hw : wellFormed i = true) : ∃ t, exec i s = .next t := by
  obtain ⟨ok, t, he, hok, -⟩ := h
  exact ⟨t, by rw [he, hok hw, onUnit_true]⟩

/-- A command that names a unit the module has not faults. -/
theorem ChecksUnits.fault (h : ChecksUnits i s) (hu : ∃ u ∈ units i, u.1 ≤ u.2) : exec i s = .fault .noSuchUnit := by
  obtain ⟨ok, t, he, -, hok⟩ := h
  obtain ⟨u, hu, hle⟩ := hu
  cases ok with
  | false => exact he
  | true => exact absurd (hok rfl u hu) (Nat.not_lt.mpr hle)

theorem ChecksUnits.not_refused (h : ChecksUnits i s) (r : Refusal) : exec i s ≠ .refused r := by
  obtain ⟨ok, t, he, -, -⟩ := h
  cases ok <;> simp [he]

end

/-- Every command checks its units. The cases go by what the check reads: the units of `units` alone, a bucket or a
weight besides, the other forms of such a check, and last the commands that name no unit and always act. -/
theorem checksUnits (i : Instr) (s : State) : ChecksUnits i s := by
  cases i with
  | nop | matmul | bwdPair | productTableMatmul | vecop | scan | moveCopy | moveScaleFile | moveInt4Table
  | moveRowBank | moveSpline | moveGroup | moveWeightTable | moveStatSlot | snapshot | seed | keyseed
  | deliver | reduce | dispatch | combine | gate | depend | barrier | call | update | stashSave | stashLoad
  | scaleCommit | stepCommit | event | descriptorTake | completionEntryWrite | stashSaveResume | streamEnable
  | streamDisable | streamResume | streamAbort | streamRestart | sqDb | cqDb | tempDisagree | gateRelease
  | itemHandout | workSteal | contextSwitch | tileWaitOpen | sharedMemberAdd | combinePartialReceive
  | stolenChunkReceive | tileDrain | drainPassEnd | redrainComplete | stallDetect | hbmRowRemapDone
  | hbmMigrationDone | alarmFire | almArm | almDisarm | hbmMbistGo | hbmMbistDone | lockstepMismatch
  | boostPlanArm | boostStartMark | boostEndMark | clockFault | fabricTick | fabricPing | fabricEcho
  | portEnable | portDisable | portRetrain | portDetect | portTrainDone | portAlignDone | identExchange
  | portCreditDone | flitSend | portKeepExpire | pairFault | pairRestore | slotLenWrite | flitReceive
  | replayTimeout | laneFailure | laneFail | recalReq | recalAck | recalDone | pmOwn | pmInject
  | eyeMonitorBelowMargin | peppermillLock | peppermillLostLock | homeDataRead | homeDataWrite | homeLoadGo
  | homeLoadDone | workItemComplete =>
    exact checksUnits_of_onUnit rfl (by simp +contextual [wellFormed]) (by simp [units])
  | updateStart | voteResult | bucketArm | copyHoldExpire | shadowTrailerReceive | lnkBktCancel | updateComplete
  | linkAdderResidueFault | updateResidueFault | grantReceive | reduceChunkReceive | resultChunkReceive
  | reduceDeadline =>
    exact checksUnits_of_onUnit rfl (by simp +contextual [wellFormed, fits]) (by simp +contextual [units])
  | backupCopyReceive =>
    exact checksUnits_of_onUnit rfl (by simp +contextual [wellFormed, wfCopy, fits]) (by simp [units])
  | arrayFault | spareJoin | canaryNow | clvBistGo | clvBistDone =>
    exact checksUnits_of_onUnit rfl (by simp +contextual [wellFormed, isClove]) (by simp [units, isClove])
  | trackerEntryExpire | scrubRead | memInjArm =>
    exact checksUnits_of_onUnit rfl (by simp +contextual [wellFormed, wfUnit, isUnit]) (by simp [units])
  | msixModTimer | msixUnmask =>
    exact checksUnits_of_onUnit rfl (by simp [wellFormed, Nat.lt_succ_iff]) (by simp [units, Nat.lt_succ_iff])
  | canaryRun engine n =>
    refine checksUnits_of_onUnit rfl ?_ ?_ <;> cases engine <;> simp +contextual [wellFormed, units]
    omega
  | _ => exact checksUnits_of_next rfl rfl

/-- Settles O60: every command runs behind the check of its units. -/
theorem commandsComplete : Obligations.CommandsComplete := by
  unfold Obligations.CommandsComplete
  intro i s
  have h := checksUnits i s
  exact ⟨h.next, h.fault, h.not_refused⟩

end Sys2Proof.Machine
end

section
/-! Module memory that meets no error: what its reads answer and what its writes leave (R246, R332). -/

namespace Sys2Proof.Machine

/-- A part outside the list is the same in both states. -/
theorem sameBut.part {l : List Part} {s t : State} (h : sameBut l s t) (p : Part) (hp : p ∉ l) : p.same s t := h.2 p hp

/-- What a range of addresses is to a requester depends on the memory's channels and on the cloves alone. -/
theorem access_congr {s t : State} (hm : t.mem = s.mem) (hc : t.comp = s.comp) (a n : Nat) :
    access t a n = access s a n := by
  cases s; cases t; subst hm hc; rfl

/-- A change of module memory moves it alone. -/
theorem modMem_sameBut (f : MemSt → MemSt) (s : State) : sameBut [.mem] s (modMem s f) :=
  ⟨rfl, fun p hp => by cases p <;> simp_all [Part.same]⟩

theorem cleanMem_congr {s t : State} (hm : t.mem = s.mem) (h : cleanMem s) : cleanMem t := by
  unfold cleanMem at *; rwa [hm]

theorem faultsIn_clean {s : State} (h : cleanMem s) (a n : Nat) : faultsIn s a n = [] := by
  obtain ⟨hm, hf, -⟩ := h
  simp [faultsIn, faultsAt, hm, hf]

theorem checkRead_clean {s : State} (h : cleanMem s) (a n req : Nat) : checkRead a n req s = s := by
  simp [checkRead, faultsIn_clean h]

theorem readBad_clean {s : State} (h : cleanMem s) (a n : Nat) : readBad s a n = false := by
  simp [readBad, faultsIn_clean h]

theorem memBytes_clean {s : State} (h : cleanMem s) (a n : Nat) : memBytes s a n = bytesAt s.mem.data a n := by
  simp [memBytes, h.1]

theorem memPut_clean {s : State} (h : cleanMem s) (a : Nat) (bs : List Byte) :
    memPut a bs s = modMem s (fun m => { m with data := putBytes m.data a bs }) := by
  simp [memPut, h.1]

theorem faultsOf_clean {s : State} (h : cleanMem s) (u : Nat) (f : Nat → Bool) : faultsOf s.mem u f = [] := by
  simp [faultsOf, h.2.1]

theorem countAt_sameBut (a : Option Nat) (n : Nat) (s : State) : sameBut [.counters] s (countAt a n s) := by
  cases a with
  | none => exact sameBut_refl _ s
  | some x => exact count_sameBut x n s

/-- The read of a read-modify-write counts, and finds nothing (R332). -/
theorem rmwUnit_clean {s : State} (h : cleanMem s) (req a : Nat) : sameBut [.counters] s (rmwUnit req s a) := by
  simpa [rmwUnit, faultsOf_clean h] using countAt_sameBut (rmwCtr (unitOf (phys s a))) 1 s

theorem foldl_rmwUnit_clean {s : State} (h : cleanMem s) (req : Nat) (l : List Nat) :
    sameBut [.counters] s (l.foldl (rmwUnit req) s) := by
  induction l generalizing s with
  | nil => exact sameBut_refl _ s
  | cons a l ih =>
    have ha := rmwUnit_clean h req a
    exact sameBut_trans ha (ih (cleanMem_congr (ha.part .mem (by simp)) h))

/-- A read of a range that a requester may use answers its bytes and changes nothing. -/
theorem readMem_clean {s : State} {a n : Nat} (h : cleanMem s) (ha : access s a n = .ok) (req : Nat) :
    readMem a n req s = (.ok (bytesAt s.mem.data a n), s) := by
  simp [readMem, ha, checkRead_clean h, readBad_clean h, memBytes_clean h]

/-- A write of such a range puts its bytes; what it counts besides are the units it covers in part. -/
theorem writeMem_clean {s : State} {a : Nat} {bs : List Byte} (h : cleanMem s) (ha : access s a bs.length = .ok)
    (req : Nat) : ∃ t, sameBut [.counters] s t
      ∧ writeMem a bs req s = (none, modMem t (fun m => { m with data := putBytes m.data a bs })) := by
  have hs := foldl_rmwUnit_clean h req (partly a bs.length false false)
  refine ⟨_, hs, ?_⟩
  have hc := cleanMem_congr (hs.part .mem (by simp)) h
  have hinj (b : Nat) : bitAt 0 b = false := Nat.zero_testBit b
  simp [writeMem, writePart, ha, readBad_clean h, faultsOf_clean hc, hc.2.2, sget, hinj, memPut_clean hc]

/-- The `k`-th of the bytes from `a` on is the byte at `a + k`. -/
theorem getD_bytesAt (m : List Host.Cell) (a n : Nat) {k : Nat} (hk : k < n) :
    (bytesAt m a n).getD k 0#8 = byteAt m (a + k) := by
  simp only [bytesAt, byteAt, sget, find_filter_key (fun x => decide (a ≤ x) && decide (x < a + n))]
  simp [hk]

@[simp] theorem length_bytesAt (m : List Host.Cell) (a n : Nat) : (bytesAt m a n).length = n := by simp [bytesAt]

end Sys2Proof.Machine
end

section
/-! The aperture (R243, R245): what it reads and writes where no channel is RETIRED, and what of one that is. -/

namespace Sys2Proof.Machine

/-- No HBM channel is RETIRED (Table 13.8). -/
def noneRetired (s : State) : Prop := ∀ c, sget 0 s.mem.chState c ≠ 2

/-- A range of HBM can be used where no channel is RETIRED. -/
theorem access_hbm {s : State} (h : noneRetired s) {a n : Nat} (hn : 0 < n) (ha : a + n ≤ hbmEnd) :
    access s a n = .ok := by
  have hlive (a : Nat) : stranded s a = false := by simp [stranded, h (chanOf (phys s a))]
  simp [access, Nat.max_eq_left hn, ha, hlive]

theorem hbm_of_apertureReaches {s : State} {o n : Nat} (h : apertureReaches s o n = true) :
    aperture s + o + n ≤ hbmEnd := by
  simp only [apertureReaches, Bool.and_eq_true, decide_eq_true_eq] at h
  exact h.2

/-- A read through the aperture answers HBM's bytes and changes the answer alone. -/
theorem exec_bar4Read {s : State} {o n : Nat} (hu : hostUp s = true) (hc : cleanMem s) (hr : noneRetired s)
    (ha : apertureReaches s o n = true) (hn : 0 < n) :
    exec (.bar4Read o n) s = .next { s with resp := .bytes (bytesAt s.mem.data (aperture s + o) n) } := by
  have hm := readMem_clean hc (access_hbm hr hn (hbm_of_apertureReaches ha)) reqHost
  simp [exec, execBar4Read, hu, apertureRead, ha, hm, answer]

/-- A write through the aperture puts its bytes into HBM. -/
theorem exec_bar4Write {s : State} {o : Nat} {b : List Byte} (hu : hostUp s = true) (hc : cleanMem s)
    (hr : noneRetired s) (ha : apertureReaches s o b.length = true) (hb : 0 < b.length) :
    ∃ t, sameBut [.counters] s t ∧ exec (.bar4Write o b) s
      = .next (modMem t (fun m => { m with data := putBytes m.data (aperture s + o) b })) := by
  obtain ⟨t, ht, hw⟩ := writeMem_clean hc (access_hbm hr hb (hbm_of_apertureReaches ha)) reqHost
  exact ⟨t, ht, by simp [exec, execBar4Write, hu, apertureWrite, ha, hw]⟩

/-- An access of a module that is not ready reaches nothing. -/
theorem exec_bar4_notReady {s : State} (hu : hostUp s = true) (hr : s.safe.ready = false) (o n : Nat) (b : List Byte) :
    exec (.bar4Read o n) s = .next { s with resp := .unsupported }
      ∧ exec (.bar4Write o b) s = .next (logAer 1 true (aperture s + o) b.length s) := by
  have hno (k : Nat) : apertureReaches s o k = false := by simp [apertureReaches, hr]
  simp [exec, execBar4Read, execBar4Write, hu, apertureRead, apertureWrite, hno, answer]

/-- What O20 says, under the premise that its words name and its formula leaves out: no channel is RETIRED. -/
theorem apertureReadsAndWrites_of_noneRetired {s : State} (hret : noneRetired s) (hu : hostUp s = true) (o n : Nat)
    (b : List Byte) :
    (cleanMem s → apertureReaches s o n = true → apertureReaches s o b.length = true → 0 < n → 0 < b.length →
      exec (.bar4Read o n) s = .next { s with resp := .bytes (bytesAt s.mem.data (aperture s + o) n) }
      ∧ (∀ k, k < n → (bytesAt s.mem.data (aperture s + o) n).getD k 0#8 = byteAt s.mem.data (aperture s + o + k))
      ∧ ∃ t, exec (.bar4Write o b) s = .next t
        ∧ (∀ k, k < b.length → byteAt t.mem.data (aperture s + o + k) = b.getD k 0#8)
        ∧ (∀ a, a < aperture s + o ∨ aperture s + o + b.length ≤ a → byteAt t.mem.data a = byteAt s.mem.data a)
        ∧ sameBut [.mem, .counters] s t)
    ∧ (s.safe.ready = false →
      exec (.bar4Read o n) s = .next { s with resp := .unsupported }
      ∧ exec (.bar4Write o b) s = .next (logAer 1 true (aperture s + o) b.length s)) := by
  refine ⟨fun hc hn hb hn0 hb0 => ?_, fun hr => exec_bar4_notReady hu hr o n b⟩
  obtain ⟨t, ht, hw⟩ := exec_bar4Write hu hc hret hb hb0
  have hdata : t.mem.data = s.mem.data := congrArg MemSt.data (ht.part .mem (by simp))
  refine ⟨exec_bar4Read hu hc hret hn hn0, fun k hk => getD_bytesAt _ _ _ hk, _, hw, fun k hk => ?_, fun a ha => ?_, ?_⟩
  · exact byteAt_putBytes_inside _ _ _ _ hk
  · exact (byteAt_putBytes_outside _ _ _ _ ha).trans (by rw [hdata])
  · exact sameBut_then (modMem_sameBut _ t) (by simp) (sameBut_mono ht (by simp))

/-- A module that is ready and whose host link is up. -/
def hostedState : State :=
  { State.reset with
    power := { PowerSt.empty with main := true }
    safe := { SafeSt.empty with ready := true, phase := 5 }
    host := { HostSt.empty with linkUp := true, perstLow := false, rate := 4 } }

/-- The same with HBM channel 0 RETIRED and its data nowhere in the reserve: no entry of `moved` names it (log 119). -/
def retiredState : State := modMem hostedState (fun m => { m with chState := [(0, 2)] })

/-- The aperture reaches the first byte of channel 0, by its own check. -/
theorem apertureReaches_retired : apertureReaches retiredState 0 1 = true := by
  have hsize : 0 + 1 ≤ bar4Size := Nat.le_trans (by decide) bar4Size_least
  have hhbm : aperture retiredState + 0 + 1 ≤ hbmEnd := by decide
  unfold apertureReaches
  rw [decide_eq_true hsize, decide_eq_true hhbm]
  rfl

/-- A read of that byte is one of a channel out of service: it answers poisoned (Table 10.24). -/
theorem exec_bar4Read_retired : exec (.bar4Read 0 1) retiredState
    = .next (logAer 2 false 0 1 (answer .poisoned retiredState)) := by
  have hlost : access retiredState 0 1 = .lost := by decide
  have hread : readMem 0 1 reqHost retiredState = (.error (.ue 1), retiredState) := by simp [readMem, hlost]
  have hbase : aperture retiredState + 0 = 0 := by decide
  have hup : hostUp retiredState = true := by decide
  simp [exec, execBar4Read, hup, apertureRead, apertureReaches_retired, hbase, hread]

/-- Refutes O20: its premises name faults, injections and moved channels, and not the channels' own states. In
`retiredState` channel 0 is RETIRED without a place in the reserve; every premise holds, and the read answers poisoned.
With no channel RETIRED both accesses are as O20 says (`apertureReadsAndWrites_of_noneRetired`). -/
theorem not_apertureReadsAndWrites : ¬ Obligations.ApertureReadsAndWrites := by
  unfold Obligations.ApertureReadsAndWrites
  intro h
  obtain ⟨hclean, -⟩ := h retiredState 0 1 [0#8] (by decide)
  obtain ⟨hread, -⟩ := hclean rfl rfl rfl apertureReaches_retired apertureReaches_retired (by decide) (by decide)
  rw [exec_bar4Read_retired] at hread
  have hresp := congrArg State.resp (Host.Outcome.next.inj hread)
  exact absurd hresp (by simp [logAer, answer])

end Sys2Proof.Machine
end

section
/-! Snapshots (R416): how a strobe lists the phase records, against how the records themselves are listed. -/

namespace Sys2Proof.Machine

/-- A list of numbers set one after the other reads what was set at each of them. -/
theorem sget_foldl_sset {α : Type} [DecidableEq α] (d : α) (g : Nat → α) (l : List Nat) (m : Sparse α) (k : Nat) :
    sget d (l.foldl (fun m f => sset d m f (g f)) m) k = if k ∈ l then g k else sget d m k := by
  induction l generalizing m with
  | nil => simp
  | cons f l ih =>
    rw [List.foldl_cons, ih]
    by_cases hl : k ∈ l
    · simp [hl]
    · by_cases hk : k = f
      · subst hk; simp [hl, sget_sset_same]
      · simp [hl, hk, sget_sset_other]

@[simp] theorem refresh_reg (s : State) : (refresh s).reg = s.reg := by
  unfold refresh
  dsimp only
  split
  · split
    · split <;> rfl
    · rfl
  · rfl
  · rfl

@[simp] theorem latchNow_reg (s : State) : (latchNow s).reg = s.reg := refresh_reg s

/-- A strobe copies every phase record: the copy in distribution reads at each number what the record holds. -/
theorem takeSnapshot_phaseNext (auto clear : Bool) (s : State) {f : Nat} (hf : f < 7) :
    sget Phase.none (takeSnapshot auto clear s).reg.phaseNext f = phaseRec s f := by
  have hcopy : (takeSnapshot auto clear s).reg.phaseNext
      = (List.range 7).foldl (fun l k => sset Phase.none l k (phaseRec (latchNow s) k)) [] := by
    cases clear <;> rfl
  rw [hcopy, sget_foldl_sset, if_pos (List.mem_range.mpr hf)]
  simp [phaseRec]

theorem exec_glbSnapStrobe {s : State} (hb : hostBlock s = true) (hbusy : s.reg.snap.busy = false) (clear : Bool) :
    exec (.glbSnapStrobe clear) s = .next (takeSnapshot false clear s) := by
  simp [exec, execGlbSnapStrobe, hb, strobe, hbusy]

/-- Refutes O55: it asks that the copy in distribution of the phase records be the list of the live ones. The two lists
have different unlisted values, `phaseReset` and `Phase.none`: in `hostedState` no record is listed, since each is as at
reset, and the strobe lists record 6, which is active at reset (IDLE, R429). The copy reads as the records do
(`takeSnapshot_phaseNext`); as lists they differ. -/
theorem not_registers : ¬ Obligations.Registers := by
  unfold Obligations.Registers
  intro h
  have hb : hostBlock hostedState = true := by decide
  obtain ⟨-, hstrobe, -⟩ := h hostedState
  obtain ⟨-, hstrobes⟩ := hstrobe hb false
  obtain ⟨t, ht, -, -, -, hphase, -⟩ := hstrobes rfl
  rw [exec_glbSnapStrobe hb rfl] at ht
  have hcopy := takeSnapshot_phaseNext false false hostedState (f := 6) (by decide)
  rw [Host.Outcome.next.inj ht, hphase] at hcopy
  exact absurd hcopy (by decide)

end Sys2Proof.Machine
end

section
/-! What the settling of a command leaves of host memory (R249, R429). -/

namespace Sys2Proof.Machine

theorem stream_congr {s t : State} (h : t.host.streams = s.host.streams) (i : Nat) : stream t i = stream s i := by
  unfold stream; rw [h]

theorem reg4_congr {s t : State} (h : t.reg.held = s.reg.held) (a : Nat) : reg4 t a = reg4 s a := by
  unfold reg4; rw [h]

theorem inStatus_congr {s t : State} (h : t.reg.held = s.reg.held) (x : Nat) : inStatus t x ↔ inStatus s x := by
  simp only [inStatus, reg8, reg4_congr h]

@[simp] theorem length_leBytes (n v : Nat) : (leBytes n v).length = n := by
  induction n generalizing v with
  | zero => rfl
  | succ n ih => simp [leBytes, ih]

@[simp] theorem length_lineBytes (s : State) (i : Nat) : (lineBytes s i).length = 16 := by simp [lineBytes]

/-- A status line shows its stream alone. -/
theorem lineBytes_congr {s t : State} {i : Nat} (h : stream t i = stream s i) : lineBytes t i = lineBytes s i := by
  simp only [lineBytes, heldBit, h]

/-- A write to host memory leaves the bytes outside it. -/
theorem byteAt_hostWrite_outside (a : Nat) (bs : List Byte) (s : State) {x : Nat} (h : x < a ∨ a + bs.length ≤ x) :
    byteAt (hostWrite a bs s).host.mem x = byteAt s.host.mem x := by
  unfold hostWrite
  split
  · exact byteAt_putBytes_outside _ _ _ _ h
  · rw [count_host]

theorem statusLine_sameBut (old s : State) (i : Nat) : sameBut settleParts s (statusLine old s i) := by
  unfold statusLine
  split
  · exact sameBut_mono (hostWrite_sameBut _ _ s) (by simp [settleParts])
  · exact sameBut_refl _ s

/-- A status line is written in the block of the status lines, where its stream is one of the 64 or has not changed. -/
theorem byteAt_statusLine {old s : State} {i x : Nat} (hi : 64 ≤ i → stream old i = stream s i) (hx : ¬ inStatus s x) :
    byteAt (statusLine old s i).host.mem x = byteAt s.host.mem x := by
  unfold statusLine
  split
  next hw =>
    obtain ⟨hen, hne⟩ := Bool.and_eq_true_iff.mp hw
    have hlt : i < 64 := Nat.lt_of_not_le fun h => of_decide_eq_true hne (lineBytes_congr (hi h))
    refine byteAt_hostWrite_outside _ _ s ?_
    rw [length_lineBytes]
    by_contra hin
    refine hx ⟨hen, ?_⟩
    generalize reg8 s (hostBase + 8) / 1024 * 1024 = base at hin ⊢
    omega
  next => rfl

/-- Outside the block of the status lines, writing them leaves host memory. -/
theorem byteAt_statusLines {old s : State} {x : Nat} (hs : ∀ j, 64 ≤ j → stream old j = stream s j)
    (hx : ¬ inStatus s x) : byteAt (statusLines old s).host.mem x = byteAt s.host.mem x := by
  unfold statusLines
  generalize (s.host.streams.map (·.1) ++ old.host.streams.map (·.1)).dedup = l
  induction l generalizing s with
  | nil => rfl
  | cons j l ih =>
    have hline := statusLine_sameBut old s j
    have hheld : (statusLine old s j).reg.held = s.reg.held := hline.part .held (by simp [settleParts])
    have hstreams (k : Nat) : stream (statusLine old s j) k = stream s k :=
      stream_congr (hline.part .streams (by simp [settleParts])) k
    rw [List.foldl_cons, ih (fun k hk => (hs k hk).trans (hstreams k).symm) (mt (inStatus_congr hheld x).mp hx),
      byteAt_statusLine (hs j) hx]

@[simp] theorem setPhase_host (on : Bool) (s : State) (f : Nat) : (setPhase on s f).host = s.host := by
  unfold setPhase
  dsimp only
  split <;> rfl

@[simp] theorem settlePhases_host (s : State) : (settlePhases s).host = s.host := by
  have hfold (g : Nat → Bool) (l : List Nat) (s : State) : (l.foldl (fun u f => setPhase (g f) u f) s).host = s.host := by
    induction l generalizing s with
    | nil => rfl
    | cons f l ih => rw [List.foldl_cons, ih, setPhase_host]
  simp only [settlePhases, setPhase_host]
  exact hfold _ _ s

/-- Outside the block of the status lines, the settling leaves host memory. -/
theorem byteAt_settle {old s : State} {x : Nat} (hs : ∀ j, 64 ≤ j → stream old j = stream s j) (hx : ¬ inStatus s x) :
    byteAt (settle old s).host.mem x = byteAt s.host.mem x := by
  rw [settle, settlePhases_host, byteAt_statusLines hs hx]

@[simp] theorem settle_mem (old s : State) : (settle old s).mem = s.mem :=
  (settle_sameBut old s).part .mem (by simp [settleParts])

end Sys2Proof.Machine
end

section
/-! A stream that holds one record: how it takes a descriptor, dispatches it at once and completes it (R193, R195). -/

namespace Sys2Proof.Machine

/-! ### Work that may fail -/

section
variable {α β : Type} {s t : State}

/-- Work that succeeds goes on with its value from the state it leaves. -/
theorem mm_bind {w : MM α} {a : α} (h : w s = (.ok a, t)) (f : α → MM β) : (w >>= f) s = f a t := by
  simp only [bind, ExceptT.bind, ExceptT.mk, ExceptT.bindCont, StateT.bind, h]

@[simp] theorem mm_pure (a : α) (s : State) : (pure a : MM α) s = (.ok a, s) := rfl

@[simp] theorem mGet_apply (s : State) : mGet s = (.ok s, s) := rfl

@[simp] theorem mMod_apply (f : State → State) (s : State) : mMod f s = (.ok (), f s) := rfl

@[simp] theorem mGuard_false (d : Detail) (off : Nat) (s : State) : mGuard false d off s = (.ok (), s) := rfl

theorem runDesc_ok {w : MM Unit} {x : Unit} (h : w s = (.ok x, t)) (i seq : Nat) : runDesc i seq w s = t := by
  simp only [runDesc, h]

end

/-! ### A stream with one record -/

/-- Stream `i` of `u` holds record `r` alone, the next after what `s` had taken; every other stream is as in `s`. -/
structure Holds (i : Nat) (r : Rec) (s u : State) : Prop where
  window : (stream u i).window = [r]
  calls : (stream u i).calls = []
  kept : (stream u i).kept = []
  state : (stream u i).state = .active
  seq : r.seq = (stream s i).seqNext
  seqNext : (stream u i).seqNext = ((stream s i).seqNext + 1) % 2 ^ 32
  taken : (stream u i).taken = (stream s i).taken
  retired : (stream u i).retired = (stream s i).retired
  others : ∀ j, j ≠ i → stream u j = stream s j

section
variable {i : Nat} {r : Rec} {s u t : State} {h : Header} {d : Desc}

/-- A stream that takes descriptors and holds none takes one (R193). -/
theorem holds_pushRec (hc : clearStream s i) (h : Header) (d : Desc) :
    Holds i (taken i h d s) s (pushRec i (taken i h d s) s) := by
  obtain ⟨-, htake, hwin, hcalls, hkept⟩ := hc
  have hst : (stream s i).state = .active ∨ (stream s i).state = .idle := by
    simp only [mayTake, Bool.and_eq_true, Bool.or_eq_true, decide_eq_true_eq] at htake
    exact htake.1.1.1.1.1.1
  constructor
  case state => rcases hst with h | h <;> simp [pushRec, h]
  case others => exact fun j hj => stream_modStream_other s _ hj
  all_goals simp [pushRec, taken, newRec, hwin, hcalls, hkept]

theorem pushRec_sameBut (i : Nat) (r : Rec) (s : State) : sameBut [.streams] s (pushRec i r s) :=
  ⟨rfl, fun p hp => by cases p <;> simp_all [Part.same, pushRec, modStream, setStream]⟩

/-- A change of the record, whose number stays, changes it alone. -/
theorem Holds.modRec (hu : Holds i r s u) {f : Rec → Rec} (hf : (f r).seq = r.seq) :
    Holds i (f r) s (modRec i r.seq f u) where
  window := by simp [Machine.modRec, hu.window, modRecIn]
  calls := by simp [Machine.modRec, hu.calls]
  kept := by simp [Machine.modRec, hu.kept]
  state := by simp [Machine.modRec, hu.state]
  seq := hf.trans hu.seq
  seqNext := by simp [Machine.modRec, hu.seqNext]
  taken := by simp [Machine.modRec, hu.taken]
  retired := by simp [Machine.modRec, hu.retired]
  others := fun j hj => (stream_modStream_other u _ hj).trans (hu.others j hj)

theorem Holds.congr (hu : Holds i r s u) (ht : t.host.streams = u.host.streams) : Holds i r s t := by
  have hs := stream_congr ht
  exact ⟨by rw [hs, hu.window], by rw [hs, hu.calls], by rw [hs, hu.kept], by rw [hs, hu.state], hu.seq,
    by rw [hs, hu.seqNext], by rw [hs, hu.taken], by rw [hs, hu.retired], fun j hj => by rw [hs, hu.others j hj]⟩

/-- The record with its completion's status and flags. -/
def completed (st detail v : Nat) (fl : CFlags) (r : Rec) : Rec :=
  { r with life := .done, status := st, detail := detail, value := v, flags := CFlags.or r.flags fl }

theorem Holds.complete (hu : Holds i r s u) (hl : r.life ≠ .done) (st detail v : Nat) (fl : CFlags) :
    Holds i (completed st detail v fl r) s (complete i r.seq st detail v fl u) := by
  have h := hu.modRec (f := fun r => if r.life = .done then r else completed st detail v fl r) (by rw [if_neg hl]; rfl)
  rwa [if_neg hl] at h

theorem Holds.findRec (hu : Holds i r s u) : findRec u i r.seq = some r := by
  simp [Machine.findRec, hu.window]

/-- Without a list nothing ends. -/
theorem Holds.popFrames (hu : Holds i r s u) (n : Nat) : popFrames n i u = u := by
  cases n <;> simp [Machine.popFrames, hu.calls]

/-- A record that is no BARRIER notes nothing at the head (R207). -/
theorem Holds.noteHead (hu : Holds i r s u) (hd : r.desc ≠ .barrier) : noteHead i u = u := by
  simp only [Machine.noteHead, hu.window]
  split
  next h _ => exact absurd h hd
  next => rfl

/-- The record is the next to be dispatched when what its kind waits for has come (R195). -/
theorem Holds.nextHeld (hu : Holds i r s u) (hl : r.life = .held) (hk : kindReady u i r = true) :
    nextHeld u i = some r := by
  have hturn : inTurn [r] r = true := by simp [inTurn]
  simp [Machine.nextHeld, hu.window, mayDispatch, hl, hturn, hk, hu.state]

theorem Holds.tookOne (hu : Holds i r s u) (hh : r.hdr = h) (hd : r.desc = d) (hst : r.status = stOK) :
    tookOne i h d r.life s u :=
  ⟨⟨r, hu.window, hu.seq, hh, hd, rfl, hst⟩, hu.seqNext, hu.taken, hu.retired, hu.state, hu.others⟩

end

/-! ### Taken and dispatched at once -/

section
variable {i : Nat} {h : Header} {d : Desc} {s : State}

/-- The record whose work begins: it has its stream's key seed (R258). -/
def keyed (i : Nat) (h : Header) (d : Desc) (s : State) : Rec :=
  { taken i h d s with key := (stream s i).keySeed }

theorem holds_atWork (hc : clearStream s i) (h : Header) (d : Desc) : Holds i (keyed i h d s) s (atWork i h d s) :=
  (holds_pushRec hc h d).modRec (f := fun x => { x with key := (stream s i).keySeed }) rfl

theorem atWork_sameBut (i : Nat) (h : Header) (d : Desc) (s : State) : sameBut [.streams] s (atWork i h d s) :=
  sameBut_trans (pushRec_sameBut _ _ s) (modRec_sameBut _ _ _ _)

/-- A descriptor that names no group and no slot passes the checks before its kind's own, where the sequencers' tables
hold no fault (R254, R327). -/
theorem dispatchChecks_ok {r : Rec} (hf : s.mem.faults = []) (hg : usesGroup r.desc = false)
    (hn : namesSlot r.desc = false) : dispatchChecks i r s = (.ok (), s) := by
  have htables : readTables r s = (.ok (), s) := by
    simp [readTables, mm_bind (mGet_apply s), hf]
  simp only [dispatchChecks, mm_bind (mGet_apply s), mm_bind htables, hg, hn, Bool.false_and,
    mm_bind (mGuard_false _ _ s)]
  rfl

/-- The dispatch of the record that a stream holds, once those checks pass: its kind's work begins. -/
theorem dispatchRec_eq (hc : clearStream s i)
    (hchk : dispatchChecks i (taken i h d s) (atWork i h d s) = (.ok (), atWork i h d s)) :
    dispatchRec i (taken i h d s) (pushRec i (taken i h d s) s) = dispatchKind i (keyed i h d s) (atWork i h d s) := by
  have hkey : modRec i (taken i h d s).seq
      (fun x => { x with key := (stream (pushRec i (taken i h d s) s) i).keySeed }) (pushRec i (taken i h d s) s)
      = atWork i h d s := by simp [atWork, pushRec]
  simp only [dispatchRec, hkey, hchk]
  rw [show (taken i h d s).seq = (keyed i h d s).seq from rfl, (holds_atWork hc h d).findRec]

/-- A descriptor with nothing of its own to check at the take, and nothing to wait for, is taken and dispatched: what its
command does is its kind's work, and the settling (R193, R195). -/
theorem offerDesc_eq {t : State} {r : Rec} (hc : clearStream s i)
    (htake : takeChecks i (taken i h d s) (stream s i).afterBarrier0 (pushRec i (taken i h d s) s)
      = (.ok (), pushRec i (taken i h d s) s))
    (hcall : ∀ b, d ≠ .call b) (hk : kindReady (pushRec i (taken i h d s) s) i (taken i h d s) = true)
    (hchk : dispatchChecks i (taken i h d s) (atWork i h d s) = (.ok (), atWork i h d s))
    (hkind : dispatchKind i (keyed i h d s) (atWork i h d s) = t) (ht : Holds i r s t) (hr : r.desc ≠ .barrier) :
    offerDesc i h d s = settle s t := by
  have hp := holds_pushRec hc h d
  have hnext : dispatchNext i (pushRec i (taken i h d s) s) = t := by
    simp only [dispatchNext, hp.nextHeld rfl hk, dispatchRec_eq hc hchk, hkind, ht.popFrames, ht.noteHead hr]
  have htaken : takeDesc i false none h d s = t := by
    have hrun := runDesc_ok htake i (taken i h d s).seq
    unfold taken at hrun hnext
    simp only [takeDesc, hrun]
    split
    · exact absurd rfl (hcall _)
    · exact hnext
  rw [offerDesc, if_pos hc.2.1, htaken]

end
end Sys2Proof.Machine
end

section
/-! MOVE COPY, MOVE DELIVER and EVENT (R239, R240, R258, R261): what they read, what they put, and their completion. -/

namespace Sys2Proof.Machine

/-! ### The ends of a MOVE -/

/-- `t` has the bytes `bs` put at one end, and counts besides. -/
structure Puts (s t : State) (host : Bool) (a : Nat) (bs : List Byte) : Prop where
  data : t.mem.data = if host then s.mem.data else putBytes s.mem.data a bs
  hostMem : t.host.mem = if host then putBytes s.host.mem a bs else s.host.mem
  rest : sameBut [.mem, .hostMem, .counters] s t

section
variable {s t u : State} {host : Bool} {a n : Nat} {bs : List Byte}

/-- Whether an end can be used, and its bytes, do not change with the streams. -/
theorem endOk_congr (h : sameBut [.streams] s t) : endOk t host a n ↔ endOk s host a n := by
  have hlink := h.part .hostLink (by simp)
  simp only [Part.same] at hlink
  simp only [endOk, hlink, access_congr (h.part .mem (by simp)) (h.part .comp (by simp))]

theorem endBytes_congr (h : sameBut [.streams] s t) : endBytes t host a n = endBytes s host a n := by
  have hm : t.mem = s.mem := h.part .mem (by simp)
  have hh : t.host.mem = s.host.mem := h.part .hostMem (by simp)
  simp only [endBytes, hm, hh]

@[simp] theorem length_endBytes (s : State) (host : Bool) (a n : Nat) : (endBytes s host a n).length = n := by
  cases host <;> simp [endBytes]

theorem mReq_apply (s : State) : mReq s = (.ok (reqSeq (seqTile s 0)), s) := rfl

theorem checkEnd_ok (h : endOk s host a n) (off : Nat) : checkEnd host a n off s = (.ok (), s) := by
  cases host with
  | true => rfl
  | false =>
    have ha : access s a n = .ok := h
    simp only [checkEnd, checkRange, Bool.false_eq_true, if_false, mm_bind (mGet_apply s), ha, mm_pure]

/-- The source's bytes are read, and nothing changes. -/
theorem readSrc_ok {b : MoveBody} (hc : cleanMem s) (h : endOk s b.srcHost b.src n) (i : Nat) :
    readSrc i b n s = (.ok (endBytes s b.srcHost b.src n), s) := by
  simp only [readSrc, mm_bind (checkEnd_ok h _)]
  cases hh : b.srcHost with
  | true =>
    simp only [hh, endOk, if_true] at h
    simp [mHost, readHost, h, endBytes]
  | false =>
    simp only [hh, endOk, Bool.false_eq_true, if_false] at h
    have hread (q : Nat) : mRead b.src n q s = (.ok (bytesAt s.mem.data b.src n), s) := by
      simp only [mRead, readMem_clean hc h]
    simp [mm_bind (mReq_apply s), hread, endBytes]

theorem hostWrite_puts (hl : s.host.linkUp = true) (a : Nat) (bs : List Byte) :
    Puts s (hostWrite a bs s) true a bs where
  data := by simp [hostWrite, hl]
  hostMem := by simp [hostWrite, hl]
  rest := sameBut_mono (hostWrite_sameBut a bs s) (by simp)

theorem mWrite_puts (hc : cleanMem s) (ha : access s a bs.length = .ok) (req : Nat) :
    ∃ t, mWrite a bs req s = (.ok (), t) ∧ Puts s t false a bs := by
  obtain ⟨t, ht, hw⟩ := writeMem_clean hc ha req
  have hmem : t.mem = s.mem := ht.part .mem (by simp)
  have hhost : t.host.mem = s.host.mem := ht.part .hostMem (by simp)
  refine ⟨modMem t (fun m => { m with data := putBytes m.data a bs }), by simp only [mWrite, hw],
    by simp [hmem], by simp [hhost], ?_⟩
  exact sameBut_then (modMem_sameBut _ t) (by simp) (sameBut_mono ht (by simp))

/-- The destination takes its bytes. -/
theorem writeDst_puts {b : MoveBody} (hc : cleanMem s) (h : endOk s b.dstHost b.dst bs.length) :
    ∃ t, writeDst b bs s = (.ok (), t) ∧ Puts s t b.dstHost b.dst bs := by
  cases hh : b.dstHost with
  | true =>
    simp only [hh, endOk, if_true] at h
    exact ⟨_, by simp [writeDst, hh], hostWrite_puts h.1 b.dst bs⟩
  | false =>
    simp only [hh, endOk, Bool.false_eq_true, if_false] at h
    obtain ⟨t, hw, ht⟩ := mWrite_puts hc h (reqSeq (seqTile s 0))
    exact ⟨t, by simp [writeDst, hh, mm_bind (mReq_apply s), hw], ht⟩

theorem Puts.then_count (h : Puts s t host a bs) (c n : Nat) : Puts s (count c n t) host a bs :=
  ⟨by simp [h.data], by simp [h.hostMem], sameBut_then (count_sameBut c n t) (by simp) h.rest⟩

/-! ### The work of the three descriptors -/

theorem moveCopy_puts {b : MoveBody} (hc : cleanMem s) (hs : endOk s b.srcHost b.src b.length)
    (hd : endOk s b.dstHost b.dst b.length) (i : Nat) : ∃ t, moveCopy i b s = (.ok (), t)
      ∧ Puts s t b.dstHost b.dst (endBytes s b.srcHost b.src b.length) := by
  obtain ⟨t, hw, ht⟩ := writeDst_puts (bs := endBytes s b.srcHost b.src b.length) hc (by simpa using hd)
  refine ⟨t, ?_, ht⟩
  simp only [moveCopy, mm_bind (checkEnd_ok hs _), mm_bind (checkEnd_ok hd _), mm_bind (readSrc_ok hc hs i), hw]

theorem length_deliverRec (s : State) (b : MoveBody) : (deliverRec s b).length = 32 := by simp [deliverRec]

theorem moveDeliver_puts {b : MoveBody} (hc : cleanMem s) (hs : endOk s b.srcHost b.src b.length)
    (hd : endOk s b.dstHost b.dst (32 + b.length)) (i : Nat) : ∃ t, moveDeliver i b s = (.ok (deliverLate s b), t)
      ∧ Puts s t b.dstHost b.dst (deliverRec s b ++ endBytes s b.srcHost b.src b.length) := by
  obtain ⟨t, hw, ht⟩ := writeDst_puts (bs := deliverRec s b ++ endBytes s b.srcHost b.src b.length) hc
    (by simpa [length_deliverRec] using hd)
  refine ⟨if deliverLate s b then count (tallyBase + 0x4C) 1 t else t, ?_, ?_⟩
  · simp only [moveDeliver, mm_bind (checkEnd_ok hs _), mm_bind (checkEnd_ok hd _), mm_bind (readSrc_ok hc hs i),
      mm_bind (mGet_apply s), mm_bind hw, mm_bind (mMod_apply _ t), mm_pure]
  · split
    · exact ht.then_count _ _
    · exact ht

theorem dispatchEvent_puts {b : EventBody} (hc : cleanMem s) (hw : b.writeEn = true) (hi : b.irqEn = false)
    (h : endOk s b.host b.addr 8) (i seq : Nat) : ∃ t, dispatchEvent i seq b s = (.ok (), completeOK i seq t)
      ∧ Puts s t b.host b.addr (leBytes 8 b.value) := by
  cases hh : b.host with
  | true =>
    rw [hh] at h
    refine ⟨_, ?_, hostWrite_puts h.1 b.addr (leBytes 8 b.value)⟩
    simp [dispatchEvent, hi, hw, hh, mm_bind (mGuard_false _ _ s), mm_bind (checkEnd_ok h _),
      mm_bind (mMod_apply _ s)]
  | false =>
    rw [hh] at h
    obtain ⟨t, hput, ht⟩ := mWrite_puts (bs := leBytes 8 b.value) hc (by simpa [endOk] using h) (reqSeq (seqTile s 0))
    refine ⟨t, ?_, ht⟩
    simp [dispatchEvent, hi, hw, hh, mm_bind (mGuard_false _ _ s), mm_bind (checkEnd_ok h _),
      mm_bind (mReq_apply s), mm_bind hput]

/-! ### Bytes that were put -/

theorem Puts.endByte (h : Puts s t host a bs) {k : Nat} (hk : k < bs.length) :
    endByte t host (a + k) = bs.getD k 0#8 := by
  cases host with
  | true => simpa [Machine.endByte, h.hostMem] using byteAt_putBytes_inside s.host.mem a bs k hk
  | false => simpa [Machine.endByte, h.data] using byteAt_putBytes_inside s.mem.data a bs k hk

theorem Puts.data_outside (h : Puts s t host a bs) {x : Nat} (hx : host = true ∨ x < a ∨ a + bs.length ≤ x) :
    byteAt t.mem.data x = byteAt s.mem.data x := by
  cases host with
  | true => simp [h.data]
  | false => simpa [h.data] using byteAt_putBytes_outside s.mem.data a bs x (by simpa using hx)

theorem Puts.hostMem_outside (h : Puts s t host a bs) {x : Nat} (hx : host = false ∨ x < a ∨ a + bs.length ≤ x) :
    byteAt t.host.mem x = byteAt s.host.mem x := by
  cases host with
  | true => simpa [h.hostMem] using byteAt_putBytes_outside s.host.mem a bs x (by simpa using hx)
  | false => simp [h.hostMem]

end

/-! ### Taken, put and complete -/

/-- Stream `i` has taken the descriptor and completed it with status OK, `late` as given, and the bytes `bs` stand at one
end, nothing else stored but status lines. -/
structure TookAndPut (i : Nat) (h : Header) (d : Desc) (late host : Bool) (a : Nat) (bs : List Byte) (s t : State) :
    Prop where
  took : tookOne i h d .done s t
  late : ∀ r ∈ (stream t i).window, r.flags.late = late
  stores : stores s t host a bs
  only : storesOnly s t host a bs.length
  rest : sameBut (.mem :: .streams :: settleParts) s t

section
variable {i : Nat} {h : Header} {d : Desc} {s t : State} {host : Bool} {a : Nat} {bs : List Byte}

/-- The stream of a descriptor whose work has put bytes holds its record, completed. -/
theorem Puts.holds_complete (hp : Puts (atWork i h d s) t host a bs) (hc : clearStream s i) (fl : CFlags) :
    Holds i (completed stOK 0 0 fl (keyed i h d s)) s (complete i (keyed i h d s).seq stOK 0 0 fl t) :=
  ((holds_atWork hc h d).congr (hp.rest.part .streams (by simp))).complete Life.noConfusion stOK 0 0 fl

/-- The completion of a descriptor whose work has put bytes, and the settling after it. -/
theorem tookAndPut_settle (hc : clearStream s i) (hp : Puts (atWork i h d s) t host a bs) (fl : CFlags) :
    TookAndPut i h d fl.late host a bs s (settle s (complete i (keyed i h d s).seq stOK 0 0 fl t)) := by
  have hwork := atWork_sameBut i h d s
  have hdone := hp.holds_complete hc fl
  have hdone' := hdone.congr (settle_streams s _)
  have hcomp : sameBut [.streams] t (complete i (keyed i h d s).seq stOK 0 0 fl t) := complete_sameBut _ _ _ _ _ _ t
  generalize complete i (keyed i h d s).seq stOK 0 0 fl t = c at hdone hdone' hcomp
  have hbefore : sameBut (.mem :: .streams :: settleParts) s c :=
    sameBut_then hcomp (by simp) (sameBut_then hp.rest (by simp [settleParts]) (sameBut_mono hwork (by simp)))
  have hdata : byteAt (settle s c).mem.data = byteAt t.mem.data := by
    rw [settle_mem, show c.mem = t.mem from hcomp.part .mem (by simp)]
  have hhost {x : Nat} (hx : ¬ inStatus s x) : byteAt (settle s c).host.mem x = byteAt t.host.mem x := by
    have hothers (j : Nat) (hj : 64 ≤ j) : stream s j = stream c j :=
      (hdone.others j (by have := hc.1; omega)).symm
    rw [byteAt_settle hothers (mt (inStatus_congr (hbefore.part .held (by simp [settleParts])) x).mp hx),
      show c.host.mem = t.host.mem from hcomp.part .hostMem (by simp)]
  have hmem : (atWork i h d s).mem = s.mem := hwork.part .mem (by simp)
  have hhostMem : (atWork i h d s).host.mem = s.host.mem := hwork.part .hostMem (by simp)
  refine ⟨hdone'.tookOne rfl rfl rfl, ?_, fun k hk hst => ?_, ⟨fun x hx => ?_, fun x hx hout => ?_⟩, ?_⟩
  · intro r hr
    rw [hdone'.window, List.mem_singleton] at hr
    simp [hr, completed, keyed, taken, newRec, CFlags.or, CFlags.none]
  · rw [← hp.endByte hk]
    cases host with
    | true => exact hhost fun hin => hst ⟨rfl, hin⟩
    | false => exact congrFun hdata _
  · rw [hdata, hp.data_outside hx, hmem]
  · rw [hhost hx, hp.hostMem_outside hout, hhostMem]
  · exact sameBut_then (settle_sameBut s c) (by simp [settleParts]) hbefore

/-- A descriptor whose work puts bytes and completes is taken, dispatched and completed by one command (R193, R195). -/
theorem offerDesc_puts {fl : CFlags} (hc : clearStream s i)
    (htake : takeChecks i (taken i h d s) (stream s i).afterBarrier0 (pushRec i (taken i h d s) s)
      = (.ok (), pushRec i (taken i h d s) s))
    (hcall : ∀ b, d ≠ .call b) (hbar : d ≠ .barrier)
    (hk : kindReady (pushRec i (taken i h d s) s) i (taken i h d s) = true)
    (hchk : dispatchChecks i (taken i h d s) (atWork i h d s) = (.ok (), atWork i h d s))
    (hkind : dispatchKind i (keyed i h d s) (atWork i h d s) = complete i (keyed i h d s).seq stOK 0 0 fl t)
    (hp : Puts (atWork i h d s) t host a bs) :
    TookAndPut i h d fl.late host a bs s (offerDesc i h d s) := by
  rw [offerDesc_eq hc htake hcall hk hchk hkind (hp.holds_complete hc fl) hbar]
  exact tookAndPut_settle hc hp fl

end
end Sys2Proof.Machine
end

section
/-! The three commands of O23. -/

namespace Sys2Proof.Machine

section
variable {i : Nat} {h : Header} {s t : State} {host : Bool} {a : Nat} {bs : List Byte}

/-- A MOVE or an EVENT has only its position checked at the take. -/
theorem takeChecks_ok {r : Rec} (hpos : r.hdr.pos < 2 ^ 20)
    (hd : (∃ k b, r.desc = .move k b) ∨ ∃ b, r.desc = .event b) (after : Bool) (s : State) :
    takeChecks i r after s = (.ok (), s) := by
  have hnear : decide (2 ^ 20 ≤ r.hdr.pos) = false := decide_eq_false (Nat.not_le.mpr hpos)
  rcases hd with ⟨k, b, hd⟩ | ⟨b, hd⟩ <;>
    simp only [takeChecks, hd, hnear, mm_bind (mGuard_false _ _ s), mm_pure]

theorem dispatchMove_copy {b : MoveBody} (hm : moveCopy i b s = (.ok (), t)) (seq : Nat) :
    dispatchMove i seq h 0x00 b s = (.ok (), complete i seq stOK 0 0 { CFlags.none with late := false } t) := by
  simp only [dispatchMove, mm_bind hm, mm_bind (mm_pure _ t), mMod_apply]

theorem dispatchMove_deliver {b : MoveBody} {late : Bool} (hm : moveDeliver i b s = (.ok late, t)) (seq : Nat) :
    dispatchMove i seq h 0x0B b s = (.ok (), complete i seq stOK 0 0 { CFlags.none with late := late } t) := by
  simp only [dispatchMove, mm_bind hm, mMod_apply]

/-- A MOVE of a kind that loads no store and reads no weight, whose work puts bytes (R258). -/
theorem offerDesc_move {k : Nat} {b : MoveBody} {fl : CFlags} (hc : clearStream s i) (hpos : h.pos < 2 ^ 20)
    (hclean : cleanMem s) (hk : k = 0x00 ∨ k = 0x0B)
    (hwork : dispatchMove i (keyed i h (.move k b) s).seq h k b (atWork i h (.move k b) s)
      = (.ok (), complete i (keyed i h (.move k b) s).seq stOK 0 0 fl t))
    (hp : Puts (atWork i h (.move k b) s) t host a bs) :
    TookAndPut i h (.move k b) fl.late host a bs s (offerDesc i h (.move k b) s) := by
  have hf := (cleanMem_congr ((atWork_sameBut i h (.move k b) s).part .mem (by simp)) hclean).2.1
  have hgroup : usesGroup (.move k b) = false := by rcases hk with rfl | rfl <;> rfl
  have hready : kindReady (pushRec i (taken i h (.move k b) s) s) i (taken i h (.move k b) s) = true := by
    rcases hk with rfl | rfl <;> rfl
  exact offerDesc_puts hc (takeChecks_ok hpos (.inl ⟨k, b, rfl⟩) _ _) (fun _ => Desc.noConfusion) Desc.noConfusion
    hready (dispatchChecks_ok hf hgroup rfl) (runDesc_ok hwork _ _) hp

theorem offerDesc_event {b : EventBody} (hc : clearStream s i) (hpos : h.pos < 2 ^ 20) (hclean : cleanMem s)
    (hwork : dispatchEvent i (keyed i h (.event b) s).seq b (atWork i h (.event b) s)
      = (.ok (), completeOK i (keyed i h (.event b) s).seq t))
    (hp : Puts (atWork i h (.event b) s) t host a bs) :
    TookAndPut i h (.event b) false host a bs s (offerDesc i h (.event b) s) := by
  have hf := (cleanMem_congr ((atWork_sameBut i h (.event b) s).part .mem (by simp)) hclean).2.1
  have hready : kindReady (pushRec i (taken i h (.event b) s) s) i (taken i h (.event b) s) = true := by
    have hhead := (holds_pushRec hc h (.event b)).window
    change decide (((stream (pushRec i (taken i h (.event b) s) s) i).window.head?).map (·.seq) = some _) = true
    simp [hhead]
  exact offerDesc_puts hc (takeChecks_ok hpos (.inr ⟨b, rfl⟩) _ _) (fun _ => Desc.noConfusion) Desc.noConfusion
    hready (dispatchChecks_ok hf rfl rfl) (runDesc_ok hwork _ _) hp

/-- A command of a stream that the module has offers its descriptor (R7). -/
theorem onUnit_stream (hc : clearStream s i) (t : State) : onUnit (decide (i < 64)) t = .next t := by
  rw [decide_eq_true hc.1, onUnit_true]

theorem exec_moveCopy {b : MoveBody} (hc : clearStream s i) (hpos : h.pos < 2 ^ 20) (hclean : cleanMem s)
    (hs : endOk s b.srcHost b.src b.length) (hd : endOk s b.dstHost b.dst b.length) :
    ∃ t, exec (.moveCopy i h b) s = .next t
      ∧ TookAndPut i h (.move 0x00 b) false b.dstHost b.dst (endBytes s b.srcHost b.src b.length) s t := by
  have hwork := atWork_sameBut i h (.move 0x00 b) s
  obtain ⟨t, ht, hp⟩ := moveCopy_puts (cleanMem_congr (hwork.part .mem (by simp)) hclean)
    ((endOk_congr hwork).mpr hs) ((endOk_congr hwork).mpr hd) i
  rw [endBytes_congr hwork] at hp
  exact ⟨_, onUnit_stream hc _, offerDesc_move hc hpos hclean (.inl rfl) (dispatchMove_copy ht _) hp⟩

theorem exec_deliver {b : MoveBody} (hc : clearStream s i) (hpos : h.pos < 2 ^ 20) (hclean : cleanMem s)
    (hs : endOk s b.srcHost b.src b.length) (hd : endOk s b.dstHost b.dst (32 + b.length)) :
    ∃ t, exec (.deliver i h b) s = .next t
      ∧ TookAndPut i h (.move 0x0B b) (deliverLate s b) b.dstHost b.dst
          (deliverRec s b ++ endBytes s b.srcHost b.src b.length) s t := by
  have hwork := atWork_sameBut i h (.move 0x0B b) s
  have htally : (atWork i h (.move 0x0B b) s).tally = s.tally := hwork.part .tally (by simp)
  have hlate : deliverLate (atWork i h (.move 0x0B b) s) b = deliverLate s b := by simp only [deliverLate, htally]
  have hrec : deliverRec (atWork i h (.move 0x0B b) s) b = deliverRec s b := by simp only [deliverRec, hlate, htally]
  obtain ⟨t, ht, hp⟩ := moveDeliver_puts (cleanMem_congr (hwork.part .mem (by simp)) hclean)
    ((endOk_congr hwork).mpr hs) ((endOk_congr hwork).mpr hd) i
  rw [endBytes_congr hwork, hrec] at hp
  rw [hlate] at ht
  exact ⟨_, onUnit_stream hc _, offerDesc_move hc hpos hclean (.inr rfl) (dispatchMove_deliver ht _) hp⟩

theorem exec_event {b : EventBody} (hc : clearStream s i) (hpos : h.pos < 2 ^ 20) (hclean : cleanMem s)
    (hw : b.writeEn = true) (hi : b.irqEn = false) (hd : endOk s b.host b.addr 8) :
    ∃ t, exec (.event i h b) s = .next t
      ∧ TookAndPut i h (.event b) false b.host b.addr (leBytes 8 b.value) s t := by
  have hwork := atWork_sameBut i h (.event b) s
  obtain ⟨t, ht, hp⟩ := dispatchEvent_puts (cleanMem_congr (hwork.part .mem (by simp)) hclean) hw hi
    ((endOk_congr hwork).mpr hd) i (keyed i h (.event b) s).seq
  exact ⟨_, onUnit_stream hc _, offerDesc_event hc hpos hclean ht hp⟩

end

/-- Settles O23: each of the three descriptors starts at once, puts its bytes and completes. -/
theorem movesOfBytes : Obligations.MovesOfBytes := by
  unfold Obligations.MovesOfBytes
  intro s i h hc hpos hclean
  refine ⟨fun b _ hs hd => ?_, fun b _ hs hd => ?_, fun b hw hi hd => ?_⟩
  · obtain ⟨t, he, ht⟩ := exec_moveCopy hc hpos hclean hs hd
    exact ⟨t, he, ht.took, ht.stores, by simpa using ht.only, ht.rest⟩
  · obtain ⟨t, he, ht⟩ := exec_deliver hc hpos hclean hs hd
    exact ⟨t, he, ht.took, ht.late, ht.stores, by simpa [length_deliverRec] using ht.only, ht.rest⟩
  · obtain ⟨t, he, ht⟩ := exec_event hc hpos hclean hw hi hd
    exact ⟨t, he, ht.took, ht.stores, by simpa using ht.only, ht.rest⟩

end Sys2Proof.Machine
end

section
/-! What keeps the queue and the canonical form of memory (R16, R347): the relation `Keeps` is closed under the operations
of the model, so a command's proof follows the text of its meaning. A lemma `Keeps.f` says that the operation `f` may
follow whatever has kept them so far. -/

namespace Sys2Proof.Machine

-- A thread for each of these many proofs at once would take more stack than the check allows.
set_option Elab.async false

section
variable {α β : Type} {s t u : State}

namespace Keeps

theorem refl : Keeps s s := ⟨rfl, id⟩

theorem trans (h : Keeps s t) (k : Keeps t u) : Keeps s u := ⟨k.pending.trans h.pending, k.mem ∘ h.mem⟩

/-- A state with the same queue and bytes. -/
theorem same (h : Keeps s t) (hp : u.pending = t.pending := by rfl) (hd : u.mem.data = t.mem.data := by rfl)
    (hm : u.host.mem = t.host.mem := by rfl) : Keeps s u :=
  ⟨hp.trans h.pending, fun hs => by rw [MemInv, hd, hm]; exact h.mem hs⟩

/-- A state that is used more than once is shown once. -/
theorem andThen (h : Keeps s t) (hu : Keeps s t → Keeps s u) : Keeps s u := hu h

theorem ite {c : Prop} [Decidable c] (ht : Keeps s t) (hu : Keeps s u) : Keeps s (if c then t else u) := by
  split
  · exact ht
  · exact hu

theorem iteFst {c : Prop} [Decidable c] {p q : State × β} (hp : Keeps s p.1) (hq : Keeps s q.1) :
    Keeps s (if c then p else q).1 := by
  split
  · exact hp
  · exact hq

theorem iteSnd {c : Prop} [Decidable c] {p q : β × State} (hp : Keeps s p.2) (hq : Keeps s q.2) :
    Keeps s (if c then p else q).2 := by
  split
  · exact hp
  · exact hq

theorem of_fst {p : State × β} {b : β} (h : Keeps s p.1) (e : p = (t, b)) : Keeps s t := by subst e; exact h

theorem of_snd {p : β × State} {b : β} (h : Keeps s p.2) (e : p = (b, t)) : Keeps s t := by subst e; exact h

theorem foldl {f : State → α → State} {l : List α} (h : Keeps s t) (hf : ∀ {u a}, Keeps s u → Keeps s (f u a)) :
    Keeps s (l.foldl f t) := by
  induction l generalizing t with
  | nil => exact h
  | cons a l ih => exact ih (hf h)

theorem foldlFst {f : State × β → α → State × β} {l : List α} {b : β} (h : Keeps s t)
    (hf : ∀ {y a}, Keeps s y.1 → Keeps s (f y a).1) : Keeps s (l.foldl f (t, b)).1 := by
  suffices ∀ x : State × β, Keeps s x.1 → Keeps s (l.foldl f x).1 from this _ h
  induction l with
  | nil => exact fun _ h => h
  | cons a l ih => exact fun x hx => ih _ (hf hx)

theorem foldlSnd {f : β × State → α → β × State} {l : List α} {b : β} (h : Keeps s t)
    (hf : ∀ {y a}, Keeps s y.2 → Keeps s (f y a).2) : Keeps s (l.foldl f (b, t)).2 := by
  suffices ∀ x : β × State, Keeps s x.2 → Keeps s (l.foldl f x).2 from this _ h
  induction l with
  | nil => exact fun _ h => h
  | cons a l ih => exact fun x hx => ih _ (hf hx)

/-! ### Where bytes change -/

theorem modMem {f : MemSt → MemSt} (h : Keeps s t)
    (hf : ∀ m, Memory.wf m.data → Memory.wf (f m).data := by exact fun _ => id) : Keeps s (modMem t f) :=
  ⟨h.pending, fun hs => ⟨hf _ (h.mem hs).1, (h.mem hs).2⟩⟩

theorem modHost {f : HostSt → HostSt} (h : Keeps s t)
    (hf : ∀ x, Memory.wf x.mem → Memory.wf (f x).mem := by exact fun _ => id) : Keeps s (modHost t f) :=
  ⟨h.pending, fun hs => ⟨(h.mem hs).1, hf _ (h.mem hs).2⟩⟩

end Keeps

/-! ### Work that may fail -/

/-- Work that keeps the queue and the canonical form, whether it fails or not. -/
def KeepsM (w : MM α) : Prop := ∀ s, Keeps s (w s).2

namespace KeepsM

theorem run {w : MM α} (hw : KeepsM w) (h : Keeps s t) : Keeps s (w t).2 := h.trans (hw t)

theorem pure {a : α} : KeepsM (pure a) := fun _ => .refl

theorem bind {w : MM α} {f : α → MM β} (hw : KeepsM w) (hf : ∀ a, KeepsM (f a)) : KeepsM (w >>= f) := fun s => by
  have h := hw s
  simp only [Bind.bind, ExceptT.bind, ExceptT.mk, StateT.bind]
  generalize w s = p at h ⊢
  obtain ⟨x, t⟩ := p
  cases x with
  | ok a => exact (hf a).run h
  | error e => exact h

/-- Work that goes on from the state it reads. -/
theorem bindGet {f : State → MM α} (hf : ∀ s, Keeps s (f s s).2) : KeepsM (mGet >>= f) := hf

theorem ite {c : Prop} [Decidable c] {v w : MM α} (hv : KeepsM v) (hw : KeepsM w) : KeepsM (if c then v else w) := by
  split
  · exact hv
  · exact hw

theorem forM {f : α → MM Unit} {l : List α} (hf : ∀ a, KeepsM (f a)) : KeepsM (l.forM f) := by
  induction l with
  | nil => exact .pure
  | cons a l ih => exact .bind (hf a) fun _ => ih

theorem optionForM {f : α → MM Unit} {o : Option α} (hf : ∀ a, KeepsM (f a)) : KeepsM (o.forM f) := by
  cases o with
  | none => exact .pure
  | some a => exact hf a

theorem foldlM {f : β → α → MM β} {l : List α} {b : β} (hf : ∀ b a, KeepsM (f b a)) : KeepsM (l.foldlM f b) := by
  induction l generalizing b with
  | nil => exact .pure
  | cons a l ih => exact .bind (hf b a) fun _ => ih

theorem mapM {f : α → MM β} {l : List α} (hf : ∀ a, KeepsM (f a)) : KeepsM (l.mapM f) := by
  induction l with
  | nil => exact .pure
  | cons a l ih =>
    rw [List.mapM_cons]
    exact .bind (hf a) fun _ => .bind ih fun _ => .pure

theorem flatMapM {f : α → MM (List β)} {l : List α} (hf : ∀ a, KeepsM (f a)) : KeepsM (l.flatMapM f) := by
  have hloop (l : List α) (bs : List (List β)) : KeepsM (List.flatMapM.loop f l bs) := by
    induction l generalizing bs with
    | nil => exact .pure
    | cons a l ih => exact .bind (hf a) fun _ => ih _
  exact hloop l []

theorem mMod {f : State → State} (hf : ∀ s, Keeps s (f s)) : KeepsM (mMod f) := hf

end KeepsM

/-! ### The operations of Machine/Ops.lean -/

theorem Keeps.modReg {f} (h : Keeps s t) : Keeps s (modReg t f) := h.same

theorem Keeps.modComp {f} (h : Keeps s t) : Keeps s (modComp t f) := h.same

theorem Keeps.modStep {f} (h : Keeps s t) : Keeps s (modStep t f) := h.same

theorem Keeps.modTally {f} (h : Keeps s t) : Keeps s (modTally t f) := h.same

theorem Keeps.modLink {f} (h : Keeps s t) : Keeps s (modLink t f) := h.same

theorem Keeps.modSafe {f} (h : Keeps s t) : Keeps s (modSafe t f) := h.same

theorem Keeps.modPower {f} (h : Keeps s t) : Keeps s (modPower t f) := h.same

theorem Keeps.modTest {f} (h : Keeps s t) : Keeps s (modTest t f) := h.same

theorem Keeps.setStream {i v} (h : Keeps s t) : Keeps s (setStream t i v) := h.modHost

theorem Keeps.modStream {i f} (h : Keeps s t) : Keeps s (modStream t i f) := h.setStream

theorem Keeps.setClove {p v} (h : Keeps s t) : Keeps s (setClove t p v) := h.modComp

theorem Keeps.modClove {p f} (h : Keeps s t) : Keeps s (modClove t p f) := h.setClove

theorem Keeps.setTile {p t' v} (h : Keeps s t) : Keeps s (setTile t p t' v) := h.modClove

theorem Keeps.setWeight {w v} (h : Keeps s t) : Keeps s (setWeight t w v) := h.modComp

theorem Keeps.setSlotStat {i v} (h : Keeps s t) : Keeps s (setSlotStat t i v) := h.modComp

theorem Keeps.setPort {p v} (h : Keeps s t) : Keeps s (setPort t p v) := h.same

theorem Keeps.modPort {p f} (h : Keeps s t) : Keeps s (modPort t p f) := h.setPort

theorem Keeps.setBucket {b v} (h : Keeps s t) : Keeps s (setBucket t b v) := h.modLink

theorem Keeps.modBucket {b f} (h : Keeps s t) : Keeps s (modBucket t b f) := h.setBucket

theorem Keeps.setReg4 {a v} (h : Keeps s t) : Keeps s (setReg4 t a v) := h.modReg

theorem Keeps.setReg8 {a v} (h : Keeps s t) : Keeps s (setReg8 t a v) := h.setReg4.setReg4

theorem Keeps.count {a n} (h : Keeps s t) : Keeps s (count a n t) := .ite h (.ite h.modReg h.modReg)

theorem Keeps.timer {a n} (h : Keeps s t) : Keeps s (timer a n t) := h.modReg

theorem Keeps.hostWrite {a bs} (h : Keeps s t) : Keeps s (hostWrite a bs t) :=
  .ite (h.modHost fun _ => wf_putBytes a bs) h.count

theorem Keeps.setVector {v x} (h : Keeps s t) : Keeps s (setVector t v x) := h.modHost

theorem Keeps.sendVector {v} (h : Keeps s t) : Keeps s (sendVector v t) :=
  .ite h.setVector (.ite h.setVector h.setVector.count)

theorem Keeps.requestVector {v} (h : Keeps s t) : Keeps s (requestVector v t) :=
  .ite h.setVector.sendVector h.setVector

theorem Keeps.raiseEv {e} (h : Keeps s t) : Keeps s (raiseEv e t) :=
  .ite h (.ite h.modHost.count (h.hostWrite.modHost.requestVector.andThen fun h3 => .ite h3.sendVector h3))

theorem Keeps.setStepFlag {tag layer tensor} (h : Keeps s t) : Keeps s (setStepFlag tag layer tensor t) :=
  .ite h h.modStep

/-! ### The operations of Machine/Streams.lean -/

theorem Keeps.statusLine {old i} (h : Keeps s t) : Keeps s (statusLine old t i) := .ite h.hostWrite h

theorem Keeps.statusLines {old} (h : Keeps s t) : Keeps s (statusLines old t) := h.foldl fun h => h.statusLine

theorem Keeps.setPhase {on f} (h : Keeps s t) : Keeps s (setPhase on t f) := .ite h h.modReg

theorem Keeps.settlePhases (h : Keeps s t) : Keeps s (settlePhases t) := (h.foldl fun h => h.setPhase).setPhase

theorem Keeps.settle {old} (h : Keeps s t) : Keeps s (settle old t) := h.statusLines.settlePhases

theorem Keeps.modRec {i seq f} (h : Keeps s t) : Keeps s (modRec i seq f t) := h.modStream

theorem Keeps.guardFlag {i seq} (h : Keeps s t) : Keeps s (guardFlag i seq t) := by
  unfold Machine.guardFlag
  split
  · exact .ite h.setStepFlag h
  · exact h

theorem Keeps.complete {i seq status detail value fl} (h : Keeps s t) :
    Keeps s (complete i seq status detail value fl t) :=
  h.modRec

theorem Keeps.completeOK {i seq} (h : Keeps s t) : Keeps s (completeOK i seq t) := h.complete

theorem Keeps.completeErr {i seq d off} (h : Keeps s t) : Keeps s (completeErr i seq d off t) := by
  unfold Machine.completeErr
  split
  · exact h
  · exact .ite h (.complete (.ite h h.modStream.raiseEv))

theorem Keeps.completeUE {i seq detail} (h : Keeps s t) : Keeps s (completeUE i seq detail t) := by
  unfold Machine.completeUE
  split
  · exact h
  · exact .ite h h.guardFlag.complete

theorem Keeps.addFlags {i seq fl} (h : Keeps s t) : Keeps s (addFlags i seq fl t) := h.modRec

/-! ### The operations of Machine/Cloves.lean -/

theorem Keeps.replaceReq {bit} (h : Keeps s t) : Keeps s (replaceReq bit t) := .ite h h.modSafe.raiseEv

theorem Keeps.setCtx {p k v} (h : Keeps s t) : Keeps s (setCtx t p k v) := h.modClove

theorem Keeps.discardTile {p t'} (h : Keeps s t) : Keeps s (discardTile t p t') := h.modClove

theorem Keeps.discardTiles {f} (h : Keeps s t) : Keeps s (discardTiles f t) := h.foldl fun h => h.discardTile

theorem Keeps.requeue {q l} (h : Keeps s t) : Keeps s (requeue t q l) := h.modComp

theorem Keeps.dropItems {f} (h : Keeps s t) : Keeps s (dropItems f t) := h.modComp

theorem Keeps.tidyCloves (h : Keeps s t) : Keeps s (tidyCloves t) := h.modComp

theorem Keeps.undoAdds {t'} (h : Keeps s t) : Keeps s (undoAdds t' t) := h.foldl fun h => h.modRec

theorem Keeps.reissueOn {q pos i} (h : Keeps s t) : Keeps s (reissueOn q pos i t) := h.requeue

theorem Keeps.makeTree {i u'} (h : Keeps s t) : Keeps s (makeTree i u' t) := h.foldl fun h => h.setTile

theorem Keeps.redoWhole {i r} (h : Keeps s t) : Keeps s (redoWhole i r t) :=
  h.discardTiles.dropItems.modStream.foldl fun h => h.foldl fun h => h.modComp

theorem Keeps.emptyPosition {s0 p q pos} (h : Keeps s t) : Keeps s (emptyPosition s0 p q pos t) :=
  (h.foldl fun h => h.redoWhole).foldl fun h => h.makeTree

theorem Keeps.reissueFree {q i} (h : Keeps s t) : Keeps s (reissueFree q i t) := .ite h.requeue h.requeue

theorem Keeps.wipeClove {p} (h : Keeps s t) : Keeps s (wipeClove p t) := by
  unfold Machine.wipeClove
  exact .modClove (.modMem h fun _ => canon_filter _)

theorem Keeps.addRef {w} (h : Keeps s t) : Keeps s (addRef w t) := h.setWeight

theorem Keeps.dropRef {w} (h : Keeps s t) : Keeps s (dropRef w t) := h.setWeight

theorem Keeps.putEntry {p k e} (h : Keeps s t) : Keeps s (putEntry p k e t) := h.modClove.modComp

theorem Keeps.lostEntry {p i r b e} (h : Keeps s t) : Keeps s (lostEntry p i r b e t) := by
  unfold Machine.lostEntry
  split
  · exact h
  · exact h.putEntry.addRef.complete

theorem Keeps.loseSave {p i r} (h : Keeps s t) : Keeps s (loseSave p i r t) := by
  unfold Machine.loseSave
  split
  · exact .ite h.lostEntry h
  · exact h

theorem Keeps.loseSaves {p} (h : Keeps s t) : Keeps s (loseSaves p t) := by
  unfold Machine.loseSaves
  exact (h.foldl fun h => h.loseSave).modHost

theorem Keeps.quarantine {p mech} (h : Keeps s t) : Keeps s (quarantine p mech t) := by
  unfold Machine.quarantine
  dsimp only
  refine .ite h ?_
  split
  · exact (h.foldl fun h => h.undoAdds).modClove.wipeClove.modSafe.raiseEv.loseSaves
  · split
    · exact (h.foldl fun h => h.undoAdds).modClove.wipeClove.modSafe.raiseEv.loseSaves.modClove.foldl fun h =>
          h.reissueOn
    · exact ((h.foldl fun h => h.undoAdds).modClove.wipeClove.modSafe.raiseEv.loseSaves.foldl
          fun h => h.reissueFree).emptyPosition.replaceReq

theorem Keeps.cutPlace {i r first j q} (h : Keeps s t) : Keeps s (cutPlace i r first j q t).1 :=
  .ite h.modComp.count h.modComp

theorem Keeps.cutRec {i seq first} (h : Keeps s t) : Keeps s (cutRec i seq first t) := by
  unfold Machine.cutRec
  split
  · exact h
  · exact .modRec (.foldlFst h fun h => .cutPlace h)

theorem Keeps.refill (h : Keeps s t) : Keeps s (refill t) := h.foldl fun h => h.cutRec

theorem Keeps.cancelWork {i} (h : Keeps s t) : Keeps s (cancelWork i t) := by
  unfold Machine.cancelWork
  exact h.discardTiles.dropItems.tidyCloves.modComp.modStep.modLink

theorem Keeps.endUpdate {w i seq} (h : Keeps s t) : Keeps s (endUpdate w i seq t) := h.setWeight

theorem Keeps.skipUpdates {no} (h : Keeps s t) : Keeps s (skipUpdates no t) := by
  unfold Machine.skipUpdates
  refine h.foldl fun h => ?_
  split
  · exact .ite h.endUpdate.complete h
  · exact h

theorem Keeps.abortStream {i} (h : Keeps s t) : Keeps s (abortStream i t) :=
  (h.cancelWork.modStream.foldl fun h => h.skipUpdates).refill

theorem Keeps.withdrawVotes (h : Keeps s t) : Keeps s (withdrawVotes t) := h.modLink

theorem Keeps.tileOutOfService {t' mech} (h : Keeps s t) : Keeps s (tileOutOfService t' mech t) :=
  .ite h (h.foldl fun h => h.abortStream).withdrawVotes.modComp.modSafe.raiseEv.replaceReq

theorem Keeps.portsDown (h : Keeps s t) : Keeps s (portsDown t) := h.same

theorem Keeps.abortSilently (h : Keeps s t) : Keeps s (abortSilently t) :=
  h.foldl fun h => .ite h h.abortStream.modStream

theorem Keeps.safeStop (h : Keeps s t) : Keeps s (safeStop t) := h.abortSilently.portsDown.modSafe.replaceReq

/-! ### The operations of Machine/Memory.lean -/

theorem Keeps.memPut {a bs} (h : Keeps s t) : Keeps s (memPut a bs t) :=
  .ite (h.modMem fun _ => wf_putBytes a bs) (h.foldl fun h => h.modMem fun _ => wf_putBytes _ _)

theorem Keeps.countAt {a n} (h : Keeps s t) : Keeps s (countAt a n t) := by
  unfold Machine.countAt
  split
  · exact h.count
  · exact h

theorem Keeps.raiseCE {u' a n} (h : Keeps s t) : Keeps s (raiseCE u' a n t) := .ite h h.modMem.raiseEv

theorem Keeps.raiseUE {u' a req} (h : Keeps s t) : Keeps s (raiseUE u' a req t) := .ite h h.modMem.raiseEv

theorem Keeps.setFault {u' a k} (h : Keeps s t) : Keeps s (setFault u' a k t) := h.modMem

theorem Keeps.heal {u' a} (h : Keeps s t) : Keeps s (heal u' a t) := .ite h.setFault h

theorem Keeps.reportUE {u' a req} (h : Keeps s t) : Keeps s (reportUE u' a req t) :=
  (h.countAt.foldl fun h => h.setFault).raiseUE

theorem Keeps.trackCE {u' a} (h : Keeps s t) : Keeps s (trackCE u' a t).1 := by
  have hput {l} : Keeps s (Machine.modMem (Machine.countAt (ceCtr u') 1 t) fun m =>
      { m with tracker := sset [] m.tracker u' l }) := h.countAt.modMem
  unfold Machine.trackCE
  dsimp only
  split
  · exact .iteFst hput (.iteFst hput hput)
  · exact .iteFst hput.raiseCE hput.countAt.raiseCE

theorem Keeps.copyFault {x u' f} (h : Keeps s x.1) : Keeps s (copyFault u' x f).1 := by
  unfold Machine.copyFault
  split
  · exact h.heal.trackCE
  · exact h
  · exact h.reportUE

theorem Keeps.copyUnits {u' f} (h : Keeps s t) : Keeps s (copyUnits u' f t).1 := h.foldlFst fun h => h.copyFault

theorem Keeps.hbmReason (h : Keeps s t) : Keeps s (hbmReason t) := .ite h.replaceReq h

theorem Keeps.startMigration {c} (h : Keeps s t) : Keeps s (startMigration c t) :=
  .ite h (.ite h.modMem.modSafe.hbmReason (.ite h.modMem h.modMem))

theorem Keeps.markChannel {c} (h : Keeps s t) : Keeps s (markChannel c t) := h.modMem.modSafe.startMigration

theorem Keeps.remapTo {u' a} (h : Keeps s t) : Keeps s (remapTo u' a t).1 := by
  refine .iteFst (.iteFst ?row h.markChannel.raiseCE)
    (.iteFst (.iteFst ?word (.iteFst h.raiseCE.quarantine (.iteFst ?full ?bank))) h.raiseCE)
  case row => exact h.same
  case word => exact .raiseCE (.modMem h)
  case full => exact .raiseCE (.modMem h)
  case bank => exact .raiseCE (.modSafe (.modMem h))

theorem Keeps.remapAddr {u' a} (h : Keeps s t) : Keeps s (remapAddr u' a t) := by
  unfold Machine.remapAddr
  split
  next e => exact h.remapTo.of_fst e
  next e => exact (h.remapTo.of_fst e).copyUnits.foldl fun h => h.remapTo

theorem Keeps.copyHbm {u' f} (h : Keeps s t) : Keeps s (copyHbm u' f t) := h.copyUnits.foldl fun h => h.remapAddr

theorem Keeps.reportCE {u' a} (h : Keeps s t) : Keeps s (reportCE u' a t) :=
  .ite (.remapAddr (.trackCE (.ite (.heal h) h))) (.trackCE (.ite (.heal h) h))

theorem Keeps.readFault {u' req f} (h : Keeps s t) : Keeps s (readFault u' req t f) :=
  .ite h (.ite h.reportCE h.reportUE)

theorem Keeps.checkRead {a n req} (h : Keeps s t) : Keeps s (checkRead a n req t) := h.foldl fun h => h.readFault

theorem Keeps.readMem {a n req} (h : Keeps s t) : Keeps s (readMem a n req t).2 := by
  unfold Machine.readMem
  split
  · exact h
  · exact h
  · exact h.checkRead.andThen fun h1 => .iteSnd h1 h1

theorem Keeps.writeUnit {u' b} (h : Keeps s t) : Keeps s (writeUnit u' t b) := .ite h.modMem.setFault h.setFault

theorem Keeps.rmwUnit {req a} (h : Keeps s t) : Keeps s (rmwUnit req t a) := h.countAt.foldl fun h => h.readFault

theorem Keeps.writePart {a bs lo hi req} (h : Keeps s t) : Keeps s (writePart a bs lo hi req t).2 := by
  unfold Machine.writePart
  dsimp only
  split
  · exact h
  · exact h
  · exact .iteSnd (h.foldl fun h => h.rmwUnit) ((h.foldl fun h => h.rmwUnit).foldl fun h => h.writeUnit).memPut

theorem Keeps.writeMem {a bs req} (h : Keeps s t) : Keeps s (writeMem a bs req t).2 := h.writePart

theorem Keeps.logAer {kind write a n} (h : Keeps s t) : Keeps s (logAer kind write a n t) := h.modHost

theorem Keeps.readHost {a n i} (h : Keeps s t) : Keeps s (readHost a n i t).2 := by
  unfold Machine.readHost
  refine .iteSnd h.raiseUE ?_
  split
  · exact h.logAer.raiseUE
  · exact h

theorem KeepsM.mRead {a n req} : KeepsM (mRead a n req) := fun s => by
  have h : Keeps s (readMem a n req s).2 := Keeps.refl.readMem
  unfold Machine.mRead
  split <;> exact h.of_snd ‹_›

theorem KeepsM.mNum {a n req} : KeepsM (mNum a n req) := .bind .mRead fun _ => .pure

theorem KeepsM.mWrite {a bs req} : KeepsM (mWrite a bs req) := fun s => by
  have h : Keeps s (writeMem a bs req s).2 := Keeps.refl.writeMem
  unfold Machine.mWrite
  split <;> exact h.of_snd ‹_›

theorem KeepsM.mWritePart {a bs lo hi req} : KeepsM (mWritePart a bs lo hi req) := fun s => by
  have h : Keeps s (writePart a bs lo hi req s).2 := Keeps.refl.writePart
  unfold Machine.mWritePart
  split <;> exact h.of_snd ‹_›

theorem KeepsM.mHost {a n i} : KeepsM (mHost a n i) := fun s => by
  have h : Keeps s (readHost a n i s).2 := Keeps.refl.readHost
  unfold Machine.mHost
  split <;> exact h.of_snd ‹_›

theorem KeepsM.mGet : KeepsM mGet := fun _ => Keeps.refl

theorem KeepsM.mFail {d off} : KeepsM (mFail d off : MM α) := fun _ => .refl

theorem KeepsM.mUE {k} : KeepsM (mUE k : MM α) := fun _ => .refl

theorem KeepsM.mTable {k n t'} : KeepsM (mTable k n t') :=
  fun _ => .iteSnd (Keeps.refl.foldl fun h => h.readFault) (Keeps.refl.foldl fun h => h.readFault)

theorem Keeps.writeTable {k n} (h : Keeps s t) : Keeps s (writeTable k n t) :=
  h.foldl fun h => h.foldl fun h => h.setFault

theorem KeepsM.mGuard {bad d off} : KeepsM (mGuard bad d off) := .ite .mFail .pure

theorem Keeps.runDesc {i seq} {w : MM Unit} (h : Keeps s t) (hw : KeepsM w) : Keeps s (runDesc i seq w t) := by
  unfold Machine.runDesc
  split
  next e => exact (hw.run h).of_snd e
  next e => exact ((hw.run h).of_snd e).completeErr
  next e => exact ((hw.run h).of_snd e).completeUE

/-! ### The operations of Machine/Operands.lean -/

theorem KeepsM.readTE {g h' off} : KeepsM (readTE g h' off) :=
  .ite .pure (.bind .mGet fun _ => .bind .mGuard fun _ => .bind .mRead fun _ => .bind .mGuard fun _ => .pure)

theorem KeepsM.needTE {g h' off} : KeepsM (needTE g h' off) := by
  unfold Machine.needTE
  refine .bind .readTE fun _ => ?_
  split
  · exact .pure
  · exact .mFail

theorem KeepsM.checkRange {a n off} : KeepsM (checkRange a n off) := by
  unfold Machine.checkRange
  refine .bind .mGet fun _ => ?_
  split
  · exact .pure
  · exact .mFail
  · exact .mUE

theorem KeepsM.checkFields {e role off} : KeepsM (checkFields e role off) :=
  .bind .mGuard fun _ => .bind .mGuard fun _ => .bind .mGuard fun _ => .bind .mGuard fun _ => .mGuard

theorem KeepsM.checkReach {e off} : KeepsM (checkReach e off) := .bind .checkRange fun _ => .ite .checkRange .pure

theorem KeepsM.checkIn {e role off} : KeepsM (checkIn e role off) := .bind .checkFields fun _ => .checkReach

theorem KeepsM.checkOut {e strict off} : KeepsM (checkOut e strict off) :=
  .bind .mGuard fun _ =>
  .bind .mGuard fun _ =>
  .bind .mGuard fun _ =>
  .bind .mGuard fun _ => .bind .mGuard fun _ => .bind .checkRange fun _ => .ite .checkRange .pure

theorem KeepsM.checkShape {e rows cols off} : KeepsM (checkShape e rows cols off) := .mGuard

theorem KeepsM.readRun {e k n req} : KeepsM (readRun e k n req) := .bind .mRead fun _ => .pure

theorem KeepsM.writeRun {e k req cs} : KeepsM (writeRun e k req cs) := .ite .mWritePart .mWrite

theorem KeepsM.readBlock {e br bc req} : KeepsM (readBlock e br bc req) :=
  .ite
    (.bind (.mapM fun _ => .ite (.bind .readRun fun _ => .pure) .pure) fun _ => .pure)
    (.bind .mRead fun _ => .pure)

theorem KeepsM.writeBlock {e br bc req v} : KeepsM (writeBlock e br bc req v) :=
  .ite (.forM fun _ => .ite .writeRun .pure) .mWrite

theorem KeepsM.readRow {e r req} : KeepsM (readRow e r req) :=
  .ite .readRun (.bind (.mapM fun _ => .mapM fun _ => .bind .mRead fun _ => .pure) fun _ => .pure)

theorem KeepsM.writeRow {e r req cs} : KeepsM (writeRow e r req cs) :=
  .ite .writeRun (.forM fun _ => .forM fun _ => .mWrite)

theorem KeepsM.readCodes {e br bc req} : KeepsM (readCodes e br bc req) := .bind .mRead fun _ => .pure

theorem KeepsM.writeCodes {e br bc req v} : KeepsM (writeCodes e br bc req v) := .mWrite

theorem KeepsM.readVals {p e base br bc req} : KeepsM (readVals p e base br bc req) :=
  .bind .readBlock fun _ =>
  .ite (.bind .readCodes fun _ => .bind .mGet fun _ => .pure) (.bind .pure fun _ => .bind .mGet fun _ => .pure)

theorem KeepsM.readRowVals {p e base r req} : KeepsM (readRowVals p e base r req) :=
  .bind .readRow fun _ =>
  .ite
    (.bind (.mapM fun _ => .readCodes) fun _ => .bind .mGet fun _ => .pure)
    (.bind .pure fun _ => .bind .mGet fun _ => .pure)

theorem KeepsM.checkFile {e base row off} : KeepsM (checkFile e base row off) := .mGuard

theorem KeepsM.loadLanes {p o g lb k0 k1 req} : KeepsM (loadLanes p o g lb k0 k1 req) :=
  .bind
      (.mapM fun _ => .bind .readBlock fun _ => .ite (.bind .readCodes fun _ => .pure) (.bind .pure fun _ => .pure)) fun _ =>
  .bind .mGet fun _ => .pure

theorem KeepsM.checkVersions {e want req off bs} : KeepsM (checkVersions e want req off bs) :=
  .forM fun _ => .bind .mNum fun _ => .mGuard

/-! ### The operations of Machine/Flags.lean -/

theorem Keeps.drawCycle (h : Keeps s t) : Keeps s (drawCycle t).2 := h.same

theorem Keeps.mergePartial {t' slot st} (h : Keeps s t) : Keeps s (mergePartial t' slot st t) := h.modComp

theorem Keeps.bindSlot {slot outFmt histBase} (h : Keeps s t) : Keeps s (bindSlot slot outFmt histBase t) :=
  .ite h h.setSlotStat

theorem KeepsM.drainInto {slot outFmt histBase} : KeepsM (drainInto slot outFmt histBase) :=
  .bind .mGet fun _ => .bind .mGuard fun _ => .mMod fun _ => Keeps.refl.bindSlot

theorem Keeps.countIn {p n} (h : Keeps s t) : Keeps s (countIn p n t) := h.count

theorem Keeps.countAcc {p n} (h : Keeps s t) : Keeps s (countAcc p n t) := h.count

theorem Keeps.countVec {p c} (h : Keeps s t) : Keeps s (countVec p c t) := h.countIn.count.count

theorem Keeps.countConv {p l} (h : Keeps s t) : Keeps s (countConv p l t) := h.count.count.count.count

theorem Keeps.runVM {p} {w : VM α} (h : Keeps s t) : Keeps s (runVM p w t).2 := h.countVec

theorem KeepsM.mVM {p} {w : VM α} : KeepsM (mVM p w) := fun _ => Keeps.refl.runVM

/-! ### The operations of Machine/Items.lean -/

theorem Keeps.setServing {p u' k} (h : Keeps s t) : Keeps s (setServing p u' k t) := h.modClove

theorem Keeps.freeContext {p k} (h : Keeps s t) : Keeps s (freeContext p k t) := .ite h.setCtx.setServing h.setCtx

theorem Keeps.unqueue {q i} (h : Keeps s t) : Keeps s (unqueue q i t) := h.modComp

theorem Keeps.dropWork {i seq} (h : Keeps s t) : Keeps s (dropWork i seq t) :=
  (h.foldl fun h => h.freeContext).discardTiles.dropItems.tidyCloves

theorem Keeps.stopOp {i seq f} (h : Keeps s t) : Keeps s (stopOp i seq f t) := by
  unfold Machine.stopOp
  refine .refill (.modStream (.foldl (.dropWork ?_) fun h => h.completeUE.dropWork))
  split
  · exact h.completeErr
  · exact h.completeUE

theorem Keeps.runItem {i seq} {w : MM Unit} (h : Keeps s t) (hw : KeepsM w) : Keeps s (runItem i seq w t) := by
  unfold Machine.runItem
  split
  next e => exact (hw.run h).of_snd e
  next e => exact ((hw.run h).of_snd e).stopOp

theorem Keeps.finishPart {i seq} (h : Keeps s t) : Keeps s (finishPart i seq t) := by
  unfold Machine.finishPart
  split
  · exact h
  · exact .ite h (.ite (.modRec h) (.completeOK (.modRec (.ite (.guardFlag h) h))))

theorem Keeps.giveCtx {p k i stolen} (h : Keeps s t) : Keeps s (giveCtx p k i stolen t) :=
  h.modComp.setCtx.andThen fun h2 => .ite h2.setServing h2

theorem Keeps.contextBoundary {p u' mask} (h : Keeps s t) : Keeps s (contextBoundary p u' mask t) := by
  unfold Machine.contextBoundary
  refine .ite h.modClove ?_
  split
  · exact .ite h.modClove.setServing h.modClove.setServing.count
  · exact h.modClove.setServing

/-! ### The operations of Machine/Matmul.lean -/

theorem KeepsM.matmulEntries {g b} : KeepsM (matmulEntries g b) :=
  .bind (.ite (.bind .needTE fun _ => .pure) .pure) fun _ =>
  .bind (.ite (.bind .needTE fun _ => .pure) .pure) fun _ =>
  .bind (.ite (.bind .needTE fun _ => .pure) .pure) fun _ =>
  .bind (.ite (.bind .needTE fun _ => .pure) .pure) fun _ =>
  .bind (.ite (.bind .needTE fun _ => .pure) .pure) fun _ => .pure

theorem KeepsM.checkOperand {b e elem base groups off} : KeepsM (checkOperand b e elem base groups off) :=
  .bind .mGuard fun _ => .bind .mGuard fun _ => .mGuard

theorem KeepsM.checkFn {fn α' off αoff} : KeepsM (checkFn fn α' off αoff) := .bind .mGuard fun _ => .mGuard

theorem KeepsM.checkMatmulFields {b} : KeepsM (checkMatmulFields b) :=
  .bind .mGuard fun _ =>
  .bind .mGuard fun _ =>
  .bind .mGuard fun _ => .bind .mGuard fun _ => .bind .mGuard fun _ => .ite (.bind .checkFn fun _ => .mGuard) .pure

theorem KeepsM.checkBlockedIn {e role off} : KeepsM (checkBlockedIn e role off) := .bind .mGuard fun _ => .checkIn

theorem KeepsM.checkBlockedOut {e strict off} : KeepsM (checkBlockedOut e strict off) :=
  .bind .mGuard fun _ => .checkOut

theorem KeepsM.checkMatmulOperands {b l} : KeepsM (checkMatmulOperands b l) := by
  unfold Machine.checkMatmulOperands
  dsimp only
  -- the kind only chooses the formats that the first entry may have
  split
  all_goals
    exact .bind .checkBlockedIn fun _ =>
      .bind .checkBlockedIn fun _ =>
      .bind .mGuard fun _ =>
      .ite
        (.bind .mGuard fun _ =>
         .ite
           (.bind .checkBlockedIn fun _ =>
            .bind .checkShape fun _ =>
            .bind .mGuard fun _ =>
            .bind .mGuard fun _ =>
            .bind .mGuard fun _ =>
            .bind .mGuard fun _ =>
            .bind .checkBlockedOut fun _ => .bind .checkShape fun _ => .bind .checkOperand fun _ => .checkOperand)
           (.bind .checkOperand fun _ => .checkOperand))
        (.bind .mGuard fun _ =>
         .ite
           (.bind .checkBlockedIn fun _ => .bind .checkShape fun _ => .bind .checkOperand fun _ => .checkOperand)
           (.bind .checkOperand fun _ => .checkOperand))

theorem KeepsM.checkMatmulDrain {h' b l} : KeepsM (checkMatmulDrain h' b l) :=
  .bind .checkBlockedOut fun _ =>
  .bind .checkShape fun _ =>
  .bind .mGuard fun _ =>
  .ite
    (.bind .checkBlockedIn fun _ => .bind .mGuard fun _ => .bind .checkShape fun _ => .bind .mGet fun _ => .mGuard)
    (.bind .mGet fun _ => .mGuard)

theorem KeepsM.checkMatmulTiles {h' b l items} : KeepsM (checkMatmulTiles h' b l items) :=
  .bind .mGet fun _ => .bind .mGuard fun _ => .ite (.bind .mGuard fun _ => .bind .mGuard fun _ => .mGuard) .pure

theorem KeepsM.checkBlocksRead {p b l bs} : KeepsM (checkBlocksRead p b l bs) := .ite .checkVersions .pure

theorem KeepsM.checkMatmulWeight {h' b l} : KeepsM (checkMatmulWeight h' b l) :=
  .bind .mGet fun _ => .bind .mGuard fun _ => .ite .checkVersions .pure

theorem KeepsM.checkShared {i g n b} : KeepsM (checkShared i g n b) :=
  .bind .mGet fun _ => .ite (.bind .mGuard fun _ => .bind .mGuard fun _ => .bind .mGuard fun _ => .mGuard) .pure

theorem Keeps.joinShared {i seq g n b} (h : Keeps s t) : Keeps s (joinShared i seq g n b t) :=
  .ite h h.modRec.modStream

theorem Keeps.startItems {i seq g n k left l} (h : Keeps s t) : Keeps s (startItems i seq g n k left l t) :=
  h.modComp.andThen fun h1 => .ite h1.modRec.completeOK h1.modRec.cutRec

theorem KeepsM.dispatchMatmul {i seq h' b} : KeepsM (dispatchMatmul i seq h' b) :=
  .bind .checkMatmulFields fun _ =>
  .bind .matmulEntries fun _ =>
  .bind .checkMatmulOperands fun _ =>
  .ite
    (.bind .checkMatmulDrain fun _ =>
     .bind .checkMatmulTiles fun _ =>
     .bind .checkShared fun _ =>
     .bind .checkMatmulWeight fun _ =>
     .mMod fun _ => .startItems (.joinShared (.ite (.bindSlot Keeps.refl) Keeps.refl)))
    (.bind .checkMatmulTiles fun _ =>
     .bind .checkShared fun _ =>
     .bind .checkMatmulWeight fun _ =>
     .mMod fun _ => .startItems (.joinShared (.ite (.bindSlot Keeps.refl) Keeps.refl)))

theorem KeepsM.preloadWords {p b l n chunk} : KeepsM (preloadWords p b l n chunk) :=
  .ite .pure (.bind .readBlock fun _ => .bind (.mMod fun _ => Keeps.refl.countIn.countConv) fun _ => .pure)

theorem Keeps.preloadFaults {p t'} (h : Keeps s t) : Keeps s (preloadFaults p t' t) := h.foldl fun h => h.writeUnit

theorem Keeps.openTile {p t' r b i u' words} (h : Keeps s t) : Keeps s (openTile p t' r b i u' words t) :=
  h.preloadFaults.setTile

theorem Keeps.handOut {q i p k t' stolen} (h : Keeps s t) : Keeps s (handOut q i p k t' stolen t) := by
  unfold Machine.handOut
  dsimp only
  split
  · exact h.unqueue.giveCtx
  · split
    · exact h.unqueue.giveCtx
    · refine h.unqueue.giveCtx.runItem ?_
      split
      · exact .mMod fun _ => Keeps.refl.foldl fun h => h.openTile
      · exact .ite .pure (.bind .preloadWords fun _ => .mMod fun _ => Keeps.refl.openTile)

theorem Keeps.podHandOut {q} (h : Keeps s t) : Keeps s (podHandOut q t) := by
  unfold Machine.podHandOut
  split
  · exact h.handOut.refill
  · exact h

theorem Keeps.openWaiting {p t'} (h : Keeps s t) : Keeps s (openWaiting p t' t) := by
  unfold Machine.openWaiting
  split
  · exact h
  · refine .ite h ?_
    split
    · exact h.handOut.refill
    · exact h

theorem Keeps.podSteal {q} (h : Keeps s t) : Keeps s (podSteal q t) := by
  unfold Machine.podSteal
  refine .ite h ?_
  split
  · exact h.handOut.count.refill
  · exact h

theorem Keeps.takeSum {p t' x} (h : Keeps s t) : Keeps s (takeSum p t' x t) := h.countAcc.preloadFaults.setTile

theorem Keeps.readTile {p t'} (h : Keeps s t) : Keeps s (readTile p t' t).1 := by
  unfold Machine.readTile
  exact .iteFst ((h.foldl fun h => h.readFault).foldl fun h => h.stopOp).discardTile (h.foldl fun h => h.readFault)

theorem KeepsM.productsInto {p t' mode g oa ob la lb k0 k1} : KeepsM (productsInto p t' mode g oa ob la lb k0 k1) :=
  .bind .loadLanes fun _ => .bind .loadLanes fun _ => .mMod fun _ => Keeps.refl.countIn.timer.takeSum

theorem KeepsM.itemProducts {p t' b l i} : KeepsM (itemProducts p t' b l i) :=
  .bind .checkBlocksRead fun _ => .productsInto

theorem Keeps.closeTile {p t'} (h : Keeps s t) : Keeps s (closeTile p t' t) := .ite h.setTile h.setTile.modClove

theorem Keeps.added {p t' r b i} (h : Keeps s t) : Keeps s (added p t' r b i t) :=
  .ite h.setTile.closeTile h.setTile.finishPart

theorem Keeps.addItem {p k t' r b i} (h : Keeps s t) : Keeps s (addItem p k t' r b i t) :=
  .ite h.readTile (h.readTile.runItem (.bind .itemProducts fun _ => .mMod fun _ => Keeps.refl.freeContext.added))

theorem KeepsM.dxProducts {p tl b l i t' o0 o1} : KeepsM (dxProducts p tl b l i t' o0 o1) :=
  .forM fun _ => .bind .checkBlocksRead fun _ => .productsInto

theorem KeepsM.dwProducts {p tl b l i t' o} : KeepsM (dwProducts p tl b l i t' o) := .productsInto

theorem KeepsM.dwStep {p b r i n} : KeepsM (dwStep p b r i n) :=
  .forM fun o => .bindGet fun s => by
    dsimp only
    cases itemTile s p r i (.dw o) with
    | none => exact .refl
    | some k => exact (KeepsM.ite .dwProducts .pure).run (Keeps.refl.readTile (t' := k))

theorem Keeps.closeDw {p r b i} (h : Keeps s t) : Keeps s (closeDw p r b i t) := by
  unfold Machine.closeDw
  refine h.foldl fun h => ?_
  split
  · exact h.closeTile
  · exact h

theorem Keeps.bwdStep {p k r b c} (h : Keeps s t) : Keeps s (bwdStep p k r b c t) := by
  unfold Machine.bwdStep
  dsimp only
  refine .ite
      (.ite h (.freeContext (.closeDw h)))
      (.ite
         (.runItem
            h
            (.bind .dwStep fun _ =>
             .mMod fun _ =>
               .ite
                 (.ite Keeps.refl (.setCtx Keeps.refl))
                 (.freeContext (.closeDw (.ite Keeps.refl (.setCtx Keeps.refl))))))
         ?_)
  split
  · exact h
  · exact .andThen (.ite (.openTile h) h) fun h1 =>
        .ite
          (.setCtx h1)
          (.ite
             (.readTile h1)
             (.runItem
                (.readTile h1)
                (.bind .dxProducts fun _ =>
                 .bind (.mMod fun _ => .added (.ite Keeps.refl (.setCtx Keeps.refl))) fun _ =>
                 .bind .dwStep fun _ =>
                 .mMod fun _ =>
                   .ite
                     (.ite Keeps.refl (.setCtx Keeps.refl))
                     (.freeContext (.closeDw (.ite Keeps.refl (.setCtx Keeps.refl)))))))

theorem Keeps.completeMatmulItem {p k r b c} (h : Keeps s t) : Keeps s (completeMatmulItem p k r b c t) := by
  unfold Machine.completeMatmulItem
  refine .ite h.bwdStep ?_
  split
  · exact h
  · exact .ite h.setCtx h.addItem

theorem Keeps.memberAdds {p t'} (h : Keeps s t) : Keeps s (memberAdds p t' t) := by
  unfold Machine.memberAdds
  split
  · exact h.completeMatmulItem
  · exact h

theorem Keeps.combineStep {p t'} (h : Keeps s t) : Keeps s (combineStep p t' t) := by
  unfold Machine.combineStep
  split
  · exact h
  · exact .ite
        h.readTile
        (.ite
           h.readTile.readTile
           (.ite
              h.readTile.readTile.countAcc.discardTile.preloadFaults.setTile.modClove
              h.readTile.readTile.countAcc.discardTile.preloadFaults.setTile))

theorem Keeps.takeStolen {p t'} (h : Keeps s t) : Keeps s (takeStolen p t' t) := by
  unfold Machine.takeStolen
  refine .ite h ?_
  split
  · exact .ite h.readTile h.readTile.discardTile.preloadFaults.setTile
  · exact h

/-! ### The operations of Machine/Drain.lean -/

theorem KeepsM.drainValues {p b y e br bc saved} : KeepsM (drainValues p b y e br bc saved) :=
  .bind .mGet fun _ => .bind .mVM fun _ => .pure

theorem KeepsM.savedWords {p r b y br bc} : KeepsM (savedWords p r b y br bc) :=
  .ite .pure (.bind .readVals fun _ => .bind .mVM fun _ => .pure)

theorem KeepsM.drainRandom {p r b y e br bc} : KeepsM (drainRandom p r b y e br bc) :=
  .bindGet fun s => by
    split
    · exact .refl
    · split
      · exact .refl
      · exact Keeps.refl.drawCycle

theorem KeepsM.drainOnce {p r b y late} : KeepsM (drainOnce p r b y late) :=
  .ite
    (.bind .drainInto fun _ =>
     .bind .savedWords fun _ =>
     .bind .drainValues fun _ =>
     .bind .drainRandom fun _ => .bind .writeBlock fun _ => .ite (.bind .writeCodes fun _ => .pure) .pure)
    (.bind .savedWords fun _ =>
     .bind .drainValues fun _ =>
     .bind .drainRandom fun _ => .bind .writeBlock fun _ => .ite (.bind .writeCodes fun _ => .pure) .pure)

theorem Keeps.startDrain {p} (h : Keeps s t) : Keeps s (startDrain p t) := by
  unfold Machine.startDrain
  dsimp only
  split
  · split
    · exact h
    · exact .ite h.readTile (h.readTile.runItem (.bind .drainOnce fun _ => .mMod fun _ => Keeps.refl.modClove))
  · exact h

theorem Keeps.endDrain {p d r y} (h : Keeps s t) : Keeps s (endDrain p d r y t) := by
  unfold Machine.endDrain
  refine .andThen (.addFlags ?_) fun h3 => .refill (.finishPart (.ite (.guardFlag h3) h3))
  split
  · exact .ite (.discardTile h) (.mergePartial (.bindSlot (.discardTile h)))
  · exact .discardTile h

theorem Keeps.raiseMiss {p t' slot under_} (h : Keeps s t) : Keeps s (raiseMiss p t' slot under_ t) :=
  .ite h h.setSlotStat.raiseEv

theorem Keeps.passEnd {p} (h : Keeps s t) : Keeps s (passEnd p t) := by
  unfold Machine.passEnd
  dsimp only
  split
  · exact h
  · refine .ite h ?_
    split
    · exact h
    · exact .ite (.modClove (.ite h.raiseMiss h)) (.endDrain (.ite h.raiseMiss h))

theorem Keeps.redrain {p} (h : Keeps s t) : Keeps s (redrain p t) := by
  unfold Machine.redrain
  dsimp only
  split
  · exact h
  · refine .ite h ?_
    split
    · exact h
    · exact .ite h.readTile (h.readTile.runItem (.bind .drainOnce fun _ => .mMod fun _ => Keeps.refl.endDrain))

/-! ### The operations of Machine/Vecop.lean -/

theorem KeepsM.checkVopFields {b} : KeepsM (checkVopFields b) :=
  .bind .mGuard fun _ =>
  .bind .mGuard fun _ =>
  .ite
    (.bind .checkFn fun _ => .bind .mGuard fun _ => .bind .mGuard fun _ => .mGuard)
    (.bind .mGuard fun _ => .mGuard)

theorem KeepsM.checkVopIn {h' b n} : KeepsM (checkVopIn h' b n) :=
  .bind .mGuard fun _ => .bind .needTE fun _ => .bind .checkIn fun _ => .bind .checkFile fun _ => .pure

theorem KeepsM.checkVopOut {h' b n rows cols} : KeepsM (checkVopOut h' b n rows cols) :=
  .bind .mGuard fun _ =>
  .bind .needTE fun _ =>
  .bind .checkOut fun _ =>
  .bind .checkShape fun _ => .bind .mGuard fun _ => .bind .mGuard fun _ => .bind .mGuard fun _ => .pure

theorem KeepsM.checkVopSlot {h' b outs} : KeepsM (checkVopSlot h' b outs) := .bind .mGet fun _ => .mGuard

theorem KeepsM.dispatchVecop {i seq h' b} : KeepsM (dispatchVecop i seq h' b) :=
  .bind .checkVopFields fun _ =>
  .bind (.mapM fun _ => .checkVopIn) fun _ =>
  .bind .mGuard fun _ =>
  .bind .mGuard fun _ =>
  .bind (.forM fun _ => .checkShape) fun _ =>
  .bind (.mapM fun _ => .checkVopOut) fun _ =>
  .bind .mGuard fun _ =>
  .bind .checkVopSlot fun _ => .mMod fun _ => .startItems (.ite Keeps.refl.bindSlot Keeps.refl)

theorem Keeps.noteResults {i r b p l} (h : Keeps s t) : Keeps s (noteResults i r b p l t) :=
  .addFlags (.ite h.mergePartial h.countConv)

theorem KeepsM.countInto {r b fmt} : KeepsM (countInto r b fmt) := .ite .drainInto .pure

theorem KeepsM.itemCycle {b} : KeepsM (itemCycle b) :=
  .bindGet fun s => by
    split
    · exact Keeps.refl.drawCycle
    · exact .refl

theorem KeepsM.writeBlockRows {p e br bc rows} : KeepsM (writeBlockRows p e br bc rows) :=
  .bind .writeBlock fun _ => .ite .mWrite .pure

theorem KeepsM.vecBlock {i p r b n} : KeepsM (vecBlock i p r b n) :=
  .bind (.mapM fun _ => .readVals) fun _ =>
  .bind .itemCycle fun _ =>
  .bind .mGet fun _ =>
  .bind .mVM fun _ =>
  .forM fun _ => .bind .countInto fun _ => .bind (.mMod fun _ => Keeps.refl.noteResults) fun _ => .writeBlockRows

theorem KeepsM.writeResultRow {req e row codes groups} : KeepsM (writeResultRow req e row codes groups) :=
  .bind .writeRow fun _ =>
  .bind (.ite .pure (.forM fun _ => .mWrite)) fun _ =>
  .ite (.forM fun _ => .bind .writeRow fun _ => .ite .pure (.forM fun _ => .mWrite)) .pure

theorem KeepsM.putValues {i p r b e n vals} : KeepsM (putValues i p r b e n vals) :=
  .bind .countInto fun _ => .bind (.mMod fun _ => Keeps.refl.noteResults) fun _ => .writeResultRow

theorem KeepsM.vecRow {i p r b n} : KeepsM (vecRow i p r b n) :=
  .bind (.mapM fun _ => .bind .readRowVals fun _ => .mVM) fun _ =>
  .ite
    (.bind .mVM fun _ => .bind .putValues fun _ => .writeResultRow)
    (.ite
       (.bind .itemCycle fun _ =>
        .bind .mGet fun _ =>
        .bind .mVM fun _ =>
        .ite (.bind (.mMod fun _ => Keeps.refl.addFlags) fun _ => .writeResultRow) .writeResultRow)
       (.bind .mVM fun _ => .putValues))

theorem Keeps.completeVecItem {p k r b c} (h : Keeps s t) : Keeps s (completeVecItem p k r b c t) :=
  h.runItem
    (.ite
       (.bind .vecRow fun _ => .mMod fun _ => Keeps.refl.freeContext.finishPart.refill)
       (.bind .vecBlock fun _ => .mMod fun _ => Keeps.refl.freeContext.finishPart.refill))

/-! ### The operations of Machine/Scan.lean -/

theorem KeepsM.readCarry {p a n} : KeepsM (readCarry p a n) := .bind .mRead fun _ => .pure

theorem KeepsM.checkScanIn {h' n} : KeepsM (checkScanIn h' n) :=
  .bind .needTE fun _ => .bind .mGuard fun _ => .bind .checkIn fun _ => .bind .mGuard fun _ => .pure

theorem KeepsM.checkFold {h' b} : KeepsM (checkFold h' b) :=
  .bind .mGuard fun _ =>
  .bind .mGet fun _ =>
  .bind .checkRange fun _ =>
  .bind .mRead fun _ =>
  .bind .checkRange fun _ =>
  .bind .checkRange fun _ =>
  .ite
    (.bind .checkRange fun _ => .bind (.mapM fun _ => .bind .mRead fun _ => .pure) fun _ => .mGuard)
    (.bind (.mapM fun _ => .bind .mRead fun _ => .pure) fun _ => .mGuard)

theorem KeepsM.dispatchScan {i seq h' b} : KeepsM (dispatchScan i seq h' b) :=
  .bind .mGuard fun _ =>
  .bind .mGuard fun _ =>
  .ite
    (.bind .checkFold fun _ => .mMod fun _ => Keeps.refl.startItems)
    (.bind .checkScanIn fun _ =>
     .bind .checkScanIn fun _ =>
     .bind .checkShape fun _ =>
     .bind .mGuard fun _ =>
     .bind .mGuard fun _ =>
     .bind .checkRange fun _ =>
     .ite
       (.bind .needTE fun _ =>
        .bind .mGuard fun _ =>
        .bind .checkOut fun _ =>
        .bind .checkShape fun _ =>
        .bind .pure fun _ =>
        .ite
          (.bind .checkRange fun _ =>
           .bind .mGet fun _ => .bind .mRead fun _ => .bind .mGuard fun _ => .mMod fun _ => Keeps.refl.startItems)
          (.mMod fun _ => Keeps.refl.startItems))
       (.bind .pure fun _ =>
        .ite
          (.bind .checkRange fun _ =>
           .bind .mGet fun _ => .bind .mRead fun _ => .bind .mGuard fun _ => .mMod fun _ => Keeps.refl.startItems)
          (.mMod fun _ => Keeps.refl.startItems)))

theorem KeepsM.stepGates {p b e cin t'} : KeepsM (stepGates p b e cin t') := by
  unfold Machine.stepGates
  refine .ite (.bind .readRowVals fun _ => .mVM) ?_
  split
  · exact .pure
  · exact .pure

theorem KeepsM.scanChunk {i p r b} : KeepsM (scanChunk i p r b) :=
  .ite
    (.bind .readCarry fun _ =>
     .bind .pure fun _ =>
     .bind
         (.foldlM fun _ _ =>
            .bind .stepGates fun _ =>
            .bind .readRowVals fun _ =>
            .bind .mVM fun _ =>
            .ite (.bind (.mMod fun _ => Keeps.refl.countConv) fun _ => .bind .writeRun fun _ => .pure) .pure) fun _ =>
     .bind .mWrite fun _ => .mMod fun _ => Keeps.refl.addFlags)
    (.bind .pure fun _ =>
     .bind
         (.foldlM fun _ _ =>
            .bind .stepGates fun _ =>
            .bind .readRowVals fun _ =>
            .bind .mVM fun _ =>
            .ite (.bind (.mMod fun _ => Keeps.refl.countConv) fun _ => .bind .writeRun fun _ => .pure) .pure) fun _ =>
     .bind .mWrite fun _ => .mMod fun _ => Keeps.refl.addFlags)

theorem KeepsM.scanFold {i p r b} : KeepsM (scanFold i p r b) :=
  .bind .mRead fun _ =>
  .ite
    (.bind .readCarry fun _ =>
     .bind .pure fun _ =>
     .bind (.foldlM fun _ _ => .bind .readCarry fun _ => .bind .mWrite fun _ => .bind .mVM fun _ => .pure) fun _ =>
     .mMod fun _ => Keeps.refl.addFlags)
    (.bind .pure fun _ =>
     .bind (.foldlM fun _ _ => .bind .readCarry fun _ => .bind .mWrite fun _ => .bind .mVM fun _ => .pure) fun _ =>
     .mMod fun _ => Keeps.refl.addFlags)

theorem Keeps.completeScanItem {p k r b c} (h : Keeps s t) : Keeps s (completeScanItem p k r b c t) :=
  h.runItem
    (.ite
       (.bind .scanFold fun _ => .mMod fun _ => Keeps.refl.freeContext.finishPart.refill)
       (.bind .scanChunk fun _ => .mMod fun _ => Keeps.refl.freeContext.finishPart.refill))

theorem Keeps.completeItem {p k} (h : Keeps s t) : Keeps s (completeItem p k t) := by
  unfold Machine.completeItem
  refine .ite h ?_
  split
  · exact h
  · split
    · exact h.completeMatmulItem
    · exact h.completeVecItem
    · exact h.completeScanItem
    · exact h

/-! ### The operations of Machine/Moves.lean -/

theorem KeepsM.mReq : KeepsM mReq := .bind .mGet fun _ => .pure

theorem KeepsM.checkEnd {host a n off} : KeepsM (checkEnd host a n off) := .ite .pure .checkRange

theorem KeepsM.readSrc {i b n} : KeepsM (readSrc i b n) :=
  .bind .checkEnd fun _ => .ite .mHost (.bind .mReq fun _ => .mRead)

theorem KeepsM.writeDst {b bs} : KeepsM (writeDst b bs) :=
  .ite (.mMod fun _ => Keeps.refl.hostWrite) (.bind .mReq fun _ => .mWrite)

theorem Keeps.loadStore {store first n bs p} (h : Keeps s t) : Keeps s (loadStore store first n bs p t) := by
  unfold Machine.loadStore
  split
  · exact h.modClove
  · exact h.modClove
  · exact h.modClove.countIn
  · exact h.modClove

theorem Keeps.loadStores {g store first n src bs} (h : Keeps s t) : Keeps s (loadStores g store first n src bs t) :=
  (h.foldl fun h => h.loadStore.modClove).foldl fun h => h.modClove

theorem KeepsM.moveStore {i h' kind b} : KeepsM (moveStore i h' kind b) :=
  .bind .mGuard fun _ => .bind .mGuard fun _ => .bind .readSrc fun _ => .mMod fun _ => Keeps.refl.loadStores

theorem KeepsM.moveSpline {i h' b} : KeepsM (moveSpline i h' b) :=
  .bind .mGuard fun _ =>
  .bind .mGuard fun _ => .bind .readSrc fun _ => .bind .mGuard fun _ => .mMod fun _ => Keeps.refl.loadStores

theorem KeepsM.moveGroup {i b} : KeepsM (moveGroup i b) :=
  .bind .mGuard fun _ => .bind .readSrc fun _ => .mMod fun _ => Keeps.refl.writeTable.modComp

theorem KeepsM.readWRec {w off} : KeepsM (readWRec w off) :=
  .bind .mGet fun _ =>
  .bind .mGuard fun _ => .bind .mReq fun _ => .bind .mRead fun _ => .bind .mGuard fun _ => .pure

theorem KeepsM.moveWeight {b} : KeepsM (moveWeight b) :=
  .bind .mGuard fun _ =>
  .bind .mGuard fun _ =>
  .bind .mReq fun _ => .bind .mRead fun _ => .bind .mGuard fun _ => .mMod fun _ => Keeps.refl.writeTable.setWeight

theorem KeepsM.moveStatSlot {b} : KeepsM (moveStatSlot b) :=
  .bind .mGuard fun _ => .mMod fun _ => Keeps.refl.setSlotStat

theorem KeepsM.moveSeed {i h' b} : KeepsM (moveSeed i h' b) :=
  .bind .readSrc fun _ => .mMod fun _ => (Keeps.refl.foldl fun h => h.modClove).foldl fun h => h.raiseEv

theorem KeepsM.snapBlock {src dst br bc req} : KeepsM (snapBlock src dst br bc req) :=
  .bind .readBlock fun _ => .ite (.bind .writeBlock fun _ => .writeCodes) .writeBlock

theorem KeepsM.moveSnapshot {b} : KeepsM (moveSnapshot b) :=
  .bind .mGuard fun _ =>
  .bind .readWRec fun _ =>
  .bind .mGuard fun _ =>
  .bind .mGuard fun _ =>
  .bind .mGuard fun _ =>
  .bind .checkRange fun _ =>
  .bind .checkRange fun _ =>
  .ite
    (.bind .checkRange fun _ =>
     .bind .mGet fun _ => .bind .mReq fun _ => .bind (.forM fun _ => .forM fun _ => .snapBlock) fun _ => .mWrite)
    (.bind .mGet fun _ => .bind .mReq fun _ => .bind (.forM fun _ => .forM fun _ => .snapBlock) fun _ => .mWrite)

theorem KeepsM.moveDeliver {i b} : KeepsM (moveDeliver i b) :=
  .bind .checkEnd fun _ =>
  .bind .checkEnd fun _ =>
  .bind .readSrc fun _ =>
  .bind .mGet fun _ =>
  .bind .writeDst fun _ => .bind (.mMod fun _ => .ite Keeps.refl.count Keeps.refl) fun _ => .pure

theorem KeepsM.moveCopy {i b} : KeepsM (moveCopy i b) :=
  .bind .checkEnd fun _ => .bind .checkEnd fun _ => .bind .readSrc fun _ => .writeDst

theorem KeepsM.dispatchMove {i seq h' kind b} : KeepsM (dispatchMove i seq h' kind b) := by
  unfold Machine.dispatchMove
  split
  · exact .bind .moveCopy fun _ => .bind .pure fun _ => .mMod fun _ => Keeps.refl.complete
  · exact .bind .moveStore fun _ => .bind .pure fun _ => .mMod fun _ => Keeps.refl.complete
  · exact .bind .moveStore fun _ => .bind .pure fun _ => .mMod fun _ => Keeps.refl.complete
  · exact .bind .moveStore fun _ => .bind .pure fun _ => .mMod fun _ => Keeps.refl.complete
  · exact .bind .moveSpline fun _ => .bind .pure fun _ => .mMod fun _ => Keeps.refl.complete
  · exact .bind .moveGroup fun _ => .bind .pure fun _ => .mMod fun _ => Keeps.refl.complete
  · exact .bind .moveWeight fun _ => .bind .pure fun _ => .mMod fun _ => Keeps.refl.complete
  · exact .bind .moveStatSlot fun _ => .bind .pure fun _ => .mMod fun _ => Keeps.refl.complete
  · exact .bind .moveSnapshot fun _ => .bind .pure fun _ => .mMod fun _ => Keeps.refl.complete
  · exact .bind .moveSeed fun _ => .bind .pure fun _ => .mMod fun _ => Keeps.refl.complete
  · exact .bind (.mMod fun _ => Keeps.refl.modStream) fun _ =>
      .bind .pure fun _ => .mMod fun _ => Keeps.refl.complete
  · exact .bind .moveDeliver fun _ => .mMod fun _ => Keeps.refl.complete
  · exact .bind .mFail fun _ => .mMod fun _ => Keeps.refl.complete

theorem Keeps.stageSlot {slot prop} (h : Keeps s t) : Keeps s (stageSlot slot prop t) := by
  unfold Machine.stageSlot
  exact h.setSlotStat.modComp

theorem KeepsM.dispatchScaleCommit {i seq b} : KeepsM (dispatchScaleCommit i seq b) :=
  .bind .mGuard fun _ =>
  .bind .mGuard fun _ =>
  .bind .mGet fun _ =>
  .bind .mReq fun _ => .bind .mWrite fun _ => .mMod fun _ => (Keeps.refl.same.foldl fun h => h.stageSlot).completeOK

theorem KeepsM.dispatchEvent {i seq b} : KeepsM (dispatchEvent i seq b) :=
  .bind .mGuard fun _ =>
  .ite
    (.bind .checkEnd fun _ =>
     .ite
       (.bind (.mMod fun _ => Keeps.refl.hostWrite) fun _ =>
        .mMod fun _ => .completeOK (.ite Keeps.refl.requestVector Keeps.refl))
       (.bind .mReq fun _ =>
        .bind .mWrite fun _ => .mMod fun _ => .completeOK (.ite Keeps.refl.requestVector Keeps.refl)))
    (.mMod fun _ => .completeOK (.ite Keeps.refl.requestVector Keeps.refl))

/-! ### The operations of Machine/Stash.lean -/

theorem Keeps.dropEntry {p k} (h : Keeps s t) : Keeps s (dropEntry p k t) := h.modClove.count

theorem KeepsM.codeBlock {p e file br bc} : KeepsM (codeBlock p e file br bc) :=
  .bind .readVals fun _ => .bind (.mMod fun _ => Keeps.refl.countIn.count.count) fun _ => .pure

theorem KeepsM.writePages {req l b} : KeepsM (writePages req l b) := by
  induction l generalizing b with
  | nil => exact .pure
  | cons a l ih => exact .bind .mWrite fun _ => ih

theorem KeepsM.writeEntry {p e file x} : KeepsM (writeEntry p e file x) :=
  .bind (.flatMapM fun _ => .mapM fun _ => .codeBlock) fun _ =>
  .bind .mGet fun _ => .bind (.mMod fun _ => Keeps.refl.same) fun _ => .bind .writePages fun _ => .pure

theorem Keeps.finishSave {p i seq b x} (h : Keeps s t) : Keeps s (finishSave p i seq b x t) :=
  h.putEntry.addRef.complete

theorem Keeps.holdSave {p i seq r} (h : Keeps s t) : Keeps s (holdSave p i seq r t) :=
  h.modRec.andThen fun h1 => .ite h1 h1.raiseEv

theorem Keeps.noteSpill {p r} (h : Keeps s t) : Keeps s (noteSpill p r t) :=
  h.count.andThen fun h1 => .ite h1 h1.modComp.raiseEv

theorem KeepsM.placeSave {i seq p r b e} : KeepsM (placeSave i seq p r b e) := by
  unfold Machine.placeSave
  dsimp only
  refine .bind .mGet fun _ => ?_
  split
  · exact .bind (.mMod fun _ => Keeps.refl.foldl fun h => h.dropEntry) fun _ =>
      .bind .writeEntry fun _ => .mMod fun _ => Keeps.refl.finishSave
  · exact .mMod fun _ => Keeps.refl.count.finishSave
  · exact .bind (.mMod fun _ => Keeps.refl.noteSpill) fun _ =>
      .bind .writeEntry fun _ => .mMod fun _ => Keeps.refl.finishSave
  · exact .mMod fun _ => Keeps.refl.holdSave

theorem KeepsM.makeSave {i seq p r b e} : KeepsM (makeSave i seq p r b e) :=
  .ite (.mMod fun _ => .ite Keeps.refl.holdSave Keeps.refl.lostEntry) .placeSave

theorem KeepsM.dispatchStashSave {i seq r b} : KeepsM (dispatchStashSave i seq r b) := by
  unfold Machine.dispatchStashSave
  refine .bind .needTE fun _ =>
    .bind .mGuard fun _ => .bind .checkFields fun _ => .ite ?_ (.bind .checkReach fun _ => ?_)
  · split
    · exact .mFail
    · exact .bind .mGuard fun _ =>
        .bind .checkFile fun _ =>
        .bind .mGuard fun _ =>
        .bind .mGet fun _ => .bind .mGuard fun _ => .bind (.mMod fun _ => Keeps.refl.modRec) fun _ => .makeSave
  · split
    · exact .mFail
    · exact .bind .mGuard fun _ =>
        .bind .checkFile fun _ =>
        .bind .mGuard fun _ =>
        .bind .mGet fun _ => .bind .mGuard fun _ => .bind (.mMod fun _ => Keeps.refl.modRec) fun _ => .makeSave

theorem Keeps.resumeSave {i} (h : Keeps s t) : Keeps s (resumeSave i t) := by
  unfold Machine.resumeSave
  split
  · exact h.runDesc .makeSave
  · exact h

theorem Keeps.releaseEntry {p k} (h : Keeps s t) : Keeps s (releaseEntry p k t) := .ite h h.modClove.dropRef

theorem KeepsM.readEntry {req x} : KeepsM (readEntry req x) := .bind (.mapM fun _ => .mRead) fun _ => .pure

theorem KeepsM.callEntry {n off} : KeepsM (callEntry n off) :=
  .bind .mGet fun _ => .bind .mRead fun _ => .bind .mGuard fun _ => .bind .mGuard fun _ => .pure

theorem Keeps.pushCall {i seq addr n slotEn slot posAdd} (h : Keeps s t) :
    Keeps s (pushCall i seq addr n slotEn slot posAdd t) :=
  h.modStream

theorem KeepsM.loadEntry {x d req} : KeepsM (loadEntry x d req) :=
  .bind .readEntry fun _ => .forM fun _ => .forM fun _ => .bind .writeBlock fun _ => .writeCodes

theorem KeepsM.dispatchStashLoad {i seq h' b} : KeepsM (dispatchStashLoad i seq h' b) :=
  .bind .mGet fun _ =>
  .bind .mGuard fun _ =>
  .ite
    (.bind .mGuard fun _ =>
     .bind .needTE fun _ =>
     .bind .mGuard fun _ =>
     .bind .checkOut fun _ =>
     .bind .checkShape fun _ =>
     .bind .loadEntry fun _ => .mMod fun _ => .completeOK (.ite Keeps.refl.releaseEntry Keeps.refl))
    (.ite (.bind .mGuard fun _ => .bind .callEntry fun _ => .mMod fun _ => Keeps.refl.pushCall) (.ite .mFail .mUE))

/-! ### The operations of Machine/Update.lean -/

theorem KeepsM.readGrads {r g b req} : KeepsM (readGrads r g b req) := by
  unfold Machine.readGrads
  split
  · exact .bind .mRead fun _ => .pure
  · exact .bind .mRead fun _ => .pure

theorem KeepsM.updateBlock {r h' g n version b} : KeepsM (updateBlock r h' g n version b) :=
  .bind .mGet fun _ =>
  .bind .mRead fun _ =>
  .bind .mRead fun _ =>
  .bind .mRead fun _ =>
  .bind .mRead fun _ => .bind .mRead fun _ => .bind .mRead fun _ => .bind .readGrads fun _ => .pure

theorem KeepsM.writeHeld {i seq x} : KeepsM (writeHeld i seq x) :=
  .bind (.forM fun _ => .mWrite) fun _ => .mMod fun _ => Keeps.refl.count.count.count.addFlags

theorem Keeps.writeBlocks {w i seq f} (h : Keeps s t) : Keeps s (writeBlocks w i seq f t) :=
  h.runDesc (.forM fun _ => .writeHeld)

theorem KeepsM.takeUpdate {r b} : KeepsM (takeUpdate r b) :=
  .bind .readWRec fun _ =>
  .bind .mGet fun _ =>
  .bind .mGuard fun _ => .bind .mGuard fun _ => .bind .mGuard fun _ => .mMod fun _ => Keeps.refl.setWeight

theorem Keeps.dispatchUpdate {i seq b} (h : Keeps s t) : Keeps s (dispatchUpdate i seq b t) := by
  unfold Machine.dispatchUpdate
  dsimp only
  split
  · exact .ite h.modRec.setWeight.skipUpdates h.modRec.setWeight
  · exact h.modRec.setWeight

theorem KeepsM.gradSource {w b} : KeepsM (gradSource w b) :=
  .ite
    (.bind .needTE fun _ =>
     .bind .mGuard fun _ => .bind .mGuard fun _ => .bind .checkShape fun _ => .bind .checkRange fun _ => .pure)
    (.bind .checkRange fun _ =>
     .bind .mReq fun _ => .bind .mRead fun _ => .bind .mGuard fun _ => .bind .mGuard fun _ => .pure)

theorem KeepsM.checkArrays {w n} : KeepsM (checkArrays w n) :=
  .bind .mGuard fun _ =>
  .bind (.forM fun _ => .checkRange) fun _ => .bind .checkRange fun _ => .bind .checkRange fun _ => .checkRange

theorem KeepsM.runUpdate {b} : KeepsM (runUpdate b) :=
  .bind .readWRec fun _ =>
  .bind .checkArrays fun _ =>
  .bind .gradSource fun _ =>
  .bind .checkRange fun _ =>
  .bind .mReq fun _ =>
  .bind .mRead fun _ =>
  .bind .mGuard fun _ =>
  .bind .mGet fun _ =>
  .bind (.mMod fun _ => Keeps.refl.setWeight) fun _ =>
  .forM fun _ => .bind .updateBlock fun _ => .mMod fun _ => Keeps.refl.setWeight

theorem Keeps.settleUpdate {w i seq} (h : Keeps s t) : Keeps s (settleUpdate w i seq t) := by
  unfold Machine.settleUpdate
  split
  · exact .ite h.endUpdate h
  · exact h

theorem Keeps.startUpdate {w} (h : Keeps s t) : Keeps s (startUpdate w t) := by
  unfold Machine.startUpdate
  split
  · exact h
  · have hrun {b} := KeepsM.run (KeepsM.runUpdate (b := b)) h
    split
    next e => exact hrun.of_snd e
    next e => exact ((hrun.of_snd e).writeBlocks.runDesc fun _ => .refl).endUpdate

theorem Keeps.finishUpdate {w} (h : Keeps s t) : Keeps s (finishUpdate w t) := by
  unfold Machine.finishUpdate
  split
  · exact .ite (h.writeBlocks.settleUpdate.andThen fun h1 => .ite h1.setWeight.endUpdate.completeOK h1) h
  · exact h

/-! ### The operations of Machine/Reduce.lean -/

theorem Keeps.sendMsg {m} (h : Keeps s t) : Keeps s (sendMsg m t) := h.modLink

theorem KeepsM.readPlanBytes {n off} : KeepsM (readPlanBytes n off) :=
  .bind .mGuard fun _ => .bind .mGet fun _ => .mRead

theorem KeepsM.readPlan {kinds n off} : KeepsM (readPlan kinds n off) :=
  .bind .readPlanBytes fun _ => .bind .mGuard fun _ => .ite .pure (.bind .mGuard fun _ => .pure)

theorem Keeps.countClips {x l} (h : Keeps s t) : Keeps s (countClips x l t) :=
  (h.foldl fun h => h.count).foldl fun h => h.count

theorem Keeps.convertAll {b e} (h : Keeps s t) : Keeps s (convertAll b e t) :=
  h.setBucket.foldl fun h => h.countClips

theorem Keeps.sendDown {b t' c r} (h : Keeps s t) : Keeps s (sendDown b t' c r t) := h.foldl fun h => h.sendMsg

theorem Keeps.writeChunk {b t' k c} (h : Keeps s t) : Keeps s (writeChunk b t' k c t) := by
  unfold Machine.writeChunk
  refine h.foldl fun h => ?_
  split
  · exact h.runDesc .mWrite
  · exact h

theorem Keeps.takeResult {b t' c r} (h : Keeps s t) : Keeps s (takeResult b t' c r t) :=
  h.modBucket.writeChunk.sendDown

theorem Keeps.emitPre {b t'} (h : Keeps s t) : Keeps s (emitPre b t' t) :=
  .ite h.modBucket.modBucket.sendDown h.modBucket.sendMsg

theorem Keeps.emitChunk {b t'} (h : Keeps s t) : Keeps s (emitChunk b t' t) :=
  .ite (h.setBucket.foldl fun h => h.sendMsg).takeResult (h.setBucket.foldl fun h => h.sendMsg).sendMsg

theorem Keeps.pumpTree {b k n} (h : Keeps s t) : Keeps s (pumpTree b k n t) := by
  induction n generalizing t with
  | zero => exact h
  | succ n ih => exact .ite (ih (.ite h.emitPre h.emitChunk)) h

theorem Keeps.pumpTrees {b} (h : Keeps s t) : Keeps s (pumpTrees b t) := h.foldl fun h => h.pumpTree

theorem Keeps.pump {b} (h : Keeps s t) : Keeps s (pump b t) :=
  .ite h (h.pumpTrees.andThen fun h1 => .modBucket (.ite h1.convertAll.pumpTrees h1))

theorem Keeps.learnEntry {b op word t'} (h : Keeps s t) : Keeps s (learnEntry b op word t' t) := by
  unfold Machine.learnEntry
  split
  · exact h.modLink
  · exact h

theorem Keeps.raiseShort {b tile_ cnt expected} (h : Keeps s t) : Keeps s (raiseShort b tile_ cnt expected t) :=
  h.raiseEv

theorem Keeps.releasePool {x} (h : Keeps s t) : Keeps s (releasePool x t) := .ite h h.modLink

theorem Keeps.freeBucket {b} (h : Keeps s t) : Keeps s (freeBucket b t) := h.releasePool.setBucket

theorem Keeps.noteResult {b x t'} (h : Keeps s t) : Keeps s (noteResult b x t' t) :=
  h.learnEntry.andThen fun h1 =>
    .andThen (.ite (h1.foldl fun h => h.setStepFlag) h1) fun h2 => .foldl (.ite h2.raiseShort h2) fun h => h.sendMsg

theorem Keeps.finishReduce {b x t'} (h : Keeps s t) : Keeps s (finishReduce b x t' t) := by
  unfold Machine.finishReduce
  refine h.foldl fun h => ?_
  split
  · exact (h.runDesc .mWrite).completeOK
  · exact h

/-! ### The operations of Machine/Buckets.lean -/

theorem Keeps.joinLocal {b l} (h : Keeps s t) : Keeps s (joinLocal b l t) :=
  .foldl (.setBucket (.foldl (.ite (.countClips h) h) fun h => .count h)) fun h => .modBucket h

theorem Keeps.openBucket {o} (h : Keeps s t) : Keeps s (openBucket o t) := h.setBucket.joinLocal

theorem Keeps.failVote {i seq} (h : Keeps s t) : Keeps s (failVote i seq t) := by
  unfold Machine.failVote
  split
  · exact h.modStep.skipUpdates
  · exact h

theorem Keeps.offer {o} (h : Keeps s t) : Keeps s (offer o t) := by
  unfold Machine.offer
  refine .ite h.openBucket (.ite ?_ h.modLink)
  split
  · exact h.completeErr.failVote
  · exact h.joinLocal

theorem Keeps.reopen {b} (h : Keeps s t) : Keeps s (reopen b t) := h.modLink.foldl fun h => h.offer

theorem KeepsM.readMat {e req} : KeepsM (readMat e req) := .mapM fun _ => .readRow

theorem KeepsM.writeMat {e req a} : KeepsM (writeMat e req a) := .forM fun _ => .forM fun _ => .writeBlock

theorem Keeps.offerLow {x b raw} (h : Keeps s t) : Keeps s (offerLow x b raw t) := by
  unfold Machine.offerLow
  split
  · exact h.offer
  · exact h

theorem KeepsM.startLow {i seq r b p e} : KeepsM (startLow i seq r b p e) :=
  .bind .mGet fun _ =>
  .bind .checkRange fun _ =>
  .bind .mGuard fun _ =>
  .bind (.forM fun _ => .bind .mGuard fun _ => .checkRange) fun _ =>
  .bind .readMat fun _ =>
  .bind .readMat fun _ =>
  .ite
    (.bind .readMat fun _ =>
     .bind (.mMod fun _ => Keeps.refl.countIn) fun _ => .mMod fun _ => Keeps.refl.modLink.offerLow)
    (.bind .pure fun _ =>
     .bind (.mMod fun _ => Keeps.refl.countIn) fun _ => .mMod fun _ => Keeps.refl.modLink.offerLow)

theorem Keeps.dropLow {x} (h : Keeps s t) : Keeps s (dropLow x t) := h.modLink

theorem Keeps.middleLow {x e ws nonfinite} (h : Keeps s t) : Keeps s (middleLow x e ws nonfinite t) :=
  h.runVM.modLink.offerLow

theorem Keeps.endLow {x e ws nonfinite} (h : Keeps s t) : Keeps s (endLow x e ws nonfinite t) :=
  (h.runDesc
    (.bind .writeMat fun _ => .bind .writeMat fun _ => .bind .writeMat fun _ => .mMod
    fun _ => Keeps.refl.modLink)).dropLow.complete

theorem Keeps.settleBucket {n b} (h : Keeps s t) : Keeps s (settleBucket n b t) := by
  induction n generalizing b t with
  | zero => exact h
  | succ n ih =>
    unfold Machine.settleBucket
    dsimp only
    split
    · exact h.pump.noteResult.finishReduce.freeBucket.reopen
    · exact ih (h.pump.noteResult.freeBucket.reopen.foldl fun h => .ite h.middleLow h.endLow)
    · exact h.pump

theorem Keeps.moveBucket {b} (h : Keeps s t) : Keeps s (moveBucket b t) := h.settleBucket

theorem KeepsM.readElements {e req} : KeepsM (readElements e req) :=
  .ite .readRun (.bind (.mapM fun _ => .mRead) fun _ => .pure)

theorem KeepsM.startShadow {i seq r b p raw} : KeepsM (startShadow i seq r b p raw) :=
  .bind .mGet fun _ => .bind .mGuard fun _ => .mMod fun _ => Keeps.refl.count.count.sendMsg.modLink

theorem KeepsM.dispatchReduce {i seq r b} : KeepsM (dispatchReduce i seq r b) :=
  .bind .mGuard fun _ =>
  .bind .mGuard fun _ =>
  .bind .needTE fun _ =>
  .bind .mGuard fun _ =>
  .bind .checkIn fun _ =>
  .bind .readPlan fun _ =>
  .ite
    (.bind .readElements fun _ => .bind (.mMod fun _ => Keeps.refl.modRec) fun _ => .startShadow)
    (.bind .mGuard fun _ =>
     .bind .mGuard fun _ =>
     .bind (.mMod fun _ => Keeps.refl.modRec) fun _ =>
     .ite
       (.bind .checkRange fun _ => .bind .readElements fun _ => .mMod fun _ => Keeps.refl.offer.moveBucket)
       (.bind .startLow fun _ => .mMod fun _ => Keeps.refl.moveBucket))

theorem Keeps.takeCopy {c} (h : Keeps s t) : Keeps s (takeCopy c t) := .ite h.setBucket h.setBucket.count

theorem Keeps.failBucket {b f} (h : Keeps s t) : Keeps s (failBucket b f t) :=
  (h.foldl fun h => (h.runDesc fun _ => Keeps.refl).same.failVote).freeBucket.reopen

theorem Keeps.armWith {b p} (h : Keeps s t) : Keeps s (armWith b p t) :=
  ((h.modLink.setBucket.foldl fun h => h.foldl fun h => h.sendMsg).foldl fun h => h.takeCopy).moveBucket

theorem Keeps.armBucket {b} (h : Keeps s t) : Keeps s (armBucket b t) := by
  unfold Machine.armBucket
  refine .ite h ?_
  have hread {ks n o} := KeepsM.run (KeepsM.readPlan (kinds := ks) (n := n) (off := o)) h
  split
  next e => exact (hread.of_snd e).failBucket
  next e =>
    refine (hread.of_snd e).andThen fun h => .ite h (.ite h.armWith (.armWith ?_))
    split
    · exact h.setBucket.convertAll
    · exact h.setBucket

theorem Keeps.takeGrant {p b t' n} (h : Keeps s t) : Keeps s (takeGrant p b t' n t) :=
  .ite (.ite h.modBucket.moveBucket h) (.ite h.modLink h)

theorem Keeps.lateChunk {p b t' c} (h : Keeps s t) : Keeps s (lateChunk p b t' c t) := .ite h h.setBucket.count

theorem Keeps.takeUp {p b t' ws i} (h : Keeps s t) : Keeps s (takeUp p b t' ws i t) := by
  unfold Machine.takeUp
  refine .ite h ?_
  split
  · exact h
  · exact .ite h.lateChunk (.ite h.setBucket.moveBucket (.ite h h.setBucket.moveBucket))

theorem Keeps.takeDown {p b t' ws r} (h : Keeps s t) : Keeps s (takeDown p b t' ws r t) :=
  .ite h (.ite h.setBucket.sendDown.moveBucket (.ite h h.takeResult.moveBucket))

theorem Keeps.fireTree {b t'} (h : Keeps s t) : Keeps s (fireTree b t' t) := h.setBucket.moveBucket

theorem Keeps.receiveCopy {c} (h : Keeps s t) : Keeps s (receiveCopy c t) :=
  .ite (.ite h.count h.modLink) h.takeCopy

theorem Keeps.expireCopy {b n} (h : Keeps s t) : Keeps s (expireCopy b n t) := .ite h.modLink.count h

theorem Keeps.shadowTrailer {b t'} (h : Keeps s t) : Keeps s (shadowTrailer b t' t) := by
  unfold Machine.shadowTrailer
  split
  · exact h
  · refine .completeOK ?_
    split
    · exact .ite h.learnEntry.modLink.setStepFlag h.learnEntry.modLink
    · exact h.learnEntry.modLink

theorem Keeps.writeLnkBkt {v} (h : Keeps s t) : Keeps s (writeLnkBkt v t) :=
  .ite
    (.ite h.setReg4.modLink h.setReg4)
    (.ite (.modLink (.ite h.setReg4.modLink h.setReg4)) (.modLink (.ite h.setReg4.modLink h.setReg4)))

theorem Keeps.cancelBucket {b} (h : Keeps s t) : Keeps s (cancelBucket b t) :=
  .ite
    (h.foldl fun h => h.complete.same.failVote).modLink
    (h.foldl fun h => h.complete.same.failVote).modLink.freeBucket.reopen

/-! ### The operations of Machine/StepGuard.lean -/

theorem Keeps.modCommit {no f} (h : Keeps s t) : Keeps s (modCommit no f t) := h.modStep

theorem KeepsM.dispatchStepCommit {i seq r b} : KeepsM (dispatchStepCommit i seq r b) := by
  unfold Machine.dispatchStepCommit
  refine .bind .readPlan fun _ => .mMod fun _ => .moveBucket (.offer ?_)
  split
  · exact Keeps.refl.modRec.modCommit
  · exact Keeps.refl.modRec

theorem Keeps.runStepCommit {i seq r b} (h : Keeps s t) : Keeps s (runStepCommit i seq r b t) := by
  unfold Machine.runStepCommit
  dsimp only
  split
  · exact .ite (h.runDesc .dispatchStepCommit).failVote (h.runDesc .dispatchStepCommit)
  · exact h.runDesc .dispatchStepCommit

theorem Keeps.commitCodes (h : Keeps s t) : Keeps s (commitCodes t) := h.modComp

theorem Keeps.clearStaged (h : Keeps s t) : Keeps s (clearStaged t) := h.modComp

theorem Keeps.flipPlan {n} (h : Keeps s t) : Keeps s (flipPlan n t) := h.writeMem

theorem Keeps.noteOutcome {c skip} (h : Keeps s t) : Keeps s (noteOutcome c skip t) := h.modStep.count

theorem Keeps.clearFlag {tag} (h : Keeps s t) : Keeps s (clearFlag tag t) := h.modStep

theorem Keeps.applyCommit {c} (h : Keeps s t) : Keeps s (applyCommit c t) :=
  (h.commitCodes.foldl fun h => h.flipPlan).modLink.modCommit.clearFlag.noteOutcome.completeOK

theorem Keeps.endSequences {tag} (h : Keeps s t) : Keeps s (endSequences tag t) := h.modHost

theorem Keeps.applySkip {c first} (h : Keeps s t) : Keeps s (applySkip c first t) :=
  have hreleased := h.foldl fun h => h.releaseEntry
  have hskipped := hreleased.discardTiles.tidyCloves.endSequences.clearStaged.modLink.modCommit.skipUpdates
  hskipped.clearFlag.noteOutcome.raiseEv.complete

theorem Keeps.voteResult {b nonfinite short first} (h : Keeps s t) :
    Keeps s (voteResult b nonfinite short first t) := by
  unfold Machine.voteResult
  split
  · exact h
  · exact .ite
        h
        (.ite
           h.same.noteResult.freeBucket.reopen.modCommit.applySkip
           (.ite
              h.same.noteResult.freeBucket.reopen.modCommit
              h.same.noteResult.freeBucket.reopen.modCommit.applyCommit))

/-! ### The operations of Machine/Experts.lean -/

theorem KeepsM.readDispPlan {n off} : KeepsM (readDispPlan n off) :=
  .bind .readPlanBytes fun _ => .bind .mGuard fun _ => .bind .mGuard fun _ => .pure

theorem KeepsM.rowScales {e r req} : KeepsM (rowScales e r req) :=
  .bind (.mapM fun _ => .readCodes) fun _ => .ite .pure .pure

theorem KeepsM.readWire {e r req} : KeepsM (readWire e r req) :=
  .bind .readRow fun _ => .ite (.bind .rowScales fun _ => .pure) (.bind .pure fun _ => .pure)

theorem KeepsM.writeWire {e r req b} : KeepsM (writeWire e r req b) :=
  .ite
    (.bind .writeRow fun _ =>
     .ite (.bind (.forM fun _ => .writeRow) fun _ => .forM fun _ => .mWrite) (.forM fun _ => .mWrite))
    .writeResultRow

theorem Keeps.modOp {i seq f} (h : Keeps s t) : Keeps s (modOp i seq f t) := h.modLink

theorem Keeps.stopEngine {i seq f} (h : Keeps s t) : Keeps s (stopEngine i seq f t) :=
  h.modLink.runDesc fun _ => Keeps.refl

theorem Keeps.runEngine {i seq} {w : MM Unit} (h : Keeps s t) (hw : KeepsM w) : Keeps s (runEngine i seq w t) := by
  unfold Machine.runEngine
  split
  next e => exact (hw.run h).of_snd e
  next e => exact ((hw.run h).of_snd e).stopEngine

theorem KeepsM.outputVals {p e b} : KeepsM (outputVals p e b) := .bind .mGet fun _ => .mVM

theorem KeepsM.combineRow {o row} : KeepsM (combineRow o row) :=
  .bind .mGet fun _ =>
  .bind .readRowVals fun _ =>
  .bind (.foldlM fun _ _ => .bind .outputVals fun _ => .bind .mVM fun _ => .pure) fun _ =>
  .bind (.mMod fun _ => Keeps.refl.countConv) fun _ => .writeResultRow

theorem KeepsM.combineHeld {o k} : KeepsM (combineHeld o k) := by
  unfold Machine.combineHeld
  refine .bind .mGet fun _ => ?_
  split
  · exact .bind .outputVals fun _ =>
      .bind .pure fun _ => .bind (.mMod fun _ => Keeps.refl.countConv) fun _ => .mWrite
  · exact .bind .pure fun _ => .bind (.mMod fun _ => Keeps.refl.countConv) fun _ => .mWrite

theorem Keeps.finishCombine {o} (h : Keeps s t) : Keeps s (finishCombine o t) :=
  .ite
    h
    (h.runEngine
       (.bind (.forM fun _ => .combineRow) fun _ =>
        .bind (.forM fun _ => .combineHeld) fun _ => .mMod fun _ => Keeps.refl.modLink.completeOK))

theorem Keeps.finishCombines (h : Keeps s t) : Keeps s (finishCombines t) := h.foldl fun h => h.finishCombine

theorem Keeps.refuseChoice {r} (h : Keeps s t) : Keeps s (refuseChoice r t) := h.modLink.count

theorem Keeps.takeOutput {r row} (h : Keeps s t) : Keeps s (takeOutput r row t) := by
  unfold Machine.takeOutput
  refine .ite h.refuseChoice.finishCombines ?_
  split
  · exact h.modLink.finishCombines
  · exact h.modLink

theorem Keeps.sendOutput {r row} (h : Keeps s t) : Keeps s (sendOutput r row t) := .ite h.takeOutput h.sendMsg

theorem KeepsM.writeSlot {o n} : KeepsM (writeSlot o n) :=
  .bind .mGet fun _ =>
  .bind .needTE fun _ =>
  .bind (.forM fun _ => .writeWire) fun _ =>
  .bind (.forM fun _ => .writeWire) fun _ => .mMod fun _ => Keeps.refl.modLink

theorem Keeps.finishDispatch {o} (h : Keeps s t) : Keeps s (finishDispatch o t) :=
  h.runEngine
    (.bind .mGet fun _ => .bind (.forM fun _ => .writeSlot) fun _ => .mMod fun _ => Keeps.refl.modLink.completeOK)

theorem Keeps.dropUnhomed {o} (h : Keeps s t) : Keeps s (dropUnhomed o t).2 :=
  h.foldlSnd fun h => .iteSnd h.count (.iteSnd h.count h)

theorem Keeps.startRound {i seq} (h : Keeps s t) : Keeps s (startRound i seq t) := by
  unfold Machine.startRound
  split
  · exact h.dropUnhomed.modOp.runEngine (.bind .readPlan fun _ => .mMod fun _ => Keeps.refl.offer.moveBucket)
  · exact h

theorem Keeps.moveChoice {x c} (h : Keeps s x.2) : Keeps s (moveChoice c x).2 := by
  unfold Machine.moveChoice
  split
  · exact h.count
  · exact h.count

theorem Keeps.noteLate {o} (h : Keeps s t) : Keeps s (noteLate o t) := .ite h h.modLink

theorem Keeps.moveAll {o} (h : Keeps s t) : Keeps s (moveAll o t).2 := (h.foldlSnd fun h => h.moveChoice).modOp

theorem Keeps.nextRound {o} (h : Keeps s t) : Keeps s (nextRound o t) := h.noteLate.modOp.startRound

theorem Keeps.advanceOp {i seq} (h : Keeps s t) : Keeps s (advanceOp i seq t) := by
  unfold Machine.advanceOp
  dsimp only
  split
  · exact h
  · exact .ite
        h
        (.ite
           (.nextRound (.iteSnd h.moveAll h))
           (.ite (.finishDispatch (.noteLate (.iteSnd h.moveAll h))) (.iteSnd h.moveAll h)))

theorem Keeps.takeToken {r row} (h : Keeps s t) : Keeps s (takeToken r row t) := by
  unfold Machine.takeToken
  split
  · split
    · exact h.modOp.advanceOp
    · exact h
  · exact .ite h.sendMsg.count h.sendOutput

theorem KeepsM.choiceRow {o c} : KeepsM (choiceRow o c) := by
  unfold Machine.choiceRow
  refine .bind .mGet fun _ => ?_
  split
  · exact .pure
  · exact .bind .readWire fun _ => .pure

theorem KeepsM.sendToken {o c} : KeepsM (sendToken o c) :=
  .bind .choiceRow fun _ => .mMod fun _ => Keeps.refl.modOp.andThen fun h1 => .ite h1.takeToken h1.sendMsg

theorem KeepsM.deferWeight {o c} : KeepsM (deferWeight o c) := by
  unfold Machine.deferWeight
  split
  · exact .pure
  · exact .bind .mGet fun _ => .bind .readRowVals fun _ => .mVM
  · exact fun _ => Keeps.refl.same

theorem KeepsM.readDeferred {a l} : KeepsM (readDeferred a l) := .mapM fun _ => .bind .mRead fun _ => .pure

theorem KeepsM.overflowChoice {o c} : KeepsM (overflowChoice o c) := by
  unfold Machine.overflowChoice
  split
  · exact .mMod fun _ => Keeps.refl.modOp
  · exact .bind .mGet fun _ =>
      .ite
        (.bind .choiceRow fun _ =>
         .bind .deferWeight fun _ => .bind .mWrite fun _ => .mMod fun _ => Keeps.refl.modLink.modOp.count)
        (.mMod fun _ => Keeps.refl.modOp.count)
  · exact .mMod fun _ => Keeps.refl.modOp.count

theorem Keeps.takeAllot {plan e round n} (h : Keeps s t) : Keeps s (takeAllot plan e round n t) := by
  unfold Machine.takeAllot
  split
  · exact h
  · exact .ite h (h.runEngine (.bind (.forM fun _ => .sendToken) fun _ => .forM fun _ => .overflowChoice)).advanceOp

theorem Keeps.sendAllot {q n} (h : Keeps s t) : Keeps s (sendAllot q n t) := .ite h.takeAllot h.sendMsg

theorem Keeps.noteRefused {i seq e n} (h : Keeps s t) : Keeps s (noteRefused i seq e n t) := by
  unfold Machine.noteRefused
  split
  · exact .ite h h.modOp.raiseEv
  · exact h

theorem Keeps.allocate {i seq e} (h : Keeps s t) : Keeps s (allocate i seq e t) := by
  unfold Machine.allocate
  split
  · exact h
  · split
    · exact h
    · exact .ite h (h.modOp.noteRefused.foldl fun h => h.sendAllot)

theorem Keeps.lateRequest {o q} (h : Keeps s t) : Keeps s (lateRequest o q t) := h.sendAllot.modOp.noteRefused

theorem Keeps.takeLate {y q} (h : Keeps s t) : Keeps s (takeLate y q t) := by
  unfold Machine.takeLate
  dsimp only
  split
  · exact h.modLink.lateRequest
  · exact h.modLink.sendAllot

theorem Keeps.takeRequest {q} (h : Keeps s t) : Keeps s (takeRequest q t) := by
  unfold Machine.takeRequest
  split
  · exact h.takeLate
  · split
    · exact .ite h.lateRequest.advanceOp h.modOp.allocate.advanceOp
    · exact h.modLink
  · exact .ite h.sendMsg.count h.sendAllot

theorem Keeps.sendRequest {o x} (h : Keeps s t) : Keeps s (sendRequest o x t) := .ite h.takeRequest h.sendMsg

theorem Keeps.countResult {plan round counts} (h : Keeps s t) : Keeps s (countResult plan round counts t) := by
  unfold Machine.countResult
  split
  · exact h
  · refine .ite
        h
        (.advanceOp
           (.foldl (.foldl (.modOp (.modLink (.reopen (.freeBucket ?_)))) fun h => h.sendRequest) fun h =>
              h.allocate))
    split
    · exact h.noteResult
    · exact h

theorem Keeps.countTimeout {plan} (h : Keeps s t) : Keeps s (countTimeout plan t) := by
  unfold Machine.countTimeout
  split
  · exact h
  · exact .ite h (h.modOp.count.foldl fun h => h.allocate).advanceOp

theorem Keeps.armDispatch {o} (h : Keeps s t) : Keeps s (armDispatch o t) := h.modOp.startRound

theorem KeepsM.sendSlot {g x} : KeepsM (sendSlot g x) :=
  .bind .mGet fun _ =>
  .bind .needTE fun _ => .forM fun _ => .bind .readWire fun _ => .mMod fun _ => Keeps.refl.sendOutput

theorem Keeps.armCombine {o} (h : Keeps s t) : Keeps s (armCombine o t) :=
  h.modLink.runEngine (.bind (.forM fun _ => .sendSlot) fun _ => .mMod fun _ => Keeps.refl.finishCombines)

theorem Keeps.armEngines (h : Keeps s t) : Keeps s (armEngines t) :=
  (h.foldl fun h => .ite h.armDispatch h).foldl fun h => .ite h.armCombine h

theorem KeepsM.dispatchDispatch {i seq r b} : KeepsM (dispatchDispatch i seq r b) :=
  .bind .needTE fun _ => .bind .needTE fun _ => .bind .checkIn fun _ => .bind .checkIn fun _ => .bind .mGuard fun _ =>
    .bind .readTE fun _ => .bind (.optionForM fun _ => .bind .checkIn fun _ => .mGuard) fun _ => .bind .mGuard fun _ =>
    .bind .mGuard fun _ => .bind .readDispPlan fun _ => .bind .mGet fun _ =>
    .bind (.forM fun _ => .bind .needTE fun _ => .bind .checkOut fun _ => .mGuard) fun _ =>
    .bind (.mapM fun _ => .readRow) fun _ => .bind .readDeferred fun _ =>
    .mMod fun _ => Keeps.refl.modRec.modLink.armEngines

theorem KeepsM.mGuardLost {p} : KeepsM (mGuardLost p) :=
  .bind .mGet fun _ => .ite (.bind (.mMod fun _ => Keeps.refl.modLink) fun _ => .mUE) .pure

theorem KeepsM.dispatchCombine {i seq r b} : KeepsM (dispatchCombine i seq r b) :=
  .bind .needTE fun _ =>
  .bind .checkIn fun _ =>
  .bind .needTE fun _ =>
  .bind .needTE fun _ =>
  .bind .checkIn fun _ =>
  .bind .checkOut fun _ =>
  .bind .mGuard fun _ =>
  .bind .mGuard fun _ =>
  .bind .readDispPlan fun _ =>
  .bind .mGet fun _ =>
  .bind (.forM fun _ => .bind .needTE fun _ => .bind .checkIn fun _ => .mGuard) fun _ =>
  .bind .mGuardLost fun _ => .mMod fun _ => Keeps.refl.modRec.modLink.armEngines

theorem Keeps.settleEngines {s'} (h : Keeps s t) : Keeps s (settleEngines s' t) := h.armEngines.settle

theorem Keeps.stepHome {k} (h : Keeps s t) : Keeps s (stepHome k t) := h.setReg4

theorem Keeps.accessHome {k w} (h : Keeps s t) : Keeps s (accessHome k w t) := by
  unfold Machine.accessHome
  refine .stepHome ?_
  split
  · exact h.modLink
  · exact h.same

theorem Keeps.homeData {k w} (h : Keeps s t) : Keeps s (homeData k w t) := .ite h.accessHome h.modLink

theorem Keeps.homeLoadGo {k} (h : Keeps s t) : Keeps s (homeLoadGo k t) := .ite h h.modLink

theorem Keeps.loadHome {first ws} (h : Keeps s t) : Keeps s (loadHome first ws t) := h.modLink

theorem Keeps.homeLoadDone {k} (h : Keeps s t) : Keeps s (homeLoadDone k t) := by
  unfold Machine.homeLoadDone
  split
  · exact h
  · refine .andThen (.modLink ?_) fun h => .ite (h.modLink.foldl fun h => h.accessHome) h
    split
    next e => exact (h.readMem.of_snd e).loadHome
    next e => exact h.readMem.of_snd e

/-! ### The operations of Machine/Issue.lean -/

theorem Keeps.pushRec {i r} (h : Keeps s t) : Keeps s (pushRec i r t) := h.modStream

theorem Keeps.pruneCommits (h : Keeps s t) : Keeps s (pruneCommits t) := by
  unfold Machine.pruneCommits
  exact h.modStep

theorem Keeps.issueCommit {i r valid b} (h : Keeps s t) : Keeps s (issueCommit i r valid b t) :=
  h.modStep.andThen fun h1 => .ite h1.modComp.pruneCommits h1.pruneCommits

theorem KeepsM.takeChecks {i r afterBarrier} : KeepsM (takeChecks i r afterBarrier) := by
  unfold Machine.takeChecks
  dsimp only
  split
  · refine .bind (.mMod fun _ => Keeps.refl.issueCommit) fun _ => .bind .mGuard fun _ => ?_
    split
    · exact .mFail
    · refine .bind .mGuard fun _ => ?_
      split
      · exact .mFail
      · exact .pure
    · exact .bind .mGet fun _ => .bind .mGuard fun _ => .ite (.mMod fun _ => Keeps.refl.complete) .pure
    · exact .takeUpdate
    · exact .mGuard
    · exact .pure
  · refine .bind .mGuard fun _ => ?_
    split
    · exact .mFail
    · refine .bind .mGuard fun _ => ?_
      split
      · exact .mFail
      · exact .pure
    · exact .bind .mGet fun _ => .bind .mGuard fun _ => .ite (.mMod fun _ => Keeps.refl.complete) .pure
    · exact .takeUpdate
    · exact .mGuard
    · exact .pure

theorem KeepsM.takeCall {i r b} : KeepsM (takeCall i r b) :=
  .bind .mGet fun _ => .bind .mGuard fun _ => .bind .callEntry fun _ => .mMod fun _ => Keeps.refl.pushCall

theorem Keeps.popFrames {n i} (h : Keeps s t) : Keeps s (popFrames n i t) := by
  induction n generalizing t with
  | zero => exact h
  | succ n ih =>
    unfold Machine.popFrames
    split
    · exact .ite (ih h.modStream) h
    · exact h

theorem Keeps.noteHead {i} (h : Keeps s t) : Keeps s (noteHead i t) := by
  unfold Machine.noteHead
  split
  · split
    · exact .ite h h.modRec
    · exact h
  · exact h

theorem KeepsM.checkSeq {i r} : KeepsM (checkSeq i r) := by
  unfold Machine.checkSeq
  refine .bind .mGet fun _ => ?_
  split
  · exact .pure
  · exact .ite (.bind (.mMod fun _ => .ite Keeps.refl Keeps.refl.modHost.raiseEv) fun _ => .mFail) .pure

theorem Keeps.dispatchGate {i seq b} (h : Keeps s t) : Keeps s (dispatchGate i seq b t) := .ite h.complete h.modRec

theorem Keeps.dispatchKind {i r} (h : Keeps s t) : Keeps s (dispatchKind i r t) := by
  unfold Machine.dispatchKind
  split
  · exact h.completeOK
  · exact h.runDesc .dispatchMatmul
  · exact h.runDesc .dispatchVecop
  · exact h.runDesc .dispatchScan
  · exact h.runDesc .dispatchMove
  · exact h.runDesc .dispatchReduce
  · exact h.runDesc .dispatchDispatch
  · exact h.runEngine .dispatchCombine
  · exact h.dispatchGate
  · exact h.modRec
  · exact h.modRec
  · exact h.runDesc .takeCall
  · exact h.dispatchUpdate
  · exact h.runDesc .dispatchStashSave
  · exact h.runDesc .dispatchStashLoad
  · exact h.runDesc .dispatchScaleCommit
  · exact h.runStepCommit
  · exact h.runDesc .dispatchEvent
  · exact h.completeErr

theorem KeepsM.readTables {r} : KeepsM (readTables r) :=
  .bind .mGet fun _ => .ite .pure (.forM fun _ => .forM fun _ => .mTable)

theorem KeepsM.dispatchChecks {i r} : KeepsM (dispatchChecks i r) :=
  .bind .mGet fun _ => .bind .readTables fun _ => .bind .mGuard fun _ => .ite .checkSeq .pure

theorem Keeps.dispatchRec {i r} (h : Keeps s t) : Keeps s (dispatchRec i r t) := by
  unfold Machine.dispatchRec
  dsimp only
  have hcheck {f} := KeepsM.run (KeepsM.dispatchChecks (i := i) (r := r)) (h.modRec (i := i) (seq := r.seq) (f := f))
  split
  next e => exact (hcheck.of_snd e).runDesc fun _ => .refl
  next e =>
    split
    · exact (hcheck.of_snd e).dispatchKind
    · exact hcheck.of_snd e

theorem Keeps.dispatchNext {i} (h : Keeps s t) : Keeps s (dispatchNext i t) := by
  unfold Machine.dispatchNext
  split
  · exact h.dispatchRec.popFrames.noteHead
  · exact h.popFrames.noteHead

theorem Keeps.takeDesc {i ring early h' d} (h : Keeps s t) : Keeps s (takeDesc i ring early h' d t) := by
  unfold Machine.takeDesc
  dsimp only
  refine .dispatchNext ?_
  split
  · refine .runDesc ?_ fun _ => Keeps.refl
    split
    · exact h.pushRec.issueCommit
    · exact h.pushRec
  · split
    · exact .ite ((h.pushRec.runDesc .takeChecks).runDesc .takeCall) (h.pushRec.runDesc .takeChecks)
    · exact h.pushRec.runDesc .takeChecks

theorem Keeps.offerDesc {i h' d} (h : Keeps s t) : Keeps s (offerDesc i h' d t) := .ite h.takeDesc.settle h

theorem Keeps.takeBytes {i ring read} (h : Keeps s t) : Keeps s (takeBytes i ring read t) := by
  unfold Machine.takeBytes
  split
  · exact h.takeDesc
  · exact h.takeDesc

theorem Keeps.takeList {i f} (h : Keeps s t) : Keeps s (takeList i f t) := h.readMem.modStream.takeBytes

theorem Keeps.takeRing {i} (h : Keeps s t) : Keeps s (takeRing i t) := h.readHost.takeBytes

theorem Keeps.streamStep {i} (h : Keeps s t) : Keeps s (streamStep i t) := by
  unfold Machine.streamStep
  refine .ite h.dispatchNext (.ite h.dispatchNext ?_)
  split
  · exact .ite h.dispatchNext h.takeList
  · exact .ite h.takeRing h.dispatchNext

theorem Keeps.releaseGate {i} (h : Keeps s t) : Keeps s (releaseGate i t) := by
  unfold Machine.releaseGate
  split
  · exact h.completeOK.dispatchNext
  · exact h

theorem Keeps.passGates (h : Keeps s t) : Keeps s (passGates t) := by
  unfold Machine.passGates
  refine h.foldl fun h => ?_
  split
  · exact .ite h.complete h
  · exact h

theorem Keeps.resolveHead {i r} (h : Keeps s t) : Keeps s (resolveHead i r t) := by
  unfold Machine.resolveHead
  split
  · exact .ite h.complete.modStream (.ite h.completeOK h)
  · split
    · exact .ite h.completeOK h
    · exact h
  · exact h.completeOK
  · exact .completeOK (.ite h.releaseEntry h)
  · exact h

theorem Keeps.writeEntry16 {i r} (h : Keeps s t) : Keeps s (writeEntry16 i r t) :=
  .ite h.hostWrite.modStream.requestVector h.hostWrite.modStream

theorem Keeps.keepRec {i r} (h : Keeps s t) : Keeps s (keepRec i r t) := by
  unfold Machine.keepRec
  exact h.modStream

theorem Keeps.barrierZero (h : Keeps s t) : Keeps s (barrierZero t) :=
  h.modHost.andThen fun h1 => .ite h1.modComp h1

theorem Keeps.retireHead {old i r} (h : Keeps s t) : Keeps s (retireHead old i r t) :=
  .noteHead
    (.ite
       (.writeEntry16 (.statusLine (.ite (.barrierZero (.keepRec (.modStream h))) (.keepRec (.modStream h)))))
       (.statusLine (.ite (.barrierZero (.keepRec (.modStream h))) (.keepRec (.modStream h)))))

theorem Keeps.retire {i} (h : Keeps s t) : Keeps s (retire i t) := by
  unfold Machine.retire
  dsimp only
  split
  · exact h
  · split
    · exact h.resolveHead
    · exact .ite h.resolveHead (.ite h.resolveHead.modStream.statusLine h.resolveHead.retireHead)

/-! ### The operations of Machine/Rings.lean -/

theorem Keeps.setState {i x} (h : Keeps s t) : Keeps s (setState i x t) := h.modStream

theorem Keeps.act {a i} (h : Keeps s t) : Keeps s (act a i t) := by
  unfold Machine.act
  split
  · exact h.modStream
  · exact h.setState
  · exact h.setState
  · exact h.abortStream.armEngines
  · exact h.setState

theorem Keeps.streamAction {a i} (h : Keeps s t) : Keeps s (streamAction a i t) :=
  .ite h (.ite h.modStream (.ite h h.act.settle))

theorem Keeps.stallFire {i j} (h : Keeps s t) : Keeps s (stallFire i j t) := by
  unfold Machine.stallFire
  split
  · exact h
  · exact h.raiseEv.abortStream.abortStream.armEngines

theorem Keeps.dbError {i} (h : Keeps s t) : Keeps s (dbError i t) := h.modStream.count

theorem Keeps.sqDoorbell {i p} (h : Keeps s t) : Keeps s (sqDoorbell i p t) :=
  .ite h (.ite h.dbError (.ite h (h.modStream.andThen fun h1 => .ite h1.modStream.count h1)))

theorem Keeps.writeSqDb {i v} (h : Keeps s t) : Keeps s (writeSqDb i v t) := .ite h h.modStream.sqDoorbell.settle

theorem Keeps.writeCqDb {i v} (h : Keeps s t) : Keeps s (writeCqDb i v t) := .ite h h.modStream.modStream

theorem Keeps.writeEqDb {v} (h : Keeps s t) : Keeps s (writeEqDb v t) := .ite h h.modHost

theorem Keeps.modTimerOut {v} (h : Keeps s t) : Keeps s (modTimerOut v t) := .ite h.sendVector h

theorem Keeps.unmask {v} (h : Keeps s t) : Keeps s (unmask v t) := .ite h.setReg4.setVector.sendVector h.setReg4

theorem Keeps.irqTest {v} (h : Keeps s t) : Keeps s (irqTest v t) := .ite h.requestVector h

theorem Keeps.answer {r} (h : Keeps s t) : Keeps s (answer r t) := h.same

theorem Keeps.apertureRead {o n} (h : Keeps s t) : Keeps s (apertureRead o n t) := by
  unfold Machine.apertureRead
  refine .ite h.answer ?_
  split
  next e => exact (h.readMem.of_snd e).answer
  next e => exact (h.readMem.of_snd e).answer.logAer

theorem Keeps.apertureWrite {o b} (h : Keeps s t) : Keeps s (apertureWrite o b t) := by
  unfold Machine.apertureWrite
  refine .ite h.logAer ?_
  split
  next e => exact h.writeMem.of_snd e
  next e => exact (h.writeMem.of_snd e).logAer

theorem Keeps.writeBwsplit {v} (h : Keeps s t) : Keeps s (writeBwsplit v t) :=
  .ite (.modHost (.ite h.modHost h)) (.modHost (.ite h.modHost h))

theorem Keeps.writeSlotLen {k v} (h : Keeps s t) : Keeps s (writeSlotLen k v t) := .ite h.modHost h.modHost

theorem Keeps.writeInterlock {v} (h : Keeps s t) : Keeps s (writeInterlock v t) := h.modHost

theorem Keeps.setReady {b} (h : Keeps s t) : Keeps s (setReady b t) := h.modSafe

theorem Keeps.hostReset (h : Keeps s t) : Keeps s (hostReset t) := by
  unfold Machine.hostReset
  exact h.abortSilently.modHost.modReg.setReady.settlePhases

theorem Keeps.resetHostBy {v} (h : Keeps s t) : Keeps s (resetHostBy v t) := .ite h.hostReset h

theorem Keeps.dropLink (h : Keeps s t) : Keeps s (dropLink t) := h.modHost

theorem Keeps.perst {high} (h : Keeps s t) : Keeps s (perst high t) :=
  .ite (h.modHost.andThen fun h1 => .ite h1.setReady h1) h.hostReset.dropLink.modHost.setReady

theorem Keeps.linkDown (h : Keeps s t) : Keeps s (linkDown t) := .ite h h.dropLink.modHost.setReady

theorem Keeps.linkUp {rate width} (h : Keeps s t) : Keeps s (linkUp rate width t) := .ite h h.modHost

/-! ### The operations of Machine/Alarm.lean -/

theorem Keeps.forget {n} (h : Keeps s t) : Keeps s (forget n t) := h.modTally

theorem Keeps.ownerArm {n m} (h : Keeps s t) : Keeps s (ownerArm n m t) := h.forget.setReg8.setReg4

theorem Keeps.disarm {n} (h : Keeps s t) : Keeps s (disarm n t) := h.forget.setReg4

theorem Keeps.fireAlarm {n} (h : Keeps s t) : Keeps s (fireAlarm n t) :=
  .ite h.forget.setReg4.requestVector h.forget.setReg4

/-! ### The operations of Machine/Scrub.lean -/

theorem Keeps.rowCopied {c row k} (h : Keeps s t) : Keeps s (rowCopied c row k t) := h.modMem.raiseCE.copyHbm

theorem Keeps.rowRemapDone {c} (h : Keeps s t) : Keeps s (rowRemapDone c t) := by
  unfold Machine.rowRemapDone
  split
  · exact h.rowCopied
  · exact h

theorem Keeps.expireEntry {u' a} (h : Keeps s t) : Keeps s (expireEntry u' a t) := h.modMem

theorem Keeps.setInj {u' v} (h : Keeps s t) : Keeps s (setInj u' v t) := .ite h.modMem h

theorem Keeps.writeRetire {v} (h : Keeps s t) : Keeps s (writeRetire v t) := .ite h.startMigration h

theorem Keeps.numberMoved {c} (h : Keeps s t) : Keeps s (numberMoved c t) := by
  unfold Machine.numberMoved
  exact h.modMem

/-- Data that moves is put again byte by byte (R362). -/
theorem canon_moved {m : List Host.Cell} (hm : Memory.wf m) (away keep : Host.Cell → Bool) (place : Nat → Nat) :
    Memory.wf ((m.partition away).1.foldl (fun m x => sset 0#8 m (place x.1) x.2) ((m.partition away).2.filter keep)) := by
  have hstay : Memory.wf ((m.partition away).2.filter keep) := by
    rw [List.partition_eq_filter_filter]
    exact canon_filter _ (canon_filter _ hm)
  generalize (m.partition away).1 = go
  generalize (m.partition away).2.filter keep = stay at hstay
  induction go generalizing stay with
  | nil => exact hstay
  | cons x go ih => exact ih _ (canon_sset _ _ hstay)

theorem Keeps.moveData {c} (h : Keeps s t) : Keeps s (moveData c t) :=
  have hw : Keeps s (Machine.copyHbm (0x2000 + c) _ t) := h.copyHbm
  have hn : Keeps s (Machine.numberMoved c _) := hw.numberMoved
  ⟨hn.pending, fun hs => ⟨canon_moved (hw.mem hs).1 _ _ _, (hn.mem hs).2⟩⟩

theorem Keeps.nextMigration {h'} (h : Keeps s t) : Keeps s (nextMigration h' t) := by
  unfold Machine.nextMigration
  split
  · exact h.modMem.startMigration
  · exact h

theorem Keeps.migrated {c} (h : Keeps s t) : Keeps s (migrated c t) :=
  .ite h h.moveData.modMem.modSafe.nextMigration.hbmReason

theorem Keeps.armScrub {n pair} (h : Keeps s t) : Keeps s (armScrub n pair t) := .ite h.ownerArm h.disarm

theorem Keeps.forceHbm {hbm} (h : Keeps s t) : Keeps s (forceHbm hbm t) :=
  .ite h (h.modMem fun _ hm => by split <;> exact hm)

theorem Keeps.modPass {hbm f} (h : Keeps s t) : Keeps s (modPass hbm f t) :=
  h.modMem fun _ hm => by split <;> exact hm

theorem Keeps.noteForced (h : Keeps s t) : Keeps s (noteForced t) := h.foldl fun h => .ite h.forceHbm h

theorem Keeps.startPass {hbm} (h : Keeps s t) : Keeps s (startPass hbm t) := .ite h h.modPass

theorem Keeps.forcedStart {hbm} (h : Keeps s t) : Keeps s (forcedStart hbm t) := .ite h h.startPass.forceHbm

theorem Keeps.rearmScrub (h : Keeps s t) : Keeps s (rearmScrub t) :=
  .ite
    (.foldl (.noteForced (.ite h.disarm h.disarm.disarm)) fun h => h.forcedStart)
    (h.armScrub.andThen fun h1 => .ite h1 h1.armScrub)

theorem Keeps.openWindow (h : Keeps s t) : Keeps s (openWindow t) :=
  .ite h.fireAlarm.modMem.startPass.startPass h.fireAlarm.modMem.startPass.startPass.armScrub.armScrub

theorem Keeps.closeWindow (h : Keeps s t) : Keeps s (closeWindow t) := h.fireAlarm.modMem.noteForced

theorem Keeps.forcedRate {hbm} (h : Keeps s t) : Keeps s (forcedRate hbm t) := .ite h.modPass.forceHbm h

theorem Keeps.passDone {hbm} (h : Keeps s t) : Keeps s (passDone hbm t) :=
  h.modPass.andThen fun h1 => .ite h1.forcedStart h1

theorem Keeps.scrubUnit {u' a} (h : Keeps s t) : Keeps s (scrubUnit u' a t) := by
  unfold Machine.scrubUnit
  split
  · exact h
  · exact .ite h.reportCE.count.setFault h.reportCE
  · exact h.reportUE

/-! ### The operations of Machine/Power.lean -/

theorem Keeps.setClock {c} (h : Keeps s t) : Keeps s (setClock c t) := h.modPower

theorem Keeps.followAllowed (h : Keeps s t) : Keeps s (followAllowed t) :=
  .ite h.setClock (.ite h h.modPower.setClock)

theorem Keeps.allow {a} (h : Keeps s t) : Keeps s (allow a t) := h.modPower.followAllowed

theorem Keeps.modBoost {f} (h : Keeps s t) : Keeps s (modBoost t f) := h.modPower

theorem Keeps.closePlan {i status reason} (h : Keeps s t) : Keeps s (closePlan i status reason t) := by
  unfold Machine.closePlan
  exact h.disarm.disarm.setReg4.modBoost

theorem Keeps.restartSteward (h : Keeps s t) : Keeps s (restartSteward t) := h.modSafe

theorem Keeps.runSwitch (h : Keeps s t) : Keeps s (runSwitch t) := .ite h.restartSteward h

theorem Keeps.endWindow {reason} (h : Keeps s t) : Keeps s (endWindow reason t) :=
  .ite h h.closePlan.modBoost.allow.raiseEv.runSwitch

theorem Keeps.writePlanArm {i arm} (h : Keeps s t) : Keeps s (writePlanArm i arm t) :=
  .ite h (.ite h.ownerArm.ownerArm.setReg4.modBoost h.disarm.disarm.setReg4.modBoost)

theorem Keeps.sense {m} (h : Keeps s t) : Keeps s (sense m t) := h.modPower

theorem Keeps.startMark {i m avg58} (h : Keeps s t) : Keeps s (startMark i m avg58 t) := by
  unfold Machine.startMark
  split
  · exact h.fireAlarm.sense.closePlan
  · exact h.fireAlarm.sense.modBoost

theorem Keeps.endMark {i} (h : Keeps s t) : Keeps s (endMark i t) :=
  h.fireAlarm.andThen fun h1 => .ite h1.endWindow h1

theorem Keeps.writeBoostEn {v} (h : Keeps s t) : Keeps s (writeBoostEn v t) :=
  h.setReg4.andThen fun h1 => .ite h1 h1.endWindow

theorem Keeps.cancelWindow (h : Keeps s t) : Keeps s (cancelWindow t) := h.endWindow

theorem Keeps.cleared (h : Keeps s t) : Keeps s (cleared t) :=
  ⟨h.pending, fun hs => ⟨canon_nil _, (h.mem hs).2⟩⟩

theorem Keeps.mainOff {cause} (h : Keeps s t) : Keeps s (mainOff cause t) := .ite h h.cleared.modPower

theorem Keeps.railsInDip (h : Keeps s t) : Keeps s (railsInDip t) := h.same.modPower

theorem Keeps.warn {mv} (h : Keeps s t) : Keeps s (warn mv t) :=
  .ite h (.ite h.railsInDip.modPower h.railsInDip.modPower.followAllowed.endWindow.count.raiseEv)

theorem Keeps.qualStart (h : Keeps s t) : Keeps s (qualStart t) := .ite h.modPower h

theorem Keeps.qualAbandon (h : Keeps s t) : Keeps s (qualAbandon t) := h.modPower

theorem Keeps.recover (h : Keeps s t) : Keeps s (recover t) := .ite h h.modPower.raiseEv

theorem Keeps.returnStep (h : Keeps s t) : Keeps s (returnStep t) := .ite h.setClock.modPower h

theorem Keeps.loseBlade {bladeB mv reversed open_'} (h : Keeps s t) :
    Keeps s (loseBlade bladeB mv reversed open_' t) :=
  .ite h.modPower h.modPower.modPower.endWindow.raiseEv

theorem Keeps.returnBlade {bladeB mv} (h : Keeps s t) : Keeps s (returnBlade bladeB mv t) :=
  .ite h.modPower (.raiseEv h.same)

theorem Keeps.governSustained (h : Keeps s t) : Keeps s (governSustained t) := by
  unfold Machine.governSustained
  exact .modPower (.ite h.allow (.ite h.allow h))

theorem Keeps.governWindow {m} (h : Keeps s t) : Keeps s (governWindow m t) :=
  .ite h.endWindow (.ite h.endWindow (.modPower (.ite h.allow (.ite h.allow h))))

theorem Keeps.govern {m} (h : Keeps s t) : Keeps s (govern m t) :=
  .ite h (h.sense.andThen fun h1 => .ite h1.governWindow h1.governSustained)

theorem Keeps.currentTrip (h : Keeps s t) : Keeps s (currentTrip t) := .ite h h.modPower.followAllowed.endWindow

theorem Keeps.currentRestore (h : Keeps s t) : Keeps s (currentRestore t) := .ite h h.modPower

theorem Keeps.readHottest {jmax} (h : Keeps s t) : Keeps s (readHottest jmax t) := .ite h h.same.modPower

theorem Keeps.throttle {jmax hbmMax} (h : Keeps s t) : Keeps s (throttle jmax hbmMax t) :=
  .ite
    (.ite h.readHottest h)
    (h.readHottest.andThen fun h1 =>
       .ite h1.endWindow.modPower.allow.modPower (.ite (.modPower (.ite h1.allow h1)) h1))

theorem Keeps.thermalOff (h : Keeps s t) : Keeps s (thermalOff t) := .ite h.mainOff.modPower h

theorem Keeps.coolantLost {coolIn flow} (h : Keeps s t) : Keeps s (coolantLost coolIn flow t) :=
  h.modPower.andThen fun h1 => .ite h1.endWindow h1

theorem Keeps.wearTick (h : Keeps s t) : Keeps s (wearTick t) :=
  .ite h (.ite h.modPower.modSafe.endWindow.raiseEv.replaceReq h.modPower.modSafe)

theorem Keeps.pmbus {r} (h : Keeps s t) : Keeps s (pmbus r t) := .ite h.answer h

theorem Keeps.clearFaults (h : Keeps s t) : Keeps s (clearFaults t) := .ite h.modPower h

/-! ### The operations of Machine/Tally.lean -/

theorem Keeps.refresh (h : Keeps s t) : Keeps s (refresh t) := by
  unfold Machine.refresh
  dsimp only
  split
  · exact .ite (.ite h.modTally h) h.modTally
  · exact h.modTally
  · exact h

theorem Keeps.enter {x} (h : Keeps s t) : Keeps s (enter x t) := h.modTally

theorem Keeps.enterLost (h : Keeps s t) : Keeps s (enterLost t) := h.refresh.enter.count.raiseEv.passGates.endWindow

theorem Keeps.enterHoldover {cause t' r a} (h : Keeps s t) : Keeps s (enterHoldover cause t' r a t) :=
  h.modTally.enter.count.raiseEv.refresh.andThen fun h3 => .ite h3.enterLost h3

theorem Keeps.recovered (h : Keeps s t) : Keeps s (recovered t) := h.enter.raiseEv

theorem Keeps.quadRecovered (h : Keeps s t) : Keeps s (quadRecovered t) := h.refresh.modTally.recovered

theorem Keeps.reversed (h : Keeps s t) : Keeps s (reversed t) := h.raiseEv

theorem Keeps.enterReverse {d} (h : Keeps s t) : Keeps s (enterReverse d t) := h.modTally.enter.reversed

theorem Keeps.noteCount {d} (h : Keeps s t) : Keeps s (noteCount d t) := by
  unfold Machine.noteCount
  exact h.modTally

theorem Keeps.countUp (h : Keeps s t) : Keeps s (countUp t) :=
  .ite (h.modTally.andThen fun h1 => .ite h1.enter h1) (.ite h.modTally.enterLost h.modTally)

theorem Keeps.countDown (h : Keeps s t) : Keeps s (countDown t) :=
  .ite
    h.modTally
    (.ite h.modTally.enterReverse (.ite (h.modTally.andThen fun h1 => .ite h1 h1.reversed) h.modTally))

theorem Keeps.quadCount {up} (h : Keeps s t) : Keeps s (quadCount up t) :=
  .ite h (h.noteCount.andThen fun h1 => .ite h1.countUp h1.countDown)

theorem Keeps.quadEdge {a b} (h : Keeps s t) : Keeps s (quadEdge a b t) :=
  .ite h.modTally (.ite h.refresh.modTally.modTally.count (.ite h h.refresh.modTally.quadCount))

theorem Keeps.applyPreset {p} (h : Keeps s t) : Keeps s (applyPreset p t) :=
  .ite h.modTally (h.modTally.andThen fun h1 => .ite h1.enter h1)

theorem Keeps.fireOff {n} (h : Keeps s t) : Keeps s (fireOff t n) :=
  .ite h.fireAlarm (.ite h.openWindow (.ite h.closeWindow (.ite h.modTally h)))

theorem Keeps.fireDue {d} (h : Keeps s t) : Keeps s (fireDue d t) := by
  unfold Machine.fireDue
  split
  · exact h.fireOff
  · exact h.releaseGate
  · exact .ite h.fireTree h

theorem Keeps.presetOff (h : Keeps s t) : Keeps s (presetOff t) := by
  unfold Machine.presetOff
  exact (h.modTally.foldl fun h => h.fireDue).modTally

theorem Keeps.writePreset {p} (h : Keeps s t) : Keeps s (writePreset p t) :=
  h.refresh.andThen fun h1 =>
    .ite (.ite h1.modTally h1.modTally) (h1.applyPreset.andThen fun h2 => .ite h2.presetOff.settle h2)

theorem Keeps.moveCount {d} (h : Keeps s t) : Keeps s (moveCount d t) :=
  .ite (h.modTally.andThen fun h1 => .ite h1.enter h1) h.modTally

theorem Keeps.realign (h : Keeps s t) : Keeps s (realign t) := h.modTally.andThen fun h1 => .ite h1 h1.moveCount

theorem Keeps.zError (h : Keeps s t) : Keeps s (zError t) := h.modTally.count

theorem Keeps.loadPreset (h : Keeps s t) : Keeps s (loadPreset t) := by
  unfold Machine.loadPreset
  split
  · exact h.modTally.applyPreset.andThen fun h1 => .ite h1.presetOff h1
  · exact h

theorem Keeps.checkZ (h : Keeps s t) : Keeps s (checkZ t) :=
  .ite h (.andThen (.ite h.zError h) fun h1 => .ite h1.realign h1)

theorem Keeps.zPulse (h : Keeps s t) : Keeps s (zPulse t) := .ite h h.refresh.modTally.loadPreset.checkZ

theorem Keeps.zMissing (h : Keeps s t) : Keeps s (zMissing t) := .ite h.modTally.zError h

theorem Keeps.noteAdvance {old new} (h : Keeps s t) : Keeps s (noteAdvance old new t) := by
  unfold Machine.noteAdvance
  exact h.modTally

theorem Keeps.setStamp {st} (h : Keeps s t) : Keeps s (setStamp st t) :=
  h.modTally.andThen fun h1 => .ite h1 h1.enter

theorem Keeps.takeStamp {st} (h : Keeps s t) : Keeps s (takeStamp st t) :=
  .ite h.setStamp (.ite h.modTally h.enterReverse)

theorem Keeps.noteStamp {st} (h : Keeps s t) : Keeps s (noteStamp st t) := .ite h.noteAdvance (.ite h h.noteAdvance)

theorem Keeps.acceptStamp {st} (h : Keeps s t) : Keeps s (acceptStamp st t) :=
  .ite
    h.noteStamp.modTally.takeStamp
    (.ite h.modTally (.ite h.modTally.takeStamp h.modTally.modTally.raiseEv.takeStamp))

theorem Keeps.rejectStamp {failing} (h : Keeps s t) : Keeps s (rejectStamp failing t) := h.modTally.count

theorem Keeps.receiveStamp {sound st} {heard : State → State} (h : Keeps s t)
    (hh : ∀ {u}, Keeps s u → Keeps s (heard u)) : Keeps s (receiveStamp sound st heard t) := by
  unfold Machine.receiveStamp
  refine h.refresh.andThen fun h => .ite h.rejectStamp (.ite (hh h).acceptStamp ?_)
  split
  · exact .ite (hh h).acceptStamp h.rejectStamp
  · exact h.rejectStamp

theorem Keeps.serialFrame {ftype flags epoch count frac crc} (h : Keeps s t) :
    Keeps s (serialFrame ftype flags epoch count frac crc t) :=
  .ite h (h.receiveStamp fun h => h)

theorem Keeps.fabricTick {p m} (h : Keeps s t) : Keeps s (fabricTick p m t) :=
  .ite h (h.receiveStamp fun h => h.modTally)

theorem Keeps.sendTally {p kind m} (h : Keeps s t) : Keeps s (sendTally p kind m t) := h.sendMsg

theorem Keeps.answerPing {p m} (h : Keeps s t) : Keeps s (answerPing p m t) := .ite h h.refresh.sendTally

theorem Keeps.takeEcho {p m} (h : Keeps s t) : Keeps s (takeEcho p m t) := by
  unfold Machine.takeEcho
  split
  · exact .ite h h.modTally
  · exact h

theorem Keeps.sendPing (h : Keeps s t) : Keeps s (sendPing t) := .ite h h.refresh.modTally.sendTally

theorem Keeps.sendTicks (h : Keeps s t) : Keeps s (sendTicks t) := .ite h (h.refresh.foldl fun h => h.sendTally)

theorem Keeps.dropCounts (h : Keeps s t) : Keeps s (dropCounts t) := by
  unfold Machine.dropCounts
  exact h.modTally

theorem Keeps.pairFault {k} (h : Keeps s t) : Keeps s (pairFault k t) :=
  h.refresh.modTally.andThen fun h2 => .ite h2 (.ite h2.dropCounts.enterHoldover (.ite h2.enterHoldover h2))

theorem Keeps.pairRestore {k} (h : Keeps s t) : Keeps s (pairRestore k t) :=
  h.modTally.andThen fun h1 => .ite h1 (.ite h1.enter (.ite h1.quadRecovered h1))

theorem Keeps.illegalLimit (h : Keeps s t) : Keeps s (illegalLimit t) := .ite h h.enterHoldover

theorem Keeps.illegalRecover (h : Keeps s t) : Keeps s (illegalRecover t) := .ite h.quadRecovered h

theorem Keeps.framesTimeout (h : Keeps s t) : Keeps s (framesTimeout t) := .ite h h.enterHoldover

theorem Keeps.holdoverExpire (h : Keeps s t) : Keeps s (holdoverExpire t) := .ite h.enterLost h

theorem Keeps.busStamp (h : Keeps s t) : Keeps s (busStamp t) := .ite h.refresh.modTally h

theorem Keeps.setSrc {v} (h : Keeps s t) : Keeps s (setSrc v t) :=
  .ite h (h.refresh.setReg4.modTally.andThen fun h3 => .ite h3.enter.passGates.endWindow (.ite h3.enter h3.enter))

theorem Keeps.writeSrc {v} (h : Keeps s t) : Keeps s (writeSrc v t) := .ite h.modTally h.setSrc

theorem Keeps.latchNow (h : Keeps s t) : Keeps s (latchNow t) := by
  unfold Machine.latchNow
  exact h.refresh.modTally

theorem Keeps.readNowLo (h : Keeps s t) : Keeps s (readNowLo t) := h.latchNow.answer

theorem Keeps.writeAlmCtrl {n v} (h : Keeps s t) : Keeps s (writeAlmCtrl n v t) :=
  .ite h (.ite (.fireAlarm (.setReg4 (.ite h (.forget h)))) (.setReg4 (.ite h (.forget h))))

theorem Keeps.writeAlmMark {n v} (h : Keeps s t) : Keeps s (writeAlmMark n v t) := .ite h h.setReg8

theorem Keeps.testGo (h : Keeps s t) : Keeps s (testGo t) := .ite h.modTally h

theorem Keeps.testDone {pass} (h : Keeps s t) : Keeps s (testDone pass t) := by
  unfold Machine.testDone
  refine .ite h ?_
  split
  · exact h.modTally.setSrc
  · exact h.modTally

/-! ### The operations of Machine/Ports.lean -/

theorem Keeps.modLane {p n f} (h : Keeps s t) : Keeps s (modLane p n f t) := h.modPort

theorem Keeps.modPm {p n f} (h : Keeps s t) : Keeps s (modPm p n f t) := h.modPort

theorem Keeps.noteSpare {p} (h : Keeps s t) : Keeps s (noteSpare p t) := h.modPort

theorem Keeps.bufferWrite {p} (h : Keeps s t) : Keeps s (bufferWrite p t).2 := by
  unfold Machine.bufferWrite
  refine .iteSnd h ?_
  dsimp only
  split
  · exact .writeUnit (.same h)
  · exact .same h

theorem Keeps.readLine {p a f} (h : Keeps s t) : Keeps s (readLine p a f t).2 := by
  unfold Machine.readLine
  dsimp only
  split
  · exact h
  · exact h.reportCE
  · exact h.reportUE

theorem Keeps.wipeLines {p ls} (h : Keeps s t) : Keeps s (wipeLines p ls t) := .ite h (h.foldl fun h => h.setFault)

theorem Keeps.readKept {p n q} (h : Keeps s t) : Keeps s (readKept p n q t) := by
  unfold Machine.readKept
  dsimp only
  split
  · exact h
  · split
    · exact h
    · exact .ite h.readLine h.readLine.modLane.modPort

theorem Keeps.readReplay {p n} (h : Keeps s t) : Keeps s (readReplay p n t) :=
  .ite h (h.foldl fun h => h.readKept).modPort

theorem Keeps.enablePort {p} (h : Keeps s t) : Keeps s (enablePort p t) := .ite h (.ite h.modPort.setReg4 h.modLink)

theorem Keeps.disablePort {p} (h : Keeps s t) : Keeps s (disablePort p t) := .ite h h.wipeLines.setPort.setReg4

theorem Keeps.portDown {p} (h : Keeps s t) : Keeps s (portDown p t) := (h.foldl fun h => h.readReplay).modPort

theorem Keeps.retrainPort {p} (h : Keeps s t) : Keeps s (retrainPort p t) := .ite h h.portDown

theorem Keeps.detect {p termination driver} (h : Keeps s t) : Keeps s (detect p termination driver t) :=
  .ite h (h.modPort.andThen fun h1 => .ite h1 h1.modPort.count)

theorem Keeps.recordPort {p} (h : Keeps s t) : Keeps s (recordPort p t) :=
  h.modSafe.andThen fun h1 => .ite h1.replaceReq h1

theorem Keeps.laneEvent {p n} (h : Keeps s t) : Keeps s (laneEvent p n t) := h.raiseEv

theorem Keeps.sendLctrl {p code n} (h : Keeps s t) : Keeps s (sendLctrl p code n t) := by
  unfold Machine.sendLctrl
  exact h.modPort

theorem Keeps.lanesFailed {p bad covered} (h : Keeps s t) : Keeps s (lanesFailed p bad covered t) :=
  .noteSpare
    (.foldl (.ite (.andThen (.modPort h) fun h1 => .ite h1 (.recordPort h1)) h) fun h => .sendLctrl (.laneEvent h))

theorem Keeps.trainDone {p trained inverted arrived} (h : Keeps s t) :
    Keeps s (trainDone p trained inverted arrived t) :=
  .ite h (.ite h.modPort h.modPort.lanesFailed)

theorem Keeps.alignDone {p locked} (h : Keeps s t) : Keeps s (alignDone p locked t) :=
  .ite h (.ite h.modPort h.modPort.lanesFailed)

theorem Keeps.dropKept {p} (h : Keeps s t) : Keeps s (dropKept p t) := h.wipeLines.modPort

theorem Keeps.identify {p node far} (h : Keeps s t) : Keeps s (identify p node far t) :=
  .ite h (.modPort (.ite h.dropKept h))

theorem Keeps.creditDone {p credits} (h : Keeps s t) : Keeps s (creditDone p credits t) :=
  .ite h (.modPort (.ite h h.dropKept))

theorem Keeps.keepExpire {p} (h : Keeps s t) : Keeps s (keepExpire p t) := .ite h.dropKept h

theorem Keeps.undeliverable {n} (h : Keeps s t) : Keeps s (undeliverable n t) := h.count

theorem Keeps.enqueue {p fs} (h : Keeps s t) : Keeps s (enqueue p fs t) := h.foldl fun h => h.modPort

theorem Keeps.placeMsg {m} (h : Keeps s t) : Keeps s (placeMsg m t) := by
  unfold Machine.placeMsg
  dsimp only
  refine .ite (h.foldl fun h => h.enqueue) ?_
  split
  · exact h.enqueue
  · exact h.undeliverable

theorem Keeps.placeMsgs (h : Keeps s t) : Keeps s (placeMsgs t) := h.modLink.foldl fun h => h.placeMsg

theorem Keeps.stampHeader {f p} (h : Keeps s t) : Keeps s (stampHeader f p t).2 := by
  unfold Machine.stampHeader
  dsimp only
  exact h.modLane.modPort

theorem Keeps.putOn {p n f} (h : Keeps s t) : Keeps s (putOn p n f t) := by
  have hs : Keeps s (Machine.stampHeader f p t).2 := h.stampHeader
  unfold Machine.putOn
  exact hs.modLane.modPort

theorem Keeps.sendOn {p n f} (h : Keeps s t) : Keeps s (sendOn p n f t) := by
  unfold Machine.sendOn
  exact .modPort (.modLane (.bufferWrite (.putOn h)))

theorem Keeps.sendFill {p n} (h : Keeps s t) : Keeps s (sendFill p n t) := .putOn h

theorem Keeps.sendIdle {p} (h : Keeps s t) : Keeps s (sendIdle p t) := by
  unfold Machine.sendIdle
  split
  · exact h.sendFill
  · exact h

theorem Keeps.resendOne {p n} (h : Keeps s t) : Keeps s (resendOne p n t) := by
  unfold Machine.resendOne
  dsimp only
  split
  · exact h.readKept.count.modLane.putOn
  · exact h.readKept.count.modLane

theorem Keeps.sendNew {p} (h : Keeps s t) : Keeps s (sendNew p t) := by
  unfold Machine.sendNew
  dsimp only
  split
  · split
    · exact .ite h.sendFill h.modPort.sendOn
    · exact h.sendIdle
  · split
    · split
      · exact .ite h.sendFill h.modPort.sendOn
      · exact h.sendIdle
    · exact h.sendIdle

theorem Keeps.sendSlotOf {p} (h : Keeps s t) : Keeps s (sendSlotOf p t) := by
  unfold Machine.sendSlotOf
  dsimp only
  split
  · exact h.sendIdle
  · refine .ite h.sendNew (.ite h.sendFill (.ite h.resendOne ?_))
    split
    · exact h.modLane.sendOn
    · exact h

theorem Keeps.sendFlit {p} (h : Keeps s t) : Keeps s (sendFlit p t) :=
  h.placeMsgs.andThen fun h1 => .ite h1.sendSlotOf h1

theorem Keeps.preempt {p n} (h : Keeps s t) : Keeps s (preempt p n t) := .ite h.modPm.setReg4 h

theorem Keeps.coverFault {p} (h : Keeps s t) : Keeps s (coverFault p t) := h.modPort.recordPort.noteSpare

theorem Keeps.coverTx {p} (h : Keeps s t) : Keeps s (coverTx p t) := h.modPort.recordPort.noteSpare

theorem Keeps.downIfDead {p} (h : Keeps s t) : Keeps s (downIfDead p t) := .ite h.portDown h

theorem Keeps.laneFailure {p n} (h : Keeps s t) : Keeps s (laneFailure p n t) := by
  unfold Machine.laneFailure
  refine .ite
      h
      (.downIfDead
         (.noteSpare
            (.ite
               (.coverFault
                  (.ite (.modPort (.sendLctrl (.laneEvent (.modLane h)))) (.sendLctrl (.laneEvent (.modLane h)))))
               (.ite
                  ?_
                  (.ite (.modPort (.sendLctrl (.laneEvent (.modLane h)))) (.sendLctrl (.laneEvent (.modLane h))))))))
  split
  · exact .coverFault
        (.modLane
           (.preempt (.ite (.modPort (.sendLctrl (.laneEvent (.modLane h)))) (.sendLctrl (.laneEvent (.modLane h))))))
  · exact .ite (.modPort (.sendLctrl (.laneEvent (.modLane h)))) (.sendLctrl (.laneEvent (.modLane h)))

theorem Keeps.emptyLane {p n} (h : Keeps s t) : Keeps s (emptyLane p n t) := h.modLane

theorem Keeps.moveFlits {p n k} (h : Keeps s t) : Keeps s (moveFlits p n k t) := h.readReplay.emptyLane.modLane

theorem Keeps.spreadFlits {p n} (h : Keeps s t) : Keeps s (spreadFlits p n t) := by
  unfold Machine.spreadFlits
  exact h.readReplay.emptyLane.modPort

theorem Keeps.txLaneFail {p n} (h : Keeps s t) : Keeps s (txLaneFail p n t) := by
  unfold Machine.txLaneFail
  refine .ite
      h
      (.andThen ?_ fun h2 =>
         .andThen (.ite (.coverTx h2) h2) fun h3 => .downIfDead (.noteSpare (.ite (.modPort h3) h3)))
  split
  · exact .moveFlits (.coverTx (.modPort (.modLane (.preempt (.modLane h)))))
  · exact .spreadFlits (.modLane h)

theorem Keeps.resend {p n} (h : Keeps s t) : Keeps s (resend p n t) := .ite h.txLaneFail h.modLane

theorem Keeps.replayTimeout {p n} (h : Keeps s t) : Keeps s (replayTimeout p n t) := .ite h h.resend

theorem Keeps.ackIfEmpty {p} (h : Keeps s t) : Keeps s (ackIfEmpty p t) := by
  unfold Machine.ackIfEmpty
  split
  · exact .ite h.modPort.sendLctrl h
  · exact h

theorem Keeps.startRecal {p} (h : Keeps s t) : Keeps s (startRecal p t) := by
  unfold Machine.startRecal
  dsimp only
  split
  · exact .ite h.modPort.sendLctrl h
  · exact h

theorem Keeps.recalReq {p n} (h : Keeps s t) : Keeps s (recalReq p n t) := by
  unfold Machine.recalReq
  refine .ite h (.ackIfEmpty (.noteSpare (.modPort (.modLane ?_))))
  split
  · exact h.modLane.modPort
  · exact h.modPort

theorem Keeps.recalAck {p n} (h : Keeps s t) : Keeps s (recalAck p n t) := by
  unfold Machine.recalAck
  refine .ite h (.noteSpare (.modPort (.modLane ?_)))
  split
  · exact h.modLane
  · exact h

theorem Keeps.recalTrained {p n} (h : Keeps s t) : Keeps s (recalTrained p n t) :=
  .sendLctrl (.ite h.modLane.modPort.coverFault h.modLane.modPort.noteSpare)

theorem Keeps.recalEnded {p n} (h : Keeps s t) : Keeps s (recalEnded p n t) := by
  unfold Machine.recalEnded
  refine .ite h ?_
  split
  · exact h.modPort.modLane.modPort.coverTx
  · exact h.modPort.modLane.noteSpare

theorem Keeps.recalDone {p n} (h : Keeps s t) : Keeps s (recalDone p n t) :=
  .ite h (.ite h.recalTrained h.recalEnded)

theorem Keeps.measureEye {p n height width} (h : Keeps s t) : Keeps s (measureEye p n height width t) :=
  .ite h h.modLane

theorem Keeps.lostChunk {p ctx} (h : Keeps s t) : Keeps s (lostChunk p ctx t) :=
  .ite h (h.modBucket.andThen fun h1 => .ite h1.takeDown h1.takeUp)

theorem Keeps.lostRow {e} (h : Keeps s t) : Keeps s (lostRow e t) := by
  unfold Machine.lostRow
  refine .ite ?_ ?_
  · split
    · exact h.count.stopEngine
    · exact h.count
  · split
    · exact h.count.stopEngine
    · exact h.count.modLink

theorem Keeps.deliver {p f} (h : Keeps s t) : Keeps s (deliver p f t) := by
  unfold Machine.deliver
  split
  · exact h.takeUp
  · exact h.takeDown
  · exact h.takeGrant
  · exact h.receiveCopy
  · exact h.shadowTrailer
  · exact h.takeRequest
  · exact h.takeAllot
  · exact h.takeToken
  · exact h.takeOutput
  · exact .ite h.fabricTick (.ite h.answerPing h.takeEcho)
  · exact .ite h.lostChunk (.ite h.lostRow h)
  · exact h

theorem Keeps.flowOver {p f} (h : Keeps s t) : Keeps s (flowOver p f t) := h.modPort

theorem Keeps.lostLast {p f n} (h : Keeps s t) : Keeps s (lostLast p f n t).2 := by
  unfold Machine.lostLast
  refine .iteSnd h ?_
  split
  · exact h
  · exact h.same

theorem Keeps.flowOn {p f} (h : Keeps s t) : Keeps s (flowOn p f t) := h.modPort

theorem Keeps.takeFlit {p f} (h : Keeps s t) : Keeps s (takeFlit p f t) := by
  unfold Machine.takeFlit
  split
  · exact .andThen (.ite h.lostLast.flowOver h.lostLast.flowOn.modPort) fun h1 => .ite h1 h1.deliver
  · exact .ite h.flowOn (.ite h.flowOver h.flowOver.deliver)

theorem Keeps.leaveBuffer {p f} (h : Keeps s t) : Keeps s (leaveBuffer p f t) := by
  unfold Machine.leaveBuffer
  refine .ite h.modPort.takeFlit ?_
  split
  · exact h.modPort.enqueue
  · exact h.modPort.undeliverable

theorem Keeps.drainReorder {p v n} (h : Keeps s t) : Keeps s (drainReorder p v n t) := by
  induction n generalizing t with
  | zero => exact h
  | succ n ih =>
    unfold Machine.drainReorder
    dsimp only
    split
    · exact h
    · have hm {f} : Keeps s (Machine.modPort t p f) := h.modPort
      refine ih (.leaveBuffer ?_)
      split
      · exact hm.readLine
      · dsimp only
        exact hm

theorem Keeps.acceptData {p f} (h : Keeps s t) : Keeps s (acceptData p f t) :=
  .ite h h.bufferWrite.modPort.drainReorder

theorem Keeps.acceptLctrl {p code n} (h : Keeps s t) : Keeps s (acceptLctrl p code n t) := by
  unfold Machine.acceptLctrl
  split
  · exact h.txLaneFail
  · exact h.recalReq
  · exact h.recalAck
  · exact h.recalEnded
  · exact h

theorem Keeps.takeAck {p n e nak} (h : Keeps s t) : Keeps s (takeAck p n e nak t) := by
  unfold Machine.takeAck
  dsimp only
  split
  · exact h
  · exact .ite h (.andThen (.ite h h.modPort.modLane) fun h1 => .ackIfEmpty (.ite h1.resend h1))

theorem Keeps.takeCredit {p v total} (h : Keeps s t) : Keeps s (takeCredit p v total t) := h.modPort

theorem Keeps.countFec {p n c} (h : Keeps s t) : Keeps s (countFec p n c t) := h.count.count

theorem Keeps.discardFlit {p n} (h : Keeps s t) : Keeps s (discardFlit p n t) :=
  h.modLane.count.andThen fun h1 => .ite h1.laneFailure h1

theorem Keeps.nextExpected {p n f} (h : Keeps s t) : Keeps s (nextExpected p n f t) := h.modLane

theorem Keeps.receiveFlit {p n f c} (h : Keeps s t) : Keeps s (receiveFlit p n f c t) := by
  unfold Machine.receiveFlit
  refine .ite h (.ite h.countFec.discardFlit ?_)
  split
  · exact .ite h.countFec.takeAck.takeCredit h.countFec.takeAck.takeCredit.laneFailure
  · exact .ite h.countFec.takeAck.takeCredit h.countFec.takeAck.takeCredit.nextExpected.acceptData
  · exact .ite h.countFec.takeAck.takeCredit h.countFec.takeAck.takeCredit.nextExpected.acceptLctrl
  · exact .ite h.countFec.takeAck.takeCredit h.countFec.takeAck.takeCredit.nextExpected
  · exact h.countFec.takeAck.takeCredit

theorem Keeps.pmTake {p n} (h : Keeps s t) : Keeps s (pmTake p n t) := .ite h.modPm.setReg4 h.modPm

theorem Keeps.pmRelease {p n} (h : Keeps s t) : Keeps s (pmRelease p n t) := h.modPm.setReg4

theorem Keeps.pmErrors {p n k} (h : Keeps s t) : Keeps s (pmErrors p n k t) := .ite h h.modPm.count

theorem Keeps.pmInject {p n} (h : Keeps s t) : Keeps s (pmInject p n t) :=
  .ite h (h.modPm.andThen fun h1 => .ite h1.pmErrors h1)

theorem Keeps.pmLock {p n} (h : Keeps s t) : Keeps s (pmLock p n t) := .ite h.modPm h

theorem Keeps.pmLost {p n} (h : Keeps s t) : Keeps s (pmLost p n t) := .ite h.same.pmErrors.modPm h

theorem Keeps.fire {n} (h : Keeps s t) : Keeps s (fire n t) :=
  .ite h.openWindow (.ite h.closeWindow (.ite (h.setReg8.fireAlarm.foldl fun h => h.startRecal) h.fireAlarm))

theorem Keeps.alarmFire {n} (h : Keeps s t) : Keeps s (alarmFire n t) := .ite h.fire h

/-! ### The operations of Machine/Service.lean -/

theorem Keeps.arrayFault {p parity} (h : Keeps s t) : Keeps s (arrayFault p parity t) := .ite h.quarantine h

theorem Keeps.writeQuarReq {v} (h : Keeps s t) : Keeps s (writeQuarReq v t) := .ite h.quarantine.settle h

theorem Keeps.freeBytes {n} (h : Keeps s t) : Keeps s (freeBytes n t).2 := h.same

theorem Keeps.sourceBytes {k src n} (h : Keeps s t) : Keeps s (sourceBytes k src n t).2 := by
  unfold Machine.sourceBytes
  dsimp only
  split
  next e => exact (h.readHost.iteSnd h.readMem).of_snd e
  next e => exact ((h.readHost.iteSnd h.readMem).of_snd e).freeBytes

theorem Keeps.reload {p x} (h : Keeps s t) : Keeps s (reload p t x) := h.sourceBytes.loadStore

theorem Keeps.joinSpare {p} (h : Keeps s t) : Keeps s (joinSpare p t) := by
  unfold Machine.joinSpare
  split
  · exact h
  · exact (h.wipeClove.foldl fun h => h.reload).modClove

theorem Keeps.stopUpdate {t' w} (h : Keeps s t) : Keeps s (stopUpdate t' w t) := by
  unfold Machine.stopUpdate
  split
  · exact h.same.writeBlocks.endUpdate.completeUE
  · exact h

theorem Keeps.retireEngine {t'} (h : Keeps s t) : Keeps s (retireEngine t' t) :=
  .ite h (h.foldl fun h => h.stopUpdate).modComp.modSafe

theorem Keeps.updateResidue {t' w} (h : Keeps s t) : Keeps s (updateResidue t' w t) :=
  .ite h (.ite h.modSafe.retireEngine h.modSafe)

theorem Keeps.canary {p ok} (h : Keeps s t) : Keeps s (canary p ok t) := .ite h h.count.quarantine

theorem Keeps.engineCanary {t' ok} (h : Keeps s t) : Keeps s (engineCanary t' ok t) := .ite h h.count.retireEngine

theorem Keeps.canaryNow {p ok} (h : Keeps s t) : Keeps s (canaryNow p ok t) := .ite h.canary.settle h

theorem Keeps.lockstep {t'} (h : Keeps s t) : Keeps s (lockstep t' t) := .ite h.tileOutOfService h

theorem Keeps.clockFault {t'} (h : Keeps s t) : Keeps s (clockFault t' t) := .ite h.modSafe.safeStop.settlePhases h

theorem Keeps.disagree {die hot} (h : Keeps s t) : Keeps s (disagree die hot t) :=
  .ite (h.modSafe.andThen fun h1 => .andThen (.ite h1.modPower h1) fun h2 => .ite h2.throttle h2) h

theorem Keeps.stopAdding {k} (h : Keeps s t) : Keeps s (stopAdding k t) :=
  (h.modLink.modSafe.foldl fun h => h.moveBucket).replaceReq

theorem Keeps.adderFault {k l b} (h : Keeps s t) : Keeps s (adderFault k l b t) :=
  .ite h (h.count.andThen fun h1 => .andThen (.ite h1 h1.modBucket) fun h2 => .ite h2.modLink h2.modLink.stopAdding)

theorem Keeps.modSteward {f} (h : Keeps s t) : Keeps s (modSteward t f) := h.modSafe

theorem Keeps.ucodeGo (h : Keeps s t) : Keeps s (ucodeGo t) := by
  unfold Machine.ucodeGo
  refine .ite h ?_
  split
  · exact .ite h.same.modSteward h.same.modSteward
  · exact h.same.modSteward

theorem Keeps.ucodeApply (h : Keeps s t) : Keeps s (ucodeApply t) := .ite h (.ite h.modComp.modSteward h.modComp)

theorem Keeps.switchSteward (h : Keeps s t) : Keeps s (switchSteward t) := .ite h.modSteward h.restartSteward

theorem Keeps.stewardBack {ok} (h : Keeps s t) : Keeps s (stewardBack ok t) :=
  .ite h (.ite h.modSteward h.same.modSteward)

theorem Keeps.bistGo {p} (h : Keeps s t) : Keeps s (bistGo p t) := .ite h.modClove h

theorem Keeps.bistDone {p fail} (h : Keeps s t) : Keeps s (bistDone p fail t) :=
  .ite h (.ite h.wipeClove.modClove.modSafe h.wipeClove.modClove)

theorem Keeps.setMbist {c m} (h : Keeps s t) : Keeps s (setMbist c m t) := h.modTest

theorem Keeps.wipeChannel {c} (h : Keeps s t) : Keeps s (wipeChannel c t) :=
  h.modMem fun _ => canon_filter _

theorem Keeps.mbistGo {c} (h : Keeps s t) : Keeps s (mbistGo c t) :=
  .ite h (.ite h.setMbist (.ite h.setMbist.wipeChannel h.setMbist))

theorem Keeps.remapRows {c rows} (h : Keeps s t) : Keeps s (remapRows c rows t) := by
  unfold Machine.remapRows
  exact h.modMem

theorem Keeps.mbistDone {c rows} (h : Keeps s t) : Keeps s (mbistDone c rows t) :=
  .ite h (.ite h.setMbist.remapRows.markChannel.raiseCE h.setMbist.remapRows)

/-! ### The operations of Machine/Startup.lean -/

theorem Keeps.seatSpares (h : Keeps s t) : Keeps s (seatSpares t) := h.modComp

theorem Keeps.reapply {x} (h : Keeps s t) : Keeps s (reapply t x) := by
  unfold Machine.reapply
  dsimp only
  split
  · exact h.modClove.modClove
  · exact h.modClove

theorem Keeps.ledgerBanks (h : Keeps s t) : Keeps s (ledgerBanks t) := h.foldl fun h => h.modMem

theorem Keeps.ledgerChannels (h : Keeps s t) : Keeps s (ledgerChannels t) := by
  unfold Machine.ledgerChannels
  exact h.modMem

theorem Keeps.applyLedger (h : Keeps s t) : Keeps s (applyLedger t) := by
  unfold Machine.applyLedger
  exact ((h.foldl fun h => h.modClove).foldl fun h => h.reapply).modComp

theorem Keeps.retireBank {x} (h : Keeps s t) : Keeps s (retireBank t x) := .ite h.modMem h.modSafe

theorem Keeps.retireChannel {c} (h : Keeps s t) : Keeps s (retireChannel t c) :=
  .ite h (.modSafe (.ite h h.numberMoved))

theorem Keeps.applyFaults {f} (h : Keeps s t) : Keeps s (applyFaults f t) := by
  unfold Machine.applyFaults
  exact ((((((h.foldl fun h => h.quarantine.seatSpares).foldl fun h => h.count.quarantine.seatSpares).foldl
      fun h => h.count.retireEngine).foldl fun h => h.tileOutOfService).foldl fun h => h.retireBank).foldl
      fun h => h.retireChannel).modMem

theorem Keeps.warnIfLow (h : Keeps s t) : Keeps s (warnIfLow t) := .ite h.warn h

theorem Keeps.startUp {f} (h : Keeps s t) : Keeps s (startUp f t) :=
  h.cleared.modPower.modSafe.applyLedger.applyFaults.ledgerBanks.ledgerChannels.hbmReason.andThen fun h4 =>
    .ite h4.forcedStart.forcedStart.modSafe.setReady.warnIfLow h4.modSafe.safeStop.warnIfLow

theorem Keeps.auxOn {okA okB} (h : Keeps s t) : Keeps s (auxOn okA okB t) := .ite h h.modSafe.modPower

theorem Keeps.auxOff (h : Keeps s t) : Keeps s (auxOff t) :=
  have hm : Keeps s (Machine.mainOff 0 t) := h.mainOff
  .ite h hm.same

theorem Keeps.enableMain {f} (h : Keeps s t) : Keeps s (enableMain f t) := .ite h.startUp h

theorem Keeps.restartMain {f} (h : Keeps s t) : Keeps s (restartMain f t) := .ite h.startUp h

theorem Keeps.restartCool {cool f} (h : Keeps s t) : Keeps s (restartCool cool f t) := .ite h.modPower.enableMain h

theorem Keeps.moduleReset {cause f} (h : Keeps s t) : Keeps s (moduleReset cause f t) :=
  .ite h (h.modPower.andThen fun h1 => .ite h1.startUp h1.cleared.modSafe)

theorem Keeps.writeReset {v f} (h : Keeps s t) : Keeps s (writeReset v f t) := .ite h.moduleReset h.resetHostBy

theorem Keeps.wipeVolatile (h : Keeps s t) : Keeps s (wipeVolatile t) := h.modPower

theorem Keeps.lifeCommand {cmd f} (h : Keeps s t) : Keeps s (lifeCommand cmd f t) :=
  .ite h.modSafe (.ite h.modSafe h.modSafe.moduleReset.wipeVolatile)

/-! ### The operations of Machine/Registers.lean -/

theorem Keeps.clearCounters (h : Keeps s t) : Keeps s (clearCounters t) := h.modReg

theorem Keeps.takeSnapshot {auto clear} (h : Keeps s t) : Keeps s (takeSnapshot auto clear t) :=
  h.latchNow.andThen fun h1 => .ite h1.modReg.clearCounters h1.modReg

theorem Keeps.strobe {auto clear} (h : Keeps s t) : Keeps s (strobe auto clear t) :=
  .ite (.ite h.clearCounters h) h.takeSnapshot

theorem Keeps.distribute (h : Keeps s t) : Keeps s (distribute t) := .ite h.modReg h

theorem Keeps.hold4 {a mask v} (h : Keeps s t) : Keeps s (hold4 a mask v t) := h.setReg4

theorem Keeps.hold8 {a mask v} (h : Keeps s t) : Keeps s (hold8 a mask v t) := h.setReg8

theorem Keeps.clearOvf {a v} (h : Keeps s t) : Keeps s (clearOvf a v t) := h.modReg

theorem Keeps.writeLcWindow {o v} (h : Keeps s t) : Keeps s (writeLcWindow o v t) :=
  .ite h.modSafe.lifeCommand h.modSafe

theorem Keeps.writeGlobal {a v} (h : Keeps s t) : Keeps s (writeGlobal a v t) :=
  .ite
    h.writeInterlock
    (.ite
       h.writeReset
       (.ite (.ite h.writeLcWindow h) (.ite (h.hold4.andThen fun h1 => .ite h1.strobe h1) (.ite h.irqTest h))))

theorem Keeps.writeStreamCtrl {i v} (h : Keeps s t) : Keeps s (writeStreamCtrl i v t) := by
  unfold Machine.writeStreamCtrl
  dsimp only
  split
  · exact h.hold4
  · exact .ite h.hold4.streamAction h.streamAction
  · exact h.modStream

theorem Keeps.writeRingReg {i ok} {f : State → State} (h : Keeps s t) (hf : ∀ {u}, Keeps s u → Keeps s (f u)) :
    Keeps s (writeRingReg i ok f t) :=
  .ite (hf h) h.modStream

theorem Keeps.clearRingErr {i v} (h : Keeps s t) : Keeps s (clearRingErr i v t) := h.modStream

theorem Keeps.resetEq (h : Keeps s t) : Keeps s (resetEq t) := h.modHost

theorem Keeps.writeMsix {o v} (h : Keeps s t) : Keeps s (writeMsix o v t) :=
  .ite h (.ite (.ite h.hold4.unmask h.hold4) h.hold4)

theorem Keeps.writeHost {o v} (h : Keeps s t) : Keeps s (writeHost o v t) :=
  .ite
    h.hold4
    (.ite
       h.hold4
       (.ite
          (.ite h.hold4.resetEq h)
          (.ite
             h.clearOvf
             (.ite
                h.hold4
                (.ite
                   (.ite
                      (h.writeRingReg fun h => h.hold4)
                      (.ite h.writeStreamCtrl (.ite h.clearRingErr (.ite h.clearOvf h))))
                   (.ite
                      (.ite (h.writeRingReg fun h => h.hold4) h)
                      (.ite h.writeBwsplit (.ite h.hold4 (.ite h.writeSlotLen (.ite h.writeMsix h))))))))))

theorem Keeps.writeStashPages {v} (h : Keeps s t) : Keeps s (writeStashPages v t) :=
  .ite (.setReg4 (.ite h.modHost h)) (.modHost (.ite h.modHost h))

theorem Keeps.writeStashBase {v} (h : Keeps s t) : Keeps s (writeStashBase v t) := .ite h.hold8 h.modHost

theorem Keeps.writeTallyCtrl {v} (h : Keeps s t) : Keeps s (writeTallyCtrl v t) := h.setReg4.writeSrc.settle

theorem Keeps.clearTallyStat {v} (h : Keeps s t) : Keeps s (clearTallyStat v t) := h.modTally

theorem Keeps.writeTally {o v} (h : Keeps s t) : Keeps s (writeTally o v t) :=
  .ite
    h.writeTallyCtrl
    (.ite
       h.clearTallyStat
       (.ite
          h.hold4
          (.ite h.hold4 (.ite h.hold4 (.ite (.ite h.testGo h) (.ite h.clearOvf (.ite h.writeAlmCtrl h)))))))

theorem Keeps.clearPwrStat {v} (h : Keeps s t) : Keeps s (clearPwrStat v t) := h.modPower

theorem Keeps.writeGov {o v} (h : Keeps s t) : Keeps s (writeGov o v t) :=
  .ite
    h
    (.ite (.writeBoostEn (.ite h.cancelWindow h)) (.ite h.clearPwrStat (.ite h.clearOvf (.ite h.writePlanArm h))))

theorem Keeps.writePlanPair {o v} (h : Keeps s t) : Keeps s (writePlanPair o v t) := .ite h h.setReg8

theorem Keeps.writeCanaryCtrl {v} (h : Keeps s t) : Keeps s (writeCanaryCtrl v t) := .ite h.hold4 h

theorem Keeps.writeReserve {v} (h : Keeps s t) : Keeps s (writeReserve v t) := .ite h h.hold4

theorem Keeps.writeSafe {o v} (h : Keeps s t) : Keeps s (writeSafe o v t) :=
  .ite
    h.modSafe
    (.ite
       h.writeQuarReq
       (.ite
          h.writeCanaryCtrl
          (.ite h.clearOvf (.ite h.writeReserve (.ite h.writeRetire (.ite (.ite h.ucodeGo h) h))))))

theorem Keeps.writePortCtrl {p v} (h : Keeps s t) : Keeps s (writePortCtrl p v t) :=
  .ite
    (.retrainPort (.ite h.setReg4.enablePort h.setReg4.disablePort))
    (.ite h.setReg4.enablePort h.setReg4.disablePort)

theorem Keeps.writePmCtrl {p n v} (h : Keeps s t) : Keeps s (writePmCtrl p n v t) :=
  .ite
    (.pmInject
       (.ite
          (.ite (.ite h.setReg4 h.setReg4.modPm) (.pmTake (.ite h.setReg4 h.setReg4.modPm)))
          (.pmRelease (.ite h.setReg4 h.setReg4.modPm))))
    (.ite
       (.ite (.ite h.setReg4 h.setReg4.modPm) (.pmTake (.ite h.setReg4 h.setReg4.modPm)))
       (.pmRelease (.ite h.setReg4 h.setReg4.modPm)))

theorem Keeps.clearPmStat {p n v} (h : Keeps s t) : Keeps s (clearPmStat p n v t) := h.modPm

theorem Keeps.writePort {p o v} (h : Keeps s t) : Keeps s (writePort p o v t) :=
  .ite
    h.writePortCtrl
    (.ite
       h.hold4
       (.ite h.hold4 (.ite h.hold4 (.ite (.ite h.hold4 h) (.ite (.ite h.writePmCtrl (.ite h.clearPmStat h)) h)))))

theorem Keeps.writeInj {u' k v} (h : Keeps s t) : Keeps s (writeInj u' k v t) := h.setInj

theorem Keeps.writeChan {c o v} (h : Keeps s t) : Keeps s (writeChan c o v t) :=
  .ite (.andThen (.ite h.setMbist h) fun h1 => .ite h1.mbistGo h1) (.ite h (.ite h.clearOvf (.ite h.writeInj h)))

theorem Keeps.writeStash {p v} (h : Keeps s t) : Keeps s (writeStash p v t) :=
  .ite (.modClove (.ite h.modClove h)) (.modClove (.ite h.modClove h))

theorem Keeps.writeClove {p o v} (h : Keeps s t) : Keeps s (writeClove p o v t) :=
  .ite h.bistGo (.ite h (.ite h.canaryNow (.ite h.writeStash (.ite h.clearOvf (.ite h.writeInj h)))))

theorem Keeps.writeTile {t' o v} (h : Keeps s t) : Keeps s (writeTile t' o v t) := .ite h.clearOvf h

theorem Keeps.writeDims {v} (h : Keeps s t) : Keeps s (writeDims v t) :=
  .ite (h.hold4.andThen fun h1 => .ite h1.modLink h1) h.modLink

theorem Keeps.writePool {k v} (h : Keeps s t) : Keeps s (writePool k v t) :=
  .ite h.modLink (.ite h.modLink.setReg8 h.modLink.modLink)

theorem Keeps.writeHomeLoad {k v} (h : Keeps s t) : Keeps s (writeHomeLoad k v t) :=
  h.hold8.andThen fun h1 => .ite h1.homeLoadGo h1

theorem Keeps.writeLink {k o v} (h : Keeps s t) : Keeps s (writeLink k o v t) :=
  .ite
    h
    (.ite
       (.ite h.hold4 h)
       (.ite
          h.modLink
          (.ite
             h.writeDims
             (.ite
                h.writeLnkBkt
                (.ite
                   h.cancelBucket.settleEngines
                   (.ite h.hold4 (.ite h.hold4 (.ite h.clearOvf (.ite h.writeInj h)))))))))

/-- Every write of the 64-bit register, where there is one, keeps the queue and the canonical form. -/
def KeepsReg (r : Option Reg64) : Prop := ∀ x ∈ r, ∀ {s t v}, Keeps s t → Keeps s (x.put v t)

namespace KeepsReg

theorem none : KeepsReg none := fun _ hx => nomatch hx

theorem some {cur put} (hp : ∀ {s t v}, Keeps s t → Keeps s (put v t)) : KeepsReg (some ⟨cur, put⟩) := fun x hx => by
  obtain rfl := Option.some.inj hx
  exact hp

theorem ite {c : Prop} [Decidable c] {q r : Option Reg64} (hq : KeepsReg q) (hr : KeepsReg r) :
    KeepsReg (if c then q else r) := by
  split
  · exact hq
  · exact hr

end KeepsReg

theorem keepsReg_host64 {s o} : KeepsReg (host64 s o) :=
  .ite (.some fun h => h.hold8) (.ite (.some fun h => h.hold8) (.ite (.some fun h => h.hold8)
    (.ite (.some fun h => h.hold8) (.ite (.some fun h => h.hold8.resetEq) (.ite (.some fun h => h.modHost)
      (.ite (.some fun h => h.writeRingReg fun h => h.hold8) (.ite (.some fun h => h.writeStashBase)
        (.ite (.some fun h => h.writeStashPages) .none))))))))

theorem keepsReg_tally64 {s o} : KeepsReg (tally64 s o) :=
  .ite (.some fun h => h.writePreset) (.ite (.some fun h => h.writeAlmMark) .none)

theorem keepsReg_gov64 {s o} : KeepsReg (gov64 s o) := .ite (.some fun h => h.writePlanPair) .none

theorem keepsReg_port64 {s p o} : KeepsReg (port64 s p o) :=
  .ite (.some fun h => h.clearOvf) (.ite (.some fun h => h.hold8) .none)

theorem keepsReg_link64 {s k o} : KeepsReg (link64 s k o) :=
  .ite .none (.ite (.some fun h => h.hold8) (.ite (.some fun h => h.writePool) (.ite (.some fun h => h.homeData)
    (.ite (.some fun h => h.hold8) (.ite (.some fun h => h.writeHomeLoad) (.ite (.some fun h => h.hold8)
      (.ite (.some fun h => h.hold8) .none)))))))

theorem keepsReg_safe64 {s o} : KeepsReg (safe64 s o) :=
  .ite (.some fun h => .ite h.setReg8 h) (.ite (.some fun h => .ite h.switchSteward h)
    (.ite (.some fun h => h.hold8.rearmScrub) (.ite (.some fun h => h.hold8.rearmScrub)
      (.ite (.some fun h => h.modMem) .none))))

theorem keepsReg_reg64 {s a} : KeepsReg (reg64 s a) := by
  unfold reg64
  split
  · exact keepsReg_host64
  · exact keepsReg_tally64
  · exact keepsReg_gov64
  · exact keepsReg_port64
  · exact keepsReg_link64
  · exact keepsReg_safe64
  · exact .none

theorem Keeps.writeWord {a v} (h : Keeps s t) : Keeps s (writeWord a v t) := by
  unfold Machine.writeWord
  split
  · exact h.writeGlobal
  · exact h.writeHost
  · exact h.writeTally
  · exact h.writeGov
  · exact h.writePort
  · exact h.writeChan
  · exact h.writeClove
  · exact h.writeTile
  · exact h.writeLink
  · exact h.writeSafe
  · exact h

theorem Keeps.write4 {a v} (h : Keeps s t) : Keeps s (write4 a v t) := by
  unfold Machine.write4
  split
  next e => exact keepsReg_reg64 _ e h
  next => exact h.writeWord

theorem Keeps.write8 {a v} (h : Keeps s t) : Keeps s (write8 a v t) := by
  unfold Machine.write8
  split
  next e => exact keepsReg_reg64 _ e h
  next => exact .ite h.writeWord.writeWord h.writeWord.writeWord

theorem Keeps.writeReg {a size v} (h : Keeps s t) : Keeps s (writeReg a size v t) :=
  .ite h.write4 (.ite ((h.foldl fun h => .ite h.write8 h).andThen fun h1 => .ite h1.write4 h1) h)

/-! ### The operations of Machine/Jtag.lean -/

theorem Keeps.jtag {ir} (h : Keeps s t) : Keeps s (jtag ir t) := .ite h.modTest h

theorem Keeps.sample {preload pins} (h : Keeps s t) : Keeps s (sample preload pins t) := .ite h.modTest.answer h

theorem Keeps.readIdcode (h : Keeps s t) : Keeps s (readIdcode t) := .ite h.jtag.answer h

/-! ### The operations of Machine/Time.lean -/

theorem Keeps.compareBits {p x} (h : Keeps s t) : Keeps s (compareBits p t x) := .ite h.same.pmErrors.modPm.timer h

theorem Keeps.compareAll (h : Keeps s t) : Keeps s (compareAll t) := h.foldl fun h => h.foldl fun h => h.compareBits

theorem Keeps.coreTick (h : Keeps s t) : Keeps s (coreTick t) := h.same

theorem Keeps.tick (h : Keeps s t) : Keeps s (tick t) :=
  .ite h (.refresh (.same (.ite (.compareAll (.coreTick h)) h)))

/-! ### Commands and steps -/

/-- An outcome keeps the queue and the canonical form where it is a next state. -/
def KeepsO (s : State) (o : Host.Outcome State Fault Refusal) : Prop := ∀ t, o = .next t → Keeps s t

theorem KeepsO.next (h : Keeps s t) : KeepsO s (.next t) := fun _ e => by cases e; exact h

theorem KeepsO.onUnit {ok} (h : Keeps s t) : KeepsO s (onUnit ok t) := by
  cases ok with
  | false => exact fun _ e => nomatch e
  | true => exact .next h

/-- Every command keeps the queue and the canonical form of memory: each does what its meaning's operations do. -/
theorem exec_keeps (i : Instr) (s : State) : KeepsO s (exec i s) := by
  have h : Keeps s s := .refl
  cases i with
  | nop | matmul | bwdPair | productTableMatmul | vecop | scan | moveCopy | moveScaleFile | moveInt4Table
  | moveRowBank | moveSpline | moveGroup | moveWeightTable | moveStatSlot | snapshot | seed | keyseed
  | deliver | reduce | dispatch | combine | gate | depend | barrier | call | update | stashSave | stashLoad
  | scaleCommit | stepCommit | event =>
    exact .onUnit h.offerDesc
  | descriptorTake => exact .onUnit (.ite h.streamStep.settle h)
  | completionEntryWrite => exact .onUnit h.retire.settlePhases
  | itemHandout => exact .onUnit h.podHandOut.settle
  | workSteal => exact .onUnit h.podSteal.settle
  | contextSwitch => exact .onUnit h.contextBoundary
  | tileWaitOpen => exact .onUnit h.openWaiting.settle
  | sharedMemberAdd => exact .onUnit h.memberAdds.settle
  | combinePartialReceive => exact .onUnit h.combineStep.settle
  | stolenChunkReceive => exact .onUnit h.takeStolen.settle
  | tileDrain => exact .onUnit h.startDrain.settle
  | drainPassEnd => exact .onUnit h.passEnd.settle
  | redrainComplete => exact .onUnit h.redrain.settle
  | stashSaveResume => exact .onUnit h.resumeSave.settle
  | updateStart => exact .onUnit h.startUpdate.settle
  | voteResult => exact .onUnit h.voteResult.settle
  | streamEnable | streamDisable | streamResume | streamAbort | streamRestart => exact .onUnit h.streamAction
  | stallDetect => exact .onUnit h.stallFire.settle
  | sqDb => exact .onUnit h.writeSqDb
  | cqDb => exact .onUnit h.writeCqDb
  | eqDb => exact .next h.writeEqDb
  | msixModTimer => exact .onUnit h.modTimerOut
  | msixUnmask => exact .onUnit (.ite h.unmask h)
  | glbIrqTest => exact .next (.ite h.irqTest h)
  | bar4Read => exact .next (.ite h.apertureRead h)
  | bar4Write => exact .next (.ite h.apertureWrite h)
  | hbmRowRemapDone => exact .onUnit h.rowRemapDone
  | trackerEntryExpire => exact .onUnit h.expireEntry
  | scrubWindowOpen => exact .next (.ite h.openWindow h)
  | scrubWindowClose => exact .next (.ite h.closeWindow h)
  | scrubForcedStart => exact .next h.forcedStart
  | scrubForcedRate => exact .next h.forcedRate
  | scrubPassComplete => exact .next (.ite h.passDone h)
  | memInjArm => exact .onUnit (.ite h.setInj h)
  | hbmRetire => exact .next (.ite h.writeRetire h)
  | hbmMigrationDone => exact .onUnit h.migrated
  | arrayFault => exact .onUnit h.arrayFault.settle
  | spareJoin => exact .onUnit (.ite h.joinSpare h)
  | canaryRun => exact .onUnit (.ite (.settle (.ite h.engineCanary h.canary)) h)
  | canaryNow => exact .onUnit (.ite h.canaryNow h)
  | quarReq => exact .next (.ite h.writeQuarReq h)
  | lockstepMismatch => exact .onUnit h.lockstep.settleEngines
  | clockFault => exact .onUnit h.clockFault
  | tempDisagree => exact .onUnit h.disagree
  | linkAdderResidueFault => exact .onUnit h.adderFault.settle
  | updateResidueFault => exact .onUnit h.updateResidue.settle
  | ucodeGo => exact .next (.ite h.ucodeGo h)
  | ucodeApply => exact .next (.ite h.ucodeApply h)
  | stewardSwitch => exact .next (.ite h.switchSteward h)
  | stewardRestartDone => exact .next h.stewardBack
  | quadEdge => exact .next h.quadEdge.settle
  | zPulse => exact .next h.zPulse.settle
  | zMissing => exact .next h.zMissing
  | serialFrame => exact .next h.serialFrame.settle
  | fabricTick => exact .onUnit h.fabricTick.settle
  | fabricPing => exact .onUnit h.answerPing
  | fabricEcho => exact .onUnit (.ite h.takeEcho h)
  | pingTimer => exact .next h.sendPing
  | tickSendTimer => exact .next h.sendTicks
  | pairFault => exact .onUnit (.settle (.ite h.pairFault h))
  | pairRestore => exact .onUnit (.settle (.ite h.pairRestore h))
  | illegalLimit => exact .next h.illegalLimit.settle
  | illegalRecover => exact .next h.illegalRecover.settle
  | framesTimeout => exact .next h.framesTimeout.settle
  | holdoverExpire => exact .next h.holdoverExpire.settle
  | tallyBusStamp => exact .next h.busStamp
  | alarmFire => exact .onUnit h.alarmFire
  | gateRelease => exact .onUnit (.settle (.ite h.releaseGate h))
  | tallyCtrlSrc => exact .next (.ite h.writeSrc.settle h)
  | tallyPreset => exact .next (.ite h.writePreset h)
  | tallyNowLoRead => exact .next (.ite h.readNowLo h)
  | almArm | almDisarm => exact .onUnit (.ite h.writeAlmCtrl h)
  | tallyTestGo => exact .next (.ite h.testGo h)
  | tallyTestDone => exact .next h.testDone.settle
  | portEnable => exact .onUnit (.ite h.enablePort h)
  | portDisable => exact .onUnit (.ite h.disablePort h)
  | portRetrain => exact .onUnit (.ite h.retrainPort h)
  | portDetect => exact .onUnit h.detect
  | portTrainDone => exact .onUnit h.trainDone
  | portAlignDone => exact .onUnit h.alignDone
  | identExchange => exact .onUnit h.identify
  | portCreditDone => exact .onUnit h.creditDone
  | flitSend => exact .onUnit h.sendFlit
  | flitReceive => exact .onUnit h.receiveFlit.settleEngines
  | replayTimeout => exact .onUnit h.replayTimeout
  | laneFailure => exact .onUnit h.laneFailure
  | laneFail => exact .onUnit h.txLaneFail
  | recalReq => exact .onUnit h.recalReq
  | recalAck => exact .onUnit h.recalAck
  | recalDone => exact .onUnit h.recalDone
  | portKeepExpire => exact .onUnit h.keepExpire
  | pmOwn => exact .onUnit (.ite h.pmTake h)
  | pmInject => exact .onUnit (.ite h.pmInject h)
  | bucketArm => exact .onUnit h.armBucket.settle
  | grantReceive => exact .onUnit h.takeGrant.settle
  | reduceChunkReceive => exact .onUnit h.takeUp.settle
  | resultChunkReceive => exact .onUnit h.takeDown.settle
  | reduceDeadline => exact .onUnit (.ite h.fireTree.settle h)
  | backupCopyReceive => exact .onUnit h.receiveCopy
  | copyHoldExpire => exact .onUnit h.expireCopy
  | shadowTrailerReceive => exact .onUnit h.shadowTrailer.settle
  | lnkBktWrite => exact .next (.ite h.writeLnkBkt h)
  | lnkBktCancel => exact .onUnit (.ite h.cancelBucket.settleEngines h)
  | countResult => exact .next h.countResult.settleEngines
  | countTimeout => exact .next h.countTimeout.settleEngines
  | dispatchRequestReceive => exact .next h.takeRequest.settleEngines
  | dispatchGrantReceive => exact .next h.takeAllot.settleEngines
  | tokenRecordReceive => exact .next h.takeToken.settleEngines
  | expertOutputReceive => exact .next h.takeOutput.settleEngines
  | homeDataRead | homeDataWrite => exact .onUnit (.ite h.homeData h)
  | homeLoadGo => exact .onUnit (.ite h.homeLoadGo h)
  | homeLoadDone => exact .onUnit h.homeLoadDone
  | schedBwsplitWrite => exact .next (.ite h.writeBwsplit h)
  | slotLenWrite => exact .onUnit (.ite h.writeSlotLen h)
  | phaseInterlockWrite => exact .next (.ite h.writeInterlock h)
  | glbSnapStrobe | autoSnapshot => exact .next (.ite h.strobe h)
  | snapshotDistributed => exact .next h.distribute
  | registerWrite => exact .next (.ite h.writeReg h)
  | clvBistGo => exact .onUnit (.ite h.bistGo h)
  | clvBistDone => exact .onUnit (.ite h.bistDone h)
  | hbmMbistGo => exact .onUnit (.ite h.mbistGo h)
  | hbmMbistDone => exact .onUnit (.ite h.mbistDone h)
  | bypass | extest | clamp | highz => exact .next h.jtag
  | samplePreload => exact .next h.sample
  | idcode => exact .next h.readIdcode
  | readVin | readIin | readPin | readTemperature1 | readTemperature2 | statusWord | statusInput
  | statusTemperature =>
    exact .next h.pmbus
  | clearFaults => exact .next h.clearFaults
  | auxPowerOn => exact .next h.auxOn
  | mainPowerEnable => exact .next h.enableMain
  | resetN => exact .next h.moduleReset
  | glbResetModule => exact .next (.ite h.writeReset h)
  | glbResetHost => exact .next (.ite h.resetHostBy h)
  | functionLevelReset => exact .next (.ite h.hostReset h)
  | hostPerst => exact .next h.perst
  | pcieLinkDown => exact .next h.linkDown
  | lcCmd => exact .next (.ite h.lifeCommand h)
  | bladeLoss => exact .next h.loseBlade
  | bladeReturn => exact .next h.returnBlade
  | supplyWarning => exact .next h.warn
  | supplyQualStart => exact .next h.qualStart
  | supplyRecover => exact .next h.recover
  | clockReturnStep => exact .next h.returnStep
  | brownOut | overVoltage | overcurrentReset => exact .next h.mainOff
  | mainPowerRestart => exact .next h.restartMain
  | governorEvaluate => exact .next h.govern
  | currentLimitTrip => exact .next h.currentTrip
  | currentRestore => exact .next h.currentRestore
  | boostPlanArm => exact .onUnit (.ite h.writePlanArm h)
  | boostStartMark => exact .onUnit (.ite h.startMark h)
  | boostEndMark => exact .onUnit (.ite h.endMark h)
  | boostDurationExpire => exact .next h.endWindow
  | govBoostEnWrite => exact .next (.ite h.writeBoostEn h)
  | govCancel => exact .next (.ite h.cancelWindow h)
  | wearLedgerUpdate => exact .next h.wearTick
  | coolantOut => exact .next h.coolantLost
  | thermalThrottle => exact .next h.throttle
  | thermalShutdown => exact .next h.thermalOff
  | thermalRestart => exact .next h.restartCool
  | workItemComplete => exact .onUnit h.completeItem.refill.settle
  | updateComplete => exact .onUnit h.finishUpdate.settle
  | scrubRead => exact .onUnit (.ite h.scrubUnit h)
  | eyeMonitorBelowMargin => exact .onUnit h.measureEye
  | qualificationAbandoned => exact .next h.qualAbandon
  | aux3v3Loss => exact .next h.auxOff
  | pcieLinkUp => exact .next h.linkUp
  | peppermillLock => exact .onUnit h.pmLock
  | peppermillLostLock => exact .onUnit h.pmLost

end

/-- Settles O59: a step is one command on the queue's rest, or a tick; each keeps the canonical form of both memories. -/
theorem stepKeepsMemInv : Obligations.StepKeepsMemInv := by
  unfold Obligations.StepKeepsMemInv
  intro s t hs h
  unfold step at h
  split at h
  next hq =>
    obtain rfl := Host.Outcome.next.inj h
    have hk : Keeps s (tick s) := Keeps.refl.tick
    exact ⟨hk.mem hs, by rw [hk.pending, hq, List.tail_nil]⟩
  next c rest hq =>
    obtain ⟨hp, hm⟩ := exec_keeps c _ t h
    exact ⟨hm hs, by rw [hp, hq, List.tail_cons]⟩

end Sys2Proof.Machine
end

section
/-! Refutation of O53: the stores of a joining spare are reloaded from where they were loaded (R259). Where that is host
memory and the read ends in a failed completion, AER logs it (Table 10.24), a part of the host link that the frame of
the joining clause leaves out. -/

namespace Sys2Proof.Machine

@[simp] theorem loadStore_host (store first n : Nat) (bs : List Byte) (p : Nat) (s : State) :
    (loadStore store first n bs p s).host = s.host := by
  unfold loadStore
  split
  · simp
  · simp
  · simp [countIn]
  · simp

@[simp] theorem freeBytes_host (n : Nat) (s : State) : (freeBytes n s).2.host = s.host := rfl

@[simp] theorem wipeClove_host (p : Nat) (s : State) : (wipeClove p s).host = s.host := rfl

/-- MEM_UE leaves what AER has logged. -/
@[simp] theorem raiseUE_aer (u a req : Nat) (s : State) : (raiseUE u a req s).host.aer = s.host.aer := by
  unfold raiseUE
  dsimp only
  split
  · rfl
  · exact ((raiseEv_sameBut _ _).part .hostLink (by decide)).2.1

/-- A read of host memory whose completion fails: AER logs it (Table 10.24). -/
theorem readHost_failed {a n i b : Nat} {s : State} (hup : s.host.linkUp = true)
    (hb : s.host.bad.find? (fun b => decide (b < a + max n 1) && decide (a < b + 64)) = some b) :
    readHost a n i s = (.error (.ue 2), raiseUE 0x4000 (max a b) (reqStream i) (logAer 3 false a n s)) := by
  simp [readHost, hup, hb]

/-- A source in host memory whose read fails. -/
theorem sourceBytes_failed {t src n b : Nat} {s : State} (hsrc : 2 ^ 64 ≤ src) (hup : s.host.linkUp = true)
    (hb : s.host.bad.find? (fun b => decide (b < src % 2 ^ 64 + max n 1) && decide (src % 2 ^ 64 < b + 64)) = some b) :
    (sourceBytes t src n s).2.host.aer = s.host.aer ++ [⟨3, false, src % 2 ^ 64, n⟩] := by
  simp only [sourceBytes, if_pos hsrc, readHost_failed hup hb, freeBytes_host, raiseUE_aer]
  rfl

/-- A module in service with clove 36 quarantined and spare 72 joining its place; the one source on record is of a scale,
at address 0 of host memory, where reads fail. -/
def joiningBadSource : State :=
  { State.reset with
    power := { PowerSt.empty with aux := true, main := true, ok := true }
    safe := { SafeSt.empty with ready := true, phase := 5 }
    host := { HostSt.empty with linkUp := true, perstLow := false, bad := [0] }
    comp := { ComputeSt.empty with cloves :=
      [(36, { Clove.empty with quarantined := true, seat := .out }),
       (72, { Clove.empty with joining := some 36, sources := [(1, 0, 1, 2 ^ 64)] })] } }

/-- The spare joins, and AER logs the read of its source. -/
theorem joinSpare_logsAer : (joinSpare 72 joiningBadSource).host.aer = [⟨3, false, 0, 4⟩] := by
  have hjoin : (clove joiningBadSource 72).joining = some 36 := by decide
  have hsources : (clove joiningBadSource 72).sources = [(1, 0, 1, 2 ^ 64)] := by decide
  have hread := sourceBytes_failed (t := 0) (src := 2 ^ 64) (n := 4) (b := 0) (s := wipeClove 72 joiningBadSource)
    (by decide) rfl (by decide)
  have hnone : joiningBadSource.host.aer = [] := rfl
  simpa [joinSpare, hjoin, hsources, reload, storeSize, hnone] using hread

/-- Refutes O53: spare 72 joins with a source in host memory whose read fails, and AER, which the joining clause holds,
has a record more. -/
theorem not_serviceInPlace : ¬ Obligations.ServiceInPlace := by
  unfold Obligations.ServiceInPlace
  intro h
  obtain ⟨hcloves, -⟩ := h joiningBadSource
  obtain ⟨-, -, -, -, -, -, -, hjoins, -⟩ := hcloves 72 (by decide)
  obtain ⟨t, he, -, -, -, -, -, hrest⟩ := hjoins 36 (by decide) (by decide) (by decide)
  have hexec : exec (.spareJoin 72) joiningBadSource = .next (joinSpare 72 joiningBadSource) := rfl
  obtain rfl := Host.Outcome.next.inj (hexec.symm.trans he)
  have haer : (joinSpare 72 joiningBadSource).host.aer = [] := (hrest.part .hostLink (by decide)).2.1
  rw [joinSpare_logsAer] at haer
  exact absurd haer (by decide)

end Sys2Proof.Machine
end

section
/-! Elements packed in bytes (R27): two 4-bit codes share a byte, and a wider code is whole bytes, least significant
first (R6). -/

namespace Sys2Proof.Machine

/-! ### Codes of 4 bits -/

theorem unpackCodes_four_cons (x : Byte) (b : List Byte) :
    unpackCodes 4 (x :: b) = bitsAt x.toNat 3 0 :: bitsAt x.toNat 7 4 :: unpackCodes 4 b := by
  have hhigh : x.toNat / 16 = x.toNat / 16 % 16 := by omega
  simp only [unpackCodes, bitsAt, Nat.shiftRight_eq_div_pow]
  simpa using hhigh

theorem getD_unpackCodes_four {b : List Byte} {i : Nat} (hi : i < b.length) :
    (unpackCodes 4 b).getD (2 * i) 0 = bitsAt (b.getD i 0#8).toNat 3 0
      ∧ (unpackCodes 4 b).getD (2 * i + 1) 0 = bitsAt (b.getD i 0#8).toNat 7 4 := by
  induction b generalizing i with
  | nil => exact absurd hi (Nat.not_lt_zero i)
  | cons x b ih =>
    rw [unpackCodes_four_cons]
    cases i with
    | zero => exact ⟨rfl, rfl⟩
    | succ i =>
      rw [Nat.mul_succ]
      simpa using ih (Nat.lt_of_succ_lt_succ hi)

/-- Codes of 4 bits read back; an odd number of them leaves the last high half 0. -/
theorem unpackCodes_packCodes_four : ∀ cs : List Nat, (∀ c ∈ cs, c < 2 ^ 4) →
    unpackCodes 4 (packCodes 4 cs) = cs ++ List.replicate (cs.length % 2) 0
  | [], _ => rfl
  | [c], h => by
    have hc : c < 16 := h c (by simp)
    have hlow : c % 16 % 256 % 16 = c := by omega
    have hhigh : c % 16 % 256 / 16 = 0 := by omega
    simp only [packCodes, unpackCodes, BitVec.toNat_ofNat, Nat.reducePow, hlow, hhigh]
    rfl
  | c :: d :: cs, h => by
    have hc : c < 16 := h c (by simp)
    have hd : d < 16 := h d (by simp)
    have hlow : (c % 16 + 16 * (d % 16)) % 256 % 16 = c := by omega
    have hhigh : (c % 16 + 16 * (d % 16)) % 256 / 16 = d := by omega
    have ih := unpackCodes_packCodes_four cs fun x hx => h x (by simp [hx])
    simp only [packCodes, unpackCodes, BitVec.toNat_ofNat, Nat.reducePow, hlow, hhigh, ih, List.cons_append,
      List.length_cons, Nat.add_assoc, Nat.reduceAdd, Nat.add_mod_right]

theorem length_packCodes_four : ∀ cs : List Nat, (packCodes 4 cs).length = (cs.length + 1) / 2
  | [] => rfl
  | [_] => by simp [packCodes]
  | _ :: _ :: cs => by
    simp only [packCodes, List.length_cons, length_packCodes_four cs]
    omega

/-! ### Codes of whole bytes -/

theorem leNat_leBytes {n v : Nat} (h : v < 256 ^ n) : leNat (leBytes n v) = v := by
  induction n generalizing v with
  | zero => simpa [leBytes, leNat, eq_comm] using h
  | succ n ih =>
    have hrest : v / 256 < 256 ^ n := Nat.div_lt_of_lt_mul (by rwa [Nat.pow_succ'] at h)
    simp only [leBytes, leNat, ih hrest, BitVec.toNat_ofNat]
    exact Nat.mod_add_div v 256

section
variable {w : Nat} (hw : w ∈ [1, 2, 4])
include hw

theorem packCodes_bytes_cons (c : Nat) (cs : List Nat) :
    packCodes (8 * w) (c :: cs) = leBytes w c ++ packCodes (8 * w) cs := by
  fin_cases hw <;> rfl

/-- The first code of a list of bytes is the number that its first `w` bytes spell. -/
theorem unpackCodes_bytes_append {x : List Byte} (hx : x.length = w) (b : List Byte) :
    unpackCodes (8 * w) (x ++ b) = leNat x :: unpackCodes (8 * w) b := by
  fin_cases hw
  · match x, hx with
    | [x0], _ => rfl
  · match x, hx with
    | [x0, x1], _ => rfl
  · match x, hx with
    | [x0, x1, x2, x3], _ =>
      have hsum : leNat [x0, x1, x2, x3]
          = x0.toNat + 256 * x1.toNat + 65536 * x2.toNat + 16777216 * x3.toNat := by
        simp only [leNat]
        ring
      rw [hsum]
      rfl

theorem getD_unpackCodes_bytes {b : List Byte} {k : Nat} (hk : (k + 1) * w ≤ b.length) :
    (unpackCodes (8 * w) b).getD k 0 = leNat ((b.drop (w * k)).take w) := by
  induction k generalizing b with
  | zero =>
    have hfirst : (b.take w).length = w := by simpa using hk
    rw [← List.take_append_drop w b, unpackCodes_bytes_append hw hfirst]
    simp
  | succ k ih =>
    rw [Nat.succ_mul] at hk
    have hlen : w ≤ b.length := by omega
    have hrest : (k + 1) * w ≤ (b.drop w).length := by
      rw [List.length_drop]
      omega
    have hdrop : (b.drop w).drop (w * k) = b.drop (w * (k + 1)) := by
      rw [List.drop_drop, Nat.mul_succ, Nat.add_comm]
    rw [← hdrop, ← ih hrest]
    conv_lhs => rw [← List.take_append_drop w b, unpackCodes_bytes_append hw (List.length_take_of_le hlen)]
    rfl

theorem unpackCodes_packCodes_bytes (cs : List Nat) (h : ∀ c ∈ cs, c < 256 ^ w) :
    unpackCodes (8 * w) (packCodes (8 * w) cs) = cs := by
  induction cs with
  | nil => rfl
  | cons c cs ih =>
    obtain ⟨hc, hcs⟩ := List.forall_mem_cons.mp h
    rw [packCodes_bytes_cons hw, unpackCodes_bytes_append hw (length_leBytes w c), leNat_leBytes hc, ih hcs]

theorem length_packCodes_bytes (cs : List Nat) : (packCodes (8 * w) cs).length = cs.length * w := by
  induction cs with
  | nil => simp [packCodes]
  | cons c cs ih =>
    rw [packCodes_bytes_cons hw, List.length_append, length_leBytes, ih, List.length_cons]
    ring

/-- Codes of whole bytes, in the words of the statement on packing. -/
theorem packCodes_bytes_roundTrip (cs : List Nat) (h : ∀ c ∈ cs, c < 2 ^ (8 * w)) :
    (unpackCodes (8 * w) (packCodes (8 * w) cs)).take cs.length = cs
      ∧ (packCodes (8 * w) cs).length = (cs.length * (8 * w) + 7) / 8 := by
  have hcodes : ∀ c ∈ cs, c < 256 ^ w := by simpa [Nat.pow_mul] using h
  have hbits : cs.length * (8 * w) = 8 * (cs.length * w) := by ring
  refine ⟨by rw [unpackCodes_packCodes_bytes hw cs hcodes, List.take_length], ?_⟩
  rw [length_packCodes_bytes hw, hbits]
  omega
end

/-- Settles O56: each clause for codes of 4 bits and for codes of whole bytes, by induction on the bytes or the codes. -/
theorem packedElements : Obligations.PackedElements := by
  unfold Obligations.PackedElements
  refine ⟨fun b i => getD_unpackCodes_four, fun b w k hw => getD_unpackCodes_bytes (by simp [hw]), ?_⟩
  intro s hs cs h
  fin_cases hs
  · refine ⟨by rw [unpackCodes_packCodes_four cs h, List.take_left], ?_⟩
    rw [length_packCodes_four]
    omega
  · exact packCodes_bytes_roundTrip (w := 1) (by decide) cs h
  · exact packCodes_bytes_roundTrip (w := 2) (by decide) cs h
  · exact packCodes_bytes_roundTrip (w := 4) (by decide) cs h

end Sys2Proof.Machine
end

section
/-! Work in a memory that meets no error: what it moves where it succeeds. -/

namespace Sys2Proof.Machine

section
variable {s t u : State}

/-! ### Records of a window -/

/-- The record of number `q` that the window of stream `i` holds. -/
def heldRec (s : State) (i q : Nat) : Option Rec := (stream s i).window.find? (fun r => r.seq == q)

theorem seq_of_heldRec {i q : Nat} {r : Rec} (h : heldRec s i q = some r) : r.seq = q := by
  simpa using List.find?_some h

theorem findRec_of_heldRec {i q : Nat} {r : Rec} (h : heldRec s i q = some r) : findRec s i q = some r := by
  simp only [heldRec] at h
  simp [findRec, List.find?_append, h]

theorem seq_of_findRec {i q : Nat} {r : Rec} (h : findRec s i q = some r) : r.seq = q := by
  simpa using List.find?_some h

/-- A record that is found, and that its window holds, is found there. -/
theorem heldRec_of_findRec {i q : Nat} {r : Rec} (h : findRec s i q = some r) (hr : r ∈ (stream s i).window) :
    heldRec s i q = some r := by
  cases hw : heldRec s i q with
  | some x => rw [findRec_of_heldRec hw] at h; exact h
  | none =>
    have := List.find?_eq_none.mp hw r hr
    simp [seq_of_findRec h] at this

theorem heldRec_congr (h : t.host.streams = s.host.streams) (i q : Nat) : heldRec t i q = heldRec s i q := by
  simp only [heldRec, stream_congr h]

theorem findRec_congr (h : t.host.streams = s.host.streams) (i q : Nat) : findRec t i q = findRec s i q := by
  simp only [findRec, stream_congr h]

/-- A change that keeps numbers changes the record of its number, wherever the window lists it. -/
theorem heldRec_modRec {f : Rec → Rec} (hf : ∀ r, (f r).seq = r.seq) (j k i q : Nat) (s : State) :
    heldRec (modRec j k f s) i q = if i = j then (heldRec s i q).map (modRecIn k f) else heldRec s i q := by
  have hseq (r : Rec) : (modRecIn k f r).seq = r.seq := by
    unfold modRecIn
    split
    · exact hf r
    · rfl
  split
  next h =>
    subst h
    simp only [heldRec, modRec, stream_modStream, List.find?_map]
    congr 2
    funext r
    simp [hseq]
  next h => simp only [heldRec, modRec, stream_modStream_other _ _ h]

theorem heldRec_modRec_self {f : Rec → Rec} (hf : ∀ r, (f r).seq = r.seq) {i q : Nat} {r : Rec}
    (h : heldRec s i q = some r) : heldRec (modRec i q f s) i q = some (f r) := by
  simp [heldRec_modRec hf, h, modRecIn, seq_of_heldRec h]

/-! ### Frames of single changes -/

theorem modComp_sameBut (f : ComputeSt → ComputeSt) (s : State) : sameBut [.comp] s (modComp s f) :=
  ⟨rfl, fun p hp => by cases p <;> simp_all [Part.same]⟩

theorem modStream_sameBut (i : Nat) (f : Stream → Stream) (s : State) : sameBut [.streams] s (modStream s i f) :=
  ⟨rfl, fun p hp => by cases p <;> simp_all [Part.same, modStream, setStream]⟩

theorem timer_sameBut (a n : Nat) (s : State) : sameBut [.counters] s (timer a n s) :=
  ⟨rfl, fun p hp => by cases p <;> simp_all [Part.same, timer]⟩

/-- Two states between which no part moves are one. -/
theorem eq_of_sameBut_nil (h : sameBut [] s t) : t = s := by
  obtain ⟨hpending, h⟩ := h
  have h (p : Part) : p.same s t := h p List.not_mem_nil
  have hmem := h .mem
  have hheld := h .held
  have hcounters := h .counters
  have hcopies := h .copies
  have hphases := h .phases
  have hstreams := h .streams
  have hhostMem := h .hostMem
  have hring := h .ring
  have hhostLink := h .hostLink
  have hcomp := h .comp
  have hstep := h .stepGuard
  have htally := h .tally
  have hports := h .ports
  have hlink := h .link
  have hsafe := h .safe
  have hpower := h .power
  have htest := h .test
  have htime := h .time
  have hresp := h .resp
  have hfree := h .free
  clear h
  obtain ⟨_, _, _, _, _, ⟨_, _, _, _, _, _, _, _, _⟩, ⟨_, _, _, _, _, _, _, _, _, _, _, _, _, _, _, _, _, _, _, _, _, _, _⟩, _, _, _, _, _,
    _, _, _⟩ := s
  obtain ⟨_, _, _, _, _, ⟨_, _, _, _, _, _, _, _, _⟩, ⟨_, _, _, _, _, _, _, _, _, _, _, _, _, _, _, _, _, _, _, _, _, _, _⟩, _, _, _, _, _,
    _, _, _⟩ := t
  simp only [Part.same] at *
  simp_all

/-! ### Work within a list of parts -/

/-- From `s` to `t` only the parts listed moved: memory meets no error still, no clove changed, no slot's miss was
marked, and a record that a window holds has only been cut into items and flagged, and not as a miss. -/
structure Within (l : List Part) (s t : State) : Prop where
  rest : sameBut l s t
  clean : cleanMem s → cleanMem t
  cloves : t.comp.cloves = s.comp.cloves
  missSeen : ∀ n, (slotStat t n).missSeen = (slotStat s n).missSeen
  held : ∀ {i q r}, heldRec s i q = some r → ∃ fl cuts, heldRec t i q = some { r with flags := fl, cuts := cuts }
    ∧ fl.scaleMiss = r.flags.scaleMiss

namespace Within
variable {l m : List Part}

theorem refl : Within l s s := ⟨sameBut_refl l s, id, rfl, fun _ => rfl, fun h => ⟨_, _, h, rfl⟩⟩

theorem trans (h : Within l s t) (k : Within l t u) : Within l s u where
  rest := sameBut_trans h.rest k.rest
  clean := k.clean ∘ h.clean
  cloves := k.cloves.trans h.cloves
  missSeen n := (k.missSeen n).trans (h.missSeen n)
  held hr := by
    obtain ⟨_, _, ht, hmiss⟩ := h.held hr
    obtain ⟨fl, cuts, hu, hmiss'⟩ := k.held ht
    exact ⟨fl, cuts, hu, hmiss'.trans hmiss⟩

theorem mono (h : Within l s t) (hl : ∀ p ∈ l, p ∈ m) : Within m s t :=
  ⟨sameBut_mono h.rest hl, h.clean, h.cloves, h.missSeen, h.held⟩

/-- A change of other parts than memory, cloves and streams. -/
theorem of_sameBut (h : sameBut l s t) (hm : .mem ∉ l := by decide) (hc : .comp ∉ l := by decide)
    (hs : .streams ∉ l := by decide) : Within l s t where
  rest := h
  clean := cleanMem_congr (h.part .mem hm)
  cloves := congrArg ComputeSt.cloves (h.part .comp hc)
  missSeen n := by simp only [slotStat, show t.comp = s.comp from h.part .comp hc]
  held hr := ⟨_, _, (heldRec_congr (h.part .streams hs) _ _).trans hr, rfl⟩

theorem count (a n : Nat) (s : State) : Within [.counters] s (count a n s) := .of_sameBut (count_sameBut a n s)

theorem ite {c : Prop} [Decidable c] (ht : Within l s t) (hu : Within l s u) : Within l s (if c then t else u) := by
  split
  · exact ht
  · exact hu

end Within

end

/-- Work `w` that succeeds in a memory that meets no error leads from `s` to a `t` as `P` says. -/
def Leads {α : Type} (P : State → State → Prop) (w : MM α) : Prop :=
  ∀ ⦃s : State⦄ ⦃a : α⦄ ⦃t : State⦄, cleanMem s → w s = (.ok a, t) → P s t

/-- Work that moves only the parts listed. -/
def WithinM {α : Type} (l : List Part) (w : MM α) : Prop := Leads (Within l) w

section
variable {α β : Type} {s t : State} {l m : List Part}

/-- Work that goes on has succeeded so far. -/
theorem ok_of_bind {w : MM α} {f : α → MM β} {b : β} (h : (w >>= f) s = (.ok b, t)) :
    ∃ a u, w s = (.ok a, u) ∧ f a u = (.ok b, t) := by
  simp only [bind, ExceptT.bind, ExceptT.mk, StateT.bind] at h
  generalize hw : w s = p at h
  obtain ⟨x, u⟩ := p
  cases x with
  | ok a => exact ⟨a, u, rfl, h⟩
  | error e => cases h

theorem ok_of_passes {w : MM α} (h : passes w s = true) : ∃ a t, w s = (.ok a, t) := by
  unfold passes at h
  generalize w s = p at h
  obtain ⟨x, t⟩ := p
  cases x with
  | ok a => exact ⟨a, t, rfl⟩
  | error e => exact absurd h (by simp)

theorem runItem_ok {w : MM Unit} {x : Unit} (h : w s = (.ok x, t)) (i q : Nat) : runItem i q w s = t := by
  simp only [runItem, h]

namespace WithinM

theorem mono {w : MM α} (hw : WithinM l w) (hl : ∀ p ∈ l, p ∈ m) : WithinM m w := fun _ _ _ hc h => (hw hc h).mono hl

/-- Work that only reads leaves the state. -/
theorem eq {w : MM α} {a : α} (hw : WithinM [] w) (hc : cleanMem s) (h : w s = (.ok a, t)) : t = s :=
  eq_of_sameBut_nil (hw hc h).rest

theorem pure {a : α} : WithinM l (pure a) := fun _ _ _ _ h => by cases h; exact .refl

theorem mFail {d off} : WithinM l (mFail d off : MM α) := fun _ _ _ _ h => by cases h

theorem mUE {k} : WithinM l (mUE k : MM α) := fun _ _ _ _ h => by cases h

theorem bind {w : MM α} {f : α → MM β} (hw : WithinM l w) (hf : ∀ a, WithinM l (f a)) : WithinM l (w >>= f) :=
  fun _ _ _ hc h => by
    obtain ⟨a, u, hu, ht⟩ := ok_of_bind h
    have hk := hw hc hu
    exact hk.trans (hf a (hk.clean hc) ht)

theorem ite {c : Prop} [Decidable c] {v w : MM α} (hv : WithinM l v) (hw : WithinM l w) :
    WithinM l (if c then v else w) := by
  split
  · exact hv
  · exact hw

theorem forM {f : α → MM Unit} {x : List α} (hf : ∀ a, WithinM l (f a)) : WithinM l (x.forM f) := by
  induction x with
  | nil => exact .pure
  | cons a x ih => exact .bind (hf a) fun _ => ih

theorem foldlM {f : β → α → MM β} {x : List α} {b : β} (hf : ∀ b a, WithinM l (f b a)) : WithinM l (x.foldlM f b) := by
  induction x generalizing b with
  | nil => exact .pure
  | cons a x ih => exact .bind (hf b a) fun _ => ih

theorem mapM {f : α → MM β} {x : List α} (hf : ∀ a, WithinM l (f a)) : WithinM l (x.mapM f) := by
  induction x with
  | nil => exact .pure
  | cons a x ih =>
    rw [List.mapM_cons]
    exact .bind (hf a) fun _ => .bind ih fun _ => .pure

theorem mGet : WithinM l mGet := fun _ _ _ _ h => by cases h; exact .refl

theorem mMod {f : State → State} (hf : ∀ s, Within l s (f s)) : WithinM l (mMod f) := fun s _ _ _ h => by
  cases h; exact hf s

theorem mGuard {bad d off} : WithinM l (mGuard bad d off) := .ite .mFail .pure

end WithinM

namespace Leads
variable {P : State → State → Prop}

/-- What comes after work that only reads starts from the same state. -/
theorem check {v : MM α} {f : α → MM β} (hv : WithinM [] v) (hf : ∀ a, Leads P (f a)) : Leads P (v >>= f) :=
  fun _ _ _ hc h => by
    obtain ⟨a, u, hu, ht⟩ := ok_of_bind h
    rw [hv.eq hc hu] at ht
    exact hf a hc ht

theorem ite {c : Prop} [Decidable c] {v w : MM α} (hv : Leads P v) (hw : Leads P w) : Leads P (if c then v else w) := by
  split
  · exact hv
  · exact hw

theorem mMod {f : State → State} (hf : ∀ s, P s (f s)) : Leads P (mMod f) := fun s _ _ _ h => by cases h; exact hf s

end Leads

/-! ### Module memory -/

theorem readMem_ok {a n req : Nat} {b : List Byte} (hc : cleanMem s) (h : readMem a n req s = (.ok b, t)) : t = s := by
  unfold readMem at h
  split at h
  · cases h
  · cases h
  · simp only [checkRead_clean hc, readBad_clean hc] at h
    cases h; rfl

theorem WithinM.mRead {a n req} : WithinM l (mRead a n req) := fun s _ t hc h => by
  unfold Machine.mRead at h
  split at h
  next hr => cases h; rw [readMem_ok hc hr]; exact .refl
  next => cases h

/-- A write whose reach is one that its requester may use puts its bytes, with the nibbles that it keeps. -/
theorem writePart_ok {a req : Nat} {bs : List Byte} {lo hi : Bool} (hc : cleanMem s)
    (h : writePart a bs lo hi req s = (none, t)) : ∃ u, sameBut [.counters] s u
      ∧ t = modMem u (fun m => { m with
        data := putBytes m.data a (if lo || hi then mergeNibbles lo hi (memBytes s a bs.length) bs else bs) }) := by
  unfold writePart at h
  split at h
  · cases h
  · cases h
  · have hs := foldl_rmwUnit_clean hc req (partly a bs.length lo hi)
    have hu := cleanMem_congr (hs.part .mem (by simp)) hc
    have hinj (b : Nat) : bitAt 0 b = false := Nat.zero_testBit b
    refine ⟨_, hs, ?_⟩
    simp only [readBad_clean hc, List.any_eq_true, Bool.false_eq_true, and_false, exists_false, if_false,
      faultsOf_clean hu, hu.2.2, sget, List.find?_nil, hinj, List.isEmpty_nil, Bool.not_true, Bool.or_self,
      List.filter_false, List.foldl_nil, memPut_clean hu] at h
    exact (Prod.mk.inj h).2.symm

theorem Within.write {a : Nat} {bs : List Byte} (h : sameBut [.counters] s t) :
    Within [.mem, .counters] s (modMem t (fun m => { m with data := putBytes m.data a bs })) := by
  have hk := Within.of_sameBut h
  exact ⟨sameBut_then (modMem_sameBut _ t) (by simp) (sameBut_mono h (by simp)), hk.clean, hk.cloves, hk.missSeen, hk.held⟩

theorem WithinM.mWritePart {a bs lo hi req} (hl : ∀ p ∈ [Part.mem, .counters], p ∈ l := by decide) :
    WithinM l (mWritePart a bs lo hi req) := fun s _ t hc h => by
  unfold Machine.mWritePart at h
  split at h
  next hw =>
    cases h
    obtain ⟨u, hu, rfl⟩ := writePart_ok hc hw
    exact (Within.write hu).mono hl
  next => cases h

theorem WithinM.mWrite {a bs req} (hl : ∀ p ∈ [Part.mem, .counters], p ∈ l := by decide) :
    WithinM l (mWrite a bs req) := WithinM.mWritePart (lo := false) (hi := false) hl

end
end Sys2Proof.Machine
end

section
/-! What the operations of items move where they succeed, in a memory that meets no error: reads and checks move nothing,
and what an item stores, counts, draws and notes moves the parts named here. -/

namespace Sys2Proof.Machine

section
variable {α β : Type} {s t : State} {l : List Part}

/-! ### Reads and checks of Machine/Memory.lean and Machine/Operands.lean -/

namespace WithinM

theorem mNum {a n req} : WithinM l (mNum a n req) := .bind .mRead fun _ => .pure

theorem readTE {g h off} : WithinM l (readTE g h off) :=
  .ite .pure (.bind .mGet fun _ => .bind .mGuard fun _ => .bind .mRead fun _ => .bind .mGuard fun _ => .pure)

theorem needTE {g h off} : WithinM l (needTE g h off) := by
  unfold Machine.needTE
  refine .bind .readTE fun e => ?_
  cases e with
  | some e => exact .pure
  | none => exact .mFail

theorem checkRange {a n off} : WithinM l (checkRange a n off) := by
  unfold Machine.checkRange
  refine .bind .mGet fun s => ?_
  cases access s a n with
  | ok => exact .pure
  | addr => exact .mFail
  | lost => exact .mUE

theorem checkFields {e role off} : WithinM l (checkFields e role off) :=
  .bind .mGuard fun _ => .bind .mGuard fun _ => .bind .mGuard fun _ => .bind .mGuard fun _ => .mGuard

theorem checkReach {e off} : WithinM l (checkReach e off) := .bind .checkRange fun _ => .ite .checkRange .pure

theorem checkIn {e role off} : WithinM l (checkIn e role off) := .bind .checkFields fun _ => .checkReach

theorem checkOut {e strict off} : WithinM l (checkOut e strict off) :=
  .bind .mGuard fun _ =>
  .bind .mGuard fun _ =>
  .bind .mGuard fun _ =>
  .bind .mGuard fun _ => .bind .mGuard fun _ => .bind .checkRange fun _ => .ite .checkRange .pure

theorem checkShape {e rows cols off} : WithinM l (checkShape e rows cols off) := .mGuard

theorem checkFile {e base row off} : WithinM l (checkFile e base row off) := .mGuard

theorem readRun {e k n req} : WithinM l (readRun e k n req) := .bind .mRead fun _ => .pure

theorem readBlock {e br bc req} : WithinM l (readBlock e br bc req) :=
  .ite
    (.bind (.mapM fun _ => .ite (.bind .readRun fun _ => .pure) .pure) fun _ => .pure)
    (.bind .mRead fun _ => .pure)

theorem readRow {e r req} : WithinM l (readRow e r req) :=
  .ite .readRun (.bind (.mapM fun _ => .mapM fun _ => .bind .mRead fun _ => .pure) fun _ => .pure)

theorem readCodes {e br bc req} : WithinM l (readCodes e br bc req) := .bind .mRead fun _ => .pure

theorem readVals {p e base br bc req} : WithinM l (readVals p e base br bc req) :=
  .bind .readBlock fun _ =>
  .ite (.bind .readCodes fun _ => .bind .mGet fun _ => .pure) (.bind .pure fun _ => .bind .mGet fun _ => .pure)

theorem readRowVals {p e base r req} : WithinM l (readRowVals p e base r req) :=
  .bind .readRow fun _ =>
  .ite
    (.bind (.mapM fun _ => .readCodes) fun _ => .bind .mGet fun _ => .pure)
    (.bind .pure fun _ => .bind .mGet fun _ => .pure)

theorem loadLanes {p o g lb k0 k1 req} : WithinM l (loadLanes p o g lb k0 k1 req) :=
  .bind
    (.mapM fun _ => .bind .readBlock fun _ => .ite (.bind .readCodes fun _ => .pure) (.bind .pure fun _ => .pure)) fun _ =>
  .bind .mGet fun _ => .pure

theorem checkVersions {e want req off bs} : WithinM l (checkVersions e want req off bs) :=
  .forM fun _ => .bind .mNum fun _ => .mGuard

theorem checkBlocksRead {p b es bs} : WithinM l (checkBlocksRead p b es bs) := .ite .checkVersions .pure

/-! ### Checks of MATMUL, VECOP and SCAN -/

theorem matmulEntries {g b} : WithinM l (matmulEntries g b) :=
  .bind (.ite (.bind .needTE fun _ => .pure) .pure) fun _ =>
  .bind (.ite (.bind .needTE fun _ => .pure) .pure) fun _ =>
  .bind (.ite (.bind .needTE fun _ => .pure) .pure) fun _ =>
  .bind (.ite (.bind .needTE fun _ => .pure) .pure) fun _ =>
  .bind (.ite (.bind .needTE fun _ => .pure) .pure) fun _ => .pure

theorem checkOperand {b e elem base groups off} : WithinM l (checkOperand b e elem base groups off) :=
  .bind .mGuard fun _ => .bind .mGuard fun _ => .mGuard

theorem checkFn {fn α off αoff} : WithinM l (checkFn fn α off αoff) := .bind .mGuard fun _ => .mGuard

theorem checkMatmulFields {b} : WithinM l (checkMatmulFields b) :=
  .bind .mGuard fun _ =>
  .bind .mGuard fun _ =>
  .bind .mGuard fun _ => .bind .mGuard fun _ => .bind .mGuard fun _ => .ite (.bind .checkFn fun _ => .mGuard) .pure

theorem checkBlockedIn {e role off} : WithinM l (checkBlockedIn e role off) := .bind .mGuard fun _ => .checkIn

theorem checkBlockedOut {e strict off} : WithinM l (checkBlockedOut e strict off) := .bind .mGuard fun _ => .checkOut

theorem checkMatmulOperands {b es} : WithinM l (checkMatmulOperands b es) := by
  unfold Machine.checkMatmulOperands
  dsimp only
  -- the kind only chooses the formats that the first entry may have
  split
  all_goals
    refine .bind .checkBlockedIn fun _ => .bind .checkBlockedIn fun _ => .bind .mGuard fun _ => .ite
      (.bind .mGuard fun _ => .ite
        (.bind .checkBlockedIn fun _ =>
         .bind .checkShape fun _ =>
         .bind .mGuard fun _ =>
         .bind .mGuard fun _ =>
         .bind .mGuard fun _ => .bind .mGuard fun _ => .bind .checkBlockedOut fun _ => .bind .checkShape fun _ => ?_) ?_)
      (.bind .mGuard fun _ => .ite (.bind .checkBlockedIn fun _ => .bind .checkShape fun _ => ?_) ?_)
    all_goals exact .bind .checkOperand fun _ => .checkOperand

theorem checkMatmulDrain {h b es} : WithinM l (checkMatmulDrain h b es) :=
  .bind .checkBlockedOut fun _ =>
  .bind .checkShape fun _ =>
  .bind .mGuard fun _ =>
  .ite
    (.bind .checkBlockedIn fun _ => .bind .mGuard fun _ => .bind .checkShape fun _ => .bind .mGet fun _ => .mGuard)
    (.bind .mGet fun _ => .mGuard)

theorem checkMatmulTiles {h b es items} : WithinM l (checkMatmulTiles h b es items) :=
  .bind .mGet fun _ => .bind .mGuard fun _ => .ite (.bind .mGuard fun _ => .bind .mGuard fun _ => .mGuard) .pure

theorem checkMatmulWeight {h b es} : WithinM l (checkMatmulWeight h b es) :=
  .bind .mGet fun _ => .bind .mGuard fun _ => .ite .checkVersions .pure

theorem checkShared {i g n b} : WithinM l (checkShared i g n b) :=
  .bind .mGet fun _ => .ite (.bind .mGuard fun _ => .bind .mGuard fun _ => .bind .mGuard fun _ => .mGuard) .pure

theorem checkVopFields {b} : WithinM l (checkVopFields b) :=
  .bind .mGuard fun _ =>
  .bind .mGuard fun _ =>
  .ite (.bind .checkFn fun _ => .bind .mGuard fun _ => .bind .mGuard fun _ => .mGuard) (.bind .mGuard fun _ => .mGuard)

theorem checkVopIn {h b n} : WithinM l (checkVopIn h b n) :=
  .bind .mGuard fun _ => .bind .needTE fun _ => .bind .checkIn fun _ => .bind .checkFile fun _ => .pure

theorem checkVopOut {h b n rows cols} : WithinM l (checkVopOut h b n rows cols) :=
  .bind .mGuard fun _ =>
  .bind .needTE fun _ =>
  .bind .checkOut fun _ =>
  .bind .checkShape fun _ => .bind .mGuard fun _ => .bind .mGuard fun _ => .bind .mGuard fun _ => .pure

theorem checkVopSlot {h b outs} : WithinM l (checkVopSlot h b outs) := .bind .mGet fun _ => .mGuard

theorem readCarry {p a n} : WithinM l (readCarry p a n) := .bind .mRead fun _ => .pure

theorem checkScanIn {h n} : WithinM l (checkScanIn h n) :=
  .bind .needTE fun _ => .bind .mGuard fun _ => .bind .checkIn fun _ => .bind .mGuard fun _ => .pure

theorem checkFold {h b} : WithinM l (checkFold h b) := by
  refine .bind .mGuard fun _ =>
    .bind .mGet fun _ =>
    .bind .checkRange fun _ =>
    .bind .mRead fun _ =>
    .bind .checkRange fun _ => .bind .checkRange fun _ => .ite (.bind .checkRange fun _ => ?_) ?_
  all_goals exact .bind (.mapM fun _ => .bind .mRead fun _ => .pure) fun _ => .mGuard

end WithinM

/-! ### What the work of an item moves -/

/-- Slots, counters and free values: what an item's values move before they are stored. -/
def valueParts : List Part := [.comp, .counters, .free]

/-- What the work of an item may move. -/
def itemParts : List Part := [.mem, .comp, .streams, .counters, .free]

/-- A change of the stores of the compute tiles that leaves the cloves and the marks of misses. -/
theorem Within.modComp {f : ComputeSt → ComputeSt} (hl : .comp ∈ l) (hc : (f s.comp).cloves = s.comp.cloves)
    (hm : ∀ n, (slotStat (modComp s f) n).missSeen = (slotStat s n).missSeen) : Within l s (modComp s f) :=
  ⟨sameBut_mono (modComp_sameBut f s) (by simpa using hl), id, hc, hm, fun h => ⟨_, _, h, rfl⟩⟩

theorem Within.bindSlot {slot fmt base} (hl : .comp ∈ l := by decide) : Within l s (bindSlot slot fmt base s) := by
  unfold Machine.bindSlot
  dsimp only
  split
  · exact .refl
  · refine .modComp hl rfl fun n => ?_
    by_cases hn : n = slot
    · subst hn; exact (congrArg SlotStat.missSeen (slotStat_setSlotStat s n _)).trans rfl
    · exact congrArg SlotStat.missSeen (slotStat_setSlotStat_other s _ hn)

theorem Within.mergePartial {k slot st} (hl : .comp ∈ l := by decide) : Within l s (mergePartial k slot st s) :=
  .modComp hl rfl fun _ => rfl

theorem Within.addFlags {i q fl} (hm : fl.scaleMiss = false := by rfl) (hl : .streams ∈ l := by decide) :
    Within l s (addFlags i q fl s) where
  rest := sameBut_mono (modRec_sameBut i q _ s) (by simpa using hl)
  clean := id
  cloves := rfl
  missSeen _ := rfl
  held {j k r} h := by
    have hseq (r : Rec) : (if r.life = .done then r else { r with flags := CFlags.or r.flags fl }).seq = r.seq := by
      split <;> rfl
    rw [Machine.addFlags, heldRec_modRec hseq, h]
    simp only [Option.map_some, modRecIn]
    split
    · split
      · split
        · exact ⟨_, _, rfl, rfl⟩
        · exact ⟨_, _, rfl, by simp [CFlags.or, hm]⟩
      · exact ⟨_, _, rfl, rfl⟩
    · exact ⟨_, _, rfl, rfl⟩

theorem Within.countVec {p c} (hl : .counters ∈ l := by decide) : Within l s (countVec p c s) :=
  (((Within.count _ _ s).trans (.count _ _ _)).trans (.count _ _ _)).mono (by simpa using hl)

theorem Within.countConv {p x} (hl : .counters ∈ l := by decide) : Within l s (countConv p x s) :=
  ((((Within.count _ _ s).trans (.count _ _ _)).trans (.count _ _ _)).trans (.count _ _ _)).mono (by simpa using hl)

theorem Within.drawCycle (hl : .free ∈ l := by decide) : Within l s (drawCycle s).2 := by
  have hfree : sameBut [.free] s (Machine.drawCycle s).2 :=
    ⟨rfl, fun p hp => by cases p <;> simp_all [Part.same, Machine.drawCycle]⟩
  exact (Within.of_sameBut hfree).mono (by simpa using hl)

theorem Within.noteResults {i r b p x} : Within itemParts s (noteResults i r b p x s) := by
  unfold Machine.noteResults
  refine .trans ?_ .addFlags
  split
  · exact .mergePartial
  · exact .countConv

namespace WithinM

theorem mVM {p} {w : VM α} (hl : .counters ∈ l := by decide) : WithinM l (mVM p w) := fun _ _ _ _ h => by
  cases h; exact .countVec hl

theorem drainInto {slot fmt base} (hl : .comp ∈ l := by decide) : WithinM l (drainInto slot fmt base) :=
  .bind .mGet fun _ => .bind .mGuard fun _ => .mMod fun _ => .bindSlot hl

/-! ### What an item stores -/

theorem writeRun {e k req cs} (hl : ∀ p ∈ [Part.mem, .counters], p ∈ l := by decide) : WithinM l (writeRun e k req cs) :=
  .ite (.mWritePart hl) (.mWrite hl)

theorem writeBlock {e br bc req v} (hl : ∀ p ∈ [Part.mem, .counters], p ∈ l := by decide) :
    WithinM l (writeBlock e br bc req v) :=
  .ite (.forM fun _ => .ite (.writeRun hl) .pure) (.mWrite hl)

theorem writeRow {e r req cs} : WithinM itemParts (writeRow e r req cs) :=
  .ite .writeRun (.forM fun _ => .forM fun _ => .mWrite)

/-! ### VECOP and SCAN items -/

theorem countInto {r b fmt} : WithinM itemParts (countInto r b fmt) := .ite .drainInto .pure

theorem itemCycle {b} : WithinM itemParts (itemCycle b) := fun s _ _ hc h => by
  rw [Machine.itemCycle, mm_bind (mGet_apply s)] at h
  split at h
  · cases h; exact .drawCycle
  · cases h; exact .refl

theorem writeBlockRows {p e br bc rows} : WithinM itemParts (writeBlockRows p e br bc rows) :=
  .bind .writeBlock fun _ => .ite .mWrite .pure

theorem vecBlock {i p r b n} : WithinM itemParts (vecBlock i p r b n) :=
  .bind (.mapM fun _ => .readVals) fun _ =>
  .bind .itemCycle fun _ =>
  .bind .mGet fun _ =>
  .bind .mVM fun _ =>
  .forM fun _ => .bind .countInto fun _ => .bind (.mMod fun _ => .noteResults) fun _ => .writeBlockRows

theorem writeResultRow {req e row codes groups} : WithinM itemParts (writeResultRow req e row codes groups) :=
  .bind .writeRow fun _ =>
  .bind (.ite .pure (.forM fun _ => .mWrite)) fun _ =>
  .ite (.forM fun _ => .bind .writeRow fun _ => .ite .pure (.forM fun _ => .mWrite)) .pure

theorem putValues {i p r b e n vals} : WithinM itemParts (putValues i p r b e n vals) :=
  .bind .countInto fun _ => .bind (.mMod fun _ => .noteResults) fun _ => .writeResultRow

theorem vecRow {i p r b n} : WithinM itemParts (vecRow i p r b n) :=
  .bind (.mapM fun _ => .bind .readRowVals fun _ => .mVM) fun _ =>
  .ite
    (.bind .mVM fun _ => .bind .putValues fun _ => .writeResultRow)
    (.ite
      (.bind .itemCycle fun _ =>
       .bind .mGet fun _ =>
       .bind .mVM fun _ => .ite (.bind (.mMod fun _ => .addFlags) fun _ => .writeResultRow) .writeResultRow)
      (.bind .mVM fun _ => .putValues))

theorem stepGates {p b e cin k} : WithinM itemParts (stepGates p b e cin k) := by
  refine .ite (.bind .readRowVals fun _ => .mVM) ?_
  cases cin with
  | some ph => exact .pure
  | none => exact .pure

theorem scanChunk {i p r b} : WithinM itemParts (scanChunk i p r b) := by
  refine .ite (.bind .readCarry fun _ => .bind .pure fun _ => ?_) (.bind .pure fun _ => ?_)
  all_goals
    exact .bind
        (.foldlM fun _ _ =>
          .bind .stepGates fun _ =>
          .bind .readRowVals fun _ =>
          .bind .mVM fun _ =>
          .ite (.bind (.mMod fun _ => .countConv) fun _ => .bind .writeRun fun _ => .pure) .pure) fun _ =>
      .bind .mWrite fun _ => .mMod fun _ => .addFlags

theorem scanFold {i p r b} : WithinM itemParts (scanFold i p r b) := by
  refine .bind .mRead fun _ => .ite (.bind .readCarry fun _ => .bind .pure fun _ => ?_) (.bind .pure fun _ => ?_)
  all_goals
    exact .bind (.foldlM fun _ _ => .bind .readCarry fun _ => .bind .mWrite fun _ => .bind .mVM fun _ => .pure) fun _ =>
      .mMod fun _ => .addFlags

/-! ### The values of a drain -/

theorem savedWords {p r b y br bc} : WithinM valueParts (savedWords p r b y br bc) :=
  .ite .pure (.bind .readVals fun _ => .bind .mVM fun _ => .pure)

theorem drainValues {p b y e br bc saved} : WithinM valueParts (drainValues p b y e br bc saved) :=
  .bind .mGet fun _ => .bind .mVM fun _ => .pure

theorem drainRandom {p r b y e br bc} : WithinM valueParts (drainRandom p r b y e br bc) := fun s _ _ hc h => by
  rw [Machine.drainRandom, mm_bind (mGet_apply s)] at h
  split at h
  · cases h; exact .refl
  · split at h
    · cases h; exact .refl
    · cases h; exact .drawCycle

end WithinM

end
end Sys2Proof.Machine
end

section
/-! Items that are cut into the pods' queues (R198, R199): what the cutting moves. -/

namespace Sys2Proof.Machine

section
variable {s t : State} {l : List Part}

/-- A change of the pods' queues. -/
theorem Within.modQueue (f : ComputeSt → Sparse (List QItem)) (hl : .comp ∈ l := by decide) :
    Within l s (Machine.modComp s (fun c => { c with podQueue := f c })) :=
  .modComp hl rfl fun _ => rfl

theorem Within.cutPlace {i r first j q} : Within [.comp, .counters] s (cutPlace i r first j q s).1 := by
  unfold Machine.cutPlace
  dsimp only
  split
  · exact .trans (.modQueue _) ((Within.count _ _ _).mono (m := [.comp, .counters]) (by simp))
  · exact .modQueue _

/-- A descriptor is cut for its pods one after another, and its record notes how far. -/
theorem cutRec_cases (i q : Nat) (first : Bool) (s : State) : cutRec i q first s = s
    ∨ ∃ u cuts, Within [.comp, .counters] s u ∧ cutRec i q first s = modRec i q (fun x => { x with cuts := cuts }) u := by
  unfold cutRec
  split
  · exact .inl rfl
  next r _ =>
    have hfold (l : List (Nat × Nat)) (acc : State × List Nat) : Within [.comp, .counters] acc.1
        (l.foldl (fun (acc : State × List Nat) x =>
          ((cutPlace i r first x.2 x.1 acc.1).1, acc.2 ++ [(cutPlace i r first x.2 x.1 acc.1).2])) acc).1 := by
      induction l generalizing acc with
      | nil => exact .refl
      | cons x l ih => exact Within.cutPlace.trans (ih (_, _))
    exact .inr ⟨_, _, hfold _ (s, []), rfl⟩

/-- What cutting moves: queues, the notes of what is cut, and counters. -/
def cutParts : List Part := [.comp, .streams, .counters]

theorem Within.modCuts (i q : Nat) (cuts : List Nat) (s : State) :
    Within cutParts s (modRec i q (fun x => { x with cuts := cuts }) s) := by
  refine ⟨sameBut_mono (modRec_sameBut i q _ s) (by decide), id, rfl, fun _ => rfl, fun {j k r} hr => ?_⟩
  rw [heldRec_modRec (f := fun x => { x with cuts := cuts }) fun _ => rfl, hr]
  simp only [Option.map_some, modRecIn]
  split
  · split
    · exact ⟨_, _, rfl, rfl⟩
    · exact ⟨_, _, rfl, rfl⟩
  · exact ⟨_, _, rfl, rfl⟩

theorem Within.cutRec {i q first} : Within cutParts s (cutRec i q first s) := by
  obtain h | ⟨u, cuts, hu, h⟩ := cutRec_cases i q first s
  · rw [h]; exact .refl
  · rw [h]; exact (hu.mono (by decide)).trans (.modCuts i q cuts u)

theorem Within.refill : Within cutParts s (refill s) := by
  unfold Machine.refill
  generalize ((allRecs s).filter _).mergeSort _ = l
  induction l generalizing s with
  | nil => exact .refl
  | cons x l ih => exact .trans .cutRec ih

end
end Sys2Proof.Machine
end

section
/-! O45: a stream that holds nothing takes a MATMUL, a VECOP or a SCAN, and its items start (R193, R195, R198). -/

namespace Sys2Proof.Machine

section
variable {i g n k left : Nat} {r : Rec} {s u : State} {es : List (Option TEntry)}

/-! ### The record of an operation whose items start -/

/-- Record `r` as its items start in `s`: it runs on the pods of group `g`, with `n` items of `k` chunks and `left` parts to
finish. -/
def itemRec (s : State) (g n k left : Nat) (es : List (Option TEntry)) (r : Rec) : Rec :=
  { r with
    life := .running, tes := es, nItems := n, nSplit := k, left := left, parts := left, pods := groupPods s g
    cuts := (groupPods s g).map (fun _ => 0), order := s.comp.orderNo + 1, code := committedCode s r.hdr.tensorId }

/-- The state in which that record stands. -/
def startedIn (i q g n k left : Nat) (es : List (Option TEntry)) (s : State) : State :=
  modRec i q (itemRec s g n k left es) (modComp s (fun c => { c with orderNo := c.orderNo + 1 }))

theorem startItems_eq (i q g n k left : Nat) (es : List (Option TEntry)) (s : State) :
    startItems i q g n k left es s = if left = 0 then completeOK i q (startedIn i q g n k left es s)
      else cutRec i q true (startedIn i q g n k left es s) := rfl

theorem startItems_sameBut (i q g n k left : Nat) (es : List (Option TEntry)) (s : State) :
    sameBut cutParts s (startItems i q g n k left es s) := by
  have hrun : sameBut cutParts s (startedIn i q g n k left es s) :=
    sameBut_then (modRec_sameBut i q _ _) (by decide) (sameBut_mono (modComp_sameBut _ s) (by decide))
  rw [startItems_eq]
  split
  · exact sameBut_then (complete_sameBut ..) (by decide) hrun
  · exact sameBut_trans hrun Within.cutRec.rest

/-- Record `x` is `r`, started; with no part to finish it is complete. -/
structure ItemsStarted (s : State) (g n k left : Nat) (es : List (Option TEntry)) (r x : Rec) : Prop where
  hdr : x.hdr = r.hdr
  desc : x.desc = r.desc
  life : x.life = if left = 0 then .done else .running
  status : x.status = stOK
  tes : x.tes = es
  nItems : x.nItems = n
  nSplit : x.nSplit = k
  left : x.left = left
  pods : x.pods = groupPods s g

theorem Holds.cutRec (hu : Holds i r s u) (first : Bool) :
    ∃ cuts, Holds i { r with cuts := cuts } s (cutRec i r.seq first u) := by
  obtain h | ⟨v, cuts, hv, h⟩ := cutRec_cases i r.seq first u
  · exact ⟨r.cuts, by rwa [h]⟩
  · exact ⟨cuts, h ▸ (hu.congr (hv.rest.part .streams (by decide))).modRec (f := fun x => { x with cuts := cuts }) rfl⟩

theorem Holds.startedIn (hu : Holds i r s u) :
    Holds i (itemRec u g n k left es r) s (startedIn i r.seq g n k left es u) :=
  (hu.congr (t := modComp u fun c => { c with orderNo := c.orderNo + 1 }) rfl).modRec (f := itemRec u g n k left es) rfl

/-- The stream holds the record, started. -/
theorem Holds.startItems (hu : Holds i r s u) (hst : r.status = stOK) :
    ∃ x, Holds i x s (startItems i r.seq g n k left es u) ∧ ItemsStarted u g n k left es r x := by
  have hrun := hu.startedIn (g := g) (n := n) (k := k) (left := left) (es := es)
  by_cases hleft : left = 0
  · have hdone := hrun.complete Life.noConfusion stOK 0 0 CFlags.none
    rw [startItems_eq, if_pos hleft]
    exact ⟨_, hdone, rfl, rfl, by simp [completed, hleft], rfl, rfl, rfl, rfl, rfl, rfl⟩
  · obtain ⟨cuts, hcut⟩ := hrun.cutRec true
    rw [startItems_eq, if_neg hleft]
    exact ⟨_, hcut, rfl, rfl, by simp [itemRec, hleft], hst, rfl, rfl, rfl, rfl, rfl⟩

/-! ### The members of shared sequences -/

/-- The open sequences of a stream are no record. -/
theorem Holds.modShared (hu : Holds i r s u) (f : Stream → List SharedSeq) :
    Holds i r s (modStream u i (fun x => { x with shared := f x })) where
  window := by simp [hu.window]
  calls := by simp [hu.calls]
  kept := by simp [hu.kept]
  state := by simp [hu.state]
  seq := hu.seq
  seqNext := by simp [hu.seqNext]
  taken := by simp [hu.taken]
  retired := by simp [hu.retired]
  others j hj := (stream_modStream_other u _ hj).trans (hu.others j hj)

/-- A member notes the earlier ones, and the stream what is open (R79). -/
theorem joinShared_cases (i q g n : Nat) (b : MatmulBody) (s : State) : joinShared i q g n b s = s
    ∨ ∃ prior, ∃ f : Stream → List SharedSeq, joinShared i q g n b s
      = modStream (modRec i q (fun r => { r with prior := prior }) s) i (fun x => { x with shared := f x }) := by
  unfold joinShared
  split
  · exact .inl rfl
  · exact .inr ⟨_, _, rfl⟩

theorem Holds.joinShared (hu : Holds i r s u) (g n : Nat) (b : MatmulBody) :
    ∃ prior, Holds i { r with prior := prior } s (joinShared i r.seq g n b u) := by
  obtain h | ⟨prior, f, h⟩ := joinShared_cases i r.seq g n b u
  · exact ⟨r.prior, by rwa [h]⟩
  · exact ⟨prior, h ▸ (hu.modRec (f := fun r => { r with prior := prior }) rfl).modShared f⟩

theorem joinShared_sameBut (i q g n : Nat) (b : MatmulBody) (s : State) :
    sameBut [.streams] s (joinShared i q g n b s) := by
  obtain h | ⟨prior, f, h⟩ := joinShared_cases i q g n b s
  · rw [h]; exact sameBut_refl _ s
  · rw [h]; exact sameBut_trans (modRec_sameBut i q _ s) (modStream_sameBut i _ _)

/-! ### The dispatch of the three kinds -/

/-- Items start for record `q` of stream `i` in group `g`: `n` of `k` chunks with `left` parts to finish, from the entries
`es`, as `P` says. -/
def Starts (i q g : Nat) (P : Nat → Nat → Nat → List (Option TEntry) → Prop) (s t : State) : Prop :=
  ∃ n k left es, P n k left es ∧ sameBut cutParts s t ∧ ∀ {s₀ r}, Holds i r s₀ s → r.seq = q → r.status = stOK →
    ∃ x, Holds i x s₀ t ∧ ItemsStarted s g n k left es r x

theorem starts_startItems {P} {i q g n k left : Nat} {es : List (Option TEntry)} (hP : P n k left es) (s : State) :
    Starts i q g P s (startItems i q g n k left es s) :=
  ⟨n, k, left, es, hP, startItems_sameBut i q g n k left es s, fun hs hq hst => by subst hq; exact hs.startItems hst⟩

theorem bindSlot_sameBut (slot fmt base : Nat) (s : State) : sameBut [.comp] s (bindSlot slot fmt base s) :=
  (Within.bindSlot (l := [.comp])).rest

theorem groupPods_bindSlot (slot fmt base : Nat) (s : State) (g : Nat) :
    groupPods (bindSlot slot fmt base s) g = groupPods s g := by
  unfold bindSlot
  dsimp only
  split
  · rfl
  · rfl

/-- A slot that is bound before the items start. -/
theorem Starts.of_bindSlot {P} {i q g slot fmt base : Nat} {s t : State}
    (h : Starts i q g P (bindSlot slot fmt base s) t) : Starts i q g P s t := by
  obtain ⟨n, k, left, es, hP, hrest, hrec⟩ := h
  have hbind := bindSlot_sameBut slot fmt base s
  refine ⟨n, k, left, es, hP, sameBut_trans (sameBut_mono hbind (by decide)) hrest, fun hs hq hst => ?_⟩
  obtain ⟨x, hx, hst⟩ := hrec (hs.congr (hbind.part .streams (by decide))) hq hst
  exact ⟨x, hx, { hst with pods := hst.pods.trans (groupPods_bindSlot ..) }⟩

/-- A member that joins its sequences before its items start. -/
theorem Starts.of_joinShared {P} {i q g g' m : Nat} {b : MatmulBody} {s t : State}
    (h : Starts i q g P (joinShared i q g' m b s) t) : Starts i q g P s t := by
  obtain ⟨n, k, left, es, hP, hrest, hrec⟩ := h
  have hjoin := joinShared_sameBut i q g' m b s
  refine ⟨n, k, left, es, hP, sameBut_trans (sameBut_mono hjoin (by decide)) hrest, fun hs hq hst => ?_⟩
  subst hq
  obtain ⟨prior, hp⟩ := hs.joinShared g' m b
  obtain ⟨x, hx, hst⟩ := hrec hp rfl hst
  have hcomp : (joinShared i _ g' m b s).comp = s.comp := hjoin.part .comp (by decide)
  refine ⟨x, hx, { hst with pods := hst.pods.trans ?_ }⟩
  simp only [groupPods, tileIsOut, hcomp]

/-- A MATMUL, dispatched, starts its items. -/
theorem dispatchMatmul_starts (i q : Nat) (h : Header) (b : MatmulBody) :
    Leads (Starts i q h.group fun n k left es => n = matmulItems b es ∧ k = b.splitN ∧ left = matmulParts b es)
      (dispatchMatmul i q h b) := by
  refine .check .checkMatmulFields fun _ => .check .matmulEntries fun es => .check .checkMatmulOperands fun _ => ?_
  have hstart (s : State) := starts_startItems (i := i) (q := q) (g := h.group)
    (P := fun n k left es => n = matmulItems b es ∧ k = b.splitN ∧ left = matmulParts b es) (es := es) ⟨rfl, rfl, rfl⟩ s
  have hslot (s : State) : Starts i q h.group _ s _ := .of_joinShared (hstart (joinShared i q h.group (matmulItems b es) b s))
  split
  next hcl =>
    refine .check .checkMatmulDrain fun _ => .check .checkMatmulTiles fun _ => .check .checkShared fun _ =>
      .check .checkMatmulWeight fun _ => .mMod fun s => ?_
    exact .of_bindSlot (hslot _)
  next hcl =>
    refine .check .checkMatmulTiles fun _ => .check .checkShared fun _ =>
      .check .checkMatmulWeight fun _ => .mMod fun s => ?_
    exact hslot s

/-- A VECOP, dispatched, starts its items, each a part to finish. -/
theorem dispatchVecop_starts (i q : Nat) (h : Header) (b : VecopBody) :
    Leads (Starts i q h.group fun n k left _ => k = 1 ∧ left = n) (dispatchVecop i q h b) := by
  refine .check .checkVopFields fun _ => .check (.mapM fun _ => .checkVopIn) fun _ => .check .mGuard fun _ =>
    .check .mGuard fun _ => .check (.forM fun _ => .checkShape) fun _ => .check (.mapM fun _ => .checkVopOut) fun _ =>
    .check .mGuard fun _ => .check .checkVopSlot fun _ => .mMod fun s => ?_
  have hstart (n es) (s : State) := starts_startItems (i := i) (q := q) (g := h.group) (n := n) (left := n)
    (P := fun n k left _ => k = 1 ∧ left = n) (es := es) ⟨rfl, rfl⟩ s
  dsimp only
  by_cases hcounts : b.stats = true ∧ b.vop ≠ 0x29
  · rw [if_pos hcounts]
    exact .of_bindSlot (hstart _ _ _)
  · rw [if_neg hcounts]
    exact hstart _ _ s

/-- A SCAN, dispatched, starts its one item. -/
theorem dispatchScan_starts (i q : Nat) (h : Header) (b : ScanBody) :
    Leads (Starts i q h.group fun n k left _ => n = 1 ∧ k = 1 ∧ left = 1) (dispatchScan i q h b) := by
  have hstart {es} (s : State) := starts_startItems (i := i) (q := q) (g := h.group)
    (P := fun n k left _ => n = 1 ∧ k = 1 ∧ left = 1) (es := es) ⟨rfl, rfl, rfl⟩ s
  refine .check .mGuard fun _ => .check .mGuard fun _ => .ite (.check .checkFold fun _ => .mMod fun s => hstart s) ?_
  refine .check .checkScanIn fun _ => .check .checkScanIn fun _ => .check .checkShape fun _ => .check .mGuard fun _ =>
    .check .mGuard fun _ => .check .checkRange fun _ => .ite
      (.check .needTE fun _ => .check .mGuard fun _ => .check .checkOut fun _ => .check .checkShape fun _ =>
        .check .pure fun _ => ?_)
      (.check .pure fun _ => ?_)
  all_goals
    exact .ite (.check .checkRange fun _ => .check .mGet fun _ => .check .mRead fun _ => .check .mGuard fun _ =>
      .mMod fun s => hstart s) (.mMod fun s => hstart s)

end

/-! ### Taken and dispatched at once -/

section
variable {i : Nat} {h : Header} {d : Desc} {s : State}

/-- A MATMUL, a VECOP or a SCAN. -/
def startsItems (d : Desc) : Prop := (∃ b, d = .matmul b) ∨ (∃ b, d = .vecop b) ∨ ∃ b, d = .scan b

/-- Of these only the position is checked at the take. -/
theorem takeChecks_startsItems {r : Rec} (hd : startsItems r.desc) (hpos : r.hdr.pos < 2 ^ 20) (after : Bool) (s : State) :
    takeChecks i r after s = (.ok (), s) := by
  have hnear : decide (2 ^ 20 ≤ r.hdr.pos) = false := decide_eq_false (Nat.not_le.mpr hpos)
  obtain ⟨b, hd⟩ | ⟨b, hd⟩ | ⟨b, hd⟩ := hd <;>
    simp only [takeChecks, hd, hnear, mm_bind (mGuard_false _ _ s), mm_pure]

theorem WithinM.checkSeq {r l} : WithinM l (checkSeq i r) := by
  refine .bind .mGet fun s => ?_
  cases seqSpan s r.desc with
  | none => exact .pure
  | some x =>
    refine .ite (fun u a t _ ht => ?_) .pure
    -- a position at or beyond the length fails
    obtain ⟨_, _, -, hfail⟩ := ok_of_bind ht
    cases hfail

theorem WithinM.dispatchChecks {r} : WithinM [] (dispatchChecks i r) := by
  have htables : WithinM [] (readTables r) := fun s _ _ hc h => by
    rw [readTables, mm_bind (mGet_apply s), hc.2.1] at h
    cases h; exact .refl
  exact .bind .mGet fun _ => .bind htables fun _ => .bind .mGuard fun _ => .ite .checkSeq .pure

/-- What one command leaves of a descriptor that starts its items (R193, R195, R198). -/
theorem offerDesc_starts {w : MM Unit} {P : Nat → Nat → Nat → List (Option TEntry) → Prop} (hclean : cleanMem s)
    (hs : startsNow i h d s) (hd : startsItems d)
    (hkind : ∀ u, dispatchKind i (keyed i h d s) u = runDesc i (stream s i).seqNext w u)
    (hw : Leads (Starts i (stream s i).seqNext h.group P) w) (hp : passes w (atWork i h d s) = true) :
    ∃ x n k left es, P n k left es ∧ ItemsStarted s h.group n k left es (keyed i h d s) x
      ∧ tookOne i h d (if left = 0 then .done else .running) s (offerDesc i h d s)
      ∧ (stream (offerDesc i h d s) i).window = [x]
      ∧ sameBut (.comp :: .streams :: settleParts) s (offerDesc i h d s) := by
  obtain ⟨hc, hpos, hready, hchecks⟩ := hs
  have hat := atWork_sameBut i h d s
  have hatClean : cleanMem (atWork i h d s) := cleanMem_congr (hat.part .mem (by decide)) hclean
  -- the checks pass, and change nothing
  obtain ⟨_, u, hchk⟩ := ok_of_passes hchecks
  have hchk' := hchk
  rw [WithinM.dispatchChecks.eq hatClean hchk] at hchk'
  -- the work succeeds
  obtain ⟨_, t, hrun⟩ := ok_of_passes hp
  obtain ⟨n, k, left, es, hP, hrest, hrec⟩ := hw hatClean hrun
  obtain ⟨x, hx, hst⟩ := hrec (holds_atWork hc h d) (holds_atWork hc h d).seq rfl
  have hbar : x.desc ≠ .barrier := by
    rw [hst.desc]
    obtain ⟨b, rfl⟩ | ⟨b, rfl⟩ | ⟨b, rfl⟩ := hd <;> exact Desc.noConfusion
  have hcall : ∀ b, d ≠ .call b := by
    obtain ⟨b, rfl⟩ | ⟨b, rfl⟩ | ⟨b, rfl⟩ := hd <;> exact fun _ => Desc.noConfusion
  have hoffer : offerDesc i h d s = settle s t := offerDesc_eq hc (takeChecks_startsItems hd hpos _ _) hcall hready hchk'
    ((hkind _).trans (runDesc_ok hrun i _)) hx hbar
  have hsettled := hx.congr (settle_streams s t)
  rw [hoffer]
  refine ⟨x, n, k, left, es, hP, { hst with pods := hst.pods }, ?_, hsettled.window, ?_⟩
  · rw [← hst.life]
    exact hsettled.tookOne hst.hdr hst.desc hst.status
  · exact sameBut_then (settle_sameBut s t) (by decide) (sameBut_then hrest (by decide) (sameBut_mono hat (by decide)))

/-- The same for a MATMUL of any kind. -/
theorem offerDesc_matmul {b : MatmulBody} (hclean : cleanMem s) (hs : startsNow i h (.matmul b) s)
    (hp : passes (dispatchMatmul i (stream s i).seqNext h b) (atWork i h (.matmul b) s) = true) :
    ∃ n, tookOne i h (.matmul b) (if n = 0 then .done else .running) s (offerDesc i h (.matmul b) s)
      ∧ (∀ r ∈ (stream (offerDesc i h (.matmul b) s) i).window, matmulParts b r.tes = n ∧ r.left = n
        ∧ r.pods = groupPods s h.group ∧ r.nItems = matmulItems b r.tes ∧ r.nSplit = b.splitN)
      ∧ sameBut (.comp :: .streams :: settleParts) s (offerDesc i h (.matmul b) s) := by
  obtain ⟨x, n, k, left, es, ⟨rfl, rfl, rfl⟩, hst, htook, hwin, hrest⟩ :=
    offerDesc_starts hclean hs (.inl ⟨b, rfl⟩) (fun _ => rfl) (dispatchMatmul_starts i _ h b) hp
  refine ⟨_, htook, fun r hr => ?_, hrest⟩
  rw [hwin, List.mem_singleton] at hr
  subst hr
  exact ⟨by rw [hst.tes], hst.left, hst.pods, by rw [hst.tes]; exact hst.nItems, hst.nSplit⟩

end

/-- Settles O45: each of the three kinds checks what it reads, starts its items and leaves the rest. -/
theorem operationsStart : Obligations.OperationsStart := by
  unfold Obligations.OperationsStart
  intro s i h hclean
  have hmatmul (b : MatmulBody) (hs : startsNow i h (.matmul b) s)
      (hp : passes (dispatchMatmul i (stream s i).seqNext h b) (atWork i h (.matmul b) s) = true) :=
    offerDesc_matmul hclean hs hp
  refine ⟨fun b hs hp => ?_, fun b hs hp => ?_, fun b hs hp => ?_, fun b hs hp => ?_, fun b hs hp => ?_⟩
  · obtain ⟨n, h⟩ := hmatmul { b with kind := 0 } hs hp
    exact ⟨_, n, onUnit_stream hs.1 _, h⟩
  · obtain ⟨n, h⟩ := hmatmul { b with kind := 1 } hs hp
    exact ⟨_, n, onUnit_stream hs.1 _, h⟩
  · obtain ⟨n, h⟩ := hmatmul { b with kind := 2 } hs hp
    exact ⟨_, n, onUnit_stream hs.1 _, h⟩
  · obtain ⟨x, n, k, left, es, ⟨rfl, rfl⟩, hst, htook, hwin, hrest⟩ :=
      offerDesc_starts hclean hs (.inr (.inl ⟨b, rfl⟩)) (fun _ => rfl) (dispatchVecop_starts i _ h b) hp
    refine ⟨_, _, onUnit_stream hs.1 _, htook, fun r hr => ?_, hrest⟩
    rw [hwin, List.mem_singleton] at hr
    subst hr
    exact ⟨hst.nItems, hst.left, hst.pods, hst.nSplit⟩
  · obtain ⟨x, n, k, left, es, ⟨rfl, rfl, rfl⟩, hst, htook, hwin, hrest⟩ :=
      offerDesc_starts hclean hs (.inr (.inr ⟨b, rfl⟩)) (fun _ => rfl) (dispatchScan_starts i _ h b) hp
    refine ⟨_, _, onUnit_stream hs.1 _, htook, fun r hr => ?_, hrest⟩
    rw [hwin, List.mem_singleton] at hr
    subst hr
    exact ⟨rfl, hst.left, hst.pods, hst.nItems, hst.nSplit⟩

end Sys2Proof.Machine
end

section
/-! Tiles and contexts of the cloves: what each operation on them reads back, and what it leaves (R70, R76, R203, R204). -/

namespace Sys2Proof.Machine

section
variable {s t u : State} {c p k n m : Nat}

/-! ### Tiles and contexts that stand -/

/-- Every clove has the same tiles, the same order of those that close and the same drain. -/
structure SameTiles (s t : State) : Prop where
  tiles : ∀ c, (clove t c).tiles = (clove s c).tiles
  closing : ∀ c, (clove t c).closing = (clove s c).closing
  drain : ∀ c, (clove t c).drain = (clove s c).drain

/-- Every clove has the same contexts, and each unit serves the same. -/
structure SameCtxs (s t : State) : Prop where
  ctx : ∀ c, (clove t c).ctx = (clove s c).ctx
  serving : ∀ c, (clove t c).serving = (clove s c).serving

/-- A change of one clove that keeps what `g` sees keeps it of every clove. -/
theorem clove_modClove_same {α : Type} (g : Clove → α) {f : Clove → Clove} (h : g (f (clove s p)) = g (clove s p)) (c : Nat) :
    g (clove (modClove s p f) c) = g (clove s c) := by
  by_cases hc : c = p
  · subst hc; rw [clove_modClove, h]
  · rw [clove_modClove_other s f hc]

theorem clove_congr (h : t.comp.cloves = s.comp.cloves) (c : Nat) : clove t c = clove s c := by
  simp only [clove, h]

namespace SameTiles

theorem refl : SameTiles s s := ⟨fun _ => rfl, fun _ => rfl, fun _ => rfl⟩

theorem trans (h : SameTiles s t) (k : SameTiles t u) : SameTiles s u :=
  ⟨fun c => (k.tiles c).trans (h.tiles c), fun c => (k.closing c).trans (h.closing c),
    fun c => (k.drain c).trans (h.drain c)⟩

theorem of_cloves (h : t.comp.cloves = s.comp.cloves) : SameTiles s t :=
  ⟨fun c => by rw [clove_congr h], fun c => by rw [clove_congr h], fun c => by rw [clove_congr h]⟩

theorem tile (h : SameTiles s t) (c m : Nat) : tile t c m = tile s c m := by simp only [Machine.tile, h.tiles]

/-- A change of one clove that keeps its tiles. -/
theorem modClove {f : Clove → Clove} (ht : (f (clove s p)).tiles = (clove s p).tiles)
    (hc : (f (clove s p)).closing = (clove s p).closing) (hd : (f (clove s p)).drain = (clove s p).drain) :
    SameTiles s (modClove s p f) :=
  ⟨clove_modClove_same _ ht, clove_modClove_same _ hc, clove_modClove_same _ hd⟩

end SameTiles

namespace SameCtxs

theorem refl : SameCtxs s s := ⟨fun _ => rfl, fun _ => rfl⟩

theorem trans (h : SameCtxs s t) (k : SameCtxs t u) : SameCtxs s u :=
  ⟨fun c => (k.ctx c).trans (h.ctx c), fun c => (k.serving c).trans (h.serving c)⟩

theorem of_cloves (h : t.comp.cloves = s.comp.cloves) : SameCtxs s t :=
  ⟨fun c => by rw [clove_congr h], fun c => by rw [clove_congr h]⟩

theorem ctxOf (h : SameCtxs s t) (c k : Nat) : ctxOf t c k = ctxOf s c k := by simp only [Machine.ctxOf, h.ctx]

theorem servingOf (h : SameCtxs s t) (c u : Nat) : servingOf t c u = servingOf s c u := by
  simp only [Machine.servingOf, h.serving]

/-- A change of one clove that keeps its contexts. -/
theorem modClove {f : Clove → Clove} (hc : (f (clove s p)).ctx = (clove s p).ctx)
    (hs : (f (clove s p)).serving = (clove s p).serving) : SameCtxs s (modClove s p f) :=
  ⟨clove_modClove_same _ hc, clove_modClove_same _ hs⟩

end SameCtxs

theorem modClove_sameBut (p : Nat) (f : Clove → Clove) (s : State) : sameBut [.comp] s (modClove s p f) :=
  modComp_sameBut _ s

/-! ### Tiles -/

theorem setTile_sameBut (p n : Nat) (y : Tile) (s : State) : sameBut [.comp] s (setTile s p n y) := modComp_sameBut _ s

theorem setTile_sameCtxs (p n : Nat) (y : Tile) (s : State) : SameCtxs s (setTile s p n y) := .modClove rfl rfl

@[simp] theorem tile_setTile (s : State) (p n : Nat) (y : Tile) : tile (setTile s p n y) p n = y := by
  simp [tile, setTile, sget_sset_same]

theorem tile_setTile_other (s : State) {c m p n : Nat} (y : Tile) (h : (c, m) ≠ (p, n)) :
    tile (setTile s p n y) c m = tile s c m := by
  by_cases hc : c = p
  · subst hc
    have hm : m ≠ n := fun hm => h (by rw [hm])
    simp [tile, setTile, sget_sset_other _ _ _ _ hm]
  · simp [tile, setTile, clove_modClove_other _ _ hc]

@[simp] theorem closing_setTile (s : State) (p n c : Nat) (y : Tile) :
    (clove (setTile s p n y) c).closing = (clove s c).closing := clove_modClove_same Clove.closing rfl c

theorem tile_modClosing (s : State) (p c m : Nat) (f : Clove → List Nat) :
    tile (modClove s p (fun x => { x with closing := f x })) c m = tile s c m :=
  congrArg (sget Tile.empty · m) (clove_modClove_same Clove.tiles rfl c)

/-- In a memory that meets no error a tile's words are read and written whole with nothing else (R78, R330). -/
theorem readTile_clean (hc : cleanMem s) (p n : Nat) : readTile p n s = (s, true) := by
  simp [readTile, faultsOf_clean hc]

theorem preloadFaults_clean (hc : cleanMem s) (p n : Nat) : preloadFaults p n s = s := by
  have hinj (b : Nat) : bitAt 0 b = false := Nat.zero_testBit b
  simp [preloadFaults, faultsOf_clean hc, hc.2.2, sget, hinj]

/-! ### Contexts -/

theorem setCtx_sameTiles (p k : Nat) (v : Ctx) (s : State) : SameTiles s (setCtx s p k v) := .modClove rfl rfl rfl

@[simp] theorem ctxOf_setCtx (s : State) (p k : Nat) (v : Ctx) : ctxOf (setCtx s p k v) p k = v := by
  simp [ctxOf, setCtx, sget_sset_same]

@[simp] theorem servingOf_setCtx (s : State) (p k u : Nat) (v : Ctx) :
    servingOf (setCtx s p k v) p u = servingOf s p u := by
  simp [servingOf, setCtx]

theorem setServing_sameTiles (p u : Nat) (k : Option Nat) (s : State) : SameTiles s (setServing p u k s) :=
  .modClove rfl rfl rfl

@[simp] theorem ctxOf_setServing (s : State) (p u k : Nat) (v : Option Nat) :
    ctxOf (setServing p u v s) p k = ctxOf s p k := by
  simp [ctxOf, setServing]

@[simp] theorem servingOf_setServing (s : State) (p u : Nat) (v : Option Nat) :
    servingOf (setServing p u v s) p u = v := by
  cases v <;> simp [servingOf, setServing, sget_sset_same]

theorem freeContext_sameTiles (p k : Nat) (s : State) : SameTiles s (freeContext p k s) := by
  unfold freeContext
  dsimp only
  split
  · exact (setCtx_sameTiles ..).trans (setServing_sameTiles ..)
  · exact setCtx_sameTiles ..

theorem freeContext_sameBut (p k : Nat) (s : State) : sameBut [.comp] s (freeContext p k s) := by
  unfold freeContext
  dsimp only
  split
  · exact sameBut_trans (modClove_sameBut p _ s) (modClove_sameBut p _ _)
  · exact modClove_sameBut p _ s

@[simp] theorem ctxOf_freeContext (s : State) (p k : Nat) : ctxOf (freeContext p k s) p k = Ctx.none := by
  unfold freeContext
  dsimp only
  split <;> simp

/-! ### A context that is given -/

theorem giveCtx_sameTiles (p k : Nat) (i : QItem) (stolen : Bool) (s : State) : SameTiles s (giveCtx p k i stolen s) := by
  have hset {v} : SameTiles s (setCtx (modComp s fun c => { c with orderNo := c.orderNo + 1 }) p k v) :=
    SameTiles.trans (t := modComp s fun c => { c with orderNo := c.orderNo + 1 }) (.of_cloves rfl) (setCtx_sameTiles p k v _)
  unfold giveCtx
  dsimp only
  split
  · exact hset.trans (setServing_sameTiles ..)
  · exact hset

theorem giveCtx_sameBut (p k : Nat) (i : QItem) (stolen : Bool) (s : State) : sameBut [.comp] s (giveCtx p k i stolen s) := by
  have hset {v} : sameBut [.comp] s (setCtx (modComp s fun c => { c with orderNo := c.orderNo + 1 }) p k v) :=
    sameBut_trans (modComp_sameBut _ s) (modClove_sameBut ..)
  unfold giveCtx
  dsimp only
  split
  · exact sameBut_trans hset (modClove_sameBut ..)
  · exact hset

/-- The context holds the item, ready, as the newest order (R204). -/
theorem ctxOf_giveCtx (p k : Nat) (i : QItem) (stolen : Bool) (s : State) :
    ctxOf (giveCtx p k i stolen s) p k = ⟨i, true, false, stolen, s.comp.orderNo + 1, 0⟩ := by
  unfold giveCtx
  dsimp only
  split <;> simp

/-- A unit that serves none serves it (R203). -/
theorem servingOf_giveCtx (p k : Nat) (i : QItem) (stolen : Bool) (s : State) :
    servingOf (giveCtx p k i stolen s) p (unitOfItem i.kind) = some ((servingOf s p (unitOfItem i.kind)).getD k) := by
  have hserves (v : Ctx) : servingOf (setCtx (modComp s fun c => { c with orderNo := c.orderNo + 1 }) p k v) p
      (unitOfItem i.kind) = servingOf s p (unitOfItem i.kind) := servingOf_setCtx ..
  unfold giveCtx
  dsimp only
  rw [hserves]
  cases hnow : servingOf s p (unitOfItem i.kind) with
  | none => simp
  | some a => exact (hserves _).trans hnow

/-! ### Parts that are finished -/

/-- Record `x` is `r` with one part finished: the last completes it with status OK. -/
structure Finished (r x : Rec) : Prop where
  scaleMiss : x.flags.scaleMiss = r.flags.scaleMiss
  more : 1 < r.left → x.life = .running ∧ x.left = r.left - 1
  last : r.left ≤ 1 → x.life = .done ∧ x.status = stOK ∧ x.left = 0

theorem guardFlag_sameBut (i q : Nat) (s : State) : sameBut [.stepGuard] s (guardFlag i q s) := by
  have hflag (tag layer tensor : Nat) : sameBut [.stepGuard] s (setStepFlag tag layer tensor s) := by
    unfold setStepFlag
    split
    · exact sameBut_refl _ s
    · exact ⟨rfl, fun p hp => by cases p <;> simp_all [Part.same]⟩
  unfold guardFlag
  split
  · split
    · exact hflag ..
    · exact sameBut_refl _ s
  · exact sameBut_refl _ s

theorem finishPart_sameBut (i q : Nat) (s : State) : sameBut [.streams, .stepGuard] s (finishPart i q s) := by
  unfold finishPart
  split
  · exact sameBut_refl _ s
  · split
    · exact sameBut_refl _ s
    · split
      · exact sameBut_mono (modRec_sameBut ..) (by simp)
      · refine sameBut_then (complete_sameBut ..) (by simp) (sameBut_then (modRec_sameBut ..) (by simp) ?_)
        exact sameBut_ite (sameBut_mono (guardFlag_sameBut i q s) (by simp)) (sameBut_refl _ s)

theorem heldRec_finishPart {i q : Nat} {r : Rec} (h : heldRec s i q = some r) (hrun : r.life = .running) :
    ∃ x, heldRec (finishPart i q s) i q = some x ∧ Finished r x := by
  simp only [finishPart, findRec_of_heldRec h, hrun, ne_eq, not_true_eq_false, if_false]
  split
  next hmore =>
    refine ⟨_, heldRec_modRec_self (f := fun x => { x with left := x.left - 1 }) (fun _ => rfl) h, rfl,
      fun _ => ⟨hrun, rfl⟩, fun hlast => by omega⟩
  next hlast =>
    have hguard : heldRec (if r.flags.nonfinite = true ∧ (matmulBody r).isNone = true then guardFlag i q s else s) i q
        = some r := by
      split
      · rw [heldRec_congr ((guardFlag_sameBut i q s).part .streams (by decide)), h]
      · exact h
    have hleft := heldRec_modRec_self (f := fun x => { x with left := 0 }) (fun _ => rfl) hguard
    have hdone := heldRec_modRec_self (f := fun r => if r.life = .done then r else completed stOK 0 0 CFlags.none r)
      (fun r => by split <;> rfl) hleft
    simp only [hrun, reduceCtorEq, if_false] at hdone
    exact ⟨_, hdone, by simp [completed, CFlags.or, CFlags.none], fun hmore => absurd hmore hlast, fun _ => ⟨rfl, rfl, rfl⟩⟩

/-- Other work of items leaves that as it is. -/
theorem Finished.within {l : List Part} {i q : Nat} {r x : Rec} (h : Finished r x) (hx : heldRec s i q = some x)
    (hw : Within l s t) : ∃ y, heldRec t i q = some y ∧ Finished r y := by
  obtain ⟨_, _, hy, hmiss⟩ := hw.held hx
  exact ⟨_, hy, hmiss.trans h.scaleMiss, h.more, h.last⟩

end
end Sys2Proof.Machine
end

section
/-! Work items that are handed out, waited for and stolen, and the switch of contexts (R77, R199 to R204). -/

namespace Sys2Proof.Machine

section
variable {s t u : State} {p k n q : Nat} {i : QItem} {stolen : Bool}

/-! ### Commands that move nothing -/

theorem setPhase_phases (on : Bool) (s : State) (f : Nat) : sameBut [.phases] s (setPhase on s f) := by
  unfold setPhase
  dsimp only
  split
  · exact sameBut_refl _ s
  · exact ⟨rfl, fun p hp => by cases p <;> simp_all [Part.same]⟩

theorem settlePhases_phases (s : State) : sameBut [.phases] s (settlePhases s) :=
  sameBut_trans (sameBut_foldl (fun t f => setPhase_phases _ t f) _ s) (setPhase_phases _ _ 6)

/-- No status line differs from itself. -/
theorem statusLines_self (s : State) : statusLines s s = s := by
  unfold statusLines
  generalize (s.host.streams.map (·.1) ++ s.host.streams.map (·.1)).dedup = l
  induction l with
  | nil => rfl
  | cons i l ih => rw [List.foldl_cons, show statusLine s s i = s by simp [statusLine]]; exact ih

/-- A command that changed nothing brings phase records up to date. -/
theorem still_of_settle {c : Instr} (h : exec c s = .next (settle s s)) : ∃ t, exec c s = .next t ∧ sameBut [.phases] s t := by
  refine ⟨_, h, ?_⟩
  unfold settle
  rw [statusLines_self]
  exact settlePhases_phases s

theorem settle_cloves (old s : State) : (settle old s).comp.cloves = s.comp.cloves :=
  congrArg ComputeSt.cloves ((settle_sameBut old s).part .comp (by decide))

/-! ### Tiles that are opened -/

/-- What a tile is once an item has opened it for its output (R75, R77). -/
structure Opened (b : MatmulBody) (i : QItem) (words : List Nat) (y : Tile) : Prop where
  state : y.state = if b.shared then .shared else .open_
  words : y.words = words
  item : y.item = i
  stream : y.stream = i.id.stream
  owner : y.owner = i.id.seq
  pass : y.pass = b.pass
  use : y.use = .out
  members : y.members = []

theorem openTile_clean (hc : cleanMem s) (p n : Nat) (r : Rec) (b : MatmulBody) (i : QItem) (u : TileUse) (words : List Nat) :
    ∃ y, openTile p n r b i u words s = setTile s p n y := by
  unfold openTile
  rw [preloadFaults_clean hc]
  exact ⟨_, rfl⟩

theorem openTile_out (hc : cleanMem s) (p n : Nat) (r : Rec) (b : MatmulBody) (i : QItem) (words : List Nat) :
    ∃ y, openTile p n r b i .out words s = setTile s p n y ∧ Opened b i words y := by
  unfold openTile
  rw [preloadFaults_clean hc]
  exact ⟨_, rfl, by simp, rfl, by simp, rfl, rfl, rfl, rfl, rfl⟩

/-- Opening dW tiles moves tiles alone. -/
theorem openDw_moves (hc : cleanMem s) (p : Nat) (r : Rec) (b : MatmulBody) (i : QItem) (words : List Nat) (l : List Nat) :
    sameBut [.comp] s (l.foldl (fun y o => openTile p (dwTile r b i o) r b i (.dw o) words y) s)
      ∧ SameCtxs s (l.foldl (fun y o => openTile p (dwTile r b i o) r b i (.dw o) words y) s) := by
  induction l generalizing s with
  | nil => exact ⟨sameBut_refl _ s, .refl⟩
  | cons o l ih =>
    obtain ⟨y, hy⟩ := openTile_clean hc p (dwTile r b i o) r b i (.dw o) words
    have hset := setTile_sameBut p (dwTile r b i o) y s
    have hclean : cleanMem (setTile s p (dwTile r b i o) y) := hc
    obtain ⟨hrest, hctx⟩ := ih hclean
    rw [List.foldl_cons, hy]
    exact ⟨sameBut_trans hset hrest, (setTile_sameCtxs ..).trans hctx⟩

/-! ### An item that is handed out -/

/-- The words of a tile that preloads nothing. -/
def zeroWords : List Nat := List.replicate 4096 0

/-- Item `i` has gone to context `k` of clove `p`, and has opened tile `n` if it opens one. -/
structure Handed (s t : State) (i : QItem) (p k n : Nat) (stolen : Bool) : Prop where
  ctx : ctxOf t p k = ⟨i, true, false, stolen, s.comp.orderNo + 1, 0⟩
  serving : servingOf t p (unitOfItem i.kind) = some ((servingOf s p (unitOfItem i.kind)).getD k)
  bare : ∀ r, findRec s i.id.stream i.id.seq = some r → matmulBody r = none → ∀ m, tile t p m = tile s p m
  opened : ∀ r b, findRec s i.id.stream i.id.seq = some r → matmulBody r = some b → i.kind ≠ .bwd →
    (i.kind = .shared → priorOf r i = []) → b.preload < 2 →
    Opened b i (zeroWords) (tile t p n) ∧ ∀ m, m ≠ n → tile t p m = tile s p m
  rest : sameBut (.comp :: .streams :: settleParts) s t

/-- What comes after a hand-out moves no clove. -/
theorem Handed.after (h : Handed s t i p k n stolen) (hcloves : u.comp.cloves = t.comp.cloves)
    (hrest : sameBut (.comp :: .streams :: settleParts) t u) : Handed s u i p k n stolen := by
  have htiles := (SameTiles.of_cloves hcloves).tile p
  have hctxs := SameCtxs.of_cloves hcloves
  refine ⟨(hctxs.ctxOf p k).trans h.ctx, (hctxs.servingOf p _).trans h.serving,
    fun r hr hb m => (htiles m).trans (h.bare r hr hb m), fun r b hr hb hk hp hl => ?_, sameBut_trans h.rest hrest⟩
  obtain ⟨hopen, hothers⟩ := h.opened r b hr hb hk hp hl
  exact ⟨htiles n ▸ hopen, fun m hm => (htiles m).trans (hothers m hm)⟩

theorem Handed.refill (h : Handed s t i p k n stolen) : Handed s (refill t) i p k n stolen :=
  h.after Within.refill.cloves (sameBut_mono Within.refill.rest (by decide))

theorem Handed.settle (h : Handed s t i p k n stolen) (old : State) : Handed s (settle old t) i p k n stolen :=
  h.after (settle_cloves old t) (sameBut_mono (settle_sameBut old t) (by decide))

/-- The item without its place in the queue, in its context. -/
def inContext (q : Nat) (i : QItem) (p k : Nat) (stolen : Bool) (s : State) : State := giveCtx p k i stolen (unqueue q i s)

theorem inContext_sameBut (q : Nat) (i : QItem) (p k : Nat) (stolen : Bool) (s : State) :
    sameBut [.comp] s (inContext q i p k stolen s) :=
  sameBut_trans (modComp_sameBut _ s) (giveCtx_sameBut ..)

theorem inContext_sameTiles (q : Nat) (i : QItem) (p k : Nat) (stolen : Bool) (s : State) :
    SameTiles s (inContext q i p k stolen s) :=
  SameTiles.trans (t := unqueue q i s) (.of_cloves rfl) (giveCtx_sameTiles ..)

theorem inContext_clean (hc : cleanMem s) : cleanMem (inContext q i p k stolen s) := by
  unfold cleanMem
  rw [(inContext_sameBut q i p k stolen s).part .mem (by decide)]
  exact hc

/-- Opening what the item opens finishes its hand-out. -/
theorem handed_of_inContext {v : State} (hctx : SameCtxs (inContext q i p k stolen s) v)
    (hrest : sameBut [.comp] (inContext q i p k stolen s) v)
    (hbare : ∀ r, findRec s i.id.stream i.id.seq = some r → matmulBody r = none → v = inContext q i p k stolen s)
    (hopened : ∀ r b, findRec s i.id.stream i.id.seq = some r → matmulBody r = some b → i.kind ≠ .bwd →
      (i.kind = .shared → priorOf r i = []) → b.preload < 2 →
      ∃ y, v = setTile (inContext q i p k stolen s) p n y ∧ Opened b i (zeroWords) y) :
    Handed s v i p k n stolen where
  ctx := (hctx.ctxOf p k).trans (ctxOf_giveCtx ..)
  serving := (hctx.servingOf p _).trans (servingOf_giveCtx ..)
  bare r hr hb m := by rw [hbare r hr hb]; exact (inContext_sameTiles ..).tile p m
  opened r b hr hb hk hp hl := by
    obtain ⟨y, rfl, hy⟩ := hopened r b hr hb hk hp hl
    refine ⟨by rw [tile_setTile]; exact hy, fun m hm => ?_⟩
    rw [tile_setTile_other _ _ (by simp [hm])]
    exact (inContext_sameTiles ..).tile p m
  rest := sameBut_mono (sameBut_trans (inContext_sameBut ..) hrest) (by decide)

/-- With nothing to preload, an item opens tiles of zeros. -/
theorem preloadWords_zeros {b : MatmulBody} (h : b.preload < 2) (p : Nat) (l : List (Option TEntry)) (n c : Nat) :
    preloadWords p b l n c = pure zeroWords := by
  unfold preloadWords
  exact if_pos (.inl h)

section
variable {r : Rec} {b : MatmulBody} (hr : findRec (inContext q i p k stolen s) i.id.stream i.id.seq = some r)
include hr

theorem handOut_bare (hb : matmulBody r = none) : handOut q i p k n stolen s = inContext q i p k stolen s := by
  unfold inContext at hr ⊢
  simp only [handOut, hr, hb]

theorem handOut_bwd (hb : matmulBody r = some b) (hk : i.kind = .bwd) :
    handOut q i p k n stolen s = (dwBlocks r b i).foldl (fun y o => openTile p (dwTile r b i o) r b i (.dw o) zeroWords y)
      (inContext q i p k stolen s) := by
  unfold inContext at hr ⊢
  simp only [handOut, hr, hb, hk]
  rfl

theorem handOut_out (hb : matmulBody r = some b) (hk : i.kind ≠ .bwd) (hlow : b.preload < 2) :
    handOut q i p k n stolen s = if i.kind = .shared ∧ !opens r b i then inContext q i p k stolen s
      else openTile p n r b i .out zeroWords (inContext q i p k stolen s) := by
  unfold inContext at hr ⊢
  simp only [handOut, hr, hb, preloadWords_zeros hlow]
  generalize i.kind = κ at hk ⊢
  cases κ
  case bwd => exact absurd rfl hk
  all_goals split <;> rfl

end

theorem handed_handOut (hc : cleanMem s) (hfind : ∃ r, findRec s i.id.stream i.id.seq = some r)
    (hpre : ∀ r b, findRec s i.id.stream i.id.seq = some r → matmulBody r = some b → i.kind = .bwd ∨ b.preload < 2)
    (q p k n : Nat) (stolen : Bool) : Handed s (handOut q i p k n stolen s) i p k n stolen := by
  obtain ⟨r, hr⟩ := hfind
  have hone {r' : Rec} (hr' : findRec s i.id.stream i.id.seq = some r') : r' = r := Option.some.inj (hr'.symm.trans hr)
  have hcw : cleanMem (inContext q i p k stolen s) := inContext_clean hc
  have hrw : findRec (inContext q i p k stolen s) i.id.stream i.id.seq = some r :=
    (findRec_congr ((inContext_sameBut ..).part .streams (by decide)) _ _).trans hr
  cases hb : matmulBody r with
  | none =>
    rw [handOut_bare hrw hb]
    refine handed_of_inContext .refl (sameBut_refl _ _) (fun _ _ _ => rfl) fun r' b hr' hb' => ?_
    rw [hone hr', hb] at hb'
    cases hb'
  | some b =>
    have hnotBare {t : State} (r') (hr' : findRec s i.id.stream i.id.seq = some r') (hb' : matmulBody r' = none) :
        t = inContext q i p k stolen s := by
      rw [hone hr', hb] at hb'
      cases hb'
    by_cases hk : i.kind = .bwd
    · obtain ⟨hrest, hctx⟩ := openDw_moves hcw p r b i zeroWords (dwBlocks r b i)
      rw [handOut_bwd hrw hb hk]
      exact handed_of_inContext hctx hrest hnotBare fun _ _ _ _ hk' => absurd hk hk'
    · obtain ⟨y, hy, hopen⟩ := openTile_out hcw p n r b i zeroWords
      rw [handOut_out hrw hb hk ((hpre r b hr hb).resolve_left hk), hy]
      split
      next hlater =>
        obtain ⟨hshared, hnot⟩ := hlater
        refine handed_of_inContext .refl (sameBut_refl _ _) hnotBare fun r' b' hr' hb' _ hp _ => ?_
        rw [hone hr'] at hb' hp
        simp [opens, hp hshared] at hnot
      next =>
        refine handed_of_inContext (setTile_sameCtxs ..) (setTile_sameBut ..) hnotBare fun r' b' hr' hb' _ _ _ => ?_
        cases Option.some.inj (hb.symm.trans (hone hr' ▸ hb'))
        exact ⟨y, rfl, hopen⟩

/-! ### The item that is taken -/

theorem findSome?_append_cons {α β : Type} {f : α → Option β} {h l : List α} {a : α} {b : β} (hno : ∀ j ∈ h, f j = none)
    (ha : f a = some b) : (h ++ a :: l).findSome? f = some b := by
  rw [List.findSome?_append, List.findSome?_eq_none_iff.2 hno, Option.none_or, List.findSome?_cons_of_isSome] <;> simp [ha]

/-- An item that some clove can take belongs to a descriptor that stands. -/
theorem findRec_of_takerOf {x} (h : takerOf s q i = some x) : ∃ r, findRec s i.id.stream i.id.seq = some r := by
  unfold takerOf at h
  split at h
  · cases h
  · exact ⟨_, ‹_›⟩

theorem findRec_of_thiefOf {x} (h : thiefOf s q i = some x) : ∃ r, findRec s i.id.stream i.id.seq = some r := by
  unfold thiefOf at h
  split at h
  · cases h
  · exact ⟨_, ‹_›⟩

theorem podHandOut_eq {h l : List QItem} (horder : handOrder s q = h ++ i :: l) (hno : ∀ j ∈ h, takerOf s q j = none)
    (htake : takerOf s q i = some (p, k, n)) : podHandOut q s = refill (handOut q i p k n false s) := by
  unfold podHandOut
  rw [horder, findSome?_append_cons (b := (i, p, k, n)) (fun j hj => by simp [hno j hj]) (by simp [htake])]

theorem podHandOut_none (hno : ∀ i ∈ handOrder s q, takerOf s q i = none) : podHandOut q s = s := by
  unfold podHandOut
  rw [List.findSome?_eq_none_iff.2 fun i hi => by simp [hno i hi]]

theorem openWaiting_eq {m z : Nat} {h l : List QItem} (hpos : ringPos s p = some (q, z)) (hfree : tileFree s p n = true)
    (horder : handOrder s q = h ++ i :: l)
    (hno : ∀ j ∈ h, namesTile s j n = true → ∀ x, takerOf s q j = some x → x.1 ≠ p) (hnames : namesTile s i n = true)
    (htake : takerOf s q i = some (p, k, m)) : openWaiting p n s = refill (handOut q i p k m false s) := by
  unfold openWaiting
  rw [hpos]
  dsimp only
  rw [horder, findSome?_append_cons (b := (i, k, m)) (fun j hj => ?_) (by simp [hnames, htake])]
  · simp [hfree]
  · by_cases hj' : namesTile s j n = true
    · cases hx : takerOf s q j with
      | none => simp
      | some x => simpa [hj'] using hno j hj hj' x hx
    · simp [hj']

theorem openWaiting_busy (hbusy : tileFree s p n = false) : openWaiting p n s = s := by
  unfold openWaiting
  split
  · rfl
  · simp [hbusy]

/-! ### Stealing -/

/-- The queue that a pod looks into at distance `d` on its ring. -/
def victim (q d : Nat) : Nat := q / 6 * 6 + (q % 6 + d) % 6

theorem stealTarget_right {l : List QItem} (hqueue : sget [] s.comp.podQueue (victim q 1) = l ++ [i]) (hl : l ≠ [])
    (hmay : mayBeStolen s i = true) : stealTarget s q = some (victim q 1, i) := by
  have htwo : 2 ≤ (l ++ [i]).length := by
    cases l with
    | nil => exact absurd rfl hl
    | cons a l => simp
  unfold victim at hqueue ⊢
  simp only [stealTarget, List.map_cons, List.find?_cons, hqueue, htwo, decide_true, Option.bind_some]
  simp [hmay]

theorem stealTarget_none (hshort : ∀ d, 1 ≤ d → d ≤ 5 → (sget [] s.comp.podQueue (victim q d)).length < 2) :
    stealTarget s q = none := by
  have hnear : ∀ d ∈ [1, 5, 2, 4, 3], 1 ≤ d ∧ d ≤ 5 := by decide
  have hnone : ([1, 5, 2, 4, 3].map (victim q)).find? (fun v => decide (2 ≤ (sget [] s.comp.podQueue v).length)) = none := by
    rw [List.find?_eq_none]
    intro v hv
    obtain ⟨d, hd, rfl⟩ := List.mem_map.1 hv
    obtain ⟨hlow, hhigh⟩ := hnear d hd
    simpa using hshort d hlow hhigh
  exact congrArg (Option.bind · _) hnone

section
variable (hown : ∀ j ∈ handOrder s q, takerOf s q j = none)
include hown

/-- No clove can take an item of the pod's own queue. -/
theorem not_any_taker : ¬ (handOrder s q).any (fun i => (takerOf s q i).isSome) = true := by simpa using hown

theorem podSteal_some {v : Nat} (htarget : stealTarget s q = some (v, i)) (hthief : thiefOf s q i = some (p, k)) :
    podSteal q s = refill (count (tileBase (q / 6) + 0x20C) 1 (handOut v i p k i.tile true s)) := by
  simp [podSteal, not_any_taker hown, htarget, hthief]

theorem podSteal_noThief {v : Nat} (htarget : stealTarget s q = some (v, i)) (hthief : thiefOf s q i = none) :
    podSteal q s = s := by
  simp [podSteal, not_any_taker hown, htarget, hthief]

theorem podSteal_noTarget (htarget : stealTarget s q = none) : podSteal q s = s := by
  simp [podSteal, not_any_taker hown, htarget]

end

/-! ### A switch of contexts -/

/-- The contexts of a clove with the ready bits of `mask`. -/
def readied (p mask : Nat) (s : State) : State :=
  modClove s p (fun c => { c with ctx := c.ctx.map (fun x => (x.1, { x.2 with ready := bitAt mask x.1 })) })

theorem ctxOf_readied {mask : Nat} (h : (clove s p).ctx.any (fun x => x.1 == k) = true) :
    ctxOf (readied p mask s) p k = { ctxOf s p k with ready := bitAt mask k } := by
  simp only [ctxOf, readied, clove_modClove]
  generalize (clove s p).ctx = l at h
  induction l with
  | nil => simp at h
  | cons x l ih =>
    by_cases hx : x.1 = k
    · simp [sget, hx]
    · have hrest := ih (by simpa [hx] using h)
      simpa [sget, List.find?_cons, hx] using hrest

theorem servingOf_readied (p mask u : Nat) (s : State) : servingOf (readied p mask s) p u = servingOf s p u := by
  simp [servingOf, readied]

theorem nextReady_setServing (p u v : Nat) (k : Option Nat) (s : State) :
    nextReady (setServing p u k s) p v = nextReady s p v := by
  simp [nextReady, nextReadyIn, setServing]

/-- A count looks at the counters alone. -/
theorem count_reg_congr (h : t.reg = s.reg) (a n : Nat) : (count a n t).reg = (count a n s).reg := by
  unfold count ctr
  simp only [h]
  split
  · exact h
  · split <;> simp [modReg, h]

/-- The unit turns to the ready context that is served next. -/
def turned (p u mask : Nat) (s : State) : State :=
  setServing p u (nextReady (readied p mask s) p u) (readied p mask s)

section
variable {v mask : Nat}

theorem contextBoundary_fresh (hserves : servingOf s p v = none) : contextBoundary p v mask s = turned p v mask s := by
  have hcur : servingOf (readied p mask s) p v = none := by rw [servingOf_readied, hserves]
  unfold readied at hcur
  simp [contextBoundary, turned, readied, hcur]

theorem contextBoundary_alone (hserves : servingOf s p v = some k) (hnext : nextReady (readied p mask s) p v = none) :
    contextBoundary p v mask s = if (ctxOf (readied p mask s) p k).ready then readied p mask s else turned p v mask s := by
  have hcur : servingOf (readied p mask s) p v = some k := by rw [servingOf_readied, hserves]
  unfold readied at hcur hnext
  simp [contextBoundary, turned, readied, hcur, hnext]

theorem contextBoundary_next (hserves : servingOf s p v = some k) (hnext : nextReady (readied p mask s) p v = some n) :
    contextBoundary p v mask s =
      if (ctxOf (readied p mask s) p k).ready = true
        ∧ (¬ (ctxOf (readied p mask s) p n).item.prio = 3 ∨ 3 ≤ (ctxOf (readied p mask s) p k).item.prio) then readied p mask s
      else if k = n then turned p v mask s else count (cloveBase p + 0x130) 1 (turned p v mask s) := by
  have hcur : servingOf (readied p mask s) p v = some k := by rw [servingOf_readied, hserves]
  unfold readied at hcur hnext
  simp [contextBoundary, turned, readied, hcur, hnext]

end

theorem contextBoundary_cases (p u mask : Nat) (s : State) : contextBoundary p u mask s = readied p mask s
    ∨ contextBoundary p u mask s = turned p u mask s
    ∨ contextBoundary p u mask s = count (cloveBase p + 0x130) 1 (turned p u mask s) := by
  cases hserves : servingOf s p u with
  | none => exact .inr (.inl (contextBoundary_fresh hserves))
  | some k =>
    cases hnext : nextReady (readied p mask s) p u with
    | none =>
      rw [contextBoundary_alone hserves hnext]
      split <;> simp
    | some n =>
      rw [contextBoundary_next hserves hnext]
      split
      · exact .inl rfl
      · split <;> simp

section
variable (p u mask : Nat) (s : State)

theorem contextBoundary_sameBut : sameBut [.comp, .counters] s (contextBoundary p u mask s) := by
  have hready : sameBut [.comp] s (readied p mask s) := modClove_sameBut ..
  have hturned : sameBut [.comp] s (turned p u mask s) := sameBut_trans hready (modClove_sameBut ..)
  obtain h | h | h := contextBoundary_cases p u mask s <;> rw [h]
  · exact sameBut_mono hready (by decide)
  · exact sameBut_mono hturned (by decide)
  · exact sameBut_then (count_sameBut ..) (by decide) (sameBut_mono hturned (by decide))

theorem ctxOf_contextBoundary (k : Nat) : ctxOf (contextBoundary p u mask s) p k = ctxOf (readied p mask s) p k := by
  have hturned : ctxOf (turned p u mask s) p k = ctxOf (readied p mask s) p k := ctxOf_setServing ..
  obtain h | h | h := contextBoundary_cases p u mask s <;> rw [h]
  · exact hturned
  · exact ((SameCtxs.of_cloves (congrArg ComputeSt.cloves (count_comp ..))).ctxOf p k).trans hturned

theorem nextReady_contextBoundary :
    nextReady (contextBoundary p u mask s) p u = nextReady (readied p mask s) p u := by
  have hturned : nextReady (turned p u mask s) p u = nextReady (readied p mask s) p u := nextReady_setServing ..
  obtain h | h | h := contextBoundary_cases p u mask s <;> rw [h]
  · exact hturned
  · rw [← hturned, nextReady, clove_congr (congrArg ComputeSt.cloves (count_comp ..))]
    rfl

end

section
variable {v mask : Nat}

/-- A unit keeps a ready context when no context of priority 3 comes before it (R196, R204). -/
theorem contextBoundary_keeps (hserves : servingOf s p v = some k) (hready : (ctxOf (readied p mask s) p k).ready = true)
    (hlow : ∀ n, nextReady (readied p mask s) p v = some n → (ctxOf (readied p mask s) p n).item.prio < 3) :
    contextBoundary p v mask s = readied p mask s := by
  cases hnext : nextReady (readied p mask s) p v with
  | none => rw [contextBoundary_alone hserves hnext, if_pos hready]
  | some n =>
    have hprio := hlow n hnext
    rw [contextBoundary_next hserves hnext, if_pos ⟨hready, .inl (by omega)⟩]

theorem servingOf_turned : servingOf (turned p v mask s) p v = nextReady (readied p mask s) p v := servingOf_setServing ..

/-- A unit whose context is not ready turns to the next, and counts a change. -/
theorem contextBoundary_turns (hserves : servingOf s p v = some k) (hready : (ctxOf (readied p mask s) p k).ready = false) :
    servingOf (contextBoundary p v mask s) p v = nextReady (readied p mask s) p v
      ∧ ∀ n, nextReady (readied p mask s) p v = some n → n ≠ k →
        (contextBoundary p v mask s).reg = (count (cloveBase p + 0x130) 1 s).reg := by
  cases hnext : nextReady (readied p mask s) p v with
  | none =>
    rw [contextBoundary_alone hserves hnext]
    simp [hready, servingOf_turned, hnext]
  | some n =>
    rw [contextBoundary_next hserves hnext, if_neg (by simp [hready])]
    refine ⟨?_, fun m hm hne => ?_⟩
    · rw [← hnext, ← servingOf_turned]
      split
      · rfl
      · exact (SameCtxs.of_cloves (congrArg ComputeSt.cloves (count_comp ..))).servingOf p v
    · rw [if_neg fun h => hne (by rw [h, Option.some.inj hm])]
      exact count_reg_congr (t := turned p v mask s) (s := s) rfl _ _

end

end
end Sys2Proof.Machine
end

section
/-! Items whose values are complete: what they add to their tile, and what they finish (R76, R79, R80, R193, R203). -/

namespace Sys2Proof.Machine

section
variable {s t u v : State} {p k n q : Nat} {i : QItem} {r : Rec} {b : MatmulBody}

/-! ### Products -/

/-- The blocks of operand B that an item reads. -/
def itemBlocks (r : Rec) (b : MatmulBody) (i : QItem) : List (Nat × Nat) :=
  let bc := (itemBlock b r.tes i.id.n).2
  let (k0, k1) := chunkRange b r.tes i.id.chunk
  (List.range ((k1 + 63) / 64)).filterMap (fun k => if k < k0 / 64 then none else some (if b.transB then (bc, k) else (k, bc)))

/-- The sum of an item's lanes, group by group, with the words of its tile. -/
def itemSum (r : Rec) (b : MatmulBody) (la lb : Lanes) (words : List Nat) : TileSum :=
  addProducts (arrayMode b.pass (eFmt (teAt r.tes 0)) (eFmt (teAt r.tes 1)) (b.kind = 2)) (glenOf b.glen) la lb words

/-- Words `ws` are those of tile `n` with the products of an item added: of the lanes that it loads after its checks. -/
def Adds (s : State) (p n : Nat) (r : Rec) (b : MatmulBody) (i : QItem) (ws : List Nat) : Prop :=
  let (br, bc) := itemBlock b r.tes i.id.n
  let (k0, k1) := chunkRange b r.tes i.id.chunk
  let g := glenOf b.glen
  ∀ t u v la lb, checkBlocksRead p b r.tes (itemBlocks r b i) s = (.ok (), t) →
    loadLanes p (portA b (teAt r.tes 0)) g br k0 k1 (reqClove p) t = (.ok la, u) →
    loadLanes p (portB b (teAt r.tes 1)) g bc k0 k1 (reqClove p) u = (.ok lb, v) →
    ws = (itemSum r b la lb (tile s p n).words).words

/-- A tile with a sum in its words. -/
def summed (x : TileSum) (y : Tile) : Tile :=
  { y with words := x.words, sat := y.sat || x.sat, flush := y.flush || x.flush, nonfinite := y.nonfinite || x.nonfinite }

theorem countIn_sameBut (p n : Nat) (s : State) : sameBut [.counters] s (countIn p n s) := count_sameBut ..

theorem countAcc_sameBut (p n : Nat) (s : State) : sameBut [.counters] s (countAcc p n s) := count_sameBut ..

theorem takeSum_clean (hc : cleanMem s) (p n : Nat) (x : TileSum) :
    takeSum p n x s = setTile (countAcc p x.flushes s) p n (summed x (tile s p n)) := by
  have hca : cleanMem (countAcc p x.flushes s) := cleanMem_congr ((countAcc_sameBut ..).part .mem (by decide)) hc
  unfold takeSum
  rw [preloadFaults_clean hca]
  rfl

/-- An item whose lanes load puts their sum into its tile, and moves counters with it. -/
theorem itemProducts_ok (hc : cleanMem s) (h : itemProducts p n b r.tes i s = (.ok (), t)) :
    ∃ x w, Adds s p n r b i x.words ∧ sameBut [.counters] s w ∧ t = setTile w p n (summed x (tile s p n)) := by
  unfold itemProducts productsInto at h
  dsimp only at h
  obtain ⟨_, u₁, hchk, h⟩ := ok_of_bind h
  cases WithinM.checkBlocksRead.eq hc hchk
  obtain ⟨la, u₂, hla, h⟩ := ok_of_bind h
  cases WithinM.loadLanes.eq hc hla
  obtain ⟨lb, u₃, hlb, h⟩ := ok_of_bind h
  cases WithinM.loadLanes.eq hc hlb
  obtain ⟨w, hw, rfl⟩ : ∃ w, sameBut [.counters] s w ∧ t = takeSum p n (itemSum r b la lb (tile w p n).words) w := by
    cases h
    exact ⟨_, sameBut_trans (countIn_sameBut ..) (timer_sameBut ..), rfl⟩
  have hcw : cleanMem w := cleanMem_congr (hw.part .mem (by decide)) hc
  have htile : tile w p n = tile s p n :=
    (SameTiles.of_cloves (congrArg ComputeSt.cloves (hw.part .comp (by decide)))).tile p n
  rw [takeSum_clean hcw, htile]
  refine ⟨_, _, ?_, sameBut_trans hw (countAcc_sameBut ..), rfl⟩
  intro _ _ _ _ _ hchk' hla' hlb'
  cases hchk.symm.trans hchk'
  cases hla.symm.trans hla'
  cases hlb.symm.trans hlb'
  rfl

/-! ### Tiles that close -/

/-- A tile after its last value: COMBINING when its reduction is split, else CLOSING. -/
def closed (y : Tile) : Tile := { y with state := if 1 < y.splitN then .combining else .closing }

theorem closeTile_eq (p n : Nat) (s : State) : closeTile p n s = if 1 < (tile s p n).splitN then setTile s p n (closed (tile s p n))
    else modClove (setTile s p n (closed (tile s p n))) p (fun c => { c with closing := c.closing ++ [n] }) := by
  unfold closeTile closed
  dsimp only
  split <;> rfl

theorem tile_closeTile (p n : Nat) (s : State) : tile (closeTile p n s) p n = closed (tile s p n) := by
  rw [closeTile_eq]
  split
  · exact tile_setTile ..
  · exact (tile_modClosing ..).trans (tile_setTile ..)

theorem closing_closeTile (p n : Nat) (s : State) : (clove (closeTile p n s) p).closing =
    if 1 < (tile s p n).splitN then (clove s p).closing else (clove s p).closing ++ [n] := by
  rw [closeTile_eq]
  split
  · exact closing_setTile ..
  · rw [clove_modClove]
    exact congrArg (· ++ [n]) (closing_setTile ..)

theorem closeTile_sameBut (p n : Nat) (s : State) : sameBut [.comp] s (closeTile p n s) := by
  rw [closeTile_eq]
  exact sameBut_ite (setTile_sameBut ..) (sameBut_trans (setTile_sameBut ..) (modClove_sameBut ..))

theorem closeTile_sameCtxs (p n : Nat) (s : State) : SameCtxs s (closeTile p n s) := by
  rw [closeTile_eq]
  split
  · exact setTile_sameCtxs ..
  · exact (setTile_sameCtxs ..).trans (.modClove rfl rfl)

/-! ### An item that has added -/

/-- The tile that an item has added to names it as its owner, and a shared member among its members. -/
def owned (b : MatmulBody) (i : QItem) (y : Tile) : Tile :=
  { y with owner := i.id.seq, out := i.id.n, members := if b.shared then y.members ++ [i.id.seq] else y.members }

theorem added_eq (p n : Nat) (r : Rec) (b : MatmulBody) (i : QItem) (s : State) : added p n r b i s =
    if closes b then closeTile p n (setTile s p n (owned b i (tile s p n)))
    else finishPart i.id.stream r.seq (setTile s p n (owned b i (tile s p n))) := rfl

theorem finishPart_cloves (i q : Nat) (s : State) : (finishPart i q s).comp.cloves = s.comp.cloves :=
  congrArg ComputeSt.cloves ((finishPart_sameBut i q s).part .comp (by decide))

theorem tile_added (p n : Nat) (r : Rec) (b : MatmulBody) (i : QItem) (s : State) : tile (added p n r b i s) p n =
    if closes b then closed (owned b i (tile s p n)) else owned b i (tile s p n) := by
  rw [added_eq]
  split
  · rw [tile_closeTile, tile_setTile]
  · rw [(SameTiles.of_cloves (finishPart_cloves ..)).tile, tile_setTile]

theorem added_sameCtxs (p n : Nat) (r : Rec) (b : MatmulBody) (i : QItem) (s : State) : SameCtxs s (added p n r b i s) := by
  rw [added_eq]
  split
  · exact (setTile_sameCtxs ..).trans (closeTile_sameCtxs ..)
  · exact (setTile_sameCtxs ..).trans (.of_cloves (finishPart_cloves ..))

theorem added_sameBut (p n : Nat) (r : Rec) (b : MatmulBody) (i : QItem) (s : State) :
    sameBut [.comp, .streams, .stepGuard] s (added p n r b i s) := by
  have hset := setTile_sameBut p n (owned b i (tile s p n)) s
  rw [added_eq]
  exact sameBut_ite (sameBut_mono (sameBut_trans hset (closeTile_sameBut ..)) (by decide))
    (sameBut_then (finishPart_sameBut ..) (by decide) (sameBut_mono hset (by decide)))

/-- An operation that drains finishes no part before its drain. -/
theorem added_sameBut_closes (hcl : closes b = true) (p n : Nat) (r : Rec) (i : QItem) (s : State) :
    sameBut [.comp] s (added p n r b i s) := by
  rw [added_eq, if_pos hcl]
  exact sameBut_trans (setTile_sameBut ..) (closeTile_sameBut ..)

theorem closing_added (hcl : closes b = true) (p n : Nat) (r : Rec) (i : QItem) (s : State) :
    (clove (added p n r b i s) p).closing =
      if 1 < (tile s p n).splitN then (clove s p).closing else (clove s p).closing ++ [n] := by
  rw [added_eq, if_pos hcl, closing_closeTile, closing_setTile, tile_setTile]
  rfl

/-- An item that adds its values and frees its context: its tile and its clove in between. -/
theorem addItem_ok (hc : cleanMem s) (hok : passes (itemProducts p n b r.tes i) s = true) (k : Nat) :
    ∃ x v, Adds s p n r b i x.words ∧ sameBut [.comp, .counters] s v ∧ ctxOf v p k = Ctx.none
      ∧ tile v p n = summed x (tile s p n) ∧ (clove v p).closing = (clove s p).closing
      ∧ addItem p k n r b i s = added p n r b i v := by
  obtain ⟨_, t, ht⟩ := ok_of_passes hok
  obtain ⟨x, w, hadds, hw, rfl⟩ := itemProducts_ok hc ht
  have hfree := freeContext_sameTiles p k (setTile w p n (summed x (tile s p n)))
  refine ⟨x, freeContext p k (setTile w p n (summed x (tile s p n))), hadds, ?_, ctxOf_freeContext .., ?_, ?_, ?_⟩
  · exact sameBut_then (freeContext_sameBut ..) (by decide)
      (sameBut_then (setTile_sameBut ..) (by decide) (sameBut_mono hw (by decide)))
  · rw [hfree.tile, tile_setTile]
  · rw [hfree.closing, closing_setTile, clove_congr (congrArg ComputeSt.cloves (hw.part .comp (by decide)))]
  · unfold addItem
    rw [readTile_clean hc]
    exact runItem_ok ((mm_bind ht _).trans rfl) ..

/-- A member whose values wait stands, is a MATMUL's, and has its turn at the tile (R80). -/
theorem waitingMember_some {c : Ctx} (h : waitingMember s p n = some (k, c, r, b)) :
    findRec s c.item.id.stream c.item.id.seq = some r ∧ matmulBody r = some b ∧ priorIn r c.item (tile s p n) = true := by
  obtain ⟨x, -, hx⟩ := List.exists_of_findSome?_eq_some h
  split at hx
  · split at hx
    next r' hr =>
      split at hx
      next b' hb =>
        obtain ⟨⟨-, hturn⟩, hx⟩ := Option.ite_none_right_eq_some.1 hx
        cases hx
        exact ⟨hr, hb, hturn⟩
      · cases hx
    · cases hx
  · cases hx

/-- An item of another kind than BWD_PAIR whose turn it is adds to its tile. -/
theorem completeMatmulItem_eq {c : Ctx} (hk : c.item.kind ≠ .bwd) (htile : itemTile s p r c.item .out = some n)
    (hturn : b.shared = true → priorIn r c.item (tile s p n) = true) :
    completeMatmulItem p k r b c s = addItem p k n r b c.item s := by
  unfold completeMatmulItem
  rw [if_neg hk, htile]
  dsimp only
  rw [if_neg]
  simpa using hturn

/-! ### Parts of a VECOP or a SCAN -/

/-- An item whose work passes frees its context and leaves its operation one part less (R193). -/
theorem partItem_ok {w : MM Unit} (hc : cleanMem s) (hw : WithinM itemParts w) (hok : passes w s = true)
    (hr : heldRec s i.id.stream r.seq = some r) (hrun : r.life = .running) (k : Nat) :
    let t := settle s (refill (runItem i.id.stream r.seq (do
      w
      mMod (fun t => refill (finishPart i.id.stream r.seq (freeContext p k t)))) s))
    ∃ x, ctxOf t p k = Ctx.none ∧ findRec t i.id.stream r.seq = some x ∧ Finished r x
      ∧ sameBut (.mem :: .comp :: .streams :: .stepGuard :: .free :: settleParts) s t := by
  obtain ⟨_, a, ha⟩ := ok_of_passes hok
  obtain ⟨hrest, -, -, -, hheld⟩ := hw hc ha
  obtain ⟨fl, cuts, hra, hmiss⟩ := hheld hr
  have hfree := freeContext_sameBut p k a
  obtain ⟨x, hx, hfin⟩ := heldRec_finishPart ((heldRec_congr (hfree.part .streams (by decide)) _ _).trans hra) hrun
  obtain ⟨y, hy, hfin'⟩ := (Finished.mk (r := r) (hfin.scaleMiss.trans hmiss) hfin.more hfin.last).within hx
    (Within.refill.trans Within.refill)
  have hcloves := (settle_cloves s _).trans (Within.refill.cloves.trans (Within.refill.cloves.trans
    (finishPart_cloves i.id.stream r.seq (freeContext p k a))))
  rw [runItem_ok ((mm_bind ha _).trans rfl)]
  refine ⟨y, ((SameCtxs.of_cloves hcloves).ctxOf p k).trans (ctxOf_freeContext ..), ?_, hfin', ?_⟩
  · rw [findRec_settle, findRec_of_heldRec hy]
  · refine sameBut_then (settle_sameBut ..) (by decide) (sameBut_then Within.refill.rest (by decide)
      (sameBut_then Within.refill.rest (by decide) (sameBut_then (finishPart_sameBut ..) (by decide)
        (sameBut_then hfree (by decide) (sameBut_mono hrest (by decide))))))

/-! ### The commands -/

section
variable (s)

theorem exec_itemHandout (hq : q < 96) : exec (.itemHandout q) s = .next (settle s (podHandOut q s)) :=
  congrArg (onUnit · _) (decide_eq_true hq)

theorem exec_workSteal (hq : q < 96) : exec (.workSteal q) s = .next (settle s (podSteal q s)) :=
  congrArg (onUnit · _) (decide_eq_true hq)

theorem exec_tileWaitOpen (hp : p < 1216) (hn : n < 128) : exec (.tileWaitOpen p n) s = .next (settle s (openWaiting p n s)) := by
  have hunit : (decide (p < 1216) && decide (n < 128)) = true := by simp [hp, hn]
  exact congrArg (onUnit · _) hunit

theorem exec_sharedMemberAdd (hp : p < 1216) (hn : n < 128) :
    exec (.sharedMemberAdd p n) s = .next (settle s (memberAdds p n s)) := by
  have hunit : (decide (p < 1216) && decide (n < 128)) = true := by simp [hp, hn]
  exact congrArg (onUnit · _) hunit

theorem exec_contextSwitch {u : Nat} (hp : p < 1216) (hu : u < 3) (mask : Nat) :
    exec (.contextSwitch p u mask) s = .next (contextBoundary p u mask s) := by
  have hunit : (decide (p < 1216) && decide (u < 3)) = true := by simp [hp, hu]
  exact congrArg (onUnit · _) hunit

theorem exec_workItemComplete (hp : p < 1216) (hk : k < 4) :
    exec (.workItemComplete p k) s = .next (settle s (refill (completeItem p k s))) := by
  have hunit : (decide (p < 1216) && decide (k < 4)) = true := by simp [hp, hk]
  exact congrArg (onUnit · _) hunit

end

section
variable (horder : (ctxOf s p k).order ≠ 0)
  (hr : findRec s (ctxOf s p k).item.id.stream (ctxOf s p k).item.id.seq = some r)
include horder hr

theorem completeItem_matmul (hb : r.desc = .matmul b) : completeItem p k s = completeMatmulItem p k r b (ctxOf s p k) s := by
  simp only [completeItem, horder, if_false, hr, hb]

theorem completeItem_vecop {b : VecopBody} (hb : r.desc = .vecop b) :
    completeItem p k s = completeVecItem p k r b (ctxOf s p k) s := by
  simp only [completeItem, horder, if_false, hr, hb]

theorem completeItem_scan {b : ScanBody} (hb : r.desc = .scan b) :
    completeItem p k s = completeScanItem p k r b (ctxOf s p k) s := by
  simp only [completeItem, horder, if_false, hr, hb]

omit horder in
/-- The item of a context whose work `w` passes is one part of its operation. -/
theorem workItemComplete_part {w : MM Unit} (hc : cleanMem s) (hp : p < 1216) (hk : k < 4)
    (hwin : r ∈ (stream s (ctxOf s p k).item.id.stream).window) (hrun : r.life = .running) (hw : WithinM itemParts w)
    (hok : passes w s = true) (heq : completeItem p k s = runItem (ctxOf s p k).item.id.stream r.seq (do
      w
      mMod (fun t => refill (finishPart (ctxOf s p k).item.id.stream r.seq (freeContext p k t)))) s) :
    ∃ t x, exec (.workItemComplete p k) s = .next t ∧ ctxOf t p k = Ctx.none
      ∧ findRec t (ctxOf s p k).item.id.stream r.seq = some x ∧ (1 < r.left → x.life = .running ∧ x.left = r.left - 1)
      ∧ (r.left ≤ 1 → x.life = .done ∧ x.status = stOK ∧ x.left = 0)
      ∧ sameBut (.mem :: .comp :: .streams :: .stepGuard :: .free :: settleParts) s t := by
  have hseq := seq_of_findRec hr
  have hheld : heldRec s (ctxOf s p k).item.id.stream r.seq = some r := by
    rw [hseq]
    exact heldRec_of_findRec hr hwin
  obtain ⟨x, hctx, hx, hfin, hrest⟩ := partItem_ok hc hw hok hheld hrun k
  refine ⟨_, x, exec_workItemComplete s hp hk, ?_⟩
  rw [heq]
  exact ⟨hctx, hx, hfin.more, hfin.last, hrest⟩

end

/-- The statement's clause of an item that is handed out. -/
def Given (s t : State) (i : QItem) (p k n : Nat) (stolen : Bool) : Prop :=
  let u := unitOfItem i.kind
  ctxOf t p k = ⟨i, true, false, stolen, s.comp.orderNo + 1, 0⟩
    ∧ servingOf t p u = some ((servingOf s p u).getD k)
    ∧ (∀ r, findRec s i.id.stream i.id.seq = some r →
      (matmulBody r = none → ∀ m, tile t p m = tile s p m)
      ∧ (∀ b, matmulBody r = some b → i.kind ≠ .bwd → (i.kind = .shared → priorOf r i = []) → b.preload < 2 →
        let y := tile t p n
        y.state = (if b.shared then .shared else .open_) ∧ y.words = zeroWords ∧ y.item = i
          ∧ y.stream = i.id.stream ∧ y.owner = i.id.seq ∧ y.pass = b.pass ∧ y.use = .out ∧ y.members = []
          ∧ ∀ m, m ≠ n → tile t p m = tile s p m))
    ∧ sameBut (.comp :: .streams :: settleParts) s t

theorem Handed.given {stolen : Bool} (h : Handed s t i p k n stolen) : Given s t i p k n stolen := by
  refine ⟨h.ctx, h.serving, fun r hr => ⟨h.bare r hr, fun b hb hk hp hl => ?_⟩, h.rest⟩
  obtain ⟨hopen, hothers⟩ := h.opened r b hr hb hk hp hl
  exact ⟨hopen.state, hopen.words, hopen.item, hopen.stream, hopen.owner, hopen.pass, hopen.use, hopen.members, hothers⟩

section
variable (hc : cleanMem s)
include hc

/-- A shared member whose turn it is. -/
theorem memberAdds_ok {c : Ctx} (hwait : waitingMember s p n = some (k, c, r, b)) (hk : c.item.kind ≠ .bwd)
    (hshared : b.shared = true) (htile : itemTile s p r c.item .out = some n)
    (hok : passes (itemProducts p n b r.tes c.item) s = true) :
    let t := settle s (memberAdds p n s)
    ctxOf t p k = Ctx.none
      ∧ (Adds s p n r b c.item (tile t p n).words ∧ (tile t p n).members = (tile s p n).members ++ [c.item.id.seq]
        ∧ (tile t p n).owner = c.item.id.seq
        ∧ (tile t p n).state = if b.close then (if 1 < (tile s p n).splitN then .combining else .closing) else (tile s p n).state)
      ∧ sameBut (.comp :: .streams :: .stepGuard :: settleParts) s t := by
  obtain ⟨-, -, hturn⟩ := waitingMember_some hwait
  obtain ⟨x, v, hadds, hv, hctx, hx, -, heq⟩ := addItem_ok hc hok k
  have hmember : memberAdds p n s = added p n r b c.item v := by
    simp only [memberAdds, hwait]
    rw [completeMatmulItem_eq hk htile fun _ => hturn, heq]
  have htile' : tile (settle s (added p n r b c.item v)) p n
      = if closes b then closed (owned b c.item (summed x (tile s p n))) else owned b c.item (summed x (tile s p n)) := by
    rw [(SameTiles.of_cloves (settle_cloves ..)).tile, tile_added, hx]
  rw [hmember]
  dsimp only
  rw [htile', (SameCtxs.of_cloves (settle_cloves ..)).ctxOf, (added_sameCtxs ..).ctxOf]
  refine ⟨hctx, ?_, sameBut_then (settle_sameBut ..) (by decide)
    (sameBut_then (added_sameBut ..) (by decide) (sameBut_mono hv (by decide)))⟩
  cases hclose : b.close <;> simp [closes, closed, owned, summed, hshared, hclose, hadds]

/-- A MATMUL item that is no shared member. -/
theorem completeMatmulItem_ok {c : Ctx} (hshared : b.shared = false) (hk : c.item.kind ≠ .bwd)
    (htile : itemTile s p r c.item .out = some n) (hok : passes (itemProducts p n b r.tes c.item) s = true) :
    let t := settle s (refill (completeMatmulItem p k r b c s))
    ctxOf t p k = Ctx.none
      ∧ (Adds s p n r b c.item (tile t p n).words ∧ (tile t p n).owner = c.item.id.seq
        ∧ (1 < (tile s p n).splitN → (tile t p n).state = .combining ∧ (clove t p).closing = (clove s p).closing)
        ∧ ((tile s p n).splitN ≤ 1 → (tile t p n).state = .closing ∧ (clove t p).closing = (clove s p).closing ++ [n]))
      ∧ sameBut (.comp :: .streams :: settleParts) s t := by
  obtain ⟨x, v, hadds, hv, hctx, hx, hclosing, heq⟩ := addItem_ok hc hok k
  have hcl : closes b = true := by simp [closes, hshared]
  have hcloves : (settle s (refill (added p n r b c.item v))).comp.cloves = (added p n r b c.item v).comp.cloves :=
    (settle_cloves ..).trans Within.refill.cloves
  have htile' : tile (settle s (refill (added p n r b c.item v))) p n = closed (owned b c.item (summed x (tile s p n))) := by
    rw [(SameTiles.of_cloves hcloves).tile, tile_added, if_pos hcl, hx]
  have hclosing' : (clove (settle s (refill (added p n r b c.item v))) p).closing
      = if 1 < (tile s p n).splitN then (clove s p).closing else (clove s p).closing ++ [n] := by
    rw [(SameTiles.of_cloves hcloves).closing, closing_added hcl, hx, hclosing]
    rfl
  rw [completeMatmulItem_eq hk htile (by simp [hshared]), heq]
  dsimp only
  rw [htile', hclosing', (SameCtxs.of_cloves hcloves).ctxOf, (added_sameCtxs ..).ctxOf]
  refine ⟨hctx, ⟨hadds, rfl, fun hsplit => ?_, fun hwhole => ?_⟩, ?_⟩
  · simp [closed, owned, summed, hsplit]
  · simp [closed, owned, summed, Nat.not_lt.2 hwhole]
  · exact sameBut_then (settle_sameBut ..) (by decide) (sameBut_then Within.refill.rest (by decide)
      (sameBut_then (added_sameBut_closes hcl ..) (by decide) (sameBut_mono hv (by decide))))

end

end

/-- Settles O50: what the hand-out, the switch and the completion of items do to contexts, tiles and records. -/
theorem items : Obligations.Items := by
  unfold Obligations.Items
  intro s hc
  dsimp only
  refine ⟨fun q hq => ⟨fun i h l p k n horder hno htake hpre => ?_, fun hno => ?_, fun l i p k hown hqueue hl hmay hthief hpre => ?_,
    fun l i hown hqueue hl hmay hthief => ?_, fun hown hshort => ?_⟩,
    fun p n hp hn => ⟨fun q z i h l k m hpos hfree horder hno hnames htake hpre => ?_, fun hbusy => ?_,
      fun k c r b hwait hk hshared htile hok => ?_, fun hwait => ?_⟩,
    fun p u mask hp hu => ?_, fun p k r hp hk horder hr hwin hrun => ⟨fun b hb hok => ?_, fun b hb hok => ?_,
      fun b n hb hshared hkind htile hok => ?_⟩⟩
  · refine ⟨_, exec_itemHandout s hq, ?_⟩
    rw [podHandOut_eq horder hno htake]
    exact ((handed_handOut hc (findRec_of_takerOf htake) hpre q p k n false).refill.settle s).given
  · exact still_of_settle (by rw [exec_itemHandout s hq, podHandOut_none hno])
  · refine ⟨_, exec_workSteal s hq, ?_⟩
    rw [podSteal_some hown (stealTarget_right hqueue hl hmay) hthief]
    have hhanded := handed_handOut hc (findRec_of_thiefOf hthief) hpre (victim q 1) p k i.tile true
    exact ((hhanded.after (congrArg ComputeSt.cloves (count_comp ..))
      (sameBut_mono (count_sameBut ..) (by decide))).refill.settle s).given
  · exact still_of_settle (by rw [exec_workSteal s hq, podSteal_noThief hown (stealTarget_right hqueue hl hmay) hthief])
  · exact still_of_settle (by rw [exec_workSteal s hq, podSteal_noTarget hown (stealTarget_none hshort)])
  · refine ⟨_, exec_tileWaitOpen s hp hn, ?_⟩
    rw [openWaiting_eq hpos hfree horder hno hnames htake]
    exact ((handed_handOut hc (findRec_of_takerOf htake) hpre q p k m false).refill.settle s).given
  · exact still_of_settle (by rw [exec_tileWaitOpen s hp hn, openWaiting_busy hbusy])
  · exact ⟨_, exec_sharedMemberAdd s hp hn, memberAdds_ok hc hwait hk hshared htile hok⟩
  · exact still_of_settle (by rw [exec_sharedMemberAdd s hp hn, memberAdds, hwait])
  · refine ⟨_, exec_contextSwitch s hp hu mask, contextBoundary_sameBut .., ?_⟩
    simp only [ctxOf_contextBoundary, nextReady_contextBoundary]
    refine ⟨fun k hk => ctxOf_readied hk, fun k hserves hready hlow => ?_, fun k hserves hready => contextBoundary_turns hserves hready,
      fun hserves => ?_⟩
    · rw [contextBoundary_keeps hserves hready hlow, servingOf_readied]
      exact ⟨hserves, rfl⟩
    · rw [contextBoundary_fresh hserves]
      exact ⟨servingOf_turned, rfl⟩
  · refine workItemComplete_part hr hc hp hk hwin hrun (.ite .vecRow .vecBlock) hok ?_
    rw [completeItem_vecop horder hr hb, completeVecItem]
    split <;> rfl
  · refine workItemComplete_part hr hc hp hk hwin hrun (.ite .scanFold .scanChunk) hok ?_
    rw [completeItem_scan horder hr hb, completeScanItem]
    split <;> rfl
  · refine ⟨_, exec_workItemComplete s hp hk, ?_⟩
    rw [completeItem_matmul horder hr hb]
    exact completeMatmulItem_ok hc hshared hkind htile hok

end Sys2Proof.Machine
end

section
/-! Partial sums that combine and chunk sums that move (R84 to R88). -/

namespace Sys2Proof.Machine

section
variable {s t : State} {p n a u c m : Nat} {y : Tile}

/-! ### A tile that is discarded -/

theorem discardTile_sameBut (a u : Nat) (s : State) : sameBut [.comp] s (discardTile s a u) := modClove_sameBut ..

@[simp] theorem tile_discardTile (s : State) (a u : Nat) : tile (discardTile s a u) a u = Tile.empty := by
  simp [tile, discardTile, sget_sset_same]

theorem tile_discardTile_other (s : State) (h : (c, m) ≠ (a, u)) : tile (discardTile s a u) c m = tile s c m := by
  by_cases hc : c = a
  · subst hc
    have hm : m ≠ u := fun hm => h (by rw [hm])
    simp [tile, discardTile, sget_sset_other _ _ _ _ hm]
  · simp [tile, discardTile, clove_modClove_other _ _ hc]

theorem not_mem_closing_discardTile (s : State) (a u : Nat) : u ∉ (clove (discardTile s a u) a).closing := by
  simp [discardTile]

/-- A drain of the tile ends with it. -/
theorem drain_discardTile {d : Drain} (hd : (clove s a).drain = some d) (hu : d.tile = u) :
    (clove (discardTile s a u) a).drain = none := by
  simp [discardTile, hd, hu]

/-! ### Combines -/

/-- A member that has a partner is COMBINING. -/
theorem state_of_partnerOf {x} (h : partnerOf s p n = some x) : (tile s p n).state = .combining := by
  unfold partnerOf at h
  dsimp only at h
  split at h
  · cases h
  next hboth =>
    by_contra hstate
    exact hboth (.inl hstate)

/-- The tile of a member with its partner's sum added, the partial sum as left operand. -/
def combined (y z : Tile) : Tile :=
  let x := addTiles (sumOf y) (sumOf z)
  { z with
    words := x.words, sat := x.sat, flush := x.flush, nonfinite := x.nonfinite, lo := y.lo
    order := z.order || y.order }

/-- The partner's tile is FREE, and the flushes of the addition are counted. -/
def partnerGone (p a u : Nat) (y z : Tile) (s : State) : State :=
  discardTile (countAcc p (addTiles (sumOf y) (sumOf z)).flushes s) a u

theorem partnerGone_sameBut (p a u : Nat) (y z : Tile) (s : State) : sameBut [.comp, .counters] s (partnerGone p a u y z s) :=
  sameBut_then (discardTile_sameBut ..) (by decide) (sameBut_mono (countAcc_sameBut ..) (by decide))

theorem tile_partnerGone (p : Nat) (y z : Tile) (s : State) (h : (c, m) ≠ (a, u)) :
    tile (partnerGone p a u y z s) c m = tile s c m :=
  (tile_discardTile_other _ h).trans ((SameTiles.of_cloves (congrArg ComputeSt.cloves (count_comp ..))).tile c m)

theorem combineStep_none (h : partnerOf s p n = none) : combineStep p n s = s := by
  simp only [combineStep, h]

theorem combineStep_some (hc : cleanMem s) (h : partnerOf s p n = some (a, u, y)) :
    let z := tile s p n
    let w := partnerGone p a u y z s
    combineStep p n s = if y.lo = 0 ∧ z.hi + 1 = z.splitN then
        modClove (setTile w p n { combined y z with state := .closing }) p (fun c => { c with closing := c.closing ++ [n] })
      else setTile w p n (combined y z) := by
  have hcw : cleanMem (partnerGone p a u y (tile s p n) s) :=
    cleanMem_congr ((partnerGone_sameBut ..).part .mem (by decide)) hc
  unfold partnerGone at hcw ⊢
  simp only [combineStep, h, readTile_clean hc]
  simp only [preloadFaults_clean hcw]
  rfl

/-- A member adds its partner's sum; the partner's tile is FREE. -/
theorem combineStep_ok (hc : cleanMem s) (h : partnerOf s p n = some (a, u, y)) (hne : (a, u) ≠ (p, n)) :
    let z := tile s p n
    let t := combineStep p n s
    tile t p n = { combined y z with state := if y.lo = 0 ∧ z.hi + 1 = z.splitN then .closing else .combining }
      ∧ (y.lo = 0 ∧ z.hi + 1 = z.splitN → n ∈ (clove t p).closing) ∧ tile t a u = Tile.empty
      ∧ (∀ c m, (c, m) ≠ (p, n) → (c, m) ≠ (a, u) → tile t c m = tile s c m) ∧ sameBut [.comp, .counters] s t := by
  have hstate := state_of_partnerOf h
  have hgone := partnerGone_sameBut p a u y (tile s p n) s
  have hothers (x : Tile) (c m : Nat) (hp : (c, m) ≠ (p, n)) (ha : (c, m) ≠ (a, u)) :
      tile (setTile (partnerGone p a u y (tile s p n) s) p n x) c m = tile s c m := by
    rw [tile_setTile_other _ _ hp, tile_partnerGone _ _ _ _ ha]
  have hempty : tile (partnerGone p a u y (tile s p n) s) a u = Tile.empty := tile_discardTile ..
  dsimp only
  rw [combineStep_some hc h]
  dsimp only
  split
  next hwhole =>
    refine ⟨?_, fun _ => ?_, ?_, fun c m hp ha => ?_, ?_⟩
    · rw [tile_modClosing, tile_setTile]
    · simp
    · rw [tile_modClosing, tile_setTile_other _ _ hne, hempty]
    · rw [tile_modClosing, hothers _ c m hp ha]
    · exact sameBut_then (modClove_sameBut ..) (by decide) (sameBut_then (setTile_sameBut ..) (by decide) hgone)
  next hpart =>
    refine ⟨?_, fun hwhole => absurd hwhole hpart, ?_, hothers _, ?_⟩
    · rw [tile_setTile, ← hstate]
      rfl
    · rw [tile_setTile_other _ _ hne, hempty]
    · exact sameBut_then (setTile_sameBut ..) (by decide) hgone

/-! ### Sums of thieves -/

theorem takeStolen_none (h : tileFree s p n = false ∨ stolenFor s p n = none) : takeStolen p n s = s := by
  unfold takeStolen
  split
  · rfl
  next hfree => rw [h.resolve_left (by simpa using hfree)]

/-- A FREE tile takes a thief's sum whole; the thief's tile is FREE. -/
theorem takeStolen_some (hc : cleanMem s) (hfree : tileFree s p n = true) (h : stolenFor s p n = some (a, u, y)) :
    takeStolen p n s = setTile (discardTile s a u) p n y := by
  have hcw : cleanMem (discardTile s a u) := hc
  simp only [takeStolen, hfree, h, readTile_clean hc]
  simp only [preloadFaults_clean hcw]
  rfl

theorem exec_combinePartialReceive (s : State) (hp : p < 1216) (hn : n < 128) :
    exec (.combinePartialReceive p n) s = .next (settle s (combineStep p n s)) := by
  have hunit : (decide (p < 1216) && decide (n < 128)) = true := by simp [hp, hn]
  exact congrArg (onUnit · _) hunit

theorem exec_stolenChunkReceive (s : State) (hp : p < 1216) (hn : n < 128) :
    exec (.stolenChunkReceive p n) s = .next (settle s (takeStolen p n s)) := by
  have hunit : (decide (p < 1216) && decide (n < 128)) = true := by simp [hp, hn]
  exact congrArg (onUnit · _) hunit

end
end Sys2Proof.Machine
end

section
/-! One pass of the drain converter: its block, its group codes and its misses (R87, R103, R107, R117). -/

namespace Sys2Proof.Machine

section
variable {s t : State} {p : Nat} {r : Rec} {b : MatmulBody} {y : Tile} {late : Bool}

/-! ### The bytes of a block and of its group codes -/

theorem length_blockBytesOf (e : TEntry) (v : Array Nat) : (blockBytesOf (eBits e) v).length = blockBytes e := by
  have hlen : ((List.range 4096).map (fun p => v.getD (64 * zRow p + zCol p) 0)).length = 4096 := by simp
  unfold blockBytesOf blockBytes eBits
  generalize (List.range 4096).map _ = cs at hlen
  have hbits (f : Fmt) : fmtBits f = 4 ∨ ∃ w ∈ [1, 2, 4], fmtBits f = 8 * w := by cases f <;> decide
  obtain hfour | ⟨w, hw, hbytes⟩ := hbits (eFmt e)
  · rw [hfour, length_packCodes_four, hlen]
  · rw [hbytes, length_packCodes_bytes hw, hlen]
    ring

theorem length_blockGroups (g : Nat) : (blockGroups g).length = 64 * (64 / g) := by
  simp only [blockGroups, List.length_flatMap, List.length_map, List.length_range, List.map_const', List.sum_replicate,
    smul_eq_mul]

/-- A scaled pass has a group code for every byte of its plane. -/
theorem length_plane {e : TEntry} (hscaled : fmtScaled (eFmt e) = true) (hplain : plainDrain y = false) (hglen : e.glen ≤ 1)
    (br bc : Nat) (code : Option Nat) (rnds : Nat → Option Nat) (ys : Array Val) :
    (drainPass b y e code late rnds ys).2.1.length = (planeAt e br bc).2 := by
  have hgroups : (drainPass b y e code late rnds ys).2.1.length = (blockGroups (eGlen e)).length := by
    cases late <;> simp [drainPass, hscaled, hplain, lateCodes, delayedCodes]
  rw [hgroups, length_blockGroups]
  unfold planeAt eGlen glenOf
  obtain hg | hg : e.glen = 0 ∨ e.glen = 1 := by omega
  · simp [hg]
  · simp [hg]

/-! ### What a pass writes -/

theorem mWrite_ok {a req : Nat} {bs : List Byte} (hc : cleanMem s) (h : mWrite a bs req s = (.ok (), t)) :
    cleanMem t ∧ t.mem.data = putBytes s.mem.data a bs := by
  refine ⟨(WithinM.mWrite (l := [.mem, .counters]) (by decide) hc h).clean hc, ?_⟩
  change mWritePart a bs false false req s = _ at h
  unfold mWritePart at h
  split at h
  next hw =>
    cases h
    obtain ⟨u, hu, rfl⟩ := writePart_ok hc hw
    exact congrArg (putBytes · a bs) (congrArg MemSt.data (hu.part .mem (by decide)))
  next => cases h

/-- A pass stores group codes: its format is scaled, and its tile holds no dW (R162). -/
def storesCodes (e : TEntry) (y : Tile) : Bool := fmtScaled (eFmt e) && !plainDrain y

/-- What a pass stores: its block, and its group codes. -/
def storeOut (p : Nat) (y : Tile) (e : TEntry) (br bc : Nat) (out : Array Nat × List Nat × Stats) : MM Unit := do
  writeBlock e br bc (reqClove p) out.1
  if storesCodes e y then writeCodes e br bc (reqClove p) out.2.1

/-- The place of a block. -/
def blockAt (e : TEntry) (br bc : Nat) : Nat := e.base + blockNo e br bc * blockBytes e

theorem storeOut_data {e : TEntry} {br bc : Nat} {out : Array Nat × List Nat × Stats} (hc : cleanMem s)
    (hmajor : e.timeMajor = false) (h : storeOut p y e br bc out s = (.ok (), t)) :
    t.mem.data = if storesCodes e y then putBytes (putBytes s.mem.data (blockAt e br bc) (blockBytesOf (eBits e) out.1))
        (planeAt e br bc).1 (out.2.1.map (BitVec.ofNat 8))
      else putBytes s.mem.data (blockAt e br bc) (blockBytesOf (eBits e) out.1) := by
  obtain ⟨_, u, hblock, hcodes⟩ := ok_of_bind h
  rw [writeBlock, if_neg (by simp [hmajor])] at hblock
  obtain ⟨hcu, hu⟩ := mWrite_ok hc hblock
  split
  next hstores =>
    rw [if_pos hstores] at hcodes
    rw [(mWrite_ok hcu hcodes).2, hu]
    rfl
  next hbare =>
    rw [if_neg hbare] at hcodes
    cases hcodes
    exact hu

/-- What a pass may move. -/
def drainParts : List Part := [.mem, .comp, .counters, .free]

/-- A pass after the check of its slot: block `br`, `bc` of `e` from the saved elements, the values and the random bits. -/
def passInto (p : Nat) (r : Rec) (b : MatmulBody) (y : Tile) (late : Bool) (e : TEntry) (br bc : Nat) :
    MM (Array Val × Stats) := do
  let saved ← savedWords p r b y br bc
  let ys ← drainValues p b y e br bc saved
  let rnds ← drainRandom p r b y e br bc
  storeOut p y e br bc (drainPass b y e (drainCode r b e) late rnds ys)
  pure (ys, (drainPass b y e (drainCode r b e) late rnds ys).2.2)

theorem bind_storeOut {α : Type} (p : Nat) (y : Tile) (e : TEntry) (br bc : Nat) (out : Array Nat × List Nat × Stats) (a : α) :
    (do storeOut p y e br bc out; pure a : MM α) = (do
      writeBlock e br bc (reqClove p) out.1
      if fmtScaled (eFmt e) && !plainDrain y then writeCodes e br bc (reqClove p) out.2.1
      pure a) := by
  unfold storeOut storesCodes
  split <;> simp

theorem drainOnce_eq (p : Nat) (r : Rec) (b : MatmulBody) (y : Tile) (late : Bool) : drainOnce p r b y late =
    (if plainDrain y then pure () else drainInto r.hdr.tensorId (drainTarget r b y).1.fmt b.histBase : MM Unit) >>= fun _ =>
      passInto p r b y late (drainTarget r b y).1 (drainTarget r b y).2.1 (drainTarget r b y).2.2 := by
  unfold passInto
  simp only [bind_storeOut]
  unfold drainOnce
  cases plainDrain y <;> rfl

/-- A pass that goes through: its values, from the state that it finds, and what it stores of them. -/
theorem drainOnce_ok {x : Array Val × Stats} (hc : cleanMem s) (h : drainOnce p r b y late s = (.ok x, t)) :
    let e := (drainTarget r b y).1
    let br := (drainTarget r b y).2.1
    let bc := (drainTarget r b y).2.2
    ∃ u v w z saved rnds, (if plainDrain y then pure () else drainInto r.hdr.tensorId e.fmt b.histBase : MM Unit) s = (.ok (), u)
      ∧ savedWords p r b y br bc u = (.ok saved, v) ∧ drainValues p b y e br bc saved v = (.ok x.1, w)
      ∧ drainRandom p r b y e br bc w = (.ok rnds, z) ∧ Within valueParts s z
      ∧ storeOut p y e br bc (drainPass b y e (drainCode r b e) late rnds x.1) z = (.ok (), t) := by
  have hinto : WithinM valueParts (if plainDrain y then pure () else
      drainInto r.hdr.tensorId (drainTarget r b y).1.fmt b.histBase : MM Unit) := .ite .pure .drainInto
  rw [drainOnce_eq] at h
  obtain ⟨_, u, hu, hmain⟩ := ok_of_bind h
  obtain ⟨saved, v, hv, hmain⟩ := ok_of_bind hmain
  obtain ⟨ys, w, hw, hmain⟩ := ok_of_bind hmain
  obtain ⟨rnds, z, hz, hmain⟩ := ok_of_bind hmain
  obtain ⟨_, z', hstore, hmain⟩ := ok_of_bind hmain
  cases hmain
  have hsu := hinto hc hu
  have hsv := hsu.trans (WithinM.savedWords (hsu.clean hc) hv)
  have hsw := hsv.trans (WithinM.drainValues (hsv.clean hc) hw)
  exact ⟨u, v, w, z, saved, rnds, hu, hv, hw, hz, hsw.trans (WithinM.drainRandom (hsw.clean hc) hz), hstore⟩

theorem WithinM.storeOut {e br bc out} : WithinM drainParts (storeOut p y e br bc out) :=
  .bind (.writeBlock) fun _ => .ite .mWrite .pure

theorem within_drainOnce {x : Array Val × Stats} (hc : cleanMem s) (h : drainOnce p r b y late s = (.ok x, t)) :
    Within drainParts s t := by
  obtain ⟨u, v, w, z, saved, rnds, -, -, -, -, hz, hstore⟩ := drainOnce_ok hc h
  exact (hz.mono (by decide)).trans (WithinM.storeOut (hz.clean hc) hstore)

/-- What stands after a pass has stored `out`: elsewhere the same bytes, the block's codes, and last its group codes. -/
structure Stored (y : Tile) (e : TEntry) (br bc : Nat) (out : Array Nat × List Nat × Stats) (s t : State) : Prop where
  outside : ∀ x, (x < blockAt e br bc ∨ blockAt e br bc + blockBytes e ≤ x) →
    (storesCodes e y = false ∨ x < (planeAt e br bc).1 ∨ (planeAt e br bc).1 + (planeAt e br bc).2 ≤ x) →
    byteAt t.mem.data x = byteAt s.mem.data x
  block : ∀ x, blockAt e br bc ≤ x → x < blockAt e br bc + blockBytes e →
    (storesCodes e y = false ∨ x < (planeAt e br bc).1 ∨ (planeAt e br bc).1 + (planeAt e br bc).2 ≤ x) →
    byteAt t.mem.data x = (blockBytesOf (eBits e) out.1).getD (x - blockAt e br bc) 0#8
  plane : storesCodes e y = true → ∀ k, k < out.2.1.length →
    byteAt t.mem.data ((planeAt e br bc).1 + k) = BitVec.ofNat 8 (out.2.1.getD k 0)

theorem stored_of_data {e : TEntry} {br bc : Nat} {out : Array Nat × List Nat × Stats}
    (hlen : storesCodes e y = true → out.2.1.length = (planeAt e br bc).2)
    (h : t.mem.data = if storesCodes e y then putBytes (putBytes s.mem.data (blockAt e br bc) (blockBytesOf (eBits e) out.1))
        (planeAt e br bc).1 (out.2.1.map (BitVec.ofNat 8))
      else putBytes s.mem.data (blockAt e br bc) (blockBytesOf (eBits e) out.1)) : Stored y e br bc out s t := by
  have hblock := length_blockBytesOf e out.1
  /- Where the group codes do not lie, the bytes are those of the block's write. -/
  have hbeside (x) (hx : storesCodes e y = false ∨ x < (planeAt e br bc).1 ∨ (planeAt e br bc).1 + (planeAt e br bc).2 ≤ x) :
      byteAt t.mem.data x = byteAt (putBytes s.mem.data (blockAt e br bc) (blockBytesOf (eBits e) out.1)) x := by
    rw [h]
    split
    next hstores =>
      refine byteAt_putBytes_outside _ _ _ _ ?_
      rw [List.length_map, hlen hstores]
      exact hx.resolve_left (by simp [hstores])
    next => rfl
  refine ⟨fun x hx hplane => ?_, fun x hlow hhigh hplane => ?_, fun hstores k hk => ?_⟩
  · rw [hbeside x hplane]
    exact byteAt_putBytes_outside _ _ _ _ (by rwa [hblock])
  · rw [hbeside x hplane]
    have hin := byteAt_putBytes_inside s.mem.data (blockAt e br bc) (blockBytesOf (eBits e) out.1) (x - blockAt e br bc)
      (by omega)
    rwa [Nat.add_sub_cancel' hlow] at hin
  · rw [h, if_pos hstores, byteAt_putBytes_inside _ _ _ _ (by rwa [List.length_map])]
    exact List.getD_map _ _ _

/-- The statement's clause of what a pass writes. -/
def Writes (s : State) (p : Nat) (r : Rec) (b : MatmulBody) (y : Tile) (late : Bool) (t : State) : Prop :=
  let (e, br, bc) := drainTarget r b y
  let m := e.base + blockNo e br bc * blockBytes e
  let g := planeAt e br bc
  let bare : Prop := fmtScaled (eFmt e) = false ∨ plainDrain y = true
  e.timeMajor = false → (fmtScaled (eFmt e) = true → e.glen ≤ 1) →
  (∀ x, (x < m ∨ m + blockBytes e ≤ x) → (bare ∨ x < g.1 ∨ g.1 + g.2 ≤ x) →
    byteAt t.mem.data x = byteAt s.mem.data x)
  ∧ ∀ u v w z saved ys rnds,
    (if plainDrain y then pure () else drainInto r.hdr.tensorId e.fmt b.histBase : MM Unit) s = (.ok (), u) →
    savedWords p r b y br bc u = (.ok saved, v) → drainValues p b y e br bc saved v = (.ok ys, w) →
    drainRandom p r b y e br bc w = (.ok rnds, z) →
    let out := drainPass b y e (drainCode r b e) late rnds ys
    (∀ x, m ≤ x → x < m + blockBytes e → (bare ∨ x < g.1 ∨ g.1 + g.2 ≤ x) →
      byteAt t.mem.data x = (blockBytesOf (eBits e) out.1).getD (x - m) 0#8)
    ∧ (¬ bare → ∀ k, k < out.2.1.length → byteAt t.mem.data (g.1 + k) = BitVec.ofNat 8 (out.2.1.getD k 0))

theorem storesCodes_false {e : TEntry} : storesCodes e y = false ↔ fmtScaled (eFmt e) = false ∨ plainDrain y = true := by
  cases h : fmtScaled (eFmt e) <;> simp [storesCodes, h]

theorem writes_of_drainOnce {a : State} {x : Array Val × Stats} (hc : cleanMem s)
    (h : drainOnce p r b y late s = (.ok x, a)) (hmem : t.mem = a.mem) : Writes s p r b y late t := by
  intro hmajor hglen
  obtain ⟨u, v, w, z, saved, rnds, hu, hv, hw, hz, hwithin, hstore⟩ := drainOnce_ok hc h
  have hdata := storeOut_data (hwithin.clean hc) hmajor hstore
  rw [hwithin.rest.part .mem (by decide), ← hmem] at hdata
  obtain ⟨houtside, hblock, hplane⟩ := stored_of_data (fun hstores => by
    simp only [storesCodes, Bool.and_eq_true, Bool.not_eq_true'] at hstores
    exact length_plane hstores.1 hstores.2 (hglen hstores.1) ..) hdata
  simp only [storesCodes_false] at houtside hblock
  refine ⟨houtside, fun u' v' w' z' saved' ys' rnds' hu' hv' hw' hz' => ?_⟩
  cases hu.symm.trans hu'
  cases hv.symm.trans hv'
  cases hw.symm.trans hw'
  cases hz.symm.trans hz'
  refine ⟨hblock, fun hbare => hplane ?_⟩
  rwa [← storesCodes_false, Bool.not_eq_false] at hbare

/-! ### Misses -/

/-- A first pass that misses over does not miss under. -/
theorem missOf_over {e : TEntry} {ys : Array Val} {st : Stats} (h : (missOf r b y e ys st).1 = true) :
    (missOf r b y e ys st).2 = false := by
  unfold missOf at h ⊢
  split at h
  · cases h
  · split at h
    · cases h
    next hplain =>
      rw [if_neg hplain]
      simp [show missesOver _ _ _ = true from h]

/-- A pass without a committed code does not miss. -/
theorem missOf_late {e : TEntry} {ys : Array Val} {st : Stats} (h : drainCode r b e = none) :
    missOf r b y e ys st = (false, false) := by
  simp only [missOf, h]

end
end Sys2Proof.Machine
end

section
/-! The commands of the drain converter: the first pass, its end, and the redrain (R76, R103, R111, R117, R118). -/

namespace Sys2Proof.Machine

section
variable {s t u : State} {p n : Nat} {r : Rec} {b : MatmulBody} {y : Tile} {d : Drain}

/-! ### The first pass -/

/-- The descriptor of a drain is the one that its tile's owner names. -/
theorem findRec_of_drainRec (h : drainRec s y = some (r, b)) : findRec s y.stream y.owner = some r ∧ matmulBody r = some b := by
  unfold drainRec at h
  split at h
  next hr =>
    obtain ⟨b', hb, hpair⟩ := Option.map_eq_some_iff.1 h
    cases hpair
    exact ⟨hr, hb⟩
  · cases h

/-- A drain that has made its first pass. -/
def firstPass (n : Nat) (st : Stats) (miss : Bool × Bool) : Drain :=
  ⟨n, false, { st with missOver := b2n miss.1, missUnder := b2n miss.2 }, miss.1, miss.2⟩

theorem startDrain_ok {l : List Nat} (hc : cleanMem s) (hdrain : (clove s p).drain = none) (hclosing : (clove s p).closing = n :: l)
    (hrec : drainRec s (tile s p n) = some (r, b))
    (hok : passes (drainOnce p r b (tile s p n) (startsLate r b (drainTarget r b (tile s p n)).1)) s = true) :
    ∃ x a, drainOnce p r b (tile s p n) (startsLate r b (drainTarget r b (tile s p n)).1) s = (.ok x, a)
      ∧ startDrain p s = modClove a p (fun k => { k with
          drain := some (firstPass n x.2 (missOf r b (tile s p n) (drainTarget r b (tile s p n)).1 x.1 x.2)) }) := by
  obtain ⟨x, a, ha⟩ := ok_of_passes hok
  refine ⟨x, a, ha, ?_⟩
  simp only [startDrain, hdrain, hclosing, hrec, readTile_clean hc]
  exact runItem_ok ((mm_bind ha _).trans rfl) ..

theorem startDrain_none (h : (clove s p).drain ≠ none ∨ (clove s p).closing = []) : startDrain p s = s := by
  unfold startDrain
  dsimp only
  split
  next hdrain hclosing => simp [hdrain, hclosing] at h
  · rfl

/-! ### A tile that has drained -/

/-- Tile `n` is FREE, and clove `p` drains nothing. -/
structure Freed (s t : State) (p n : Nat) : Prop where
  drain : (clove t p).drain = none
  tile : tile t p n = Tile.empty
  closing : n ∉ (clove t p).closing
  others : ∀ c m, (c, m) ≠ (p, n) → Machine.tile t c m = Machine.tile s c m

theorem Freed.after (h : Freed s t p n) (hsame : SameTiles t u) : Freed s u p n :=
  ⟨(hsame.drain p).trans h.drain, (hsame.tile p n).trans h.tile, hsame.closing p ▸ h.closing,
    fun c m hne => (hsame.tile c m).trans (h.others c m hne)⟩

theorem Freed.before (h : Freed t u p n) (hsame : SameTiles s t) : Freed s u p n :=
  ⟨h.drain, h.tile, h.closing, fun c m hne => (h.others c m hne).trans (hsame.tile c m)⟩

theorem freed_discardTile (hd : (clove s p).drain = some d) : Freed s (discardTile s p d.tile) p d.tile :=
  ⟨drain_discardTile hd rfl, tile_discardTile .., not_mem_closing_discardTile s p d.tile, fun _ _ => tile_discardTile_other s⟩

/-- A drain of passes that missed, or not. -/
def drainMissed (d : Drain) : Bool := d.missOver || d.missUnder

/-- What a drain's passes flag. -/
def drainFlags (d : Drain) : CFlags := { CFlags.none with scaleMiss := drainMissed d, nonfinite := statsNonfinite d.stats }

/-- A drain's end: the tile's statistics enter its slot, its record takes the flags, and one part is finished. -/
theorem endDrain_steps (p : Nat) (d : Drain) (r : Rec) (y : Tile) (s : State) :
    ∃ v w, Within [.comp] (discardTile s p d.tile) v ∧ Within [.stepGuard] (addFlags y.stream r.seq (drainFlags d) v) w
      ∧ endDrain p d r y s = refill (finishPart y.stream r.seq w) := by
  have hguard (t : State) : Within [.stepGuard] t (if statsNonfinite d.stats then guardFlag y.stream r.seq t else t) :=
    .ite (.of_sameBut (guardFlag_sameBut ..)) .refl
  unfold endDrain
  cases matmulBody r with
  | none => exact ⟨_, _, .refl, hguard _, rfl⟩
  | some b =>
    cases plainDrain y
    · exact ⟨_, _, .trans (.bindSlot) .mergePartial, hguard _, rfl⟩
    · exact ⟨_, _, .refl, hguard _, rfl⟩

theorem heldRec_addFlags {i q : Nat} (fl : CFlags) (h : heldRec s i q = some r) (hrun : r.life = .running) :
    heldRec (addFlags i q fl s) i q = some { r with flags := CFlags.or r.flags fl } := by
  have hseq (r : Rec) : (if r.life = .done then r else { r with flags := CFlags.or r.flags fl }).seq = r.seq := by
    split <;> rfl
  rw [addFlags, heldRec_modRec_self hseq h, if_neg (by simp [hrun])]

/-- The record of a drain that has ended: it has the miss of its passes, and one part less. -/
structure Drained (d : Drain) (r x : Rec) : Prop where
  scaleMiss : x.flags.scaleMiss = (r.flags.scaleMiss || drainMissed d)
  more : 1 < r.left → x.life = .running ∧ x.left = r.left - 1
  last : r.left ≤ 1 → x.life = .done ∧ x.status = stOK

/-- The end of a drain: the tile is FREE, and no slot's miss is marked. -/
structure DrainEnded (s t : State) (p : Nat) (d : Drain) (r : Rec) (y : Tile) : Prop where
  freed : Freed s t p d.tile
  missSeen : ∀ k, (slotStat t k).missSeen = (slotStat s k).missSeen
  held : heldRec s y.stream r.seq = some r → r.life = .running → ∃ x, heldRec t y.stream r.seq = some x ∧ Drained d r x
  rest : sameBut [.comp, .streams, .stepGuard, .counters] s t

theorem drainEnded_endDrain {e : Drain} (htile : e.tile = d.tile) (hd : (clove s p).drain = some d) (r : Rec) (y : Tile) :
    DrainEnded s (endDrain p e r y s) p e r y := by
  obtain ⟨v, w, hv, hw, heq⟩ := endDrain_steps p e r y s
  have hdiscard := discardTile_sameBut p e.tile s
  have hflags : sameBut [.streams] v (addFlags y.stream r.seq (drainFlags e) v) := modRec_sameBut ..
  have hfinish := finishPart_sameBut y.stream r.seq w
  have hrefill : Within cutParts (finishPart y.stream r.seq w) (endDrain p e r y s) := heq ▸ Within.refill
  refine ⟨?_, fun k => ?_, fun hr hrun => ?_, ?_⟩
  · have hcloves : (endDrain p e r y s).comp.cloves = (discardTile s p e.tile).comp.cloves :=
      hrefill.cloves.trans ((finishPart_cloves ..).trans (hw.cloves.trans hv.cloves))
    rw [htile] at hcloves ⊢
    exact (freed_discardTile hd).after (.of_cloves hcloves)
  · have hslot : (slotStat (finishPart y.stream r.seq w) k) = slotStat w k :=
      congrArg (fun c => sget SlotStat.empty (ComputeSt.slots c) k) (hfinish.part .comp (by decide))
    calc (slotStat (endDrain p e r y s) k).missSeen
      _ = (slotStat w k).missSeen := (hrefill.missSeen k).trans (congrArg _ hslot)
      _ = (slotStat v k).missSeen := hw.missSeen k
      _ = (slotStat s k).missSeen := hv.missSeen k
  · obtain ⟨f₁, _, hr₁, hm₁⟩ := hv.held ((heldRec_congr (hdiscard.part .streams (by decide)) _ _).trans hr)
    obtain ⟨f₂, _, hr₂, hm₂⟩ := hw.held (heldRec_addFlags (drainFlags e) hr₁ hrun)
    obtain ⟨x, hx, hfin⟩ := heldRec_finishPart hr₂ hrun
    obtain ⟨x', hx', hfin'⟩ := hfin.within hx hrefill
    refine ⟨x', hx', ?_, hfin'.more, fun hlast => ?_⟩
    · rw [hfin'.scaleMiss, hm₂, ← hm₁]
      rfl
    · obtain ⟨hdone, hok, -⟩ := hfin'.last hlast
      exact ⟨hdone, hok⟩
  · exact sameBut_then hrefill.rest (by decide) (sameBut_then hfinish (by decide) (sameBut_then hw.rest (by decide)
      (sameBut_then hflags (by decide) (sameBut_then hv.rest (by decide) (sameBut_mono hdiscard (by decide))))))

/-! ### Its end and the redrain -/

/-- The first miss of a slot since its last SCALE_COMMIT is marked there. -/
structure MissMarked (s t : State) (slot : Nat) : Prop where
  missSeen : (slotStat t slot).missSeen = true
  cloves : t.comp.cloves = s.comp.cloves
  rest : sameBut (.comp :: eventParts) s t

theorem missMarked_raiseMiss (p n slot : Nat) (under_ : Bool) (s : State) : MissMarked s (raiseMiss p n slot under_ s) slot := by
  unfold raiseMiss
  dsimp only
  split
  next hseen => exact ⟨hseen, rfl, sameBut_refl _ s⟩
  next =>
    have hset (v : SlotStat) : sameBut [.comp] s (setSlotStat s slot v) := modComp_sameBut ..
    have hcomp (e : Ev) (t : State) : (raiseEv e t).comp = t.comp := (raiseEv_sameBut e t).part .comp (by decide)
    refine ⟨?_, ?_, sameBut_then (raiseEv_sameBut ..) (by decide) (sameBut_mono (hset _) (by decide))⟩
    · rw [slotStat, hcomp]
      exact congrArg SlotStat.missSeen (slotStat_setSlotStat ..)
    · rw [hcomp]
      rfl

/-- The state in which a miss of the first pass is marked. -/
def missState (p : Nat) (d : Drain) (slot : Nat) (s : State) : State :=
  if drainMissed d then raiseMiss p d.tile slot d.missUnder s else s

theorem missState_hit (h : drainMissed d = true) (p slot : Nat) (s : State) : MissMarked s (missState p d slot s) slot := by
  rw [missState, if_pos h]
  exact missMarked_raiseMiss ..

theorem missState_none (h : drainMissed d = false) (p slot : Nat) (s : State) : missState p d slot s = s := by
  rw [missState, if_neg (by simp [h])]

section
variable (hd : (clove s p).drain = some d) (hrec : drainRec s (tile s p d.tile) = some (r, b))
include hd hrec

theorem passEnd_ok (hfirst : d.redrain = false) : passEnd p s =
    if drainMissed d = true ∧ b.autoRetry = true then
      modClove (missState p d r.hdr.tensorId s) p (fun c => { c with drain := some { d with redrain := true } })
    else endDrain p d r (tile s p d.tile) (missState p d r.hdr.tensorId s) := by
  simp [passEnd, hd, hrec, hfirst, drainMissed, missState]

omit hrec in
theorem passEnd_redrain (hredrain : d.redrain = true) : passEnd p s = s := by
  simp [passEnd, hd, hredrain]

omit hrec in
theorem redrain_first (hfirst : d.redrain = false) : redrain p s = s := by
  simp [redrain, hd, hfirst]

/-- The drain that a redrain ends: the statistics of its own pass, with the misses of the first. -/
def redrained (d : Drain) (st : Stats) : Drain :=
  { d with stats := { st with missOver := d.stats.missOver, missUnder := d.stats.missUnder } }

theorem redrain_ok (hc : cleanMem s) (hredrain : d.redrain = true)
    (hok : passes (drainOnce p r b (tile s p d.tile) true) s = true) :
    ∃ x a, drainOnce p r b (tile s p d.tile) true s = (.ok x, a)
      ∧ redrain p s = endDrain p (redrained d x.2) r (tile s p d.tile) a := by
  obtain ⟨x, a, ha⟩ := ok_of_passes hok
  refine ⟨x, a, ha, ?_⟩
  simp only [redrain, hd, hrec, hredrain, readTile_clean hc]
  exact runItem_ok ((mm_bind ha _).trans rfl) ..

end

section
variable (hd : (clove s p).drain = some d)
include hd

/-- From a state in which misses may have been marked: the tile is FREE, and the record has the miss and one part less. -/
theorem endDrain_frees {v : State} (hcloves : v.comp.cloves = s.comp.cloves) (hstreams : v.host.streams = s.host.streams)
    (hr : drainRec s (tile s p d.tile) = some (r, b)) {e : Drain} (htile : e.tile = d.tile) :
    let y := tile s p d.tile
    let t := settle s (endDrain p e r y v)
    Freed s t p d.tile
      ∧ (∀ k, (slotStat t k).missSeen = (slotStat v k).missSeen)
      ∧ (r ∈ (stream s y.stream).window → r.life = .running → ∃ x, findRec t y.stream r.seq = some x ∧ Drained e r x)
      ∧ sameBut (.comp :: .streams :: .stepGuard :: settleParts) v t := by
  obtain ⟨hfind, -⟩ := findRec_of_drainRec hr
  have hseq := seq_of_findRec hfind
  obtain ⟨hfreed, hmiss, hheld, hrest⟩ := drainEnded_endDrain htile (by rw [clove_congr hcloves, hd]) r (tile s p d.tile)
  have hsettle := settle_sameBut s (endDrain p e r (tile s p d.tile) v)
  refine ⟨?_, fun k => ?_, fun hwin hrun => ?_, sameBut_then hsettle (by decide) (sameBut_mono hrest (by decide))⟩
  · rw [htile] at hfreed
    exact (hfreed.before (.of_cloves hcloves)).after (.of_cloves (settle_cloves ..))
  · have hslot := congrArg (fun c => sget SlotStat.empty (ComputeSt.slots c) k) (hsettle.part .comp (by decide))
    exact (congrArg SlotStat.missSeen hslot).trans (hmiss k)
  · have hr' : heldRec v (tile s p d.tile).stream r.seq = some r := by
      rw [heldRec_congr hstreams, hseq]
      exact heldRec_of_findRec hfind hwin
    obtain ⟨x, hx, hdrained⟩ := hheld hr' hrun
    exact ⟨x, by rw [findRec_settle, findRec_of_heldRec hx], hdrained⟩

/-- A first pass that is not redrained frees its tile. -/
theorem passEnd_frees (hr : drainRec s (tile s p d.tile) = some (r, b)) (hfirst : d.redrain = false)
    (hends : ¬ (drainMissed d = true ∧ b.autoRetry = true)) :
    let y := tile s p d.tile
    let t := settle s (passEnd p s)
    Freed s t p d.tile
      ∧ (slotStat t r.hdr.tensorId).missSeen = ((slotStat s r.hdr.tensorId).missSeen || drainMissed d)
      ∧ (r ∈ (stream s y.stream).window → r.life = .running → ∃ x, findRec t y.stream r.seq = some x ∧ Drained d r x)
      ∧ (drainMissed d = false → sameBut (.comp :: .streams :: .stepGuard :: settleParts) s t)
      ∧ sameBut (.comp :: .streams :: .stepGuard :: .ring :: settleParts) s t := by
  rw [passEnd_ok hd hr hfirst, if_neg hends]
  cases hmissed : drainMissed d with
  | false =>
    rw [missState_none hmissed]
    obtain ⟨hfreed, hmiss, hheld, hrest⟩ := endDrain_frees (v := s) hd rfl rfl hr (e := d) rfl
    exact ⟨hfreed, (hmiss _).trans (Bool.or_false _).symm, hheld, fun _ => hrest, sameBut_mono hrest (by decide)⟩
  | true =>
    have hmark := missState_hit hmissed p r.hdr.tensorId s
    obtain ⟨hfreed, hmiss, hheld, hrest⟩ := endDrain_frees hd hmark.cloves (hmark.rest.part .streams (by decide)) hr (e := d) rfl
    refine ⟨hfreed, ?_, hheld, fun h => Bool.noConfusion h, sameBut_then hrest (by decide) (sameBut_mono hmark.rest (by decide))⟩
    rw [hmiss, hmark.missSeen, Bool.or_true]

/-- A miss with AUTO_RETRY keeps the tile for its redrain. -/
theorem passEnd_retries (hr : drainRec s (tile s p d.tile) = some (r, b)) (hfirst : d.redrain = false)
    (hmissed : drainMissed d = true) (hretry : b.autoRetry = true) :
    let t := settle s (passEnd p s)
    (clove t p).drain = some { d with redrain := true } ∧ (∀ c m, tile t c m = tile s c m)
      ∧ (slotStat t r.hdr.tensorId).missSeen = true ∧ sameBut (.comp :: .ring :: settleParts) s t := by
  have hmark := missState_hit hmissed p r.hdr.tensorId s
  rw [passEnd_ok hd hr hfirst, if_pos ⟨hmissed, hretry⟩]
  generalize missState p d r.hdr.tensorId s = v at hmark
  have hkept := settle_cloves s (modClove v p (fun c => { c with drain := some { d with redrain := true } }))
  have hsettle := settle_sameBut s (modClove v p (fun c => { c with drain := some { d with redrain := true } }))
  refine ⟨?_, fun c m => ?_, ?_, ?_⟩
  · rw [clove_congr hkept, clove_modClove]
  · rw [(SameTiles.of_cloves hkept).tile, ← (SameTiles.of_cloves hmark.cloves).tile c m]
    exact congrArg (sget Tile.empty · m) (clove_modClove_same Clove.tiles rfl c)
  · have hslot := congrArg (fun c => sget SlotStat.empty (ComputeSt.slots c) r.hdr.tensorId) (hsettle.part .comp (by decide))
    exact (congrArg SlotStat.missSeen hslot).trans hmark.missSeen
  · exact sameBut_then hsettle (by decide) (sameBut_then (modClove_sameBut ..) (by decide) (sameBut_mono hmark.rest (by decide)))

/-- A redrain writes the block again, in late mode, and frees the tile. -/
theorem redrain_frees (hc : cleanMem s) (hr : drainRec s (tile s p d.tile) = some (r, b)) (hredrain : d.redrain = true)
    (hok : passes (drainOnce p r b (tile s p d.tile) true) s = true) :
    let t := settle s (redrain p s)
    Freed s t p d.tile ∧ Writes s p r b (tile s p d.tile) true t
      ∧ sameBut (.mem :: .comp :: .streams :: .stepGuard :: .free :: settleParts) s t := by
  obtain ⟨x, a, ha, heq⟩ := redrain_ok hd hr hc hredrain hok
  have hpass := within_drainOnce hc ha
  obtain ⟨hfreed, -, -, hrest⟩ := endDrain_frees hd hpass.cloves (hpass.rest.part .streams (by decide)) hr
    (e := redrained d x.2) rfl
  rw [heq]
  exact ⟨hfreed, writes_of_drainOnce hc ha (hrest.part .mem (by decide)),
    sameBut_then hrest (by decide) (sameBut_mono hpass.rest (by decide))⟩

end

theorem passEnd_none (hd : (clove s p).drain = none) : passEnd p s = s := by simp only [passEnd, hd]

theorem redrain_none (hd : (clove s p).drain = none) : redrain p s = s := by simp only [redrain, hd]

theorem exec_tileDrain (s : State) (hp : p < 1216) : exec (.tileDrain p) s = .next (settle s (startDrain p s)) :=
  congrArg (onUnit · _) (decide_eq_true hp)

theorem exec_drainPassEnd (s : State) (hp : p < 1216) : exec (.drainPassEnd p) s = .next (settle s (passEnd p s)) :=
  congrArg (onUnit · _) (decide_eq_true hp)

theorem exec_redrainComplete (s : State) (hp : p < 1216) : exec (.redrainComplete p) s = .next (settle s (redrain p s)) :=
  congrArg (onUnit · _) (decide_eq_true hp)

/-- The first pass of the oldest CLOSING tile. -/
theorem startDrain_writes {l : List Nat} (hc : cleanMem s) (hdrain : (clove s p).drain = none)
    (hclosing : (clove s p).closing = n :: l) (hrec : drainRec s (tile s p n) = some (r, b))
    (hok : passes (drainOnce p r b (tile s p n) (startsLate r b (drainTarget r b (tile s p n)).1)) s = true) :
    let y := tile s p n
    let e := (drainTarget r b y).1
    let t := settle s (startDrain p s)
    ∃ d, (clove t p).drain = some d ∧ d.tile = n ∧ d.redrain = false ∧ (d.missOver = true → d.missUnder = false)
      ∧ (drainCode r b e = none → d.missOver = false ∧ d.missUnder = false) ∧ (clove t p).closing = n :: l
      ∧ (∀ c m, tile t c m = tile s c m) ∧ Writes s p r b y (startsLate r b e) t
      ∧ sameBut (.mem :: .comp :: .free :: settleParts) s t := by
  obtain ⟨x, a, ha, heq⟩ := startDrain_ok hc hdrain hclosing hrec hok
  have hpass := within_drainOnce hc ha
  have hkept := settle_cloves s (startDrain p s)
  have hsettle := settle_sameBut s (startDrain p s)
  have htiles : SameTiles s a := .of_cloves hpass.cloves
  dsimp only
  rw [heq] at hkept hsettle ⊢
  refine ⟨firstPass n x.2 (missOf r b (tile s p n) (drainTarget r b (tile s p n)).1 x.1 x.2), ?_, rfl, rfl, missOf_over,
    fun hcode => ?_, ?_, fun c m => ?_, ?_, ?_⟩
  · rw [clove_congr hkept, clove_modClove]
  · simp [firstPass, missOf_late hcode]
  · rw [clove_congr hkept, clove_modClove]
    exact (htiles.closing p).trans hclosing
  · rw [(SameTiles.of_cloves hkept).tile, ← htiles.tile c m]
    exact congrArg (sget Tile.empty · m) (clove_modClove_same Clove.tiles rfl c)
  · exact writes_of_drainOnce hc ha (hsettle.part .mem (by decide))
  · exact sameBut_then hsettle (by decide) (sameBut_then (modClove_sameBut ..) (by decide) (sameBut_mono hpass.rest (by decide)))

end

/-- Settles O51: combines and stolen sums move tiles whole, and a drain writes its block and frees its tile. -/
theorem tiles : Obligations.Tiles := by
  unfold Obligations.Tiles
  intro s p hc hp
  dsimp only
  refine ⟨fun n hn => ⟨fun a u y hpartner hne => ?_, fun hnone => ?_, fun a u y hfree hstolen => ?_, fun hnone => ?_⟩,
    fun n l r b hdrain hclosing hrec hok => ?_, fun hbusy => ?_,
    fun d r b hd hrec => ⟨fun hfirst => ⟨fun hends => ?_, fun hmissed hretry => ?_, ?_⟩, fun hredrain => ⟨?_, fun hok => ?_⟩⟩,
    fun hd => ⟨?_, ?_⟩⟩
  · obtain ⟨hsum, hwhole, hempty, hothers, hrest⟩ := combineStep_ok hc hpartner hne
    have hkept := settle_cloves s (combineStep p n s)
    have htiles := SameTiles.of_cloves hkept
    refine ⟨_, exec_combinePartialReceive s hp hn, (htiles.tile p n).trans hsum, fun h => ?_, (htiles.tile a u).trans hempty,
      fun c m hp ha => (htiles.tile c m).trans (hothers c m hp ha), ?_⟩
    · rw [htiles.closing]
      exact hwhole h
    · exact sameBut_then (settle_sameBut ..) (by decide) (sameBut_mono hrest (by decide))
  · exact still_of_settle (by rw [exec_combinePartialReceive s hp hn, combineStep_none hnone])
  · have htiles := SameTiles.of_cloves (settle_cloves s (takeStolen p n s))
    refine ⟨_, exec_stolenChunkReceive s hp hn, ?_⟩
    rw [takeStolen_some hc hfree hstolen] at htiles ⊢
    refine ⟨(htiles.tile p n).trans (tile_setTile ..), fun hne => ?_, fun c m hp ha => ?_, ?_⟩
    · rw [htiles.tile, tile_setTile_other _ _ hne, tile_discardTile]
    · rw [htiles.tile, tile_setTile_other _ _ hp, tile_discardTile_other _ ha]
    · exact sameBut_then (settle_sameBut ..) (by decide) (sameBut_then (setTile_sameBut ..) (by decide)
        (sameBut_mono (discardTile_sameBut ..) (by decide)))
  · exact still_of_settle (by rw [exec_stolenChunkReceive s hp hn, takeStolen_none hnone])
  · obtain ⟨d, h⟩ := startDrain_writes hc hdrain hclosing hrec hok
    exact ⟨_, d, exec_tileDrain s hp, h⟩
  · exact still_of_settle (by rw [exec_tileDrain s hp, startDrain_none hbusy])
  · obtain ⟨hfreed, hmiss, hheld, hrest⟩ := passEnd_frees hd hrec hfirst hends
    refine ⟨_, exec_drainPassEnd s hp, ⟨hfreed.drain, hfreed.tile, hfreed.closing, hfreed.others⟩, hmiss, fun hwin hrun => ?_, hrest⟩
    obtain ⟨x, hx, hdrained⟩ := hheld hwin hrun
    exact ⟨x, hx, hdrained.scaleMiss, hdrained.more, hdrained.last⟩
  · exact ⟨_, exec_drainPassEnd s hp, passEnd_retries hd hrec hfirst hmissed hretry⟩
  · exact still_of_settle (by rw [exec_redrainComplete s hp, redrain_first hd hfirst])
  · exact still_of_settle (by rw [exec_drainPassEnd s hp, passEnd_redrain hd hredrain])
  · obtain ⟨hfreed, hwrites, hrest⟩ := redrain_frees hd hc hrec hredrain hok
    exact ⟨_, exec_redrainComplete s hp, ⟨hfreed.drain, hfreed.tile, hfreed.closing, hfreed.others⟩, hwrites, hrest⟩
  · exact still_of_settle (by rw [exec_drainPassEnd s hp, passEnd_none hd])
  · exact still_of_settle (by rw [exec_redrainComplete s hp, redrain_none hd])

end Sys2Proof.Machine
end

section
/-! A descriptor that starts at once (R193, R195): the work of its kind, its completion, and what one command leaves. -/

namespace Sys2Proof.Machine

section
variable {i : Nat} {h : Header} {d : Desc} {s t : State} {r : Rec}

theorem cleanMem_atWork (hc : cleanMem s) (i : Nat) (h : Header) (d : Desc) : cleanMem (atWork i h d s) :=
  cleanMem_congr ((atWork_sameBut i h d s).part .mem (by decide)) hc

theorem comp_atWork (i : Nat) (h : Header) (d : Desc) (s : State) : (atWork i h d s).comp = s.comp :=
  (atWork_sameBut i h d s).part .comp (by decide)

/-- A descriptor with nothing of its own to check at the take: its command does its kind's work and settles. -/
theorem offerDesc_startsNow (hclean : cleanMem s) (hs : startsNow i h d s)
    (htake : ∀ u, takeChecks i (taken i h d s) (stream s i).afterBarrier0 u = (.ok (), u)) (hcall : ∀ b, d ≠ .call b)
    (hkind : dispatchKind i (keyed i h d s) (atWork i h d s) = t) (ht : Holds i r s t) (hr : r.desc ≠ .barrier) :
    offerDesc i h d s = settle s t := by
  obtain ⟨hc, -, hready, hchecks⟩ := hs
  obtain ⟨_, u, hchk⟩ := ok_of_passes hchecks
  have hchk' := hchk
  rw [WithinM.dispatchChecks.eq (cleanMem_atWork hclean i h d) hchk] at hchk'
  exact offerDesc_eq hc (htake _) hcall hready hchk' hkind ht hr

/-- One whose work leaves its record and then completes it. -/
theorem offerDesc_completes {fl : CFlags} (hclean : cleanMem s) (hs : startsNow i h d s)
    (htake : ∀ u, takeChecks i (taken i h d s) (stream s i).afterBarrier0 u = (.ok (), u)) (hcall : ∀ b, d ≠ .call b)
    (hbar : d ≠ .barrier) (ht : Holds i (keyed i h d s) s t)
    (hkind : dispatchKind i (keyed i h d s) (atWork i h d s) = complete i (keyed i h d s).seq stOK 0 0 fl t) :
    offerDesc i h d s = settle s (complete i (keyed i h d s).seq stOK 0 0 fl t) :=
  offerDesc_startsNow hclean hs htake hcall hkind (ht.complete Life.noConfusion stOK 0 0 fl) hbar

/-- That completion leaves its record done; only its stream and the settling follow its work. -/
theorem took_complete (ht : Holds i (keyed i h d s) s t) (fl : CFlags) :
    tookOne i h d .done s (settle s (complete i (keyed i h d s).seq stOK 0 0 fl t))
      ∧ sameBut (.streams :: settleParts) t (settle s (complete i (keyed i h d s).seq stOK 0 0 fl t)) :=
  ⟨((ht.complete Life.noConfusion stOK 0 0 fl).congr (settle_streams s _)).tookOne rfl rfl rfl,
    sameBut_then (settle_sameBut ..) (by decide) (sameBut_mono (complete_sameBut ..) (by decide))⟩

/-! ### A MOVE that is done whole -/

/-- Work `w` of a MOVE, its completion after it. -/
def thenComplete (w : MM Unit) (i q : Nat) : MM Unit := do
  let late ← do w; pure false
  mMod (complete i q stOK 0 0 { CFlags.none with late := late })

/-- A MOVE, but DELIVER, carries no late flag (R240). -/
def moveFlags : CFlags := { CFlags.none with late := false }

theorem thenComplete_ok {w : MM Unit} (hw : w s = (.ok (), t)) (i q : Nat) :
    thenComplete w i q s = (.ok (), complete i q stOK 0 0 moveFlags t) := by
  simp only [thenComplete, mm_bind hw, mm_bind (mm_pure _ t), mMod_apply, moveFlags]

/-- A MOVE whose work leaves its record completes after it (R258). -/
theorem offerDesc_move_eq {k : Nat} {b : MoveBody} {w : MM Unit} (hclean : cleanMem s) (hs : startsNow i h (.move k b) s)
    (hk : ∀ q, dispatchMove i q h k b = thenComplete w i q) (hw : w (atWork i h (.move k b) s) = (.ok (), t))
    (ht : Holds i (keyed i h (.move k b) s) s t) : offerDesc i h (.move k b) s
      = settle s (complete i (keyed i h (.move k b) s).seq stOK 0 0 moveFlags t) := by
  refine offerDesc_completes hclean hs (takeChecks_ok hs.2.1 (.inl ⟨k, b, rfl⟩) _) (fun _ => Desc.noConfusion)
    Desc.noConfusion ht (runDesc_ok (x := ()) ?_ i _)
  exact (congrFun (hk _) _).trans (thenComplete_ok hw i _)

theorem offerDesc_move_ok {k : Nat} {b : MoveBody} {w : MM Unit} (hclean : cleanMem s) (hs : startsNow i h (.move k b) s)
    (hk : ∀ q, dispatchMove i q h k b = thenComplete w i q) (hw : w (atWork i h (.move k b) s) = (.ok (), t))
    (ht : Holds i (keyed i h (.move k b) s) s t) : tookOne i h (.move k b) .done s (offerDesc i h (.move k b) s)
      ∧ sameBut (.streams :: settleParts) t (offerDesc i h (.move k b) s) := by
  rw [offerDesc_move_eq hclean hs hk hw ht]
  exact took_complete ht moveFlags

/-- Work that leaves streams leaves its record. -/
theorem holds_of_work (hs : startsNow i h d s) {l : List Part} (ht : sameBut l (atWork i h d s) t)
    (hl : .streams ∉ l := by decide) : Holds i (keyed i h d s) s t :=
  (holds_atWork hs.1 h d).congr (ht.part .streams hl)

theorem sameBut_of_work {l m : List Part} {u : State} (ht : sameBut l (atWork i h d s) t)
    (hu : sameBut (.streams :: settleParts) t u) (hl : ∀ p ∈ l, p ∈ m := by decide)
    (hm : ∀ p ∈ .streams :: settleParts, p ∈ m := by decide) : sameBut m s u :=
  sameBut_then hu hm (sameBut_then ht hl (sameBut_mono (atWork_sameBut i h d s) fun p hp =>
    hm p (List.mem_cons.mpr (.inl (List.mem_singleton.mp hp)))))

end

end Sys2Proof.Machine
end

section
/-! Loads of the cloves' stores (R101, R102, R147, R197): what a load puts in each clove, and where. -/

namespace Sys2Proof.Machine

section
variable {s t : State}

/-! ### Changes made one number after another -/

/-- What a number holds after a list of changes, each of which changes the number that it names: the change at that number, as
often as the list names it. -/
theorem read_foldl {α : Type} {read : State → Nat → α} {f : State → Nat → State} {g : Nat → α → α}
    (hf : ∀ s p q, read (f s p) q = if q = p then g p (read s p) else read s q) (l : List Nat) (s : State) (q : Nat) :
    read (l.foldl f s) q = (g q)^[l.count q] (read s q) := by
  induction l generalizing s with
  | nil => rfl
  | cons p l ih =>
    rw [List.foldl_cons, ih, hf]
    by_cases hq : q = p
    · subst hq
      rw [if_pos rfl, List.count_cons_self, Function.iterate_succ_apply]
    · rw [if_neg hq, List.count_cons_of_ne (Ne.symm hq)]

/-- A view of a value that no change moves. -/
theorem view_iterate {α β : Type} {g : α → α} {e : α → β} (h : ∀ a, e (g a) = e a) (n : Nat) (a : α) :
    e (g^[n] a) = e a := by
  induction n generalizing a with
  | zero => rfl
  | succ n ih => rw [Function.iterate_succ_apply, ih, h]

theorem clove_modClove_eq (s : State) (p q : Nat) (f : Clove → Clove) :
    clove (modClove s p f) q = if q = p then f (clove s p) else clove s q := by
  split
  next h => rw [h, clove_modClove]
  next h => exact clove_modClove_other s f h

/-! ### Words of a store -/

theorem putWords_concat (l : Sparse Nat) (first : Nat) (ws : List Nat) (w : Nat) :
    putWords l first (ws ++ [w]) = sset 0 (putWords l first ws) (first + ws.length) w := by
  simp [putWords, List.zipIdx_append, List.foldl_append]

/-- A word put reads as it was put, and every other number reads as before. -/
theorem sget_putWords (l : Sparse Nat) (first : Nat) (ws : List Nat) (k : Nat) :
    sget 0 (putWords l first ws) k
      = if first ≤ k ∧ k < first + ws.length then ws.getD (k - first) 0 else sget 0 l k := by
  induction ws using List.reverseRecOn with
  | nil => simp [putWords]
  | append_singleton ws w ih =>
    rw [putWords_concat, List.length_append, List.length_singleton]
    by_cases hk : k = first + ws.length
    · subst hk
      rw [sget_sset_same, if_pos (by omega)]
      simp
    · rw [sget_sset_other _ _ _ _ hk, ih]
      by_cases hin : first ≤ k ∧ k < first + ws.length
      · rw [if_pos hin, if_pos (by omega), List.getD_append _ _ _ _ (by omega)]
      · rw [if_neg hin, if_neg (by omega)]

theorem sget_putWords_in (l : Sparse Nat) (first : Nat) {ws : List Nat} {k : Nat} (h : k < ws.length) :
    sget 0 (putWords l first ws) (first + k) = ws.getD k 0 := by
  rw [sget_putWords, if_pos (by omega), Nat.add_sub_cancel_left]

theorem sget_putWords_out (l : Sparse Nat) {first : Nat} {ws : List Nat} {k : Nat} (h : k < first ∨ first + ws.length ≤ k) :
    sget 0 (putWords l first ws) k = sget 0 l k := by
  rw [sget_putWords, if_neg (by omega)]

@[simp] theorem length_wordsOf (w n : Nat) (bs : List Byte) : (wordsOf w n bs).length = n := by simp [wordsOf]

theorem getD_map_bankWord (ws : List Nat) (k : Nat) : (ws.map bankWord).getD k 0 = bankWord (ws.getD k 0) :=
  List.getD_map (n := k) ws 0 bankWord

/-! ### One clove -/

/-- A clove whose store is loaded with bytes. -/
def loadedClove (store first n : Nat) (bs : List Byte) (c : Clove) : Clove :=
  match store with
  | 1 => { c with scaleFile := putWords c.scaleFile first (wordsOf 4 n bs) }
  | 2 => { c with int4 := putWords c.int4 (16 * first) (wordsOf 2 (16 * n) bs) }
  | 3 => { c with rowBank := putWords c.rowBank first ((wordsOf 4 n bs).map bankWord) }
  | k => { c with splines := sset [] c.splines (k - 4) (segmentsOf n bs) }

/-- A load changes that clove as said, and counts besides. -/
theorem loadStore_eq (store first n : Nat) (bs : List Byte) (p : Nat) (s : State) :
    ∃ m, loadStore store first n bs p s = countIn p m (modClove s p (loadedClove store first n bs)) := by
  have hnone (u : State) : countIn p 0 u = u := by simp [countIn, count]
  match store with
  | 1 => exact ⟨0, (hnone _).symm⟩
  | 2 => exact ⟨0, (hnone _).symm⟩
  | 3 => exact ⟨_, rfl⟩
  | 0 => exact ⟨0, (hnone _).symm⟩
  | k + 4 => exact ⟨0, (hnone _).symm⟩

theorem clove_loadStore (store first n : Nat) (bs : List Byte) (s : State) (p q : Nat) :
    clove (loadStore store first n bs p s) q
      = if q = p then loadedClove store first n bs (clove s p) else clove s q := by
  obtain ⟨m, h⟩ := loadStore_eq store first n bs p s
  have hcomp := (countIn_sameBut p m (modClove s p (loadedClove store first n bs))).part .comp (by decide)
  rw [h, clove_congr (congrArg ComputeSt.cloves hcomp), clove_modClove_eq]

theorem loadStore_sameBut (store first n : Nat) (bs : List Byte) (p : Nat) (s : State) :
    sameBut [.comp, .counters] s (loadStore store first n bs p s) := by
  obtain ⟨m, h⟩ := loadStore_eq store first n bs p s
  rw [h]
  exact sameBut_then (countIn_sameBut ..) (by decide) (sameBut_mono (modClove_sameBut ..) (by decide))

/-! ### The cloves of a group -/

section
variable (g store first n src : Nat) (bs : List Byte) (s : State)

theorem loadStores_sameBut : sameBut [.comp, .counters] s (loadStores g store first n src bs s) := by
  refine sameBut_trans (sameBut_foldl (fun u p => ?_) _ s) (sameBut_foldl (fun u p => ?_) _ _)
  · exact sameBut_then (modClove_sameBut ..) (by decide) (loadStore_sameBut ..)
  · exact sameBut_mono (modClove_sameBut ..) (by decide)

/-- A clove is loaded as often as its group lists it, and takes the record of the source. -/
theorem clove_loadStores (q : Nat) : clove (loadStores g store first n src bs s) q
    = (noteSource store first n src)^[(joiningIn s g).count q]
      ((fun c => noteSource store first n src (loadedClove store first n bs c))^[(groupCloves s g).count q] (clove s q)) := by
  unfold loadStores
  dsimp only
  rw [read_foldl (read := clove) (g := fun _ => noteSource store first n src) fun s p q => clove_modClove_eq ..]
  rw [read_foldl (read := clove) (g := fun _ c => noteSource store first n src (loadedClove store first n bs c))]
  intro s p q
  rw [clove_modClove_eq, clove_loadStore, clove_loadStore, if_pos rfl]
  split <;> rfl

variable {g store first n src bs s} {α : Type} {e : Clove → α} {p : Nat}

/-- What the load puts in any clove, it puts in those of the group. -/
theorem view_loadStores_in (hnote : ∀ c, e (noteSource store first n src c) = e c) {v : α}
    (hload : ∀ c, e (loadedClove store first n bs c) = v) (hp : p ∈ groupCloves s g) :
    e (clove (loadStores g store first n src bs s) p) = v := by
  obtain ⟨m, hm⟩ := Nat.exists_eq_succ_of_ne_zero (List.count_pos_iff.mpr hp).ne'
  rw [clove_loadStores, view_iterate hnote, hm, Function.iterate_succ_apply', hnote, hload]

/-- What the load leaves in any clove stands. -/
theorem view_loadStores_out (hnote : ∀ c, e (noteSource store first n src c) = e c)
    (hload : ∀ c, e (loadedClove store first n bs c) = e c) :
    e (clove (loadStores g store first n src bs s) p) = e (clove s p) := by
  rw [clove_loadStores, view_iterate hnote, view_iterate fun c => (hnote _).trans (hload c)]

/-- A clove of another group, not joining there, stands. -/
theorem clove_loadStores_other (hp : p ∉ groupCloves s g) (hj : p ∉ joiningIn s g) :
    clove (loadStores g store first n src bs s) p = clove s p := by
  rw [clove_loadStores, List.count_eq_zero_of_not_mem hp, List.count_eq_zero_of_not_mem hj]
  rfl

end

theorem groupCloves_congr (h : t.comp = s.comp) (g : Nat) : groupCloves t g = groupCloves s g := by
  cases s; cases t; subst h; rfl

theorem joiningIn_congr (h : t.comp = s.comp) (g : Nat) : joiningIn t g = joiningIn s g := by
  cases s; cases t; subst h; rfl

/-! ### The work of the four kinds -/

section
variable {i kind : Nat} {h : Header} {b : MoveBody}

theorem moveStore_ok (hc : cleanMem s) (hpos : 0 < b.length) (htop : b.dst + b.length ≤ (storeSize kind).2)
    (hsrc : endOk s b.srcHost b.src ((storeSize kind).1 * b.length)) (i : Nat) (h : Header) :
    moveStore i h kind b s = (.ok (), loadStores h.group kind b.dst b.length (sourceOf i b)
      (endBytes s b.srcHost b.src ((storeSize kind).1 * b.length)) s) := by
  have hlen : decide (b.length = 0) = false := decide_eq_false (by omega)
  have hfits : decide ((storeSize kind).2 < b.dst + b.length) = false := decide_eq_false (by omega)
  simp only [moveStore, hlen, hfits, mm_bind (mGuard_false _ _ s), mm_bind (readSrc_ok hc hsrc i), mMod_apply]

theorem moveSpline_ok (hc : cleanMem s) (hpos : 0 < b.length) (hlen : b.length ≤ 64) (harg : b.arg0 ≤ 3)
    (hsrc : endOk s b.srcHost b.src (20 * b.length))
    (hrise : breaksRise (segmentsOf b.length (endBytes s b.srcHost b.src (20 * b.length))) = true) (i : Nat) (h : Header) :
    moveSpline i h b s = (.ok (), loadStores h.group (storeOfSpline b.arg0) 0 b.length (sourceOf i b)
      (endBytes s b.srcHost b.src (20 * b.length)) s) := by
  have hlen : (decide (b.length = 0) || decide (64 < b.length)) = false := by simp; omega
  have harg : decide (3 < b.arg0) = false := decide_eq_false (by omega)
  simp only [moveSpline, hlen, harg, hrise, Bool.not_true, mm_bind (mGuard_false _ _ s), mm_bind (readSrc_ok hc hsrc i),
    mMod_apply]

end

/-! ### Taken, loaded and complete -/

/-- Stream `i` has taken the MOVE and completed it, and store `store` of the cloves of its group is loaded with `bs`. -/
structure Loaded (i : Nat) (h : Header) (k : Nat) (b : MoveBody) (store first : Nat) (bs : List Byte) (s t : State) : Prop where
  took : tookOne i h (.move k b) .done s t
  cloves : ∀ p, clove t p = clove (loadStores h.group store first b.length (sourceOf i b) bs s) p
  rest : sameBut (.comp :: .streams :: settleParts) s t

section
variable {i k store first : Nat} {h : Header} {b : MoveBody} {bs : List Byte} {w : MM Unit}

theorem offerDesc_loads (hclean : cleanMem s) (hs : startsNow i h (.move k b) s)
    (hk : ∀ q, dispatchMove i q h k b = thenComplete w i q)
    (hw : w (atWork i h (.move k b) s)
      = (.ok (), loadStores h.group store first b.length (sourceOf i b) bs (atWork i h (.move k b) s))) :
    Loaded i h k b store first bs s (offerDesc i h (.move k b) s) := by
  have hload := loadStores_sameBut h.group store first b.length (sourceOf i b) bs (atWork i h (.move k b) s)
  obtain ⟨htook, hrest⟩ := offerDesc_move_ok hclean hs hk hw (holds_of_work hs hload)
  refine ⟨htook, fun p => ?_, sameBut_of_work hload hrest⟩
  have hcomp := comp_atWork i h (.move k b) s
  rw [clove_congr (congrArg ComputeSt.cloves (hrest.part .comp (by decide))), clove_loadStores, clove_loadStores,
    joiningIn_congr hcomp, groupCloves_congr hcomp, clove_congr (congrArg ComputeSt.cloves hcomp)]

theorem Loaded.others (hl : Loaded i h k b store first bs s t) {p : Nat} (hp : p ∉ groupCloves s h.group)
    (hj : p ∉ joiningIn s h.group) : clove t p = clove s p := by
  rw [hl.cloves, clove_loadStores_other hp hj]

/-- Words that a load puts from `lo` on of a store read back in every clove of the group, and the words outside stand. -/
theorem Loaded.words {e : Clove → Sparse Nat} {ws : List Nat} {lo : Nat} (hl : Loaded i h k b store first bs s t)
    (hnote : ∀ c, e (noteSource store first b.length (sourceOf i b) c) = e c)
    (hload : ∀ c, e (loadedClove store first b.length bs c) = putWords (e c) lo ws) :
    (∀ p ∈ groupCloves s h.group, ∀ j, j < ws.length → sget 0 (e (clove t p)) (lo + j) = ws.getD j 0)
    ∧ ∀ p ∈ groupCloves s h.group, ∀ j, j < lo ∨ lo + ws.length ≤ j → sget 0 (e (clove t p)) j = sget 0 (e (clove s p)) j := by
  refine ⟨fun p hp j hj => ?_, fun p _ j hj => ?_⟩
  · rw [hl.cloves]
    exact view_loadStores_in (e := fun c => sget 0 (e c) (lo + j)) (fun c => by rw [hnote])
      (fun c => by rw [hload, sget_putWords_in _ _ hj]) hp
  · rw [hl.cloves]
    exact view_loadStores_out (e := fun c => sget 0 (e c) j) (fun c => by rw [hnote])
      (fun c => by rw [hload, sget_putWords_out _ hj])

/-- MOVE SCALE_FILE, INT4_TABLE and ROW_BANK. -/
theorem offerDesc_moveStore (hclean : cleanMem s) (hs : startsNow i h (.move k b) s)
    (hk : ∀ q, dispatchMove i q h k b = thenComplete (moveStore i h k b) i q) (hpos : 0 < b.length)
    (htop : b.dst + b.length ≤ (storeSize k).2) (hsrc : endOk s b.srcHost b.src ((storeSize k).1 * b.length)) :
    Loaded i h k b k b.dst (endBytes s b.srcHost b.src ((storeSize k).1 * b.length)) s (offerDesc i h (.move k b) s) := by
  have hat := atWork_sameBut i h (.move k b) s
  have hw := moveStore_ok (cleanMem_atWork hclean i h (.move k b)) hpos htop ((endOk_congr hat).mpr hsrc) i h
  rw [endBytes_congr hat] at hw
  exact offerDesc_loads hclean hs hk hw

theorem offerDesc_moveSpline (hclean : cleanMem s) (hs : startsNow i h (.move 4 b) s) (hpos : 0 < b.length)
    (hlen : b.length ≤ 64) (harg : b.arg0 ≤ 3) (hsrc : endOk s b.srcHost b.src (20 * b.length))
    (hrise : breaksRise (segmentsOf b.length (endBytes s b.srcHost b.src (20 * b.length))) = true) :
    Loaded i h 4 b (storeOfSpline b.arg0) 0 (endBytes s b.srcHost b.src (20 * b.length)) s (offerDesc i h (.move 4 b) s) := by
  have hat := atWork_sameBut i h (.move 4 b) s
  have hw := moveSpline_ok (cleanMem_atWork hclean i h (.move 4 b)) hpos hlen harg ((endOk_congr hat).mpr hsrc)
    (by rwa [endBytes_congr hat]) i h
  rw [endBytes_congr hat] at hw
  exact offerDesc_loads hclean hs (fun _ => rfl) hw

theorem splines_loadedClove (a n : Nat) (bs : List Byte) (c : Clove) :
    sget [] (loadedClove (storeOfSpline a) 0 n bs c).splines a = segmentsOf n bs := by
  have hstore : storeOfSpline a = a + 4 := Nat.add_comm 4 a
  rw [hstore]
  exact sget_sset_same ..

end

end

/-- Settles O24: a load changes every clove of the group in the range that it names, and each kind reads its words. -/
theorem loadsOfCloveStores : Obligations.LoadsOfCloveStores := by
  unfold Obligations.LoadsOfCloveStores
  intro s i h b hclean hpos
  dsimp only
  have hone : b.length / b.length = 1 := Nat.div_self hpos
  have hsixteen : 16 * b.length / b.length = 16 := Nat.mul_div_cancel _ hpos
  refine ⟨fun hs htop hsrc => ?_, fun hs htop hsrc => ?_, fun hs htop hsrc => ?_, fun hs hlen harg hsrc hrise => ?_⟩
  · have hl := offerDesc_moveStore hclean hs (fun _ => rfl) hpos htop hsrc
    obtain ⟨hin, hout⟩ := hl.words (e := Clove.scaleFile) (fun _ => rfl) (fun _ => rfl)
    simp only [hone, Nat.one_mul, length_wordsOf] at hin hout ⊢
    exact ⟨_, onUnit_stream hs.1 _, hl.took, hin, hout, fun p => hl.others, hl.rest⟩
  · have hbytes : 2 * (16 * b.length) = 32 * b.length := by omega
    rw [hbytes] at hsrc ⊢
    have hl := offerDesc_moveStore hclean hs (fun _ => rfl) hpos htop hsrc
    obtain ⟨hin, hout⟩ := hl.words (e := Clove.int4) (fun _ => rfl) (fun _ => rfl)
    simp only [hsixteen, Nat.mul_add, length_wordsOf] at hin hout ⊢
    exact ⟨_, onUnit_stream hs.1 _, hl.took, hin, hout, fun p => hl.others, hl.rest⟩
  · have hl := offerDesc_moveStore hclean hs (fun _ => rfl) hpos htop hsrc
    obtain ⟨hin, hout⟩ := hl.words (e := Clove.rowBank) (fun _ => rfl) (fun _ => rfl)
    simp only [hone, Nat.one_mul, List.length_map, length_wordsOf, getD_map_bankWord] at hin hout ⊢
    exact ⟨_, onUnit_stream hs.1 _, hl.took, hin, hout, fun p => hl.others, hl.rest⟩
  · have hl := offerDesc_moveSpline hclean hs hpos hlen harg hsrc hrise
    refine ⟨_, onUnit_stream hs.1 _, hl.took, fun p hp => ?_, fun p => hl.others, hl.rest⟩
    rw [hl.cloves]
    exact view_loadStores_in (e := fun c => sget [] c.splines b.arg0) (fun _ => rfl)
      (splines_loadedClove b.arg0 b.length _) hp

end Sys2Proof.Machine
end

section
/-! A descriptor that fails as it is dispatched: its completion with DESC_ERROR (R253, R267). -/

namespace Sys2Proof.Machine

section
variable {α β : Type} {s t u : State} {i : Nat} {r : Rec}

/-- Work that fails goes no further. -/
theorem mm_bind_error {w : MM α} {e : Fail} (h : w s = (.error e, t)) (f : α → MM β) : (w >>= f) s = (.error e, t) := by
  simp only [bind, ExceptT.bind, ExceptT.mk, ExceptT.bindCont, StateT.bind, h]
  rfl

@[simp] theorem mGuard_true (d : Detail) (off : Nat) (s : State) : mGuard true d off s = (.error (.desc d off), s) := rfl

theorem runDesc_desc {w : MM Unit} {d : Detail} {off : Nat} (h : w s = (.error (.desc d off), t)) (i q : Nat) :
    runDesc i q w s = completeErr i q d off t := by
  simp only [runDesc, h]

theorem thenComplete_error {w : MM Unit} {e : Fail} (hw : w s = (.error e, t)) (i q : Nat) :
    thenComplete w i q s = (.error e, t) := by
  simp only [thenComplete, mm_bind_error hw]

/-- A change of a stream's other fields. -/
theorem Holds.modFields (hu : Holds i r s u) {f : Stream → Stream} (hf : ∀ x, (f x).window = x.window ∧ (f x).calls = x.calls
    ∧ (f x).kept = x.kept ∧ (f x).state = x.state ∧ (f x).seqNext = x.seqNext ∧ (f x).taken = x.taken
    ∧ (f x).retired = x.retired) : Holds i r s (modStream u i f) := by
  obtain ⟨hwindow, hcalls, hkept, hstate, hnext, htaken, hretired⟩ := hf (stream u i)
  have hi := stream_modStream u i f
  exact ⟨by rw [hi, hwindow, hu.window], by rw [hi, hcalls, hu.calls], by rw [hi, hkept, hu.kept], by rw [hi, hstate, hu.state],
    hu.seq, by rw [hi, hnext, hu.seqNext], by rw [hi, htaken, hu.taken], by rw [hi, hretired, hu.retired],
    fun j hj => (stream_modStream_other u f hj).trans (hu.others j hj)⟩

/-- The record that a stream holds fails: it is complete, and the stream's first failure raises its event. -/
theorem Holds.completeErr (hu : Holds i r s u) (hl : r.life ≠ .done) (d : Detail) (off : Nat) :
    Holds i (completed stDescError (detailCode d) off CFlags.none r) s (completeErr i r.seq d off u)
      ∧ sameBut (.streams :: eventParts) u (Machine.completeErr i r.seq d off u) := by
  simp only [Machine.completeErr, hu.findRec, if_neg hl]
  split
  · exact ⟨hu.complete hl .., sameBut_mono (complete_sameBut ..) (by decide)⟩
  · have hmarked := hu.modFields (f := fun x => { x with descErr := true }) fun _ => ⟨rfl, rfl, rfl, rfl, rfl, rfl, rfl⟩
    refine ⟨(hmarked.congr ((raiseEv_sameBut ..).part .streams (by decide))).complete hl .., ?_⟩
    exact sameBut_then (complete_sameBut ..) (by decide)
      (sameBut_then (raiseEv_sameBut ..) (by decide) (sameBut_mono (modStream_sameBut ..) (by decide)))

end

end Sys2Proof.Machine
end

section
/-! MOVEs that write the sequencers' tables, a statistics slot, a stream's key seed and the cloves' seeds (R115, R120, R123,
R175, R197). -/

namespace Sys2Proof.Machine

section
variable {s t : State} {i : Nat} {h : Header} {b : MoveBody}

/-! ### The work of each kind -/

/-- Without faults a table's write clears none (R330). -/
theorem writeTable_clean (hc : cleanMem s) (k n : Nat) : writeTable k n s = s :=
  List.foldl_fixed' (fun j => by simp [seqFaults, hc.2.1]) _

theorem moveGroup_ok (hc : cleanMem s) (hlo : 1 ≤ b.arg0) (hhi : b.arg0 ≤ 63) (hsrc : endOk s b.srcHost b.src 16) (i : Nat) :
    moveGroup i b s = (.ok (), modComp s (fun c => { c with
      groups := sset 0 c.groups b.arg0 (leNat (endBytes s b.srcHost b.src 16) % 2 ^ 96) })) := by
  have harg : (decide (b.arg0 = 0) || decide (63 < b.arg0)) = false := by simp; omega
  simp only [moveGroup, harg, mm_bind (mGuard_false _ _ s), mm_bind (readSrc_ok hc hsrc i), mMod_apply, writeTable_clean hc]

theorem mRead_ok {a n : Nat} (hc : cleanMem s) (ha : access s a n = .ok) (req : Nat) :
    mRead a n req s = (.ok (bytesAt s.mem.data a n), s) := by
  simp only [mRead, readMem_clean hc ha]

/-- A weight entry as a record registers it. -/
def registered (b : MoveBody) (r : WRec) (w : Weight) : Weight :=
  { w with addr := b.src, version := r.version, refs := 0, registered := true, lastStep := none }

section
variable (hc : cleanMem s) (harg : b.arg0 ≤ 4095) (hhost : b.srcHost = false) (hend : b.src + 128 ≤ hbmEnd)
  (ha : access s b.src 128 = .ok)
include hc harg hhost hend ha

/-- The record's rank is the last thing checked (log 113). -/
theorem moveWeight_refused (hwide : adapterTooWide (wrecOf (bytesAt s.mem.data b.src 128)) = true) :
    moveWeight b s = (.error (.desc .range 0x18), s) := by
  have harg : decide (4095 < b.arg0) = false := decide_eq_false (by omega)
  have hend : decide (hbmEnd < b.src + 128) = false := decide_eq_false (by omega)
  simp only [moveWeight, harg, hhost, hend, Bool.or_self, mm_bind (mGuard_false _ _ s), mm_bind (mReq_apply s),
    mm_bind (mRead_ok hc ha _), hwide, mm_bind_error (mGuard_true ..)]

theorem moveWeight_ok (hfits : adapterTooWide (wrecOf (bytesAt s.mem.data b.src 128)) = false) :
    moveWeight b s = (.ok (), setWeight s b.arg0
      (registered b (wrecOf (bytesAt s.mem.data b.src 128)) (weight s b.arg0))) := by
  have harg : decide (4095 < b.arg0) = false := decide_eq_false (by omega)
  have hend : decide (hbmEnd < b.src + 128) = false := decide_eq_false (by omega)
  simp only [moveWeight, harg, hhost, hend, Bool.or_self, mm_bind (mGuard_false _ _ s), mm_bind (mReq_apply s),
    mm_bind (mRead_ok hc ha _), hfits, mMod_apply, writeTable_clean hc, registered]

end

theorem moveStatSlot_ok (harg : b.arg0 ≤ 4095) (s : State) : moveStatSlot b s = (.ok (), setSlotStat s b.arg0
    { slotStat s b.arg0 with code := bitsAt b.arg1 7 0, codeValid := bitAt b.arg1 8 }) := by
  have harg : decide (4095 < b.arg0) = false := decide_eq_false (by omega)
  simp only [moveStatSlot, harg, mm_bind (mGuard_false _ _ s), mMod_apply]

/-! ### Seeds -/

def withSeed (v : Nat) (c : Clove) : Clove := { c with seed := v }

/-- The cloves listed take their seeds, one after another. -/
def seedCloves (v : Nat → Nat) (l : List Nat) (s : State) : State := l.foldl (fun u p => modClove u p (withSeed (v p))) s

theorem seedCloves_sameBut (v : Nat → Nat) (l : List Nat) (s : State) : sameBut [.comp] s (seedCloves v l s) :=
  sameBut_foldl (fun _ _ => modClove_sameBut ..) l s

theorem clove_seedCloves (v : Nat → Nat) (l : List Nat) (s : State) (q : Nat) :
    clove (seedCloves v l s) q = (withSeed (v q))^[l.count q] (clove s q) :=
  read_foldl (read := clove) (g := fun p => withSeed (v p)) (fun _ _ _ => clove_modClove_eq ..) l s q

theorem clove_seedCloves_mem {v : Nat → Nat} {l : List Nat} {q : Nat} (hq : q ∈ l) :
    clove (seedCloves v l s) q = withSeed (v q) (clove s q) := by
  obtain ⟨m, hm⟩ := Nat.exists_eq_succ_of_ne_zero (List.count_pos_iff.mpr hq).ne'
  rw [clove_seedCloves, hm, Function.iterate_succ_apply']
  exact view_iterate (g := withSeed (v q)) (e := withSeed (v q)) (fun _ => rfl) m _

theorem clove_seedCloves_other {v : Nat → Nat} {l : List Nat} {q : Nat} (hq : q ∉ l) :
    clove (seedCloves v l s) q = clove s q := by
  rw [clove_seedCloves, List.count_eq_zero_of_not_mem hq]
  rfl

theorem getD_wordsOf {w n k : Nat} (hk : k < n) (bs : List Byte) :
    (wordsOf w n bs).toArray.getD k 0 = leNat ((bs.drop (w * k)).take w) := by
  simp [wordsOf, hk]

/-- Pairs of equal seeds are reported (R123). -/
def reportPairs (l : List (Nat × Nat)) (s : State) : State :=
  l.foldl (fun u x => raiseEv { code := 0x08, unit := x.1 / 76, arg0 := x.1, arg1 := x.2 } u) s

theorem reportPairs_sameBut (l : List (Nat × Nat)) (s : State) : sameBut eventParts s (reportPairs l s) :=
  sameBut_foldl (fun u _ => raiseEv_sameBut _ u) l s

/-- The seed in use that a source gives clove `p`. -/
def seedAt (bs : List Byte) (p : Nat) : Nat := seedUsed ((wordsOf 8 1216 bs).toArray.getD p 0)

theorem seedAt_eq {p : Nat} (hp : p < 1216) (bs : List Byte) : seedAt bs p = seedUsed (leNat ((bs.drop (8 * p)).take 8)) := by
  rw [seedAt, getD_wordsOf hp]

def sortedCloves (s : State) (g : Nat) : List Nat := (groupCloves s g).mergeSort (fun a b => decide (a ≤ b))

theorem mem_sortedCloves {g p : Nat} : p ∈ sortedCloves s g ↔ p ∈ groupCloves s g := List.mem_mergeSort

/-- `s` with the seeds of the source in the cloves of group `g`. -/
def seeded (g : Nat) (bs : List Byte) (s : State) : State := seedCloves (seedAt bs) (sortedCloves s g) s

/-- The cloves of the group take their seeds of the source, and equal seeds are reported. -/
theorem moveSeed_ok (hc : cleanMem s) (hsrc : endOk s b.srcHost b.src 9728) (i : Nat) (h : Header) :
    moveSeed i h b s = (.ok (), reportPairs
      (seedPairs (seeded h.group (endBytes s b.srcHost b.src 9728) s) (sortedCloves s h.group))
      (seeded h.group (endBytes s b.srcHost b.src 9728) s)) := by
  simp only [moveSeed, mm_bind (readSrc_ok hc hsrc i), mMod_apply]
  rfl

/-! ### Taken and complete -/

/-- A MOVE that a stream takes at once, whose work changes the cloves' and sequencers' stores alone. -/
theorem offerDesc_move_comp {k : Nat} {w : MM Unit} {f : ComputeSt → ComputeSt} (hclean : cleanMem s)
    (hs : startsNow i h (.move k b) s) (hk : ∀ q, dispatchMove i q h k b = thenComplete w i q)
    (hw : w (atWork i h (.move k b) s) = (.ok (), modComp (atWork i h (.move k b) s) f)) :
    tookOne i h (.move k b) .done s (offerDesc i h (.move k b) s)
      ∧ (offerDesc i h (.move k b) s).comp = f s.comp
      ∧ sameBut (.comp :: .streams :: settleParts) s (offerDesc i h (.move k b) s) := by
  have hwork := modComp_sameBut f (atWork i h (.move k b) s)
  obtain ⟨htook, hrest⟩ := offerDesc_move_ok hclean hs hk hw (holds_of_work hs hwork)
  refine ⟨htook, ?_, sameBut_of_work hwork hrest⟩
  rw [show (offerDesc i h (.move k b) s).comp = _ from hrest.part .comp (by decide), modComp_comp, comp_atWork]

theorem weight_congr (h : t.comp = s.comp) (w : Nat) : weight t w = weight s w := by
  unfold weight; rw [h]

theorem slotStat_congr (h : t.comp.slots = s.comp.slots) (n : Nat) : slotStat t n = slotStat s n := by
  unfold slotStat; rw [h]

section
variable (hclean : cleanMem s) (hs : startsNow i h (.move 6 b) s) (harg : b.arg0 ≤ 4095) (hhost : b.srcHost = false)
  (hend : b.src + 128 ≤ hbmEnd) (ha : access s b.src 128 = .ok)
include hclean hs harg hhost hend ha

/-- MOVE WEIGHT_TABLE of an ADAPTER that is too wide fails, and the entry stands. -/
theorem offerDesc_moveWeight_refused (hwide : adapterTooWide (wrecOf (bytesAt s.mem.data b.src 128)) = true) :
    (∃ x, (stream (offerDesc i h (.move 6 b) s) i).window = [x] ∧ x.life = .done ∧ x.status = stDescError)
      ∧ (offerDesc i h (.move 6 b) s).comp = s.comp ∧ (offerDesc i h (.move 6 b) s).mem = s.mem := by
  have hat := atWork_sameBut i h (.move 6 b) s
  have hmem : (atWork i h (.move 6 b) s).mem = s.mem := hat.part .mem (by decide)
  have hwork := moveWeight_refused (cleanMem_atWork hclean i h (.move 6 b)) harg hhost hend
    ((access_congr hmem (comp_atWork ..) ..).trans ha) (by rwa [hmem])
  have hkind : dispatchKind i (keyed i h (.move 6 b) s) (atWork i h (.move 6 b) s)
      = completeErr i (keyed i h (.move 6 b) s).seq .range 0x18 (atWork i h (.move 6 b) s) :=
    runDesc_desc (w := thenComplete (moveWeight b) i (keyed i h (.move 6 b) s).seq)
      (thenComplete_error hwork i _) i _
  obtain ⟨hfailed, hrest⟩ := (holds_atWork hs.1 h (.move 6 b)).completeErr Life.noConfusion .range 0x18
  have hoffer := offerDesc_startsNow hclean hs (takeChecks_ok hs.2.1 (.inl ⟨6, b, rfl⟩) _) (fun _ => Desc.noConfusion) hkind
    hfailed Desc.noConfusion
  have hall := sameBut_then (l := .streams :: .ring :: settleParts) (settle_sameBut s _) (by decide)
    (sameBut_then hrest (by decide) (sameBut_mono hat (by decide)))
  rw [hoffer]
  exact ⟨⟨_, (hfailed.congr (settle_streams s _)).window, rfl, rfl⟩, hall.part .comp (by decide), hall.part .mem (by decide)⟩

theorem offerDesc_moveWeight (hfits : adapterTooWide (wrecOf (bytesAt s.mem.data b.src 128)) = false) :
    tookOne i h (.move 6 b) .done s (offerDesc i h (.move 6 b) s)
      ∧ (offerDesc i h (.move 6 b) s).comp = (setWeight s b.arg0
          (registered b (wrecOf (bytesAt s.mem.data b.src 128)) (weight s b.arg0))).comp
      ∧ sameBut (.comp :: .streams :: settleParts) s (offerDesc i h (.move 6 b) s) := by
  have hmem : (atWork i h (.move 6 b) s).mem = s.mem := (atWork_sameBut i h (.move 6 b) s).part .mem (by decide)
  have hwork := moveWeight_ok (cleanMem_atWork hclean i h (.move 6 b)) harg hhost hend
    ((access_congr hmem (comp_atWork ..) ..).trans ha) (by rwa [hmem])
  rw [hmem, weight_congr (comp_atWork ..)] at hwork
  exact offerDesc_move_comp hclean hs (fun _ => rfl) hwork

end

def withKeySeed (v : Nat) (x : Stream) : Stream := { x with keySeed := v }

/-- MOVE KEYSEED: the stream keeps the seed for the descriptors that it dispatches next (R258). -/
theorem offerDesc_keyseed (hclean : cleanMem s) (hs : startsNow i h (.move 0x0A b) s) :
    tookOne i h (.move 0x0A b) .done s (offerDesc i h (.move 0x0A b) s)
      ∧ (stream (offerDesc i h (.move 0x0A b) s) i).keySeed = b.arg0 % 2 ^ 32 + 2 ^ 32 * (b.arg1 % 2 ^ 32)
      ∧ sameBut (.streams :: settleParts) s (offerDesc i h (.move 0x0A b) s) := by
  have hseeded : Holds i (keyed i h (.move 0x0A b) s) s (modStream (atWork i h (.move 0x0A b) s) i
      (withKeySeed (b.arg0 % 2 ^ 32 + 2 ^ 32 * (b.arg1 % 2 ^ 32)))) :=
    (holds_atWork hs.1 h _).modFields fun _ => ⟨rfl, rfl, rfl, rfl, rfl, rfl, rfl⟩
  rw [offerDesc_move_eq hclean hs (fun _ => rfl) (mMod_apply _ _) hseeded]
  obtain ⟨htook, hrest⟩ := took_complete hseeded moveFlags
  refine ⟨htook, ?_, ?_⟩
  · rw [stream_settle]
    simp [complete, modRec]
  · exact sameBut_then hrest (by decide) (sameBut_then (modStream_sameBut ..) (by decide)
      (sameBut_mono (atWork_sameBut ..) (by decide)))

/-- MOVE SEED. -/
theorem offerDesc_seed (hclean : cleanMem s) (hs : startsNow i h (.move 9 b) s) (hsrc : endOk s b.srcHost b.src 9728) :
    tookOne i h (.move 9 b) .done s (offerDesc i h (.move 9 b) s)
      ∧ (∀ p ∈ groupCloves s h.group, p < 1216 → clove (offerDesc i h (.move 9 b) s) p = { clove s p with
          seed := seedUsed (leNat (((endBytes s b.srcHost b.src 9728).drop (8 * p)).take 8)) })
      ∧ (∀ p, p ∉ groupCloves s h.group → clove (offerDesc i h (.move 9 b) s) p = clove s p)
      ∧ sameBut (.comp :: .streams :: .ring :: settleParts) s (offerDesc i h (.move 9 b) s) := by
  have hat := atWork_sameBut i h (.move 9 b) s
  have hw := moveSeed_ok (cleanMem_atWork hclean i h (.move 9 b)) ((endOk_congr hat).mpr hsrc) i h
  rw [endBytes_congr hat] at hw
  have hraised := reportPairs_sameBut (seedPairs (seeded h.group (endBytes s b.srcHost b.src 9728) (atWork i h (.move 9 b) s))
    (sortedCloves (atWork i h (.move 9 b) s) h.group))
    (seeded h.group (endBytes s b.srcHost b.src 9728) (atWork i h (.move 9 b) s))
  have hwork := sameBut_then (l := .comp :: eventParts) hraised (by decide) (sameBut_mono (seedCloves_sameBut ..) (by decide))
  obtain ⟨htook, hrest⟩ := offerDesc_move_ok hclean hs (fun _ => rfl) hw (holds_of_work hs hwork)
  have hclove (p : Nat) : clove (offerDesc i h (.move 9 b) s) p
      = clove (seeded h.group (endBytes s b.srcHost b.src 9728) (atWork i h (.move 9 b) s)) p := by
    rw [clove_congr (congrArg ComputeSt.cloves (hrest.part .comp (by decide))),
      clove_congr (congrArg ComputeSt.cloves (hraised.part .comp (by decide)))]
  have hbefore (p : Nat) : clove (atWork i h (.move 9 b) s) p = clove s p :=
    clove_congr (congrArg ComputeSt.cloves (comp_atWork ..)) p
  have hmem (p : Nat) : p ∈ sortedCloves (atWork i h (.move 9 b) s) h.group ↔ p ∈ groupCloves s h.group := by
    rw [mem_sortedCloves, groupCloves_congr (comp_atWork ..)]
  refine ⟨htook, fun p hp hlt => ?_, fun p hp => ?_, sameBut_of_work hwork hrest⟩
  · rw [hclove, seeded, clove_seedCloves_mem ((hmem p).mpr hp), hbefore, seedAt_eq hlt, withSeed]
  · rw [hclove, seeded, clove_seedCloves_other (mt (hmem p).mp hp), hbefore]

end

/-- Settles O25: each kind's work is one change of its table, slot, stream or cloves, and its completion. -/
theorem movesOfTables : Obligations.MovesOfTables := by
  unfold Obligations.MovesOfTables
  intro s i h b hclean
  refine ⟨fun hs hlo hhi hsrc => ?_, fun hs harg hhost hend ha => ⟨fun hwide => ?_, fun hfits => ?_⟩, fun hs harg => ?_,
    fun hs => ?_, fun hs hsrc => ?_⟩
  · have hat := atWork_sameBut i h (.move 5 b) s
    have hw := moveGroup_ok (cleanMem_atWork hclean i h (.move 5 b)) hlo hhi ((endOk_congr hat).mpr hsrc) i
    rw [endBytes_congr hat] at hw
    exact ⟨_, onUnit_stream hs.1 _, offerDesc_move_comp hclean hs (fun _ => rfl) hw⟩
  · obtain ⟨⟨x, hwin, hdone, hst⟩, hcomp, hmem⟩ := offerDesc_moveWeight_refused hclean hs harg hhost hend ha hwide
    exact ⟨_, x, onUnit_stream hs.1 _, hwin, hdone, hst, hcomp, hmem⟩
  · obtain ⟨htook, hcomp, hrest⟩ := offerDesc_moveWeight hclean hs harg hhost hend ha hfits
    refine ⟨_, onUnit_stream hs.1 _, htook, ?_, fun w hw => ?_, hrest⟩
    · rw [weight_congr hcomp, weight_setWeight, registered]
    · rw [weight_congr hcomp, weight_setWeight_other _ _ hw]
  · have hw := moveStatSlot_ok harg (atWork i h (.move 7 b) s)
    rw [slotStat_congr (congrArg ComputeSt.slots (comp_atWork ..))] at hw
    obtain ⟨htook, hcomp, hrest⟩ := offerDesc_move_comp hclean hs (fun _ => rfl) hw
    have hslots (k : Nat) : slotStat _ k = slotStat (setSlotStat s b.arg0 _) k :=
      slotStat_congr (congrArg ComputeSt.slots hcomp) k
    refine ⟨_, onUnit_stream hs.1 _, htook, ?_, fun k hk => ?_, hrest⟩
    · rw [hslots, slotStat_setSlotStat]
    · rw [hslots, slotStat_setSlotStat_other _ _ hk]
  · exact ⟨_, onUnit_stream hs.1 _, offerDesc_keyseed hclean hs⟩
  · exact ⟨_, onUnit_stream hs.1 _, offerDesc_seed hclean hs hsrc⟩

end Sys2Proof.Machine
end

section
/-! SCALE_COMMIT (R113, R114): the records that it writes, and the slots that it stages. -/

namespace Sys2Proof.Machine

/-! ### Records one after another -/

section
variable {f : Nat → List Byte} {w : Nat}

theorem length_flatMap_range (hf : ∀ k, (f k).length = w) (n : Nat) : ((List.range n).flatMap f).length = w * n := by
  simp [List.length_flatMap, hf, Nat.mul_comm]

/-- Byte `j` of the `k`-th of lists of `w` bytes. -/
theorem getD_flatMap_range (hf : ∀ k, (f k).length = w) {n k j : Nat} (hk : k < n) (hj : j < w) :
    ((List.range n).flatMap f).getD (w * k + j) 0#8 = (f k).getD j 0#8 := by
  induction n with
  | zero => omega
  | succ n ih =>
    have hlen := length_flatMap_range hf n
    rw [List.range_succ, List.flatMap_append, List.flatMap_singleton]
    by_cases hlt : k < n
    · have hin : w * k + j < w * n := by nlinarith
      rw [List.getD_append _ _ _ _ (by omega), ih hlt]
    · have hkn : k = n := by omega
      subst hkn
      rw [List.getD_append_right _ _ _ _ (by omega), hlen, Nat.add_sub_cancel_left]

theorem eq_of_getD {a b : List Byte} (hlen : a.length = b.length) (h : ∀ j, j < b.length → a.getD j 0#8 = b.getD j 0#8) :
    a = b := by
  refine List.ext_getElem hlen fun j ha hb => ?_
  rw [← List.getD_eq_getElem _ 0#8 ha, ← List.getD_eq_getElem _ 0#8 hb, h j hb]

/-- Each of the lists put one after another from `a` on reads as it was put. -/
theorem bytesAt_putBytes_flatMap (hf : ∀ k, (f k).length = w) (m : List Host.Cell) (a : Nat) {n k : Nat} (hk : k < n) :
    bytesAt (putBytes m a ((List.range n).flatMap f)) (a + w * k) w = f k := by
  refine eq_of_getD (by rw [length_bytesAt, hf]) fun j hj => ?_
  rw [hf] at hj
  have hin : w * k + j < ((List.range n).flatMap f).length := by
    rw [length_flatMap_range hf]
    nlinarith
  rw [getD_bytesAt _ _ _ hj, Nat.add_assoc, byteAt_putBytes_inside _ _ _ _ hin, getD_flatMap_range hf hk hj]

end

section
variable {s t : State}

/-! ### Slots -/

@[simp] theorem length_recordBytes (slot fmt base prop : Nat) (valid : Bool) (st : Stats) :
    (recordBytes slot fmt base prop valid st).length = 320 := by
  simp [recordBytes, List.length_flatMap]

theorem length_slotRecord (s : State) (headroom n : Nat) : (slotRecord s headroom n).1.length = 320 :=
  length_recordBytes ..

theorem slotRecord_congr (hcomp : t.comp = s.comp) (hfree : t.free = s.free) (headroom n : Nat) :
    slotRecord t headroom n = slotRecord s headroom n := by
  cases s; cases t; subst hcomp hfree; rfl

/-- A slot whose proposal is staged, and whose interval ends (R113, R114). -/
def stagedSlot (prop : Option Nat) (x : SlotStat) : SlotStat :=
  { x with
    staged := prop.getD x.staged, stagedValid := x.stagedValid || prop.isSome, outFmt := 0, histBase := 0
    bound := false, missSeen := false }

theorem slotStat_stageSlot (n : Nat) (prop : Option Nat) (s : State) (k : Nat) :
    slotStat (stageSlot n prop s) k = if k = n then stagedSlot prop (slotStat s n) else slotStat s k := by
  change slotStat (setSlotStat s n (stagedSlot prop (slotStat s n))) k = _
  split
  next h => rw [h, slotStat_setSlotStat]
  next h => exact slotStat_setSlotStat_other s _ h

theorem partialRec_stageSlot {n : Nat} (hn : n < 4096) (m : Nat) (prop : Option Nat) (s : State) (j : Nat) :
    partialRec (stageSlot m prop s) j n = if n = m then Stats.empty else partialRec s j n := by
  change sget Stats.empty (s.comp.partials.filter (fun p => decide (p.1 % 4096 ≠ m))) (4096 * j + n) = _
  have hslot : (4096 * j + n) % 4096 = n := by omega
  rw [sget, find_filter_key (fun k => decide (k % 4096 ≠ m)), hslot]
  by_cases hm : n = m <;> simp [hm, partialRec, sget]

theorem stageSlot_sameBut (n : Nat) (prop : Option Nat) (s : State) : sameBut [.comp] s (stageSlot n prop s) :=
  sameBut_trans (modComp_sameBut _ s) (modComp_sameBut _ _)

/-- The slots listed are staged, one after another. -/
def stageSlots (prop : Nat → Option Nat) (l : List Nat) (s : State) : State :=
  l.foldl (fun u n => stageSlot n (prop n) u) s

section
variable (prop : Nat → Option Nat) (l : List Nat) (s : State)

theorem stageSlots_sameBut : sameBut [.comp] s (stageSlots prop l s) :=
  sameBut_foldl (fun _ _ => stageSlot_sameBut ..) l s

theorem slotStat_stageSlots (k : Nat) :
    slotStat (stageSlots prop l s) k = (stagedSlot (prop k))^[l.count k] (slotStat s k) :=
  read_foldl (read := slotStat) (g := fun n => stagedSlot (prop n)) (fun _ _ _ => slotStat_stageSlot ..) l s k

theorem partialRec_stageSlots {n : Nat} (hn : n < 4096) (j : Nat) :
    partialRec (stageSlots prop l s) j n = if n ∈ l then Stats.empty else partialRec s j n := by
  induction l generalizing s with
  | nil => simp [stageSlots]
  | cons m l ih =>
    change partialRec (stageSlots prop l (stageSlot m (prop m) s)) j n = _
    rw [ih, partialRec_stageSlot hn]
    by_cases hm : n = m <;> by_cases hl : n ∈ l <;> simp [hm, hl]

end

/-! ### The work -/

/-- The slots of a SCALE_COMMIT. -/
def commitSlots (b : ScaleCommitBody) : List Nat := (List.range b.count).map (b.first + ·)

theorem mem_commitSlots {b : ScaleCommitBody} {n : Nat} : n ∈ commitSlots b ↔ b.first ≤ n ∧ n < b.first + b.count := by
  simp only [commitSlots, List.mem_map, List.mem_range]
  exact ⟨fun ⟨k, hk, h⟩ => by omega, fun h => ⟨n - b.first, by omega, by omega⟩⟩

theorem count_commitSlots {b : ScaleCommitBody} {n : Nat} (h : n ∈ commitSlots b) : (commitSlots b).count n = 1 :=
  List.count_eq_one_of_mem (List.nodup_range.map fun _ _ => Nat.add_left_cancel) h

/-- The state in which the records of `s` are written to `u` and its proposals staged there. -/
def scaleCommitted (b : ScaleCommitBody) (s u : State) : State :=
  stageSlots (fun n => (slotRecord s b.headroom n).2) (commitSlots b) { u with free := u.free + 4096 }

theorem dispatchScaleCommit_ok {b : ScaleCommitBody} (hc : cleanMem s) (hpos : 0 < b.count) (hslots : b.first + b.count ≤ 4096)
    (hend : b.dst + 320 * b.count ≤ hbmEnd) (ha : access s b.dst (320 * b.count) = .ok) (i q : Nat) :
    ∃ u, dispatchScaleCommit i q b s = (.ok (), completeOK i q (scaleCommitted b s u))
      ∧ Puts s u false b.dst ((List.range b.count).flatMap fun k => (slotRecord s b.headroom (b.first + k)).1) := by
  have hcount : (decide (b.count = 0) || decide (4096 < b.first + b.count)) = false := by simp; omega
  have hfits : decide (hbmEnd < b.dst + 320 * b.count) = false := decide_eq_false (by omega)
  have hlen := length_flatMap_range (fun k => length_slotRecord s b.headroom (b.first + k)) b.count
  obtain ⟨u, hw, hu⟩ := mWrite_puts hc (by rwa [hlen]) (reqSeq (seqTile s 0))
  refine ⟨u, ?_, hu⟩
  simp only [dispatchScaleCommit, hcount, hfits, mm_bind (mGuard_false _ _ s), mm_bind (mGet_apply s),
    mm_bind (mReq_apply s), List.flatMap_map, mm_bind hw, mMod_apply, List.foldl_map, scaleCommitted, stageSlots, commitSlots]

/-! ### Taken and complete -/

/-- A SCALE_COMMIT has only its position checked at the take. -/
theorem takeChecks_scaleCommit {i : Nat} {r : Rec} {b : ScaleCommitBody} (hpos : r.hdr.pos < 2 ^ 20)
    (hd : r.desc = .scaleCommit b) (after : Bool) (s : State) : takeChecks i r after s = (.ok (), s) := by
  have hnear : decide (2 ^ 20 ≤ r.hdr.pos) = false := decide_eq_false (Nat.not_le.mpr hpos)
  simp only [takeChecks, hd, hnear, mm_bind (mGuard_false _ _ s), mm_pure]

/-- What a SCALE_COMMIT leaves of the slots and of module memory. -/
structure ScaleCommitted (b : ScaleCommitBody) (s t : State) : Prop where
  record : ∀ k, k < b.count → bytesAt t.mem.data (b.dst + 320 * k) 320 = (slotRecord s b.headroom (b.first + k)).1
  slots : ∀ n, slotStat t n = if n ∈ commitSlots b
    then stagedSlot (slotRecord s b.headroom n).2 (slotStat s n) else slotStat s n
  partials : ∀ n, n < 4096 → n ∈ commitSlots b → ∀ j, partialRec t j n = Stats.empty
  bytes : ∀ a, a < b.dst ∨ b.dst + 320 * b.count ≤ a → byteAt t.mem.data a = byteAt s.mem.data a

theorem offerDesc_scaleCommit {i : Nat} {h : Header} {b : ScaleCommitBody} (hclean : cleanMem s)
    (hs : startsNow i h (.scaleCommit b) s) (hpos : 0 < b.count) (hslots : b.first + b.count ≤ 4096)
    (hend : b.dst + 320 * b.count ≤ hbmEnd) (ha : access s b.dst (320 * b.count) = .ok) :
    tookOne i h (.scaleCommit b) .done s (offerDesc i h (.scaleCommit b) s)
      ∧ ScaleCommitted b s (offerDesc i h (.scaleCommit b) s)
      ∧ sameBut (.mem :: .comp :: .streams :: .free :: settleParts) s (offerDesc i h (.scaleCommit b) s) := by
  have hat := atWork_sameBut i h (.scaleCommit b) s
  have hmem : (atWork i h (.scaleCommit b) s).mem = s.mem := hat.part .mem (by decide)
  have hcomp := comp_atWork i h (.scaleCommit b) s
  obtain ⟨u, hw, hu⟩ := dispatchScaleCommit_ok (cleanMem_atWork hclean i h (.scaleCommit b)) hpos hslots hend
    ((access_congr hmem hcomp ..).trans ha) i (keyed i h (.scaleCommit b) s).seq
  have hrec := slotRecord_congr hcomp (hat.part .free (by decide)) b.headroom
  simp only [scaleCommitted, hrec] at hw hu
  have hfree : sameBut [.free] u { u with free := u.free + 4096 } :=
    ⟨rfl, fun p hp => by cases p <;> simp_all [Part.same]⟩
  have hstage := stageSlots_sameBut (fun n => (slotRecord s b.headroom n).2) (commitSlots b) { u with free := u.free + 4096 }
  have hstaged := slotStat_stageSlots (fun n => (slotRecord s b.headroom n).2) (commitSlots b) { u with free := u.free + 4096 }
  have hpartials := fun n (hn : n < 4096) =>
    partialRec_stageSlots (fun n => (slotRecord s b.headroom n).2) (commitSlots b) { u with free := u.free + 4096 } hn
  generalize stageSlots _ _ _ = t at hw hstage hstaged hpartials
  have hwork : sameBut [.mem, .hostMem, .counters, .free, .comp] (atWork i h (.scaleCommit b) s) t :=
    sameBut_then hstage (by decide) (sameBut_then hfree (by decide) (sameBut_mono hu.rest (by decide)))
  have ht := (holds_atWork hs.1 h (.scaleCommit b)).congr (hwork.part .streams (by decide))
  rw [offerDesc_completes hclean hs (takeChecks_scaleCommit hs.2.1 rfl _) (fun _ => Desc.noConfusion) Desc.noConfusion ht
    (runDesc_ok hw i _)]
  obtain ⟨htook, hrest⟩ := took_complete ht CFlags.none
  refine ⟨htook, ?_, sameBut_of_work hwork hrest⟩
  generalize settle s _ = z at hrest
  have hz : z.comp = t.comp := hrest.part .comp (by decide)
  have hdata : z.mem.data = putBytes s.mem.data b.dst
      ((List.range b.count).flatMap fun k => (slotRecord s b.headroom (b.first + k)).1) := by
    rw [show z.mem = t.mem from hrest.part .mem (by decide), show t.mem = u.mem from hstage.part .mem (by decide), hu.data,
      hmem]
    rfl
  have hslot (n : Nat) : slotStat u n = slotStat s n :=
    slotStat_congr (congrArg ComputeSt.slots ((hu.rest.part .comp (by decide)).trans hcomp)) n
  refine ⟨fun k hk => ?_, fun n => ?_, fun n hn hin j => ?_, fun a hout => ?_⟩
  · rw [hdata, bytesAt_putBytes_flatMap (fun _ => length_slotRecord ..) _ _ hk]
  · rw [slotStat_congr (congrArg ComputeSt.slots hz), hstaged, ← hslot]
    split
    next hin => rw [count_commitSlots hin]; rfl
    next hout => rw [List.count_eq_zero_of_not_mem hout]; rfl
  · rw [partialRec, hz]
    exact (hpartials n hn j).trans (if_pos hin)
  · rw [hdata, byteAt_putBytes_outside]
    rwa [length_flatMap_range fun _ => length_slotRecord ..]

end

end Sys2Proof.Machine
end

section
/-! STEP_COMMIT as it is taken: what it issues, and the vote bucket that it opens (R176, R186, R188, R309). -/

namespace Sys2Proof.Machine

section
variable {s t u v : State} {i : Nat} {h : Header} {d : Desc} {r x : Rec}

/-! ### A take that changes other parts than the streams -/

/-- What the work of a descriptor starts from where its take has left `v`. -/
def atWorkIn (i : Nat) (h : Header) (d : Desc) (s v : State) : State :=
  modRec i (taken i h d s).seq (fun x => { x with key := (stream s i).keySeed }) v

theorem holds_atWorkIn (hv : Holds i (taken i h d s) s v) : Holds i (keyed i h d s) s (atWorkIn i h d s v) :=
  hv.modRec (f := fun x => { x with key := (stream s i).keySeed }) rfl

theorem atWorkIn_sameBut (i : Nat) (h : Header) (d : Desc) (s v : State) : sameBut [.streams] v (atWorkIn i h d s v) :=
  modRec_sameBut ..

/-- A descriptor whose take passes and leaves `v`: it is dispatched there at once (R193, R195). -/
theorem offerDesc_taken (hc : clearStream s i)
    (htake : takeChecks i (taken i h d s) (stream s i).afterBarrier0 (pushRec i (taken i h d s) s) = (.ok (), v))
    (hv : v.host.streams = (pushRec i (taken i h d s) s).host.streams) (hcall : ∀ b, d ≠ .call b)
    (hk : kindReady v i (taken i h d s) = true) (hf : v.mem.faults = []) (hg : usesGroup d = false) (hn : namesSlot d = false)
    (hkind : dispatchKind i (keyed i h d s) (atWorkIn i h d s v) = t) (ht : Holds i x s t) (hx : x.desc ≠ .barrier) :
    offerDesc i h d s = settle s t := by
  have hp : Holds i (taken i h d s) s v := (holds_pushRec hc h d).congr hv
  have hkey : modRec i (taken i h d s).seq (fun x => { x with key := (stream v i).keySeed }) v = atWorkIn i h d s v := by
    rw [atWorkIn, stream_congr hv]
    simp [pushRec]
  have hchk : dispatchChecks i (taken i h d s) (atWorkIn i h d s v) = (.ok (), atWorkIn i h d s v) :=
    dispatchChecks_ok hf hg hn
  have hrec : dispatchRec i (taken i h d s) v = t := by
    simp only [dispatchRec, hkey, hchk]
    rw [show (taken i h d s).seq = (keyed i h d s).seq from rfl, (holds_atWorkIn hp).findRec]
    exact hkind
  have hnext : dispatchNext i v = t := by
    simp only [dispatchNext, hp.nextHeld rfl hk, hrec, ht.popFrames, ht.noteHead hx]
  have htaken : takeDesc i false none h d s = t := by
    have hrun := runDesc_ok htake i (taken i h d s).seq
    unfold taken at hrun hnext
    simp only [takeDesc, hrun]
    split
    · exact absurd rfl (hcall _)
    · exact hnext
  rw [offerDesc, if_pos hc.2.1, htaken]

/-- A record that is complete is not dispatched. -/
theorem nextHeld_none (hu : Holds i r s u) (hl : r.life ≠ .held) : nextHeld u i = none := by
  simp [nextHeld, hu.window, mayDispatch, hl]

/-- A descriptor whose take fails is complete with that error, and nothing is dispatched. -/
theorem offerDesc_takeFails {e : Detail} {off : Nat} (hc : clearStream s i)
    (htake : takeChecks i (taken i h d s) (stream s i).afterBarrier0 (pushRec i (taken i h d s) s)
      = (.error (.desc e off), v))
    (hv : v.host.streams = (pushRec i (taken i h d s) s).host.streams) (hcall : ∀ b, d ≠ .call b) (hbar : d ≠ .barrier) :
    offerDesc i h d s = settle s (completeErr i (taken i h d s).seq e off v)
      ∧ Holds i (completed stDescError (detailCode e) off CFlags.none (taken i h d s)) s
          (completeErr i (taken i h d s).seq e off v)
      ∧ sameBut (.streams :: eventParts) v (completeErr i (taken i h d s).seq e off v) := by
  obtain ⟨hfailed, hrest⟩ := ((holds_pushRec hc h d).congr hv).completeErr Life.noConfusion e off
  refine ⟨?_, hfailed, hrest⟩
  have hnext : dispatchNext i (completeErr i (taken i h d s).seq e off v) = completeErr i (taken i h d s).seq e off v := by
    simp only [dispatchNext, nextHeld_none hfailed Life.noConfusion, hfailed.popFrames, hfailed.noteHead hbar]
  have htaken : takeDesc i false none h d s = completeErr i (taken i h d s).seq e off v := by
    have hrun := runDesc_desc htake i (taken i h d s).seq
    unfold taken at hrun hnext ⊢
    simp only [takeDesc, hrun]
    split
    · exact absurd rfl (hcall _)
    · exact hnext
  rw [offerDesc, if_pos hc.2.1, htaken]

/-! ### Issued -/

theorem modStep_sameBut (f : StepSt → StepSt) (s : State) : sameBut [.stepGuard] s (modStep s f) :=
  ⟨rfl, fun p hp => by cases p <;> simp_all [Part.same]⟩

theorem modLink_sameBut (f : LinkSt → LinkSt) (s : State) : sameBut [.link] s (modLink s f) :=
  ⟨rfl, fun p hp => by cases p <;> simp_all [Part.same]⟩

theorem bucket_congr (h : t.link = s.link) (b : Nat) : bucket t b = bucket s b := by
  unfold bucket; rw [h]

theorem setBucket_sameBut (b : Nat) (x : Bucket) (s : State) : sameBut [.link] s (setBucket s b x) := modLink_sameBut _ s

theorem pruneCommits_sameBut (s : State) : sameBut [.stepGuard] s (pruneCommits s) := modStep_sameBut _ s

/-- The STEP_COMMIT that a record issues (R176). -/
def issuedCommit (s : State) (i : Nat) (r : Rec) (valid : Bool) (b : StepCommitBody) : Commit :=
  ⟨s.step.issued + 1, i, r.seq, r.step, b.vote, false, false, !valid, false⟩

/-- A STEP_COMMIT that is issued advances the count, and the tag where it is valid; flags and first setters stand. -/
theorem issueCommit_step (i : Nat) (r : Rec) (valid : Bool) (b : StepCommitBody) (s : State) :
    ∃ l, (issueCommit i r valid b s).step = { s.step with
      issued := s.step.issued + 1, tag := if valid then s.step.tag + 1 else s.step.tag, commits := l } := by
  cases valid <;> exact ⟨_, rfl⟩

theorem issueCommit_valid_sameBut (i : Nat) (r : Rec) (b : StepCommitBody) (s : State) :
    sameBut [.comp, .stepGuard] s (issueCommit i r true b s) :=
  sameBut_then (pruneCommits_sameBut _) (by decide) (sameBut_then (modComp_sameBut ..) (by decide)
    (sameBut_mono (modStep_sameBut ..) (by decide)))

theorem issueCommit_invalid_sameBut (i : Nat) (r : Rec) (b : StepCommitBody) (s : State) :
    sameBut [.stepGuard] s (issueCommit i r false b s) :=
  sameBut_trans (modStep_sameBut ..) (pruneCommits_sameBut _)

/-- Of the stream's STEP_COMMITs with that number the one just issued alone is unfinished. -/
theorem commitAt_issueCommit {b : StepCommitBody} (hnone : commitAt s i r.seq = none) :
    commitAt (issueCommit i r true b s) i r.seq = some (issuedCommit s i r true b) := by
  have hearlier (c : Commit) (hc : c ∈ s.step.commits) : (c.stream == i && c.seq == r.seq && !c.finished) = false := by
    simpa using List.find?_eq_none.mp hnone c hc
  simp only [commitAt, issueCommit, pruneCommits, if_true, modStep_step, modComp_step, List.find?_filter, List.find?_append]
  rw [List.find?_eq_none.mpr fun c hc => by simp [hearlier c hc]]
  simp [issuedCommit]

/-! ### The plan -/

/-- Work that reads answers the same from both states, and changes neither. -/
def Reads {α : Type} (w : MM α) (s t : State) : Prop := ∃ x, w s = (x, s) ∧ w t = (x, t)

namespace Reads
variable {α β : Type}

theorem pure {a : α} : Reads (pure a) s t := ⟨_, rfl, rfl⟩

theorem mFail {d : Detail} {off : Nat} : Reads (mFail d off : MM α) s t := ⟨_, rfl, rfl⟩

theorem ite {c : Prop} [Decidable c] {w w' : MM α} (hw : Reads w s t) (hw' : Reads w' s t) :
    Reads (if c then w else w') s t := by
  split
  · exact hw
  · exact hw'

theorem mGuard {bad : Bool} {d : Detail} {off : Nat} : Reads (mGuard bad d off) s t := .ite .mFail .pure

theorem bind {w : MM α} {f : α → MM β} (hw : Reads w s t) (hf : ∀ a, Reads (f a) s t) : Reads (w >>= f) s t := by
  obtain ⟨x, hs, ht⟩ := hw
  cases x with
  | ok a =>
    obtain ⟨y, hs', ht'⟩ := hf a
    exact ⟨y, (mm_bind hs f).trans hs', (mm_bind ht f).trans ht'⟩
  | error e => exact ⟨.error e, mm_bind_error hs f, mm_bind_error ht f⟩

end Reads

/-- What a range of addresses is depends on memory, on where the cloves sit and on the tiles in service alone. -/
theorem access_of_cloves (hm : t.mem = s.mem) (hc : t.comp.cloves = s.comp.cloves) (ho : t.comp.tileOut = s.comp.tileOut)
    (a n : Nat) : access t a n = access s a n := by
  obtain ⟨_, _, _, _, _, _, _, ⟨_, _, _, _, _, _, _, _, _, _, _⟩, _, _, _, _, _, _, _⟩ := s
  obtain ⟨_, _, _, _, _, _, _, ⟨_, _, _, _, _, _, _, _, _, _, _⟩, _, _, _, _, _, _, _⟩ := t
  dsimp only at hm hc ho
  subst hm hc ho
  rfl

section
variable (hclean : cleanMem s) (hm : t.mem = s.mem) (hc : t.comp.cloves = s.comp.cloves)
  (ho : t.comp.tileOut = s.comp.tileOut)
include hclean hm hc ho

theorem reads_mRead (a n req : Nat) : Reads (mRead a n req) s t := by
  have hclean' := cleanMem_congr hm hclean
  simp only [Reads, mRead, readMem, access_of_cloves hm hc ho, checkRead_clean hclean, checkRead_clean hclean',
    readBad_clean hclean, readBad_clean hclean', memBytes_clean hclean, memBytes_clean hclean', hm]
  cases access s a n <;> exact ⟨_, rfl, rfl⟩

/-- A plan reads alike where memory and the held registers are the same. -/
theorem reads_readPlan (hr : t.reg.held = s.reg.held) (kinds : List Nat) (n off : Nat) : Reads (readPlan kinds n off) s t := by
  have haddr : planAddr t n = planAddr s n := by simp only [planAddr, reg8, reg4_congr hr]
  have hbytes : Reads (readPlanBytes n off) s t := by
    refine .bind .mGuard fun _ => ?_
    obtain ⟨x, hs, ht⟩ := reads_mRead hclean hm hc ho (planAddr s n) 128 (reqLink 0)
    exact ⟨x, (mm_bind (mGet_apply s) _).trans hs, (mm_bind (mGet_apply t) _).trans (haddr ▸ ht)⟩
  exact .bind hbytes fun _ => .bind .mGuard fun _ => .ite .pure (.bind .mGuard fun _ => .pure)

end

/-! ### The vote bucket -/

/-- None of the trees of a bucket has passed its deadline. -/
def unfired (x : Bucket) : Prop := ∀ k, (treeOf x k).fired = false

/-- A contribution of words that are not converted by an exponent joins an open bucket whose exponent is known: as it is. -/
theorem joinLocal_vote {b : Nat} {l : LocalIn} {e : Int} (hop : (bucket s b).op = 2) (he : (bucket s b).e = some e)
    (hfired : unfired (bucket s b)) (hl : l.words = [] ∧ l.clips = [] ∧ l.flushes = []) :
    ∃ k, k.raw = l.raw ∧ k.nonfinite = l.nonfinite
      ∧ joinLocal b l s = setBucket s b { bucket s b with locals := (bucket s b).locals ++ [k] } := by
  obtain ⟨hwords, hclips, hflushes⟩ := hl
  refine ⟨{ l with missed := [], words := l.raw.map (fun w => (w : Int)) }, rfl, rfl, ?_⟩
  have hfired (k : Nat) : (treeOf (bucket s b) k).fired = false := hfired k
  simp [joinLocal, hfired, hop, he, convertLocal, hwords, hclips, hflushes, countClips]

/-- The bucket that a contribution to a vote opens, without the contribution. -/
def openedVote (o : Offer) : Bucket :=
  { Bucket.empty with
    state := .waitArm, planNo := o.planNo, plan := o.plan, op := o.op, word := o.word, elements := o.elements
    use := o.use, twoPhase := false, e := some 0, deadline := o.deadline, tag := o.tag
    trees := (List.range o.plan.trees).map (fun t =>
      { TreeIn.none with inputs := (childPorts o.plan t).map ChildIn.none }) }

theorem unfired_openedVote (o : Offer) : unfired (openedVote o) := by
  intro k
  simp only [treeOf, openedVote, List.getD_eq_getElem?_getD, List.getElem?_map]
  cases (List.range o.plan.trees)[k]? <;> rfl

/-- A contribution to a vote whose bucket is FREE opens it (R297, R309). -/
theorem offer_vote {o : Offer} (hfree : (bucket s o.bucket).state = .free) (hop : o.op = 2) (huse : o.use = .vote)
    (hl : o.loc.words = [] ∧ o.loc.clips = [] ∧ o.loc.flushes = []) : ∃ k, k.raw = o.loc.raw ∧ k.nonfinite = o.loc.nonfinite
      ∧ bucket (offer o s) o.bucket = { openedVote o with locals := [k] } ∧ sameBut [.link] s (offer o s) := by
  have hopen : offer o s = joinLocal o.bucket o.loc (setBucket s o.bucket (openedVote o)) := by
    simp [offer, hfree, openBucket, huse, entryExp, hop, openedVote]
  have hb := bucket_setBucket s o.bucket (openedVote o)
  obtain ⟨k, hraw, hnonfinite, hjoin⟩ := joinLocal_vote (s := setBucket s o.bucket (openedVote o)) (b := o.bucket) (l := o.loc)
    (e := 0) (by rw [hb]; exact hop) (by rw [hb]; rfl) (by rw [hb]; exact unfired_openedVote o) hl
  refine ⟨k, hraw, hnonfinite, ?_, ?_⟩
  · rw [hopen, hjoin, bucket_setBucket, hb]
    rfl
  · rw [hopen, hjoin]
    exact sameBut_trans (setBucket_sameBut ..) (setBucket_sameBut ..)

/-- A bucket that waits to arm goes no further. -/
theorem moveBucket_waitArm {b : Nat} (hb : (bucket s b).state = .waitArm) : moveBucket b s = s := by
  have hdone : resultDone (bucket s b) = false := by simp [resultDone, hb]
  simp [moveBucket, settleBucket, pump, hb, hdone]

/-! ### The contribution -/

theorem modCommit_sameBut (no : Nat) (f : Commit → Commit) (s : State) : sameBut [.stepGuard] s (modCommit no f s) :=
  modStep_sameBut _ s

/-- Commit `c`, among those of `s`, as `modCommit` leaves it. -/
theorem mem_modCommit {c : Commit} {no : Nat} (hc : c ∈ s.step.commits) (hno : c.no = no) (f : Commit → Commit) :
    f c ∈ (modCommit no f s).step.commits :=
  List.mem_map.mpr ⟨c, hc, if_pos hno⟩

/-- What the contribution of STEP_COMMIT `c` leaves: its record runs, it has contributed, and its vote bucket is open with
one element. -/
structure Contributed (i q : Nat) (b : StepCommitBody) (p : Plan) (bad : Bool) (c : Commit) (s t : State) : Prop where
  streams : t.host.streams = (modRec i q (fun x => { x with life := .running }) s).host.streams
  step : ∃ l, t.step = { s.step with commits := l } ∧ { c with contributed := true } ∈ l
  vote : ∃ o k, bucket t b.vote = { openedVote o with locals := [k] } ∧ o.use = .vote ∧ o.op = 2 ∧ o.elements = 1
    ∧ o.plan = p ∧ k.raw = [b2n bad] ∧ k.nonfinite = bad
  rest : sameBut [.streams, .stepGuard, .link] s t

theorem dispatchStepCommit_ok {b : StepCommitBody} {p : Plan} {c : Commit} {q : Nat}
    (hplan : readPlan [0] b.plan 0x14 s = (.ok p, s)) (hfree : (bucket s b.vote).state = .free) (hc : commitAt s i q = some c) :
    ∃ t, dispatchStepCommit i q r b s = (.ok (), t) ∧ Contributed i q b p (stepFlag s r.step || b.veto) c s t := by
  let u := modRec i q (fun x => { x with life := .running }) s
  let w := modCommit c.no (fun k => { k with contributed := true }) u
  let o : Offer :=
    { bucket := b.vote, planNo := b.plan, plan := p, op := 2, word := false, elements := 1, use := .vote
      deadline := if b.deadlineEn then some ⟨b.deadline, b.deadlineFrac⟩ else none, tag := r.step
      loc := { (default : LocalIn) with
        stream := i, seq := q, tag := r.step, layer := r.hdr.layer, tensor := r.hdr.tensorId
        raw := [b2n (stepFlag s r.step || b.veto)], nonfinite := stepFlag s r.step || b.veto, first := voteRecord s r b } }
  have hat : commitAt u i q = some c := hc
  obtain ⟨k, hraw, hnonfinite, hbucket, hrest⟩ := offer_vote (s := w) (o := o) hfree rfl rfl ⟨rfl, rfl, rfl⟩
  have hmove : moveBucket b.vote (offer o w) = offer o w :=
    moveBucket_waitArm (by rw [show b.vote = o.bucket from rfl, hbucket]; rfl)
  refine ⟨offer o w, ?_, ?_⟩
  · simp only [dispatchStepCommit, mm_bind hplan, mMod_apply]
    rw [show commitAt (modRec i q (fun x => { x with life := .running }) s) i q = some c from hc]
    exact congrArg (Prod.mk _) hmove
  · have hstep : (offer o w).step = w.step := hrest.part .stepGuard (by decide)
    refine ⟨hrest.part .streams (by decide), ⟨w.step.commits, hstep, ?_⟩, ⟨o, k, hbucket, rfl, rfl, rfl, rfl, hraw, hnonfinite⟩,
      ?_⟩
    · exact mem_modCommit (s := u) (List.mem_of_find?_eq_some hc) rfl _
    · exact sameBut_then hrest (by decide) (sameBut_then (modCommit_sameBut ..) (by decide)
        (sameBut_mono (modRec_sameBut ..) (by decide)))

end

end Sys2Proof.Machine
end

section
/-! The two outcomes of a STEP_COMMIT's take (R186, R188): it opens its vote, or fails with detail ORDER. -/

namespace Sys2Proof.Machine

section
variable {s t : State} {i : Nat} {h : Header} {b : StepCommitBody} {r : Rec}

theorem allRecs_congr (h : t.host.streams = s.host.streams) : allRecs t = allRecs s := by simp only [allRecs, h]

theorem kindReady_stepCommit_congr (hd : r.desc = .stepCommit b) (hstreams : t.host.streams = s.host.streams) :
    kindReady t i r = kindReady s i r := by
  simp only [kindReady, hd, stepDone, allRecs_congr hstreams]

/-- A STEP_COMMIT is issued before its place is checked (R176). -/
theorem takeChecks_stepCommit (hpos : r.hdr.pos < 2 ^ 20) (hd : r.desc = .stepCommit b) (after : Bool) (s : State) :
    takeChecks i r after s = mGuard (!after) .order 0 (issueCommit i r after b s) := by
  have hnear : decide (2 ^ 20 ≤ r.hdr.pos) = false := decide_eq_false (Nat.not_le.mpr hpos)
  simp only [takeChecks, hd, hnear, Bool.not_false, Bool.and_true, mm_bind (mMod_apply _ s), mm_bind (mGuard_false ..)]

/-! ### Right after a BARRIER of group 0 -/

/-- The state in which a valid STEP_COMMIT has been issued. -/
def stepIssued (i : Nat) (h : Header) (b : StepCommitBody) (s : State) : State :=
  issueCommit i (taken i h (.stepCommit b) s) true b (pushRec i (taken i h (.stepCommit b) s) s)

/-- The STEP_COMMIT that it has issued there. -/
def newCommit (i : Nat) (b : StepCommitBody) (s : State) : Commit :=
  ⟨s.step.issued + 1, i, (stream s i).seqNext, s.step.tag, b.vote, false, false, false, false⟩

/-- The state `w` from which a STEP_COMMIT that `s` has taken contributes. -/
structure Issued (i : Nat) (h : Header) (b : StepCommitBody) (s w : State) : Prop where
  holds : Holds i (keyed i h (.stepCommit b) s) s w
  commit : commitAt w i (stream s i).seqNext = some (newCommit i b s)
  step : ∃ l, w.step = { s.step with issued := s.step.issued + 1, tag := s.step.tag + 1, commits := l }
  comp : w.comp = { s.comp with spillSeen := false }
  rest : sameBut [.streams, .comp, .stepGuard] s w

theorem stepIssued_sameBut (i : Nat) (h : Header) (b : StepCommitBody) (s : State) :
    sameBut [.comp, .stepGuard] (pushRec i (taken i h (.stepCommit b) s) s) (stepIssued i h b s) :=
  issueCommit_valid_sameBut ..

theorem issued_atWorkIn (hc : clearStream s i) (hnone : commitAt s i (stream s i).seqNext = none) :
    Issued i h b s (atWorkIn i h (.stepCommit b) s (stepIssued i h b s)) where
  holds := holds_atWorkIn ((holds_pushRec hc h _).congr ((stepIssued_sameBut i h b s).part .streams (by decide)))
  commit := commitAt_issueCommit (s := pushRec i (taken i h (.stepCommit b) s) s) (r := taken i h (.stepCommit b) s)
    (b := b) hnone
  step := issueCommit_step i (taken i h (.stepCommit b) s) true b (pushRec i (taken i h (.stepCommit b) s) s)
  comp := rfl
  rest := sameBut_then (atWorkIn_sameBut ..) (by decide) (sameBut_then (stepIssued_sameBut ..) (by decide)
    (sameBut_mono (pushRec_sameBut ..) (by decide)))

section
variable {w : State} (hw : Issued i h b s w)
include hw

theorem Issued.stepFlag (k : Nat) : stepFlag w k = stepFlag s k := by
  obtain ⟨l, hstep⟩ := hw.step
  simp only [Machine.stepFlag, hstep]

theorem Issued.readPlan {p : Plan} (hclean : cleanMem s) (hplan : (readPlan [0] b.plan 0x14 s).1 = .ok p) :
    Machine.readPlan [0] b.plan 0x14 w = (.ok p, w) := by
  obtain ⟨x, hs, ht⟩ := reads_readPlan (t := w) hclean (hw.rest.part .mem (by decide)) (by rw [hw.comp]) (by rw [hw.comp])
    (hw.rest.part .held (by decide)) [0] b.plan 0x14
  rw [ht, ← hplan, hs]

/-- Its work contributes, and its record runs. -/
theorem Issued.contributes {p : Plan} (hclean : cleanMem s) (hplan : (Machine.readPlan [0] b.plan 0x14 s).1 = .ok p)
    (hfree : (bucket s b.vote).state = .free) : ∃ t, dispatchKind i (keyed i h (.stepCommit b) s) w = t
      ∧ Holds i { keyed i h (.stepCommit b) s with life := .running } s t
      ∧ Contributed i (stream s i).seqNext b p (Machine.stepFlag s s.step.tag || b.veto) (newCommit i b s) w t := by
  have hbucket : bucket w b.vote = bucket s b.vote := bucket_congr (hw.rest.part .link (by decide)) b.vote
  obtain ⟨t, hrun, ht⟩ := dispatchStepCommit_ok (r := keyed i h (.stepCommit b) s) (hw.readPlan hclean hplan)
    (hbucket ▸ hfree) hw.commit
  have hholds : Holds i { keyed i h (.stepCommit b) s with life := .running } s t :=
    (hw.holds.modRec (f := fun x => { x with life := .running }) rfl).congr ht.streams
  refine ⟨t, ?_, hholds, hw.stepFlag _ ▸ ht⟩
  have hrun' := runDesc_ok hrun i (stream s i).seqNext
  have hfound := hholds.findRec
  simp only [dispatchKind]
  change runStepCommit i (stream s i).seqNext (keyed i h (.stepCommit b) s) b w = t
  simp only [runStepCommit, hrun']
  rw [show (stream s i).seqNext = (keyed i h (.stepCommit b) s).seq from rfl, hfound]
  rfl

end

/-- What a STEP_COMMIT that opens its vote leaves. -/
structure Votes (i : Nat) (h : Header) (b : StepCommitBody) (p : Plan) (s t : State) : Prop where
  took : tookOne i h (.stepCommit b) .running s t
  step : ∃ l, t.step = { s.step with issued := s.step.issued + 1, tag := s.step.tag + 1, commits := l }
    ∧ { newCommit i b s with contributed := true } ∈ l
  vote : ∃ o l, bucket t b.vote = { openedVote o with locals := [l] } ∧ o.use = .vote ∧ o.op = 2 ∧ o.elements = 1
    ∧ o.plan = p ∧ l.raw = [b2n (stepFlag s s.step.tag || b.veto)] ∧ l.nonfinite = (stepFlag s s.step.tag || b.veto)
  rest : sameBut (.comp :: .stepGuard :: .link :: .streams :: settleParts) s t

theorem offerDesc_stepCommit {p : Plan} (hclean : cleanMem s) (hs : startsNow i h (.stepCommit b) s)
    (hafter : (stream s i).afterBarrier0 = true) (hnone : commitAt s i (stream s i).seqNext = none)
    (hplan : (readPlan [0] b.plan 0x14 s).1 = .ok p) (hfree : (bucket s b.vote).state = .free) :
    Votes i h b p s (offerDesc i h (.stepCommit b) s) := by
  obtain ⟨hc, hpos, hready, -⟩ := hs
  have hissue := stepIssued_sameBut i h b s
  have hstreams := hissue.part .streams (by decide)
  have hmem : (stepIssued i h b s).mem = s.mem :=
    (hissue.part .mem (by decide)).trans ((pushRec_sameBut ..).part .mem (by decide))
  have hw : Issued i h b s _ := issued_atWorkIn hc hnone
  obtain ⟨t, hkind, hholds, ht⟩ := hw.contributes hclean hplan hfree
  have hoffer := offerDesc_taken (v := stepIssued i h b s) hc
    (by rw [hafter]; exact takeChecks_stepCommit hpos rfl true _) hstreams (fun _ => Desc.noConfusion)
    ((kindReady_stepCommit_congr (b := b) rfl hstreams).trans hready) (hmem ▸ hclean.2.1) rfl rfl hkind hholds Desc.noConfusion
  have hsettle := settle_sameBut s t
  rw [hoffer]
  refine ⟨(hholds.congr (settle_streams s t)).tookOne rfl rfl rfl, ?_, ?_, ?_⟩
  · obtain ⟨l, hstep, hmem⟩ := ht.step
    obtain ⟨_, hissued⟩ := hw.step
    refine ⟨l, ?_, hmem⟩
    rw [show (settle s t).step = t.step from hsettle.part .stepGuard (by decide), hstep, hissued]
  · rw [bucket_congr (hsettle.part .link (by decide))]
    exact ht.vote
  · exact sameBut_then hsettle (by decide) (sameBut_then ht.rest (by decide) (sameBut_mono hw.rest (by decide)))

/-! ### Elsewhere -/

/-- A STEP_COMMIT that no BARRIER of group 0 precedes fails: it is issued, and its step goes on. -/
theorem offerDesc_stepCommit_misplaced (hc : clearStream s i) (hpos : h.pos < 2 ^ 20)
    (hafter : (stream s i).afterBarrier0 = false) : ∃ r, (stream (offerDesc i h (.stepCommit b) s) i).window = [r]
      ∧ r.life = .done ∧ r.status = stDescError ∧ r.detail = 11
      ∧ (∃ n l, (offerDesc i h (.stepCommit b) s).step = { s.step with issued := n, commits := l })
      ∧ sameBut (.stepGuard :: .streams :: .ring :: settleParts) s (offerDesc i h (.stepCommit b) s) := by
  have hpush := pushRec_sameBut i (taken i h (.stepCommit b) s) s
  have hissue := issueCommit_invalid_sameBut i (taken i h (.stepCommit b) s) b (pushRec i (taken i h (.stepCommit b) s) s)
  obtain ⟨l, hstep⟩ := issueCommit_step i (taken i h (.stepCommit b) s) false b (pushRec i (taken i h (.stepCommit b) s) s)
  obtain ⟨hoffer, hfailed, hrest⟩ := offerDesc_takeFails hc (by rw [hafter]; exact takeChecks_stepCommit hpos rfl false _)
    (hissue.part .streams (by decide)) (fun _ => Desc.noConfusion) Desc.noConfusion
  have hall := sameBut_then (l := .streams :: .ring :: settleParts) (settle_sameBut s _) (by decide)
    (sameBut_mono hrest (by decide))
  rw [hoffer]
  refine ⟨_, (hfailed.congr (settle_streams s _)).window, rfl, rfl, rfl, ⟨s.step.issued + 1, l, ?_⟩, ?_⟩
  · rw [show (settle s _).step = _ from hall.part .stepGuard (by decide), hstep]
    rfl
  · exact sameBut_then hall (by decide) (sameBut_then hissue (by decide) (sameBut_mono hpush (by decide)))

end

end Sys2Proof.Machine
end

section
/-! The result of a vote (R188): the bucket that it frees, and the commit (R189) or the skip (R190) that follows. -/

namespace Sys2Proof.Machine

/-! ### Collections whose values are changed, and those left unlisted that became empty -/

section
variable {α : Type} {d : α}

/-- A change of every listed value that leaves the value of unlisted numbers changes the value at each number. -/
theorem sget_map (f : α → α) (hd : f d = d) (l : Sparse α) (k : Nat) :
    sget d (l.map (fun x => (x.1, f x.2))) k = f (sget d l k) := by
  simp only [sget, List.find?_map, Function.comp_def]
  cases l.find? (fun x => x.1 == k) with
  | none => exact hd.symm
  | some x => rfl

/-- Numbers listed once read alike when those that hold the value of unlisted numbers are dropped. -/
theorem sget_filter_ne [DecidableEq α] {l : Sparse α} (hl : l.Pairwise (fun p q => p.1 < q.1)) (k : Nat) :
    sget d (l.filter (fun x => decide (x.2 ≠ d))) k = sget d l k := by
  induction l with
  | nil => rfl
  | cons x l ih =>
    obtain ⟨hx, hrest⟩ := List.pairwise_cons.mp hl
    by_cases hk : x.1 = k
    · have hnone : l.find? (fun p => p.1 == k) = none :=
        List.find?_eq_none.mpr fun p hp => by have := hx p hp; simp; omega
      rw [List.filter_cons]
      split
      next => simp [sget, hk]
      next hv =>
        rw [ih hrest]
        have hd : x.2 = d := by simpa using hv
        simp [sget, hnone, hk, hd]
    · have hcons (m : Sparse α) : sget d (x :: m) k = sget d m k := by simp [sget, hk]
      rw [hcons, ← ih hrest, List.filter_cons]
      split
      · exact hcons _
      · rfl

end

section
variable {s t u : State} {b : Nat} {bad short skip : Bool} {f : FirstSetter} {c : Commit}

/-! ### The vote ends -/

/-- The trailer that a vote's result brings: the bucket's own where it has one. -/
def voteTrailer (b : Nat) (bad short : Bool) (f : FirstSetter) (s : State) : Trailer :=
  match resultDone (bucket s b), mergedTrailer (bucket s b) with
  | true, some t => t
  | _, _ => { rootTrailer s (bucket s b) (treeMeta s (bucket s b) 0) with
      count := (Config.freeWord s.free).toNat % 2 ^ 32, nonfinite := bad, short := short, first := some f }

theorem voteTrailer_short (hagree : voteAgrees (bucket s b) bad short f = true) :
    (voteTrailer b bad short f s).short = short := by
  cases hdone : resultDone (bucket s b) <;> cases hmerged : mergedTrailer (bucket s b)
  case true.some m =>
    simp only [voteAgrees, hdone, hmerged, if_true, Bool.and_eq_true, beq_iff_eq] at hagree
    simpa only [voteTrailer, hdone, hmerged] using hagree.1.2
  all_goals simp only [voteTrailer, hdone, hmerged]

/-- The state in which the vote has ended. -/
def voteEnded (b : Nat) (bad short : Bool) (f : FirstSetter) (c : Commit) (s : State) : State :=
  modCommit c.no (fun k => { k with answered := true }) (reopen b (freeBucket b
    (noteResult b (bucket s b) (voteTrailer b bad short f s) { s with free := s.free + 1 })))

/-- A result that agrees with its bucket ends the vote; the outcome follows, but a STEP_COMMIT that an abort has ended commits
nothing (R370). -/
theorem voteResult_eq (hc : votingCommit s b = some c) (huse : (bucket s b).use = .vote)
    (hagree : voteAgrees (bucket s b) bad short f = true) : voteResult b bad short f s
      = if bad || short then applySkip c f (voteEnded b bad short f c s)
        else if c.finished then voteEnded b bad short f c s else applyCommit c (voteEnded b bad short f c s) := by
  simp only [voteResult, hc, huse, hagree]
  rw [if_neg (by simp)]
  rfl

theorem learnEntry_link (b op : Nat) (word : Bool) (m : Trailer) (s : State) :
    ∃ e, learnEntry b op word m s = modLink s (fun l => { l with entries := e }) := by
  unfold learnEntry
  split
  · exact ⟨_, rfl⟩
  · exact ⟨s.link.entries, rfl⟩

theorem raiseShort_sameBut (b n k m : Nat) (s : State) : sameBut eventParts s (raiseShort b n k m s) := raiseEv_sameBut _ s

/-- The result of a vote that no module asks for: it teaches at most the bucket's entry, and raises an event where it is
short. -/
theorem noteResult_vote {x : Bucket} (huse : x.use = .vote) (hask : x.askers = []) (m : Trailer) :
    (∃ e, (noteResult b x m s).link = { s.link with entries := e })
      ∧ (m.short = false → sameBut [.link] s (noteResult b x m s)) ∧ sameBut (.link :: eventParts) s (noteResult b x m s) := by
  obtain ⟨e, he⟩ := learnEntry_link b x.op x.word m s
  have hentry := modLink_sameBut (fun l => { l with entries := e }) s
  cases hshort : m.short with
  | false =>
    have hnote : noteResult b x m s = modLink s (fun l => { l with entries := e }) := by
      simp [noteResult, huse, hask, he, hshort]
    rw [hnote]
    exact ⟨⟨e, rfl⟩, fun _ => hentry, sameBut_mono hentry (by decide)⟩
  | true =>
    have hnote : noteResult b x m s
        = raiseShort b (treeTile x.plan 0) m.count m.expected (modLink s (fun l => { l with entries := e })) := by
      simp [noteResult, huse, hask, he, hshort]
    have hraise := raiseShort_sameBut b (treeTile x.plan 0) m.count m.expected (modLink s (fun l => { l with entries := e }))
    rw [hnote]
    exact ⟨⟨e, hraise.part .link (by decide)⟩, Bool.noConfusion,
      sameBut_then hraise (by decide) (sameBut_mono hentry (by decide))⟩

theorem releasePool_keeps (x : Bucket) (s : State) : (releasePool x s).link.waiting = s.link.waiting
    ∧ (releasePool x s).link.residuals = s.link.residuals ∧ sameBut [.link] s (releasePool x s) := by
  unfold releasePool
  split
  · exact ⟨rfl, rfl, sameBut_refl ..⟩
  · exact ⟨by simp only [modLink_link], by simp only [modLink_link], modLink_sameBut ..⟩

theorem bucket_freeBucket (b : Nat) (s : State) : bucket (freeBucket b s) b = Bucket.empty := bucket_setBucket ..

theorem freeBucket_keeps (b : Nat) (s : State) : (freeBucket b s).link.waiting = s.link.waiting
    ∧ (freeBucket b s).link.residuals = s.link.residuals ∧ sameBut [.link] s (freeBucket b s) := by
  obtain ⟨hwaiting, hresiduals, hrest⟩ := releasePool_keeps (bucket s b) s
  exact ⟨hwaiting, hresiduals, sameBut_trans hrest (setBucket_sameBut ..)⟩

/-- No contribution waits for the bucket: none is offered again. -/
theorem reopen_keeps (h : ∀ o ∈ s.link.waiting, o.bucket ≠ b) : bucket (reopen b s) b = bucket s b
    ∧ (reopen b s).link.residuals = s.link.residuals ∧ sameBut [.link] s (reopen b s) := by
  have hmine : s.link.waiting.filter (fun o => o.bucket == b) = [] :=
    List.filter_eq_nil_iff.mpr fun o ho => by simpa using h o ho
  simp only [reopen, hmine, List.foldl_nil]
  exact ⟨rfl, rfl, modLink_sameBut ..⟩

/-- What the end of the vote leaves: its bucket FREE, and its STEP_COMMIT answered. -/
structure Ended (b : Nat) (c : Commit) (short : Bool) (s t : State) : Prop where
  free : (bucket t b).state = .free
  residuals : t.link.residuals = s.link.residuals
  step : t.step = { s.step with
    commits := s.step.commits.map (fun k => if k.no = c.no then { k with answered := true } else k) }
  quiet : short = false → sameBut [.stepGuard, .link, .free] s t
  rest : sameBut (.stepGuard :: .link :: .free :: eventParts) s t

theorem ended_voteEnded (huse : (bucket s b).use = .vote) (hagree : voteAgrees (bucket s b) bad short f = true)
    (hask : (bucket s b).askers = []) (hwait : ∀ o ∈ s.link.waiting, o.bucket ≠ b) :
    Ended b c short s (voteEnded b bad short f c s) := by
  have hfree : sameBut [.free] s { s with free := s.free + 1 } := ⟨rfl, fun p hp => by cases p <;> simp_all [Part.same]⟩
  obtain ⟨⟨e, hlink⟩, hquiet, hrest⟩ := noteResult_vote (b := b) (s := { s with free := s.free + 1 }) huse hask
    (voteTrailer b bad short f s)
  rw [voteTrailer_short hagree] at hquiet
  generalize hn : noteResult b (bucket s b) (voteTrailer b bad short f s) { s with free := s.free + 1 } = n
    at hlink hquiet hrest
  obtain ⟨hwaiting, hresiduals, hfreed⟩ := freeBucket_keeps b n
  obtain ⟨hbucket, hresiduals', hreopened⟩ := reopen_keeps (s := freeBucket b n) (b := b) (by rw [hwaiting, hlink]; exact hwait)
  have hopened := sameBut_trans hfreed hreopened
  have hstep : (reopen b (freeBucket b n)).step = s.step :=
    (hopened.part .stepGuard (by decide)).trans (hrest.part .stepGuard (by decide))
  unfold voteEnded
  rw [hn]
  have hanswered := modCommit_sameBut c.no (fun k => { k with answered := true }) (reopen b (freeBucket b n))
  have hended := sameBut_then (l := [.stepGuard, .link, .free]) hanswered (by decide) (sameBut_mono hopened (by decide))
  have hlink' := hanswered.part .link (by decide)
  refine ⟨?_, ?_, ?_, fun h => ?_, ?_⟩
  · rw [bucket_congr hlink', hbucket, bucket_freeBucket]
    rfl
  · rw [hlink', hresiduals', hresiduals, hlink]
  · simp only [modCommit, modStep_step, hstep]
  · exact sameBut_then hended (by decide) (sameBut_then (hquiet h) (by decide) (sameBut_mono hfree (by decide)))
  · exact sameBut_then hended (by decide) (sameBut_then hrest (by decide) (sameBut_mono hfree (by decide)))

end

end Sys2Proof.Machine
end

section
/-! The outcome of a STEP_COMMIT: COMMIT (R189) and SKIP (R190, Table 7.10). -/

namespace Sys2Proof.Machine

section
variable {s t u w : State} {c : Commit} {f : FirstSetter} {skip : Bool} {i j q no : Nat} {r x : Rec} {l m : List Part}

/-! ### Records in a window -/

theorem complete_eq_modRec (i q st d v : Nat) (fl : CFlags) (s : State) : complete i q st d v fl s
    = modRec i q (fun r => if r.life = .done then r else completed st d v fl r) s := rfl

/-- A record of a window after the change of one record. -/
theorem mem_window_modRec {g : Rec → Rec} (hx : x ∈ (stream s i).window) :
    modRecIn q g x ∈ (stream (modRec i q g s) i).window := by
  rw [modRec, stream_modStream]
  exact List.mem_map.mpr ⟨x, hx, rfl⟩

/-- A record that is not complete is completed. -/
theorem mem_window_complete (hx : x ∈ (stream s i).window) (hl : x.life ≠ .done) (st d v : Nat) (fl : CFlags) :
    completed st d v fl x ∈ (stream (complete i x.seq st d v fl s) i).window := by
  have h := mem_window_modRec (q := x.seq) (g := fun r => if r.life = .done then r else completed st d v fl r) hx
  rwa [modRecIn, if_pos rfl, if_neg hl] at h

/-- A completion leaves every other record, and those that are complete. -/
theorem mem_window_complete_other (hx : x ∈ (stream s j).window) (h : j = i → x.seq = q → x.life = .done)
    (st d v : Nat) (fl : CFlags) : x ∈ (stream (complete i q st d v fl s) j).window := by
  rw [complete_eq_modRec]
  by_cases hj : j = i
  · subst hj
    have hmem := mem_window_modRec (q := q) (g := fun r => if r.life = .done then r else completed st d v fl r) hx
    by_cases hq : x.seq = q
    · rwa [modRecIn, if_pos hq, if_pos (h rfl hq)] at hmem
    · rwa [modRecIn, if_neg hq] at hmem
  · rwa [modRec, stream_modStream_other _ _ hj]

theorem mem_allRecs (hx : x ∈ (stream s j).window) : (j, x) ∈ allRecs s := by
  obtain ⟨p, hp, hkey, hstream⟩ : ∃ p ∈ s.host.streams, p.1 = j ∧ stream s j = p.2 := by
    cases hfind : s.host.streams.find? (fun p => p.1 == j) with
    | none => simp [stream, sget, hfind, Stream.empty] at hx
    | some p => exact ⟨p, List.mem_of_find?_eq_some hfind, by simpa using List.find?_some hfind, by simp [stream, sget, hfind]⟩
  rw [hstream] at hx
  exact List.mem_flatMap.mpr ⟨p, hp, List.mem_map.mpr ⟨x, List.mem_append_left _ hx, by rw [hkey]⟩⟩

/-! ### Weight versions and slots that stand -/

/-- `t` has the weight versions and the statistics slots of `s`, and differs from it in the parts `l` alone. -/
structure KeepsModel (l : List Part) (s t : State) : Prop where
  version : ∀ w, (weight t w).version = (weight s w).version
  slots : t.comp.slots = s.comp.slots
  rest : sameBut l s t

namespace KeepsModel

theorem refl : KeepsModel l s s := ⟨fun _ => rfl, rfl, sameBut_refl ..⟩

theorem trans (h : KeepsModel l s t) (k : KeepsModel l t u) : KeepsModel l s u :=
  ⟨fun w => (k.version w).trans (h.version w), k.slots.trans h.slots, sameBut_trans h.rest k.rest⟩

theorem mono (h : KeepsModel l s t) (hm : ∀ p ∈ l, p ∈ m) : KeepsModel m s t := ⟨h.version, h.slots, sameBut_mono h.rest hm⟩

/-- What leaves the compute tiles leaves the versions and the slots. -/
theorem of_sameBut (h : sameBut l s t) (hl : .comp ∉ l := by decide) : KeepsModel l s t :=
  ⟨fun w => congrArg Weight.version (weight_congr (h.part .comp hl) w), congrArg ComputeSt.slots (h.part .comp hl), h⟩

/-- A change of other stores of the compute tiles. -/
theorem modComp {g : ComputeSt → ComputeSt} (hw : (g s.comp).weights = s.comp.weights) (hs : (g s.comp).slots = s.comp.slots) :
    KeepsModel [.comp] s (modComp s g) :=
  ⟨fun w => by rw [weight, modComp_comp, hw]; rfl, hs, modComp_sameBut ..⟩

theorem modClove (p : Nat) (g : Clove → Clove) (s : State) : KeepsModel [.comp] s (modClove s p g) :=
  modComp (g := fun c => { c with cloves := sset Clove.empty c.cloves p (g (clove s p)) }) rfl rfl

theorem foldl {α : Type} {g : State → α → State} (hg : ∀ s a, KeepsModel l s (g s a)) (as : List α) (s : State) :
    KeepsModel l s (as.foldl g s) := by
  induction as generalizing s with
  | nil => exact .refl
  | cons a as ih => exact (hg s a).trans (ih _)

/-- A record whose version stands is changed. -/
theorem setWeight {k : Nat} {v : Weight} (hv : v.version = (weight s k).version) : KeepsModel [.comp] s (setWeight s k v) where
  version w := by
    by_cases hw : w = k
    · rw [hw, weight_setWeight, hv]
    · rw [weight_setWeight_other s v hw]
  slots := rfl
  rest := modComp_sameBut ..

theorem releaseEntry (p k : Nat) (s : State) : KeepsModel [.comp] s (releaseEntry p k s) := by
  unfold Machine.releaseEntry
  dsimp only
  split
  · exact .refl
  · exact .trans (.modClove ..) (.setWeight rfl)

theorem endUpdate (k i q : Nat) (s : State) : KeepsModel [.comp] s (endUpdate k i q s) := .setWeight rfl

end KeepsModel

/-! ### The end of a skipped step's work -/

/-- The state in which the entries and the tiles of a skipped step are gone. -/
def pruned (tag : Nat) (s : State) : State :=
  let t := (savedIn s tag).foldl (fun u e => releaseEntry e.1 e.2 u) s
  tidyCloves (discardTiles (fun x => tileTagged t tag x.2.2) t)

theorem keepsModel_pruned (tag : Nat) (s : State) : KeepsModel [.comp] s (pruned tag s) := by
  have hreleased := KeepsModel.foldl (g := fun u (e : Nat × Nat) => releaseEntry e.1 e.2 u)
    (fun s e => .releaseEntry e.1 e.2 s) (savedIn s tag) s
  have htile (u : State) (x : Nat × Nat × Tile) : KeepsModel [.comp] u (discardTile u x.1 x.2.1) := .modClove ..
  have htidy (u : State) : KeepsModel [.comp] u (tidyCloves u) :=
    .modComp (g := fun c => { c with cloves := c.cloves.filter (fun p => decide (p.2 ≠ Clove.empty)) }) rfl rfl
  exact (hreleased.trans (.foldl htile ..)).trans (htidy _)

theorem endSequences_sameBut (tag : Nat) (s : State) : sameBut [.streams] s (endSequences tag s) :=
  ⟨rfl, fun p hp => by cases p <;> simp_all [Part.same, endSequences]⟩

/-- Only the shared sequences of a stream end: its window stands. -/
theorem window_endSequences (tag : Nat) (s : State) (j : Nat) :
    (stream (endSequences tag s) j).window = (stream s j).window := by
  simp only [stream, sget, endSequences, modHost_host, List.find?_map, Function.comp_def]
  cases s.host.streams.find? (fun p => p.1 == j) <;> rfl

theorem allRecs_endSequences (tag : Nat) (s : State) : allRecs (endSequences tag s) = allRecs s := by
  simp only [allRecs, endSequences, modHost_host, List.flatMap_map]

/-! ### Skipped UPDATEs (R176, R190) -/

/-- A record that is complete, and skipped. -/
def skippedRec (r : Rec) : Rec := completed stOK 0 0 { CFlags.none with skipped := true } r

/-- One record's part in the skipping of the UPDATEs of STEP_COMMIT `no`. -/
def skipUpdate (no : Nat) (t : State) (x : Nat × Rec) : State :=
  match x.2.desc with
  | .update b =>
    if x.2.life = .running ∧ x.2.commitNo = no then
      complete x.1 x.2.seq stOK 0 0 { CFlags.none with skipped := true } (endUpdate b.weightId x.1 x.2.seq t)
    else t
  | _ => t

theorem skipUpdates_eq (no : Nat) (s : State) : skipUpdates no s = (allRecs s).foldl (skipUpdate no) s := rfl

/-- A running UPDATE that waits for that STEP_COMMIT is completed, skipped. -/
theorem skipUpdate_update {z : Nat × Rec} {b : UpdateBody} (hb : z.2.desc = .update b) (hrun : z.2.life = .running)
    (hno : z.2.commitNo = no) : skipUpdate no t z
      = complete z.1 z.2.seq stOK 0 0 { CFlags.none with skipped := true } (endUpdate b.weightId z.1 z.2.seq t) := by
  simp only [skipUpdate, hb]
  rw [if_pos ⟨hrun, hno⟩]

theorem skipUpdate_cases (no : Nat) (t : State) (z : Nat × Rec) : skipUpdate no t z = t
    ∨ ∃ b, z.2.desc = .update b ∧ skipUpdate no t z
      = complete z.1 z.2.seq stOK 0 0 { CFlags.none with skipped := true } (endUpdate b.weightId z.1 z.2.seq t) := by
  unfold skipUpdate
  split
  next b hb =>
    split
    · exact .inr ⟨b, hb, rfl⟩
    · exact .inl rfl
  next => exact .inl rfl

theorem keepsModel_skipUpdates (no : Nat) (s : State) : KeepsModel [.comp, .streams] s (skipUpdates no s) := by
  rw [skipUpdates_eq]
  refine .foldl (fun t z => ?_) _ s
  obtain hsame | ⟨b, -, hstep⟩ := skipUpdate_cases no t z
  · rw [hsame]
    exact .refl
  · rw [hstep]
    exact ((KeepsModel.endUpdate ..).mono (by decide)).trans ((KeepsModel.of_sameBut (complete_sameBut ..)).mono (by decide))

/-- The skipping leaves a record in its window that is complete, or that no UPDATE of its stream shares its number with. -/
theorem mem_window_skipUpdate (z : Nat × Rec) (hx : x ∈ (stream t j).window)
    (h : j = z.1 → x.seq = z.2.seq → (∃ b, z.2.desc = .update b) → x.life = .done) :
    x ∈ (stream (skipUpdate no t z) j).window := by
  obtain hsame | ⟨b, hb, hstep⟩ := skipUpdate_cases no t z
  · rwa [hsame]
  · rw [hstep]
    exact mem_window_complete_other (s := endUpdate b.weightId z.1 z.2.seq t) hx (fun hj hq => h hj hq ⟨b, hb⟩) ..

theorem mem_window_skipUpdates (zs : List (Nat × Rec)) (hx : x ∈ (stream t j).window)
    (h : ∀ z ∈ zs, j = z.1 → x.seq = z.2.seq → (∃ b, z.2.desc = .update b) → x.life = .done) :
    x ∈ (stream (zs.foldl (skipUpdate no) t) j).window := by
  induction zs generalizing t with
  | nil => exact hx
  | cons z zs ih =>
    exact ih (mem_window_skipUpdate z hx (h z List.mem_cons_self)) fun y hy => h y (List.mem_cons_of_mem _ hy)

/-- A turn leaves a record that is not complete, or makes it skipped. -/
theorem mem_window_turn (z : Nat × Rec) (hx : x ∈ (stream t j).window) (hopen : x.life ≠ .done) :
    x ∈ (stream (skipUpdate no t z) j).window ∨ skippedRec x ∈ (stream (skipUpdate no t z) j).window := by
  obtain hsame | ⟨b, -, hstep⟩ := skipUpdate_cases no t z
  · exact .inl (by rwa [hsame])
  · rw [hstep]
    by_cases hz : j = z.1 ∧ x.seq = z.2.seq
    · obtain ⟨rfl, hq⟩ := hz
      rw [← hq]
      exact .inr (mem_window_complete (s := endUpdate b.weightId z.1 x.seq t) hx hopen ..)
    · exact .inl (mem_window_complete_other (s := endUpdate b.weightId z.1 z.2.seq t) hx (fun hj hq => absurd ⟨hj, hq⟩ hz) ..)

/-- A running UPDATE of that STEP_COMMIT, once it has had its turn, is complete and skipped. -/
theorem skipped_of_mem (zs : List (Nat × Rec)) (hx : x ∈ (stream t j).window) (hz : (j, x) ∈ zs)
    (hb : ∃ b, x.desc = .update b) (hrun : x.life = .running) (hno : x.commitNo = no) :
    skippedRec x ∈ (stream (zs.foldl (skipUpdate no) t) j).window := by
  have hopen : x.life ≠ .done := hrun ▸ Life.noConfusion
  have hstays {v : State} (ys : List (Nat × Rec)) (h : skippedRec x ∈ (stream v j).window) :
      skippedRec x ∈ (stream (ys.foldl (skipUpdate no) v) j).window := mem_window_skipUpdates ys h fun _ _ _ _ _ => rfl
  induction zs generalizing t with
  | nil => exact absurd hz List.not_mem_nil
  | cons z zs ih =>
    obtain rfl | hz := List.mem_cons.mp hz
    · obtain ⟨b, hb⟩ := hb
      refine hstays zs ?_
      rw [skipUpdate_update (z := (j, x)) hb hrun hno]
      exact mem_window_complete (s := endUpdate b.weightId j x.seq t) hx hopen ..
    · obtain hwaits | hskipped := mem_window_turn (no := no) z hx hopen
      · exact ih hwaits hz
      · exact hstays zs hskipped

/-! ### What an outcome leaves -/

/-- The outcome of STEP_COMMIT `c` in `s`, as `t` holds it: its flag is clear, STEP_LAST has it, the STEP_COMMIT is finished,
versions stand, and its record is complete with the outcome bit. -/
structure VoteOutcome (c : Commit) (skip : Bool) (s t : State) : Prop where
  flag : stepFlag t c.tag = false
  last : t.step.lastOutcome = skip ∧ t.step.lastValid = true ∧ t.step.lastTag = c.tag
  commit : ∃ k ∈ t.step.commits, k.no = c.no ∧ k.finished = true ∧ (k.committed = true ∨ skip = true)
  version : ∀ w, (weight t w).version = (weight s w).version
  record : ∀ r ∈ (stream s c.stream).window, r.seq = c.seq → r.life ≠ .done →
    completed stOK 0 0 { CFlags.none with outcome := skip } r ∈ (stream t c.stream).window

theorem VoteOutcome.congr {l : List Part} (h : VoteOutcome c skip s t) (hu : sameBut l t u)
    (hl : ∀ p ∈ [Part.stepGuard, .comp, .streams], p ∉ l := by decide) : VoteOutcome c skip s u := by
  have hstep : u.step = t.step := hu.part .stepGuard (hl _ (by decide))
  have hcomp : u.comp = t.comp := hu.part .comp (hl _ (by decide))
  have hstreams : u.host.streams = t.host.streams := hu.part .streams (hl _ (by decide))
  obtain ⟨hflag, hlast, hcommit, hversion, hrecord⟩ := h
  refine ⟨?_, hstep ▸ hlast, hstep ▸ hcommit, fun w => by rw [weight_congr hcomp, hversion w], ?_⟩
  · rwa [stepFlag, hstep]
  · rwa [stream_congr hstreams]

/-- The noting of an outcome moves the step guard and a counter. -/
theorem noteOutcome_sameBut (c : Commit) (skip : Bool) (s : State) :
    sameBut [.stepGuard, .counters] s (noteOutcome c skip (clearFlag c.tag s)) :=
  sameBut_then (count_sameBut ..) (by decide) (sameBut_then (modStep_sameBut ..) (by decide)
    (sameBut_mono (modStep_sameBut ..) (by decide)))

/-- A STEP_COMMIT that is finished in `w`, its outcome then noted, and its record completed. -/
theorem outcome_complete {l : List Part}
    (hcommit : ∃ k ∈ w.step.commits, k.no = c.no ∧ k.finished = true ∧ (k.committed = true ∨ skip = true))
    (hversion : ∀ k, (weight w k).version = (weight s k).version)
    (hrecord : ∀ r ∈ (stream s c.stream).window, r.seq = c.seq → r.life ≠ .done → r ∈ (stream w c.stream).window)
    (hu : sameBut l (noteOutcome c skip (clearFlag c.tag w)) u)
    (hl : ∀ p ∈ [Part.stepGuard, .comp, .streams], p ∉ l := by decide) :
    VoteOutcome c skip s (complete c.stream c.seq stOK 0 0 { CFlags.none with outcome := skip } u) := by
  have hnote := noteOutcome_sameBut c skip w
  have hcount := count_sameBut (safeBase + (if skip then 0x203C else 0x2038)) 1 (modStep (clearFlag c.tag w) (fun x => { x with
    lastOutcome := skip, lastValid := true, lastTag := c.tag }))
  have hstep := (hu.part .stepGuard (hl _ (by decide))).trans (hcount.part .stepGuard (by decide))
  have hcomp := (hu.part .comp (hl _ (by decide))).trans (hnote.part .comp (by decide))
  have hstreams := (hu.part .streams (hl _ (by decide))).trans (hnote.part .streams (by decide))
  have hdone := complete_sameBut c.stream c.seq stOK 0 0 { CFlags.none with outcome := skip } u
  have hstep' := (hdone.part .stepGuard (by decide)).trans hstep
  refine ⟨?_, ?_, ?_, fun k => ?_, fun r hr hq hopen => ?_⟩
  · simp only [stepFlag, hstep']
    exact sget_sset_same ..
  · rw [hstep']
    exact ⟨rfl, rfl, rfl⟩
  · rw [hstep']
    exact hcommit
  · rw [weight_congr (hdone.part .comp (by decide)), weight_congr hcomp, hversion k]
  · rw [← hq]
    exact mem_window_complete (by rw [stream_congr hstreams]; exact hrecord r hr hq hopen) hopen ..

end

end Sys2Proof.Machine
end

section
/-! COMMIT, SKIP and the vote result that brings them (R188 to R190, R370); the obligation on the step guard. -/

namespace Sys2Proof.Machine

section
variable {s t u w : State} {c : Commit} {f : FirstSetter} {skip : Bool} {b : Nat} {bad short : Bool}

theorem VoteOutcome.of_before {l : List Part} (h : VoteOutcome c skip u t) (hu : sameBut l s u)
    (hl : ∀ p ∈ [Part.comp, .streams], p ∉ l := by decide) : VoteOutcome c skip s t where
  flag := h.flag
  last := h.last
  commit := h.commit
  version w := (h.version w).trans (congrArg Weight.version (weight_congr (hu.part .comp (hl _ (by decide))) w))
  record r hr := h.record r (by rwa [stream_congr (hu.part .streams (hl _ (by decide)))])

/-! ### COMMIT -/

/-- A slot whose staged code, if valid, is committed (R115). -/
def committedSlot (y : SlotStat) : SlotStat :=
  if y.stagedValid then { y with code := y.staged, codeValid := true, staged := 0, stagedValid := false } else y

theorem slotStat_commitCodes (s : State) (n : Nat) : slotStat (commitCodes s) n = committedSlot (slotStat s n) := by
  rw [slotStat, slotStat, ← sget_map committedSlot rfl]
  change sget _ (s.comp.slots.map _) n = _
  congr 2
  funext x
  unfold committedSlot
  split <;> rfl

/-- The state in which STEP_COMMIT `c` is committed, its outcome not yet noted. -/
def committedIn (c : Commit) (s : State) : State :=
  modCommit c.no (fun k => { k with finished := true, committed := true })
    (modLink (commitCodes s) (fun l => { l with residuals := [] }))

theorem committedIn_sameBut (c : Commit) (s : State) : sameBut [.comp, .stepGuard, .link] s (committedIn c s) :=
  sameBut_then (modCommit_sameBut ..) (by decide) (sameBut_then (modLink_sameBut ..) (by decide)
    (sameBut_mono (modComp_sameBut ..) (by decide)))

theorem applyCommit_eq (hres : s.link.residuals = []) :
    applyCommit c s = completeOK c.stream c.seq (noteOutcome c false (clearFlag c.tag (committedIn c s))) := by
  have hlink : (commitCodes s).link.residuals = [] := hres
  simp only [applyCommit, hlink, List.foldl_nil, committedIn]

/-- Where no low-rank exchange has left a residual, COMMIT leaves the outcome and the committed codes. -/
theorem applyCommit_outcome {k : Commit} (hk : k ∈ s.step.commits) (hno : k.no = c.no) (hres : s.link.residuals = []) :
    VoteOutcome c false s (applyCommit c s) ∧ (∀ b, bucket (applyCommit c s) b = bucket s b)
      ∧ (∀ n, slotStat (applyCommit c s) n = committedSlot (slotStat s n))
      ∧ sameBut [.comp, .stepGuard, .link, .streams, .counters] s (applyCommit c s) := by
  have hnote := noteOutcome_sameBut c false (committedIn c s)
  have hdone : sameBut [.stepGuard, .counters, .streams] (committedIn c s) (applyCommit c s) := by
    rw [applyCommit_eq hres]
    exact sameBut_then (complete_sameBut ..) (by decide) (sameBut_mono hnote (by decide))
  have hstreams := (committedIn_sameBut c s).part .streams (by decide)
  refine ⟨?_, fun b => ?_, fun n => ?_, ?_⟩
  · rw [applyCommit_eq hres]
    refine outcome_complete (w := committedIn c s) (l := [])
      ⟨{ k with finished := true, committed := true }, ?_, hno, rfl, .inl rfl⟩ (fun _ => rfl) (fun r hr _ _ => ?_) (sameBut_refl ..)
    · exact mem_modCommit (s := modLink (commitCodes s) (fun l => { l with residuals := [] })) hk hno _
    · rwa [stream_congr hstreams]
  · exact (bucket_congr (hdone.part .link (by decide)) b).trans rfl
  · rw [slotStat_congr (congrArg ComputeSt.slots (hdone.part .comp (by decide)))]
    exact slotStat_commitCodes s n
  · exact sameBut_then hdone (by decide) (sameBut_mono (committedIn_sameBut c s) (by decide))

/-! ### SKIP -/

/-- A slot whose staged code is cleared (R115). -/
def clearedSlot (y : SlotStat) : SlotStat := { y with staged := 0, stagedValid := false }

theorem slotStat_clearStaged (hs : Canon SlotStat.empty s.comp.slots) (n : Nat) :
    slotStat (clearStaged s) n = clearedSlot (slotStat s n) := by
  have hmapped : (s.comp.slots.map (fun x => (x.1, clearedSlot x.2))).Pairwise (fun p q => p.1 < q.1) :=
    List.pairwise_map.mpr hs.1
  exact (sget_filter_ne hmapped n).trans (sget_map clearedSlot rfl _ n)

/-- The state in which `u`'s shared sequences of the skipped step have ended and its staged codes are cleared; the
STEP_COMMIT is finished. -/
def clearedIn (c : Commit) (u : State) : State :=
  modCommit c.no (fun k => { k with finished := true })
    (modLink (clearStaged (endSequences c.tag u)) (fun l => { l with residuals := [] }))

theorem clearedIn_sameBut (c : Commit) (u : State) : sameBut [.comp, .stepGuard, .link, .streams] u (clearedIn c u) :=
  sameBut_then (modCommit_sameBut ..) (by decide) (sameBut_then (modLink_sameBut ..) (by decide)
    (sameBut_then (modComp_sameBut ..) (by decide) (sameBut_mono (endSequences_sameBut ..) (by decide))))

theorem weight_clearedIn (c : Commit) (u : State) (k : Nat) : weight (clearedIn c u) k = weight u k := rfl

theorem bucket_clearedIn (c : Commit) (u : State) (b : Nat) : bucket (clearedIn c u) b = bucket u b := rfl

theorem allRecs_clearedIn (c : Commit) (u : State) : allRecs (clearedIn c u) = allRecs u :=
  (allRecs_congr rfl).trans (allRecs_endSequences c.tag u)

theorem window_clearedIn (c : Commit) (u : State) (j : Nat) : (stream (clearedIn c u) j).window = (stream u j).window :=
  window_endSequences c.tag u j

theorem slotStat_clearedIn (hu : Canon SlotStat.empty u.comp.slots) (n : Nat) :
    slotStat (clearedIn c u) n = clearedSlot (slotStat u n) := slotStat_clearStaged (s := endSequences c.tag u) hu n

/-- The STEP_COMMIT is finished there. -/
theorem mem_commits_clearedIn {k : Commit} (hk : k ∈ u.step.commits) (hno : k.no = c.no) :
    { k with finished := true } ∈ (clearedIn c u).step.commits :=
  mem_modCommit (s := modLink (clearStaged (endSequences c.tag u)) (fun l => { l with residuals := [] })) hk hno _

/-- The state in which its entries, its tiles and its UPDATEs are gone as well. -/
def skippedIn (c : Commit) (s : State) : State := skipUpdates c.no (clearedIn c (pruned c.tag s))

/-- Every record stands until its UPDATEs are skipped. -/
theorem records_clearedIn (c : Commit) (s : State) : allRecs (clearedIn c (pruned c.tag s)) = allRecs s
    ∧ ∀ j, (stream (clearedIn c (pruned c.tag s)) j).window = (stream s j).window := by
  have hstreams := (keepsModel_pruned c.tag s).rest.part .streams (by decide)
  exact ⟨(allRecs_clearedIn ..).trans (allRecs_congr hstreams),
    fun j => (window_clearedIn ..).trans (congrArg Stream.window (stream_congr hstreams j))⟩

theorem keepsModel_skippedIn (c : Commit) (s : State) :
    KeepsModel [.comp, .streams] (clearedIn c (pruned c.tag s)) (skippedIn c s) := keepsModel_skipUpdates ..

theorem version_skippedIn (c : Commit) (s : State) (k : Nat) : (weight (skippedIn c s) k).version = (weight s k).version := by
  rw [(keepsModel_skippedIn c s).version, weight_clearedIn, (keepsModel_pruned c.tag s).version]

theorem slotStat_skippedIn (hs : Canon SlotStat.empty s.comp.slots) (n : Nat) :
    slotStat (skippedIn c s) n = clearedSlot (slotStat s n) := by
  have hslots := (keepsModel_pruned c.tag s).slots
  rw [slotStat_congr (keepsModel_skippedIn c s).slots, slotStat_clearedIn (hslots ▸ hs), slotStat_congr hslots]

theorem bucket_skippedIn (c : Commit) (s : State) (b : Nat) : bucket (skippedIn c s) b = bucket s b := by
  have hskips : (skippedIn c s).link = (clearedIn c (pruned c.tag s)).link :=
    (keepsModel_skippedIn c s).rest.part .link (by decide)
  have hpruned : (pruned c.tag s).link = s.link := (keepsModel_pruned c.tag s).rest.part .link (by decide)
  rw [bucket_congr hskips, bucket_clearedIn, bucket_congr hpruned]

theorem skippedIn_sameBut (c : Commit) (s : State) : sameBut [.comp, .stepGuard, .link, .streams] s (skippedIn c s) :=
  sameBut_then (keepsModel_skippedIn c s).rest (by decide) (sameBut_then (clearedIn_sameBut ..) (by decide)
    (sameBut_mono (keepsModel_pruned c.tag s).rest (by decide)))

theorem mem_commits_skippedIn {k : Commit} (hk : k ∈ s.step.commits) (hno : k.no = c.no) :
    { k with finished := true } ∈ (skippedIn c s).step.commits := by
  have hpruned : (pruned c.tag s).step = s.step := (keepsModel_pruned c.tag s).rest.part .stepGuard (by decide)
  have hskips : (skippedIn c s).step = (clearedIn c (pruned c.tag s)).step :=
    (keepsModel_skippedIn c s).rest.part .stepGuard (by decide)
  rw [hskips]
  exact mem_commits_clearedIn (by rwa [hpruned]) hno

/-- The event of a skipped step (Table 17.6). -/
def skipEvent (c : Commit) (f : FirstSetter) : Ev :=
  { code := 0x01, arg0 := f.node, arg1 := f.layer + 2 ^ 16 * f.tensor, arg2 := c.tag % 2 ^ 32, at_ := some f.tally }

theorem applySkip_eq (c : Commit) (f : FirstSetter) (s : State) : applySkip c f s
    = complete c.stream c.seq stOK 0 0 { CFlags.none with outcome := true }
        (raiseEv (skipEvent c f) (noteOutcome c true (clearFlag c.tag (skippedIn c s)))) := rfl

/-- After the UPDATEs are skipped nothing changes the compute tiles or a bucket. -/
theorem applySkip_after (c : Commit) (f : FirstSetter) (s : State) :
    sameBut [.stepGuard, .streams, .ring, .hostMem, .counters] (skippedIn c s) (applySkip c f s) := by
  rw [applySkip_eq]
  exact sameBut_then (complete_sameBut ..) (by decide) (sameBut_then (raiseEv_sameBut ..) (by decide)
    (sameBut_mono (noteOutcome_sameBut ..) (by decide)))

/-- SKIP leaves the outcome: no UPDATE has the STEP_COMMIT's number in its stream. -/
theorem applySkip_outcome {k : Commit} (hk : k ∈ s.step.commits) (hno : k.no = c.no)
    (hrecs : ∀ x ∈ allRecs s, x.1 = c.stream → x.2.seq = c.seq → ∃ d, x.2.desc = .stepCommit d) :
    VoteOutcome c true s (applySkip c f s) := by
  obtain ⟨hall, hwindow⟩ := records_clearedIn c s
  have hraise := raiseEv_sameBut (skipEvent c f) (noteOutcome c true (clearFlag c.tag (skippedIn c s)))
  rw [applySkip_eq]
  refine outcome_complete ⟨_, mem_commits_skippedIn hk hno, hno, rfl, .inr rfl⟩ (version_skippedIn c s)
    (fun r hr hq _ => ?_) hraise
  refine mem_window_skipUpdates _ (by rwa [hwindow]) fun z hz hj hseq ⟨d, hd⟩ => ?_
  rw [hall] at hz
  obtain ⟨d', hd'⟩ := hrecs z hz hj.symm (hseq ▸ hq)
  exact Desc.noConfusion (hd.symm.trans hd')

/-- Every running UPDATE that waited for the STEP_COMMIT is complete, and skipped. -/
theorem applySkip_update {r : Rec} {j : Nat} (hr : r ∈ (stream s j).window) (hd : ∃ d, r.desc = .update d)
    (hrun : r.life = .running) (hcommit : r.commitNo = c.no) : skippedRec r ∈ (stream (applySkip c f s) j).window := by
  obtain ⟨hall, hwindow⟩ := records_clearedIn c s
  have hskipped : skippedRec r ∈ (stream (skippedIn c s) j).window :=
    skipped_of_mem _ (by rwa [hwindow]) (by rw [hall]; exact mem_allRecs hr) hd hrun hcommit
  have hevent := sameBut_then (l := [.stepGuard, .ring, .hostMem, .counters])
    (raiseEv_sameBut (skipEvent c f) (noteOutcome c true (clearFlag c.tag (skippedIn c s)))) (by decide)
    (sameBut_mono (noteOutcome_sameBut ..) (by decide))
  rw [applySkip_eq]
  refine mem_window_complete_other ?_ (fun _ _ => rfl) ..
  rwa [stream_congr (hevent.part .streams (by decide))]

theorem applySkip_slot (hs : Canon SlotStat.empty s.comp.slots) (n : Nat) :
    slotStat (applySkip c f s) n = clearedSlot (slotStat s n) :=
  (slotStat_congr (congrArg ComputeSt.slots ((applySkip_after c f s).part .comp (by decide))) n).trans (slotStat_skippedIn hs n)

/-- Every bucket stands. -/
theorem applySkip_bucket (c : Commit) (f : FirstSetter) (s : State) (b : Nat) : bucket (applySkip c f s) b = bucket s b :=
  (bucket_congr ((applySkip_after c f s).part .link (by decide)) b).trans (bucket_skippedIn c s b)

theorem applySkip_sameBut (c : Commit) (f : FirstSetter) (s : State) :
    sameBut [.comp, .stepGuard, .link, .streams, .ring, .hostMem, .counters] s (applySkip c f s) :=
  sameBut_then (applySkip_after ..) (by decide) (sameBut_mono (skippedIn_sameBut c s) (by decide))

end

end Sys2Proof.Machine
end

section
/-! The obligation on the step guard: SCALE_COMMIT, STEP_COMMIT and the vote result (R113, R186, R188 to R190). -/

namespace Sys2Proof.Machine

section
variable {s t : State} {c : Commit} {f : FirstSetter} {b : Nat} {bad short : Bool}

theorem exec_voteResult (hb : b < 4096) :
    exec (.voteResult b bad short f) s = .next (settle s (voteResult b bad short f s)) := by
  change onUnit (decide (b < 4096)) _ = _
  rw [decide_eq_true hb]
  rfl

/-- The STEP_COMMIT of an ended vote stands, answered. -/
theorem Ended.mem_commits (h : Ended b c short s t) (hc : votingCommit s b = some c) :
    { c with answered := true } ∈ t.step.commits := by
  rw [h.step]
  exact List.mem_map.mpr ⟨c, List.mem_of_find?_eq_some hc, if_pos rfl⟩

/-- A vote's result that agrees with its bucket, which no module asks for and no contribution waits for. -/
structure Votable (s : State) (b : Nat) (bad short : Bool) (f : FirstSetter) (c : Commit) : Prop where
  commit : votingCommit s b = some c
  use : (bucket s b).use = .vote
  agrees : voteAgrees (bucket s b) bad short f = true
  askers : (bucket s b).askers = []
  waiting : ∀ o ∈ s.link.waiting, o.bucket ≠ b

section
variable (h : Votable s b bad short f c)
include h

theorem Votable.ended : Ended b c short s (voteEnded b bad short f c s) :=
  ended_voteEnded h.use h.agrees h.askers h.waiting

/-- A STEP_COMMIT that an abort has ended commits nothing (R370). -/
theorem voteResult_aborted (hfinished : c.finished = true) (hskip : (bad || short) = false) :
    (bucket (voteResult b bad short f s) b).state = .free
      ∧ (∃ l, (voteResult b bad short f s).step = { s.step with commits := l })
      ∧ sameBut [.stepGuard, .link, .free] s (voteResult b bad short f s) := by
  have hrun : voteResult b bad short f s = voteEnded b bad short f c s := by
    rw [voteResult_eq h.commit h.use h.agrees, hskip, hfinished]
    rfl
  rw [hrun]
  exact ⟨h.ended.free, ⟨_, h.ended.step⟩, h.ended.quiet (Bool.or_eq_false_iff.mp hskip).2⟩

theorem voteResult_commits (hfinished : c.finished = false) (hskip : (bad || short) = false) (hres : s.link.residuals = []) :
    VoteOutcome c false s (voteResult b bad short f s) ∧ (bucket (voteResult b bad short f s) b).state = .free
      ∧ (∀ n, slotStat (voteResult b bad short f s) n = committedSlot (slotStat s n))
      ∧ sameBut [.comp, .stepGuard, .link, .streams, .free, .counters] s (voteResult b bad short f s) := by
  have hended := h.ended
  have hquiet := hended.quiet (Bool.or_eq_false_iff.mp hskip).2
  have hrun : voteResult b bad short f s = applyCommit c (voteEnded b bad short f c s) := by
    rw [voteResult_eq h.commit h.use h.agrees, hskip, hfinished]
    rfl
  obtain ⟨houtcome, hbucket, hslot, hrest⟩ := applyCommit_outcome (c := c) (hended.mem_commits h.commit) rfl
    (hended.residuals.trans hres)
  rw [hrun]
  refine ⟨houtcome.of_before hquiet, (congrArg Bucket.state (hbucket b)).trans hended.free, fun n => ?_,
    sameBut_then hrest (by decide) (sameBut_mono hquiet (by decide))⟩
  rw [hslot, slotStat_congr (congrArg ComputeSt.slots (hquiet.part .comp (by decide)))]

/-- What a skipped step leaves besides the outcome. -/
theorem voteResult_skips (hskip : (bad || short) = true)
    (hrecs : ∀ x ∈ allRecs s, x.1 = c.stream → x.2.seq = c.seq → ∃ d, x.2.desc = .stepCommit d) :
    VoteOutcome c true s (voteResult b bad short f s) ∧ (bucket (voteResult b bad short f s) b).state = .free
      ∧ (Canon SlotStat.empty s.comp.slots → ∀ n, slotStat (voteResult b bad short f s) n = clearedSlot (slotStat s n))
      ∧ (∀ j, ∀ r ∈ (stream s j).window, (∃ d, r.desc = .update d) → r.life = .running → r.commitNo = c.no →
          skippedRec r ∈ (stream (voteResult b bad short f s) j).window)
      ∧ sameBut [.comp, .stepGuard, .link, .streams, .free, .ring, .hostMem, .counters] s (voteResult b bad short f s) := by
  have hended := h.ended
  have hstreams := hended.rest.part .streams (by decide)
  have hcomp : (voteEnded b bad short f c s).comp = s.comp := hended.rest.part .comp (by decide)
  have hrun : voteResult b bad short f s = applySkip c f (voteEnded b bad short f c s) := by
    rw [voteResult_eq h.commit h.use h.agrees, hskip]
    rfl
  rw [hrun]
  refine ⟨?_, ?_, fun hcanon n => ?_, fun j r hr hd hlife hno => ?_, ?_⟩
  · exact (applySkip_outcome (c := c) (hended.mem_commits h.commit) rfl (allRecs_congr hstreams ▸ hrecs)).of_before hended.rest
  · exact (congrArg Bucket.state (applySkip_bucket ..)).trans hended.free
  · rw [applySkip_slot (hcomp.symm ▸ hcanon), slotStat_congr (congrArg ComputeSt.slots hcomp)]
  · exact applySkip_update (by rwa [stream_congr hstreams]) hd hlife hno
  · exact sameBut_then (applySkip_sameBut ..) (by decide) (sameBut_mono hended.rest (by decide))

theorem voteResult_outcome (hcase : c.finished = false ∨ (bad || short) = true) (hres : s.link.residuals = [])
    (hrecs : ∀ x ∈ allRecs s, x.1 = c.stream → x.2.seq = c.seq → ∃ d, x.2.desc = .stepCommit d) :
    VoteOutcome c (bad || short) s (voteResult b bad short f s) ∧ (bucket (voteResult b bad short f s) b).state = .free := by
  cases hskip : bad || short with
  | false =>
    obtain ⟨houtcome, hfree, -, -⟩ := voteResult_commits h (hcase.resolve_right (by simp [hskip])) hskip hres
    exact ⟨houtcome, hfree⟩
  | true =>
    obtain ⟨houtcome, hfree, -, -, -⟩ := voteResult_skips h hskip hrecs
    exact ⟨houtcome, hfree⟩

end

end

/-- Settles O48: a descriptor's command is the work of its kind and the settling; a vote's result frees its bucket, and then
commits, skips, or after an abort does no more. -/
theorem stepGuard : Obligations.StepGuard := by
  unfold Obligations.StepGuard
  intro s hclean
  refine ⟨fun i h b hs hpos hslots hend ha => ?_, fun i h b p hs hafter hnone hplan hfree => ?_,
    fun i h b hc hpos hafter => ?_, fun b bad short f c hb hc huse hagree hask hwait hres hrecs => ⟨?_, ?_⟩⟩
  · obtain ⟨htook, hcommitted, hrest⟩ := offerDesc_scaleCommit hclean hs hpos hslots hend ha
    refine ⟨_, onUnit_stream hs.1 _, htook, hrest, fun k hk => ?_, fun n hn => ?_, hcommitted.bytes⟩
    · have hin : b.first + k ∈ commitSlots b := mem_commitSlots.mpr (by omega)
      refine ⟨hcommitted.record k hk, ?_, hcommitted.partials _ (by omega) hin⟩
      rw [hcommitted.slots, if_pos hin]
      rfl
    · rw [hcommitted.slots, if_neg (mt mem_commitSlots.mp (by omega))]
  · obtain ⟨htook, ⟨l, hstep, hmem⟩, ⟨o, k, hbucket, huse, hop, helements, hplan', hraw, hnonfinite⟩, hrest⟩ :=
      offerDesc_stepCommit hclean hs hafter hnone hplan hfree
    refine ⟨_, onUnit_stream hs.1 _, htook, by rw [hstep], by rw [hstep], by rw [hstep],
      ⟨_, by rw [hstep]; exact hmem, rfl, rfl, rfl, rfl, rfl, rfl, rfl⟩, ?_, hrest⟩
    rw [hbucket]
    exact ⟨rfl, huse, hop, helements, hplan', k, rfl, hraw, hnonfinite⟩
  · obtain ⟨r, hwindow, hdone, hstatus, hdetail, ⟨n, l, hstep⟩, hrest⟩ := offerDesc_stepCommit_misplaced hc hpos hafter
    exact ⟨_, r, onUnit_stream hc _, hwindow, hdone, hstatus, hdetail, by rw [hstep], by rw [hstep], by rw [hstep], hrest⟩
  all_goals
    have hvote : Votable s b bad short f c := ⟨hc, huse, hagree, hask, hwait⟩
    have hsettle := settle_sameBut s (voteResult b bad short f s)
    have hlink := hsettle.part .link (by decide)
  · intro hfinished hskip
    obtain ⟨hfree, ⟨l, hstep⟩, hrest⟩ := voteResult_aborted hvote hfinished hskip
    have hstep' := (hsettle.part .stepGuard (by decide)).trans hstep
    exact ⟨_, exec_voteResult hb, (congrArg Bucket.state (bucket_congr hlink b)).trans hfree, by rw [hstep'], by rw [hstep'],
      sameBut_then hsettle (by decide) (sameBut_mono hrest (by decide))⟩
  · intro hcase
    obtain ⟨houtcome, hfree⟩ := voteResult_outcome hvote hcase hres hrecs
    obtain ⟨hflag, ⟨hlast, hvalid, htag⟩, hcommit, hversion, hrecord⟩ := houtcome.congr hsettle
    have hslots : (settle s (voteResult b bad short f s)).comp.slots = (voteResult b bad short f s).comp.slots :=
      congrArg ComputeSt.slots (hsettle.part .comp (by decide))
    refine ⟨_, exec_voteResult hb, (congrArg Bucket.state (bucket_congr hlink b)).trans hfree, hflag, hlast, hvalid, htag,
      hcommit, hversion, fun r hr hq hopen => ⟨_, hrecord r hr hq hopen, hq, rfl, rfl, rfl⟩,
      fun hskip => ?_, fun hskip => ?_⟩
    · have hfinished : c.finished = false := hcase.resolve_right (by simp [hskip])
      obtain ⟨-, -, hslot, hrest⟩ := voteResult_commits hvote hfinished hskip hres
      refine ⟨fun n => ?_, sameBut_then hsettle (by decide) (sameBut_mono hrest (by decide))⟩
      rw [slotStat_congr hslots, hslot]
      rfl
    · obtain ⟨-, -, hslot, hskipped, hrest⟩ := voteResult_skips hvote hskip hrecs
      refine ⟨fun hcanon n => ?_, fun j r hr hd hrun hno => ?_,
        sameBut_then hsettle (by decide) (sameBut_mono hrest (by decide))⟩
      · rw [slotStat_congr hslots, hslot hcanon]
        rfl
      · refine ⟨skippedRec r, ?_, rfl, rfl, Bool.or_true _⟩
        rw [stream_settle]
        exact hskipped j r hr hd hrun hno

end Sys2Proof.Machine
end


section
/-! Refutation of O47: nothing in the statement excludes a window that holds two descriptors of one sequence number. The
completion of an UPDATE (R178) is that of the first of them; the second may be complete already, with a status and flags of
its own. -/

namespace Sys2Proof.Machine

/-- An UPDATE that runs, number 0 of its stream, with nothing saturated. -/
def openUpdate : Rec := { (default : Rec) with seq := 0, desc := .update default, life := .running, flags := CFlags.none }

/-- Another descriptor of that number, that saturated and ended with MEM_UE. -/
def failedTwin : Rec := { openUpdate with life := .done, status := stMemUE, flags := { CFlags.none with sat := true } }

/-- Weight 0, UPDATING for descriptor 0 of stream 0, with no result held. -/
def updatingWeight : Weight := { Weight.empty with registered := true, updates := [(0, 0)], state := 1 }

/-- A module with that weight, and both descriptors of number 0 in the window of stream 0. -/
def twinUpdates : State :=
  modStream (setWeight State.reset 0 updatingWeight) 0 (fun x => { x with window := [openUpdate, failedTwin] })

/-- The first of them is the one that is found. -/
theorem findRec_twinUpdates : findRec twinUpdates 0 0 = some openUpdate := by decide

/-- The UPDATE completes with nothing saturated; its twin stays as it failed. -/
theorem window_finishUpdate_twinUpdates : (stream (finishUpdate 0 twinUpdates) 0).window
    = [completed stOK 0 0 CFlags.none openUpdate, failedTwin] := by decide

/-- Refutes O47: of two descriptors of number 0 in the window of stream 0 the second failed and is flagged as saturated, and
after UPDATE_COMPLETE no descriptor of that number has both status OK and that flag. -/
theorem not_stashAndUpdate : ¬ Obligations.StashAndUpdate := by
  unfold Obligations.StashAndUpdate
  intro h
  obtain ⟨-, -, -, -, -, -, hcomplete⟩ := h twinUpdates 0 default ⟨rfl, rfl, rfl⟩
  have hopen : ∀ r, findRec twinUpdates 0 0 = some r → r.life ≠ .done := by
    rw [findRec_twinUpdates]
    rintro r ⟨⟩
    exact Life.noConfusion
  obtain ⟨t, he, -, -, hflags, -⟩ := (hcomplete 0 0 0 [] (by decide) (by decide)).1 (by decide) (by decide) hopen
  have hexec : exec (.updateComplete 0) twinUpdates = .next (settle twinUpdates (finishUpdate 0 twinUpdates)) := rfl
  obtain rfl := Host.Outcome.next.inj (hexec.symm.trans he)
  obtain ⟨x, hx, -, -, hok, hsat, -⟩ := hflags failedTwin (by decide) rfl
  rw [stream_settle, window_finishUpdate_twinUpdates] at hx
  have hflag : x.flags.sat = true := hsat
  obtain rfl | rfl := List.mem_pair.mp hx
  · exact absurd hflag (by decide)
  · exact absurd hok (by decide)

end Sys2Proof.Machine
end

section
/-! A range inside one that a requester may use (R246). -/

namespace Sys2Proof.Machine

section
variable {s t : State} {a n b m : Nat}

/-- Where no data has moved, whether a place is stranded is said of its 256-byte unit. -/
theorem stranded_of_unit (hmoved : s.mem.moved = []) (h : a / 256 = b / 256) : stranded s a = stranded s b := by
  have hphys (x : Nat) : phys s x = x := by simp [phys, hmoved]
  have hstack (x : Nat) : x / stackSize = x / 256 / (stackSize / 256) := by
    unfold stackSize
    omega
  simp only [stranded, chanOf, hphys, hstack, h]

theorem mem_pieces {x : Nat × Nat} (h : x ∈ pieces a n) :
    0 < n ∧ a / 256 ≤ x.1 / 256 ∧ x.1 / 256 ≤ (a + n - 1) / 256 := by
  unfold pieces at h
  split at h
  · cases h
  · obtain ⟨k, hk, rfl⟩ := List.mem_map.mp h
    rw [List.mem_range] at hk
    dsimp only
    omega

theorem exists_piece {u : Nat} (hn : 0 < n) (hlo : a / 256 ≤ u) (hhi : u ≤ (a + n - 1) / 256) :
    ∃ x ∈ pieces a n, x.1 / 256 = u := by
  refine ⟨_, by
    rw [pieces, if_neg hn.ne']
    exact List.mem_map.mpr ⟨u - a / 256, List.mem_range.mpr (by omega), rfl⟩, ?_⟩
  dsimp only
  omega

/-- A piece of part of a range that is stranded lies in a stranded piece of the range. -/
theorem stranded_of_part (hmoved : s.mem.moved = []) (hlo : a ≤ b) (hhi : b + m ≤ a + n)
    (h : (pieces b m).any (fun p => stranded s p.1) = true) : (pieces a n).any (fun p => stranded s p.1) = true := by
  obtain ⟨x, hx, hs⟩ := List.any_eq_true.mp h
  obtain ⟨hm, hfirst, hlast⟩ := mem_pieces hx
  obtain ⟨y, hy, hunit⟩ := exists_piece (a := a) (n := n) (u := x.1 / 256) (by omega) (by omega) (by omega)
  exact List.any_eq_true.mpr ⟨y, hy, (stranded_of_unit hmoved hunit).trans hs⟩

theorem sliceOf_some {p : Nat} : sliceOf a = some p ↔
    2 ^ 40 ≤ a ∧ (a - 2 ^ 40) / 0x2000000 = p ∧ p < 1216 ∧ (a - 2 ^ 40) % 0x2000000 < 0x1C00000 := by
  unfold sliceOf
  split
  next h =>
    rw [Option.some.injEq]
    exact ⟨fun hp => ⟨h.1, hp, hp ▸ h.2⟩, fun hp => hp.2.1⟩
  next h =>
    constructor
    · exact nofun
    · rintro ⟨hbase, rfl, hrest⟩
      exact absurd ⟨hbase, hrest⟩ h

/-- What lies between two places of one slice lies in it. -/
theorem sliceOf_between {p c : Nat} (ha : sliceOf a = some p) (hb : sliceOf b = some p) (hlo : a ≤ c) (hhi : c ≤ b) :
    sliceOf c = some p := by
  rw [sliceOf_some] at *
  omega

/-- A part of a range that may be used may be used. -/
theorem access_part (hmoved : s.mem.moved = []) (h : access s a n = .ok) (hlo : a ≤ b) (hhi : b + m ≤ a + n) (hm : 0 < m) :
    access s b m = .ok := by
  have hmax : max n 1 = n := by omega
  have hmax' : max m 1 = m := by omega
  unfold access at h ⊢
  rw [hmax] at h
  rw [hmax']
  by_cases hhbm : a + n ≤ hbmEnd
  · rw [if_pos hhbm] at h
    rw [if_pos (by omega)]
    split at h
    next => cases h
    next hwhole =>
      refine if_neg fun hpart => hwhole ?_
      rw [Bool.and_eq_true] at hpart ⊢
      exact ⟨hpart.1, stranded_of_part hmoved hlo hhi hpart.2⟩
  · rw [if_neg hhbm] at h
    split at h
    next p hp =>
      split at h
      next hends =>
        have hlast : sliceOf (a + n - 1) = some p := hends.resolve_right (by omega)
        have hbase := (sliceOf_some.mp hp).1
        have hfirst := sliceOf_between hp hlast hlo (by omega)
        have hover : ¬ b + m ≤ hbmEnd := by unfold hbmEnd; omega
        rw [if_neg hover, hfirst]
        exact (if_pos (.inl (sliceOf_between hp hlast (by omega) (by omega)))).trans h
      next => cases h
    next => cases h

end

end Sys2Proof.Machine
end

section
/-! Generation snapshots (R183): what the work of a MOVE SNAPSHOT reads, and where it stores. -/

namespace Sys2Proof.Machine

section
variable {s t u : State} {a b n req : Nat}

theorem checkRange_ok (h : access s a n = .ok) (off : Nat) : checkRange a n off s = (.ok (), s) := by
  simp only [checkRange, mm_bind (mGet_apply s), h, mm_pure]

/-- The record of a registered weight, where its 128 bytes can be read. -/
theorem readWRec_ok {w : Nat} (hc : cleanMem s) (hreg : (weight s w).registered = true)
    (ha : access s (weight s w).addr 128 = .ok)
    (hfits : adapterTooWide (wrecOf (bytesAt s.mem.data (weight s w).addr 128)) = false) (off : Nat) :
    readWRec w off s = (.ok (wrecOf (bytesAt s.mem.data (weight s w).addr 128)), s) := by
  simp only [readWRec, mm_bind (mGet_apply s), hreg, Bool.not_true, mm_bind (mGuard_false _ _ s), mm_bind (mReq_apply s),
    mm_bind (mRead_ok hc ha _), hfits, mm_pure]

/-! ### Stores inside one range -/

/-- From `s` to `t` bytes were stored in the `n` bytes from `a` and nowhere else, and units counted. -/
structure StoredIn (a n : Nat) (s t : State) : Prop where
  mem : ∃ d, t.mem = { s.mem with data := d }
  outside : ∀ x, (x < a ∨ a + n ≤ x) → byteAt t.mem.data x = byteAt s.mem.data x
  rest : sameBut [.mem, .counters] s t

namespace StoredIn

theorem refl : StoredIn a n s s := ⟨⟨s.mem.data, rfl⟩, fun _ _ => rfl, sameBut_refl _ s⟩

theorem trans (h : StoredIn a n s t) (k : StoredIn a n t u) : StoredIn a n s u where
  mem := by
    obtain ⟨_, ht⟩ := h.mem
    obtain ⟨d, hu⟩ := k.mem
    exact ⟨d, by rw [hu, ht]⟩
  outside x hx := (k.outside x hx).trans (h.outside x hx)
  rest := sameBut_trans h.rest k.rest

theorem clean (h : StoredIn a n s t) (hc : cleanMem s) : cleanMem t := by
  obtain ⟨d, hd⟩ := h.mem
  unfold cleanMem at *
  rwa [hd]

/-- What a range is to a requester does not depend on the bytes stored. -/
theorem access (h : StoredIn a n s t) (x m : Nat) : access t x m = access s x m := by
  obtain ⟨d, hd⟩ := h.mem
  exact access_of_cloves (s := { s with mem := { s.mem with data := d } }) hd
    (congrArg ComputeSt.cloves (h.rest.part .comp (by decide))) (congrArg ComputeSt.tileOut (h.rest.part .comp (by decide))) x m

end StoredIn

/-- Work that, from `s` and from every state that stores inside a range have made of it, goes through and stores there alone. -/
def StoresM (a n : Nat) (s : State) (w : MM Unit) : Prop :=
  ∀ t, StoredIn a n s t → ∃ u, w t = (.ok (), u) ∧ StoredIn a n s u

theorem StoresM.forM {α : Type} {f : α → MM Unit} {l : List α} (hf : ∀ x ∈ l, StoresM a n s (f x)) :
    StoresM a n s (l.forM f) := by
  induction l with
  | nil => exact fun t ht => ⟨t, rfl, ht⟩
  | cons x l ih =>
    intro t ht
    obtain ⟨u, hu, hs⟩ := hf x (List.mem_cons_self ..) t ht
    obtain ⟨v, hv, hs'⟩ := ih (fun y hy => hf y (List.mem_cons_of_mem _ hy)) u hs
    exact ⟨v, (mm_bind hu _).trans hv, hs'⟩

/-- A write of accessible bytes inside the range puts them. -/
theorem mWrite_storedIn {bs : List Byte} (hc : cleanMem s) (ht : StoredIn a n s t) (ha : access s b bs.length = .ok)
    (hlo : a ≤ b) (hhi : b + bs.length ≤ a + n) (req : Nat) :
    ∃ u, mWrite b bs req t = (.ok (), u) ∧ u.mem.data = putBytes t.mem.data b bs ∧ StoredIn a n s u := by
  obtain ⟨v, hv, hw⟩ := writeMem_clean (ht.clean hc) ((ht.access ..).trans ha) req
  have hmem : v.mem = t.mem := hv.part .mem (by decide)
  refine ⟨modMem v (fun m => { m with data := putBytes m.data b bs }), by simp only [mWrite, hw], by simp [hmem], ht.trans ?_⟩
  refine ⟨⟨putBytes t.mem.data b bs, by simp [hmem]⟩, fun x hx => ?_,
    sameBut_then (modMem_sameBut ..) (by decide) (sameBut_mono hv (by decide))⟩
  have hdata : (modMem v (fun m => { m with data := putBytes m.data b bs })).mem.data = putBytes t.mem.data b bs := by simp [hmem]
  rw [hdata]
  exact byteAt_putBytes_outside _ _ _ _ (by omega)

/-! ### Blocks -/

/-- A block lies in its tensor. -/
theorem blockAt_within {e : TEntry} {br bc : Nat} (hmajor : e.timeMajor = false) (hbr : br < rowBlocks e)
    (hbc : bc < colBlocks e) :
    e.base ≤ blockAt e br bc ∧ blockAt e br bc + blockBytes e ≤ e.base + tensorBytes e := by
  have hno : (blockNo e br bc + 1) * blockBytes e ≤ rowBlocks e * colBlocks e * blockBytes e :=
    Nat.mul_le_mul_right _ (by unfold blockNo; nlinarith)
  have hbytes : tensorBytes e = rowBlocks e * colBlocks e * blockBytes e := by simp [tensorBytes, hmajor]
  rw [Nat.succ_mul] at hno
  unfold blockAt
  omega

theorem blockBytes_pos (e : TEntry) : 0 < blockBytes e := by
  have hbits (f : Fmt) : 0 < fmtBits f := by cases f <;> decide
  exact Nat.mul_pos (by decide) (hbits _)

/-- A block of an accessible tensor is accessible. -/
theorem access_block {e : TEntry} {br bc m : Nat} (hc : cleanMem s) (ha : access s e.base m = .ok) (hm : tensorBytes e ≤ m)
    (hmajor : e.timeMajor = false) (hbr : br < rowBlocks e) (hbc : bc < colBlocks e) :
    access s (blockAt e br bc) (blockBytes e) = .ok := by
  obtain ⟨hlo, hhi⟩ := blockAt_within hmajor hbr hbc
  exact access_part hc.1 ha hlo (by omega) (blockBytes_pos e)

theorem readBlock_ok {e : TEntry} {br bc : Nat} (hc : cleanMem s) (hmajor : e.timeMajor = false)
    (ha : access s (blockAt e br bc) (blockBytes e) = .ok) (req : Nat) : ∃ v, readBlock e br bc req s = (.ok v, s) := by
  refine ⟨blockCodes (eBits e) (bytesAt s.mem.data (blockAt e br bc) (blockBytes e)), ?_⟩
  rw [readBlock, if_neg (by simp [hmajor])]
  exact (mm_bind (mRead_ok hc ha req) _).trans (mm_pure _ s)

/-! ### The work -/

section
variable {r : WRec}

/-- One block of a snapshot without group scales is read of the record's high half and stored in its place. -/
theorem snapBlock_stores {br bc : Nat} (hc : cleanMem s) (hscaled : fmtScaled (eFmt (snapEntry r)) = false)
    (hdst : access s r.snapshot n = .ok) (hn : tensorBytes (snapEntry r) ≤ n)
    (hsrc : access s r.high (tensorBytes (highEntry r r.high)) = .ok) (hbr : br < rowBlocks (snapEntry r))
    (hbc : bc < colBlocks (snapEntry r)) (req : Nat) :
    StoresM r.snapshot n s (snapBlock (highEntry r r.high) (snapEntry r) br bc req) := by
  intro t ht
  have hread := access_block (e := highEntry r r.high) hc hsrc le_rfl rfl hbr hbc
  have hwrite := access_block hc hdst hn rfl hbr hbc
  obtain ⟨hlo, hhi⟩ := blockAt_within rfl hbr hbc
  obtain ⟨v, hv⟩ := readBlock_ok (ht.clean hc) rfl ((ht.access ..).trans hread) req
  have hstore (codes : Array Nat) : ∃ u, writeBlock (snapEntry r) br bc req codes t = (.ok (), u)
      ∧ StoredIn r.snapshot n s u := by
    obtain ⟨u, hu, -, hs⟩ := mWrite_storedIn (b := blockAt (snapEntry r) br bc)
      (bs := blockBytesOf (eBits (snapEntry r)) codes) hc ht (by rwa [length_blockBytesOf]) hlo
      (by rw [length_blockBytesOf]; exact hhi.trans (Nat.add_le_add_left hn _)) req
    exact ⟨u, (congrFun (if_neg Bool.false_ne_true) t).trans hu, hs⟩
  simp only [snapBlock, mm_bind hv, hscaled, Bool.false_eq_true, if_false]
  exact hstore _

/-- What the work of a MOVE SNAPSHOT leaves: stores inside the snapshot, and its version plane. -/
structure Snapshotted (r : WRec) (version : Nat) (s t : State) : Prop where
  stored : StoredIn r.snapshot (tensorBytes (snapEntry r) + rowBlocks (snapEntry r) * colBlocks (snapEntry r)) s t
  plane : ∀ k, k < rowBlocks (snapEntry r) * colBlocks (snapEntry r) →
    byteAt t.mem.data (r.snapshot + tensorBytes (snapEntry r) + k) = BitVec.ofNat 8 version

/-- A snapshot's blocks and its version plane are stored. -/
theorem storeSnapshot_ok (hc : cleanMem s) (hscaled : fmtScaled (eFmt (snapEntry r)) = false)
    (hdst : access s r.snapshot (tensorBytes (snapEntry r) + rowBlocks (snapEntry r) * colBlocks (snapEntry r)) = .ok)
    (hsrc : access s r.high (tensorBytes (highEntry r r.high)) = .ok) (hrows : 0 < r.rows) (hcols : 0 < r.cols)
    (version req : Nat) : ∃ t, (do
        (List.range (rowBlocks (snapEntry r))).forM (fun br => (List.range (colBlocks (snapEntry r))).forM (fun bc =>
          snapBlock (highEntry r r.high) (snapEntry r) br bc req))
        mWrite ((snapEntry r).base + tensorBytes (snapEntry r))
          (List.replicate (rowBlocks (snapEntry r) * colBlocks (snapEntry r)) (BitVec.ofNat 8 version)) req : MM Unit) s
          = (.ok (), t) ∧ Snapshotted r version s t := by
  have hblocks : StoresM r.snapshot (tensorBytes (snapEntry r) + rowBlocks (snapEntry r) * colBlocks (snapEntry r)) s
      ((List.range (rowBlocks (snapEntry r))).forM (fun br => (List.range (colBlocks (snapEntry r))).forM (fun bc =>
        snapBlock (highEntry r r.high) (snapEntry r) br bc req))) :=
    .forM fun br hbr => .forM fun bc hbc => snapBlock_stores hc hscaled hdst (Nat.le_add_right ..) hsrc
      (List.mem_range.mp hbr) (List.mem_range.mp hbc) req
  obtain ⟨t, hw, ht⟩ := hblocks s .refl
  have hpos : 0 < rowBlocks (snapEntry r) * colBlocks (snapEntry r) := by
    refine Nat.mul_pos (show 0 < (r.rows + 63) / 64 from ?_) (show 0 < (r.cols + 63) / 64 from ?_) <;> omega
  have hlen : (List.replicate (rowBlocks (snapEntry r) * colBlocks (snapEntry r)) (BitVec.ofNat 8 version)).length
    = rowBlocks (snapEntry r) * colBlocks (snapEntry r) := List.length_replicate
  obtain ⟨u, hu, hdata, hstored⟩ := mWrite_storedIn (b := r.snapshot + tensorBytes (snapEntry r)) hc ht
    (by rw [hlen]; exact access_part hc.1 hdst (Nat.le_add_right ..) (Nat.add_assoc ..).le hpos)
    (Nat.le_add_right ..) (by rw [hlen, Nat.add_assoc]) req
  refine ⟨u, (mm_bind hw _).trans hu, hstored, fun k hk => ?_⟩
  rw [hdata, byteAt_putBytes_inside _ _ _ _ (by rwa [hlen]), List.getD_replicate _ hk]

theorem moveSnapshot_ok {b : MoveBody} (hc : cleanMem s) (harg : b.arg0 ≤ 4095)
    (hreg : (weight s b.arg0).registered = true) (ha : access s (weight s b.arg0).addr 128 = .ok)
    (hr : wrecOf (bytesAt s.mem.data (weight s b.arg0).addr 128) = r)
    (hfmt : ∃ f, fmtOf r.snapFmt = some f ∧ snapOk f = true ∧ fmtScaled f = false) (hnone : r.snapshot ≠ 0)
    (halign : r.snapshot % 4096 = 0)
    (hdst : access s r.snapshot (tensorBytes (snapEntry r) + rowBlocks (snapEntry r) * colBlocks (snapEntry r)) = .ok)
    (hsrc : access s r.high (tensorBytes (highEntry r r.high)) = .ok) (hrows : 0 < r.rows) (hcols : 0 < r.cols)
    (hhigh : r.high % 4096 = 0) (hfits : adapterTooWide r = false) :
    ∃ t, moveSnapshot b s = (.ok (), t) ∧ Snapshotted r (weight s b.arg0).version s t := by
  obtain ⟨f, hcode, hok, hscaled⟩ := hfmt
  have hscaled' : fmtScaled (eFmt (snapEntry r)) = false := by simpa [eFmt, snapEntry, hcode] using hscaled
  have harg' : decide (4095 < b.arg0) = false := decide_eq_false (by omega)
  have hread := readWRec_ok hc hreg ha (by rwa [hr]) 0x28
  rw [hr] at hread
  obtain ⟨t, hw, ht⟩ := storeSnapshot_ok hc hscaled' hdst hsrc hrows hcols (weight s b.arg0).version (reqSeq (seqTile s 0))
  refine ⟨t, ?_, ht⟩
  have hbase : (highEntry r r.high).base = r.high := rfl
  have hbase' : (snapEntry r).base = r.snapshot := rfl
  rw [hbase'] at hw
  simp only [moveSnapshot, harg', mm_bind (mGuard_false _ _ s), mm_bind hread, hcode, hok, Bool.not_true, hnone, halign, hhigh,
    decide_false, ne_eq, not_true_eq_false, Bool.or_self, hbase, hbase', mm_bind (checkRange_ok hsrc _),
    mm_bind (checkRange_ok hdst _), hscaled', Bool.false_eq_true, if_false, mm_bind (mGet_apply s),
    mm_bind (mReq_apply s)]
  exact hw

end

end

/-- Settles O26: the work stores the blocks and the version plane, and its completion moves no memory. -/
theorem generationSnapshot : Obligations.GenerationSnapshot := by
  unfold Obligations.GenerationSnapshot
  intro s i h b hclean hs harg hreg ha r d n hfmt hnone halign hdst hsrc hrows hcols hhigh hfits
  have hat := atWork_sameBut i h (.move 8 b) s
  have hmem : (atWork i h (.move 8 b) s).mem = s.mem := hat.part .mem (by decide)
  have hweight : weight (atWork i h (.move 8 b) s) b.arg0 = weight s b.arg0 := weight_congr (comp_atWork ..) _
  have haccess (x m : Nat) : access (atWork i h (.move 8 b) s) x m = access s x m := access_congr hmem (comp_atWork ..) x m
  obtain ⟨t, hw, ⟨hstored, hplane⟩⟩ := moveSnapshot_ok (s := atWork i h (.move 8 b) s) (r := r)
    (cleanMem_atWork hclean ..) harg (by rw [hweight]; exact hreg) (by rw [haccess, hweight]; exact ha) (by rw [hweight, hmem])
    hfmt hnone halign ((haccess ..).trans hdst) ((haccess ..).trans hsrc) hrows hcols hhigh hfits
  obtain ⟨htook, hrest⟩ := offerDesc_move_ok hclean hs (fun _ => rfl) hw (holds_of_work hs hstored.rest)
  have hdata : (offerDesc i h (.move 8 b) s).mem = t.mem := hrest.part .mem (by decide)
  refine ⟨_, onUnit_stream hs.1 _, htook, fun k hk => ?_, fun x hx => ?_, sameBut_of_work hstored.rest hrest⟩
  · rw [hdata, hplane k hk, hweight]
  · rw [hdata, hstored.outside x (by rw [← Nat.add_assoc]; exact hx), hmem]

end Sys2Proof.Machine
end

section
/-! Copies, the shadow's trailer, and LNK_BKT with its cancel (R187, R294, R295, R304, R305, R308). -/

namespace Sys2Proof.Machine

section
variable {s t : State} {b i q n : Nat} {r : Rec} {c : BackupCopy}

/-! ### Copies -/

/-- A copy for a bucket that is not armed, the first for its stand-in, is held. -/
theorem receiveCopy_first (hidle : (bucket s c.bucket).state = .free ∨ (bucket s c.bucket).state = .waitArm)
    (hfirst : s.link.heldCopies.any (fun d => d.bucket == c.bucket && d.standIn == c.standIn) = false) :
    receiveCopy c s = modLink s (fun l => { l with heldCopies := l.heldCopies ++ [c] }) := by
  simp only [receiveCopy, hidle, hfirst, if_true, Bool.false_eq_true, if_false]

/-- Another for the same stand-in is counted. -/
theorem receiveCopy_again (hidle : (bucket s c.bucket).state = .free ∨ (bucket s c.bucket).state = .waitArm)
    (hheld : s.link.heldCopies.any (fun d => d.bucket == c.bucket && d.standIn == c.standIn) = true) :
    receiveCopy c s = count (linkBase 0 + 0x2004) 1 s := by
  simp only [receiveCopy, hidle, hheld, if_true]

theorem receiveCopy_armed (harmed : ¬ ((bucket s c.bucket).state = .free ∨ (bucket s c.bucket).state = .waitArm)) :
    receiveCopy c s = takeCopy c s := if_neg harmed

/-- An armed bucket knows who sent it a copy. -/
def asked (n : Nat) (x : Bucket) : Bucket := { x with askers := (x.askers ++ [n]).dedup }

theorem takeCopy_fits (h : copyFits s (bucket s c.bucket) c = true) : takeCopy c s
    = setBucket s c.bucket { asked c.sender (bucket s c.bucket) with copies := (bucket s c.bucket).copies ++ [c] } :=
  if_pos h

theorem takeCopy_misfits (h : copyFits s (bucket s c.bucket) c = false) : takeCopy c s
    = count (linkBase (treeTile (bucket s c.bucket).plan 0) + 0x2004) 1
        (setBucket s c.bucket (asked c.sender (bucket s c.bucket))) :=
  if_neg (by simp [h])

theorem exec_backupCopyReceive (hb : c.bucket < 4096) : exec (.backupCopyReceive c) s = .next (receiveCopy c s) :=
  if_pos (decide_eq_true hb)

/-- A count after other changes gives what it would have given before them, where they leave the registers. -/
theorem count_after {l : List Part} {u : State} (h : sameBut l s u) (hreg : u.reg = s.reg) (a n : Nat) :
    (count a n u).reg = (count a n s).reg ∧ sameBut (l ++ [.counters]) s (count a n u) :=
  ⟨count_reg_congr hreg a n,
    sameBut_then (count_sameBut a n u) (by simp) (sameBut_mono h fun _ hp => List.mem_append_left _ hp)⟩

/-! ### The trailer that comes back to a shadow -/

theorem stepFlag_setStepFlag (tag layer tensor : Nat) (s : State) : stepFlag (setStepFlag tag layer tensor s) tag = true := by
  unfold setStepFlag
  split
  next h => exact h
  next => exact sget_sset_same ..

theorem setStepFlag_sameBut (tag layer tensor : Nat) (s : State) : sameBut [.stepGuard] s (setStepFlag tag layer tensor s) :=
  sameBut_ite (sameBut_refl ..) (modStep_sameBut ..)

/-- The step's flag is set where the trailer is NONFINITE. -/
def flagged (z : Trailer) (r : Rec) (s : State) : State :=
  if z.nonfinite then setStepFlag r.step r.hdr.layer r.hdr.tensorId s else s

theorem flagged_sameBut (z : Trailer) (r : Rec) (s : State) : sameBut [.stepGuard] s (flagged z r s) :=
  sameBut_ite (setStepFlag_sameBut ..) (sameBut_refl ..)

/-- The trailer may teach the bucket's entry; its shadow is no longer one, and completes. -/
theorem shadowTrailer_eq {z : Trailer} (hshadow : s.link.shadows.find? (fun x => x.1 == b) = some (b, i, q))
    (hrec : findRec s i q = some r) : ∃ u, shadowTrailer b z s = completeOK i q (flagged z r u) ∧ sameBut [.link] s u
      ∧ (b, i, q) ∉ u.link.shadows := by
  obtain ⟨e, he⟩ := learnEntry_link b z.op z.word z s
  refine ⟨modLink s (fun l => { l with entries := e, shadows := l.shadows.filter (fun x => x != (b, i, q)) }), ?_,
    modLink_sameBut .., by simp⟩
  simp only [shadowTrailer, hshadow, hrec, he]
  rfl

theorem shadowTrailer_completes {z : Trailer} (hshadow : s.link.shadows.find? (fun x => x.1 == b) = some (b, i, q))
    (hrec : findRec s i q = some r) (hwin : r ∈ (stream s i).window) (hopen : r.life ≠ .done) :
    findRec (shadowTrailer b z s) i q = some (completed stOK 0 0 CFlags.none r)
      ∧ (b, i, q) ∉ (shadowTrailer b z s).link.shadows
      ∧ (z.nonfinite = true → stepFlag (shadowTrailer b z s) r.step = true)
      ∧ (z.nonfinite = false → (shadowTrailer b z s).step = s.step)
      ∧ sameBut [.link, .streams, .stepGuard] s (shadowTrailer b z s) := by
  obtain ⟨u, he, hu, hgone⟩ := shadowTrailer_eq (z := z) hshadow hrec
  have hflagged := flagged_sameBut z r u
  have hdone : sameBut [.streams] (flagged z r u) (completeOK i q (flagged z r u)) := complete_sameBut ..
  have hstep : (completeOK i q (flagged z r u)).step = (flagged z r u).step := hdone.part .stepGuard (by decide)
  rw [he]
  refine ⟨findRec_of_heldRec ?_, ?_, fun hz => ?_, fun hz => ?_, ?_⟩
  · have hheld : heldRec (flagged z r u) i q = some r :=
      (heldRec_congr ((hflagged.part .streams (by decide)).trans (hu.part .streams (by decide))) i q).trans
        (heldRec_of_findRec hrec hwin)
    have hseq (x : Rec) : (if x.life = .done then x else completed stOK 0 0 CFlags.none x).seq = x.seq := by split <;> rfl
    have hcompleted := heldRec_modRec_self hseq hheld
    rwa [if_neg hopen] at hcompleted
  · rwa [hdone.part .link (by decide), hflagged.part .link (by decide)]
  · rw [stepFlag, hstep, flagged, if_pos hz]
    exact stepFlag_setStepFlag ..
  · rw [hstep, flagged, if_neg (by simp [hz])]
    exact hu.part .stepGuard (by decide)
  · exact sameBut_then hdone (by decide) (sameBut_then hflagged (by decide) (sameBut_mono hu (by decide)))

theorem exec_shadowTrailerReceive {z : Trailer} (hb : b < 4096) :
    exec (.shadowTrailerReceive b z) s = .next (settle s (shadowTrailer b z s)) := if_pos (decide_eq_true hb)

/-! ### LNK_BKT -/

/-- LNK_BKT selects the bucket of its low bits. -/
def selected (v : Nat) (s : State) : State := setReg4 s (linkBase 0 + 0x20) (bitsAt v 11 0)

theorem selected_reg (v : Nat) (s : State) : reg4 (selected v s) (linkBase 0 + 0x20) = bitsAt v 11 0 := by
  have hlt : bitsAt v 11 0 < 2 ^ 12 := Nat.mod_lt _ (by decide)
  rw [selected, reg4_setReg4, Nat.mod_eq_of_lt (by omega)]

/-- The entry that a write of LNK_BKT records (Table 17.13). -/
def writtenEntry (v : Nat) (s : State) : BktEntry :=
  ⟨signedN 16 (bitsAt v 27 12), bitAt v 28, 0, bitAt v 29, reg4 s (linkBase 0 + 0x28)⟩

theorem writeLnkBkt_eq {v : Nat} (hclear : bitAt v 30 = false) : writeLnkBkt v s
    = if bitAt v 31 = false then selected v s
      else if (bucket s (bitsAt v 11 0)).state ≠ .free then modLink (selected v s) (fun l => { l with bktBusyErr := true })
      else modLink (selected v s) (fun l => { l with
        entries := sset BktEntry.empty l.entries (bitsAt v 11 0) (writtenEntry v s) }) := by
  have hother : reg4 (selected v s) (linkBase 0 + 0x28) = reg4 s (linkBase 0 + 0x28) :=
    reg4_setReg4_other _ _ (by decide)
  simp only [writeLnkBkt, hclear, Bool.false_eq_true, if_false, Bool.not_eq_true']
  rw [writtenEntry, ← hother]
  rfl

theorem exec_lnkBktWrite (v : Nat) (hup : hostBlock s = true) : exec (.lnkBktWrite v) s = .next (writeLnkBkt v s) :=
  congrArg Host.Outcome.next (if_pos hup)

/-! ### Pools -/

/-- One change of each number listed. -/
theorem sget_foldl_smod {α : Type} [DecidableEq α] (d : α) (f : Nat → α → α) {l : List Nat} (hl : l.Nodup) (m : Sparse α)
    (k : Nat) : sget d (l.foldl (fun m k => smod d m k (f k)) m) k = if k ∈ l then f k (sget d m k) else sget d m k := by
  induction l generalizing m with
  | nil => simp
  | cons a l ih =>
    obtain ⟨ha, hl⟩ := List.nodup_cons.mp hl
    rw [List.foldl_cons, ih hl]
    by_cases hk : k = a
    · subst hk
      simp [ha, smod, sget_sset_same]
    · simp [hk, smod, sget_sset_other _ _ _ _ hk]

/-- What the pools hold once a bucket of plan `p` has given back what it had reserved. -/
def poolsWithout (p : Plan) (l : Sparse Nat) : Sparse Nat :=
  (List.range 8).foldl (fun m k => smod 0 m k (fun v => v - poolNeed p k)) l

theorem sget_poolsWithout (p : Plan) (l : Sparse Nat) {k : Nat} (hk : k < 8) :
    sget 0 (poolsWithout p l) k = sget 0 l k - poolNeed p k := by
  rw [poolsWithout, sget_foldl_smod 0 (fun k v => v - poolNeed p k) List.nodup_range, if_pos (List.mem_range.mpr hk)]

/-- A bucket that was armed becomes empty and gives back its reservation. -/
theorem freeBucket_armed (hfree : (bucket s b).state ≠ .free) (hwait : (bucket s b).state ≠ .waitArm) :
    freeBucket b s = modLink s (fun y => { y with
      redUsed := poolsWithout (bucket s b).plan y.redUsed, insts := sset Bucket.empty y.insts b Bucket.empty }) := by
  have hrelease : releasePool (bucket s b) s
      = modLink s (fun y => { y with redUsed := poolsWithout (bucket s b).plan y.redUsed }) := if_neg (by simp [hfree, hwait])
  simp only [freeBucket, hrelease, setBucket, modLink]

/-- No contribution waits for the bucket: none is offered again. -/
theorem reopen_none (h : ∀ o ∈ s.link.waiting, o.bucket ≠ b) : reopen b s
    = modLink s (fun y => { y with waiting := y.waiting.filter (fun o => o.bucket != b) }) := by
  have hmine : s.link.waiting.filter (fun o => o.bucket == b) = [] :=
    List.filter_eq_nil_iff.mpr fun o ho => by simpa using h o ho
  simp only [reopen, hmine, List.foldl_nil]

/-! ### Local REDUCEs that end with STREAM_STALL -/

/-- The operations of a descriptor end. -/
def dropOps (l : LocalIn) (y : LinkSt) : LinkSt :=
  { y with
    lowrank := y.lowrank.filter (fun x => !(x.stream == l.stream && x.seq == l.seq))
    ops := y.ops.filter (fun o => !(o.stream == l.stream && o.seq == l.seq)) }

/-- A local contribution's descriptor completes with STREAM_STALL. -/
def stallLocal (s : State) (l : LocalIn) : State :=
  modLink (complete l.stream l.seq stStall 0 0 CFlags.none s) (dropOps l)

/-- Descriptor `q` of stream `i` has completed with STREAM_STALL. -/
def Stalled (i q : Nat) (s : State) : Prop := ∃ x ∈ (stream s i).window, x.seq = q ∧ x.life = .done ∧ x.status = stStall

theorem failVote_none (h : commitAt s i q = none) : failVote i q s = s := by
  simp only [failVote, show s.step.commits.find? _ = none from h]

theorem commitAt_congr (h : t.step = s.step) (i q : Nat) : commitAt t i q = commitAt s i q := by unfold commitAt; rw [h]

theorem stallLocal_sameBut (s : State) (l : LocalIn) : sameBut [.link, .streams] s (stallLocal s l) :=
  sameBut_then (modLink_sameBut ..) (by decide) (sameBut_mono (complete_sameBut ..) (by decide))

theorem window_stallLocal (s : State) (l : LocalIn) (i : Nat) :
    (stream (stallLocal s l) i).window = (stream (complete l.stream l.seq stStall 0 0 CFlags.none s) i).window := rfl

theorem Stalled.stallLocal (h : Stalled i q s) (l : LocalIn) : Stalled i q (stallLocal s l) := by
  obtain ⟨x, hx, hq, hdone, hst⟩ := h
  exact ⟨x, by rw [window_stallLocal]; exact mem_window_complete_other hx (fun _ _ => hdone) .., hq, hdone, hst⟩

theorem Stalled.foldl {ls : List LocalIn} (h : Stalled i q s) : Stalled i q (ls.foldl Machine.stallLocal s) := by
  induction ls generalizing s with
  | nil => exact h
  | cons l ls ih => exact ih (h.stallLocal l)

/-- Each of the descriptors listed stalls. -/
theorem stalled_foldl {ls : List LocalIn} {l : LocalIn} (hl : l ∈ ls) (hr : r ∈ (stream s l.stream).window)
    (hq : r.seq = l.seq) (hopen : r.life ≠ .done) : Stalled l.stream l.seq (ls.foldl stallLocal s) := by
  induction ls generalizing s with
  | nil => cases hl
  | cons k ls ih =>
    rw [List.foldl_cons]
    by_cases hk : l.stream = k.stream ∧ l.seq = k.seq
    · have hdone := mem_window_complete hr hopen stStall 0 0 CFlags.none
      refine Stalled.foldl ⟨completed stStall 0 0 CFlags.none r, ?_, hq, rfl, rfl⟩
      rw [window_stallLocal, ← hk.1, ← hk.2, ← hq]
      exact hdone
    · refine ih ((List.mem_cons.mp hl).resolve_left fun he => hk (he ▸ ⟨rfl, rfl⟩)) ?_
      rw [window_stallLocal]
      exact mem_window_complete_other hr (fun hi hk' => absurd ⟨hi, hq.symm.trans hk'⟩ hk) ..

/-- Stalls drop operations of descriptors and nothing else of the links. -/
theorem foldl_stallLocal_link (ls : List LocalIn) (s : State) : ∃ w o, o ⊆ s.link.ops
    ∧ (ls.foldl stallLocal s).link = { s.link with lowrank := w, ops := o } := by
  induction ls generalizing s with
  | nil => exact ⟨s.link.lowrank, s.link.ops, List.Subset.refl _, rfl⟩
  | cons l ls ih =>
    obtain ⟨w, o, ho, h⟩ := ih (stallLocal s l)
    exact ⟨w, o, fun x hx => List.mem_of_mem_filter (ho hx), h⟩

/-! ### LNK_BKT_CANCEL -/

/-- The descriptors of a bucket's local contributions that are still there. -/
def present (x : Bucket) : List LocalIn := x.locals.filter (fun l => !l.gone)

/-- Where none is a STEP_COMMIT, each stalls. -/
theorem foldl_cancel_eq {ls : List LocalIn} (h : ∀ l ∈ ls, commitAt s l.stream l.seq = none) :
    ls.foldl (fun u l => failVote l.stream l.seq (stallLocal u l)) s = ls.foldl stallLocal s := by
  induction ls generalizing s with
  | nil => rfl
  | cons l ls ih =>
    have hstep : (stallLocal s l).step = s.step := (stallLocal_sameBut s l).part .stepGuard (by decide)
    have hcommit (k) (hk : k ∈ l :: ls) : commitAt (stallLocal s l) k.stream k.seq = none :=
      (commitAt_congr hstep ..).trans (h k hk)
    rw [List.foldl_cons, List.foldl_cons, failVote_none (hcommit l (List.mem_cons_self ..))]
    exact ih fun k hk => hcommit k (List.mem_cons_of_mem _ hk)

/-- The copies held for bucket `b` go. -/
def dropCopies (b : Nat) (y : LinkSt) : LinkSt := { y with heldCopies := y.heldCopies.filter (fun c => c.bucket != b) }

theorem cancelBucket_eq (hb : b < 4096) (hfree : (bucket s b).state ≠ .free)
    (hcommit : ∀ l ∈ (bucket s b).locals, commitAt s l.stream l.seq = none) :
    cancelBucket b s = reopen b (freeBucket b (modLink ((present (bucket s b)).foldl stallLocal s) (dropCopies b))) := by
  have hpresent := foldl_cancel_eq (s := s) (ls := present (bucket s b)) fun l hl => hcommit l (List.mem_of_mem_filter hl)
  have hcancel : cancelBucket b s = reopen b (freeBucket b (modLink
      ((present (bucket s b)).foldl (fun u l => failVote l.stream l.seq (stallLocal u l)) s) (dropCopies b))) := by
    simp only [cancelBucket, hfree, if_false, Nat.mod_eq_of_lt hb]
    rfl
  rw [hcancel, hpresent]

/-- No operation of the engine waits: none is armed. -/
theorem armEngines_armed (h : enginesArmed s) : armEngines s = s := by
  obtain ⟨hops, hcombines⟩ := h
  have hops' : s.link.ops.filter (fun o => !o.armed) = [] := List.filter_eq_nil_iff.mpr fun o ho => by simp [hops o ho]
  have hcombines' : s.link.combines.filter (fun o => !o.armed) = [] :=
    List.filter_eq_nil_iff.mpr fun o ho => by simp [hcombines o ho]
  simp only [armEngines, hops', hcombines', List.foldl_nil]

/-- What the cancel of an armed bucket leaves. -/
structure Cancelled (b : Nat) (s t : State) : Prop where
  empty : bucket t b = Bucket.empty
  others : ∀ k, k ≠ b → bucket t k = bucket s k
  released : ∀ k, k < 8 → sget 0 t.link.redUsed k = sget 0 s.link.redUsed k - poolNeed (bucket s b).plan k
  quiet : t.link.msgs = s.link.msgs
  engines : enginesArmed s → enginesArmed t
  stalled : ∀ l ∈ present (bucket s b), ∀ r ∈ (stream s l.stream).window, r.seq = l.seq → r.life ≠ .done →
    Stalled l.stream l.seq t
  rest : sameBut [.link, .streams] s t

theorem cancelBucket_cancels (hb : b < 4096) (hfree : (bucket s b).state ≠ .free) (hwait : (bucket s b).state ≠ .waitArm)
    (hcommit : ∀ l ∈ (bucket s b).locals, commitAt s l.stream l.seq = none)
    (hnone : ∀ o ∈ s.link.waiting, o.bucket ≠ b) : Cancelled b s (cancelBucket b s) := by
  obtain ⟨w, o, ho, hlink⟩ := foldl_stallLocal_link (present (bucket s b)) s
  have hrest := sameBut_foldl stallLocal_sameBut (present (bucket s b)) s
  have hstalled (l) (hl : l ∈ present (bucket s b)) (r) (hr : r ∈ (stream s l.stream).window) (hq : r.seq = l.seq)
    (hopen : r.life ≠ .done) := stalled_foldl hl hr hq hopen
  rw [cancelBucket_eq hb hfree hcommit]
  generalize (present (bucket s b)).foldl stallLocal s = u at hlink hrest hstalled ⊢
  have hinsts : (modLink u (dropCopies b)).link.insts = s.link.insts := by simp [dropCopies, hlink]
  have hbucket (k : Nat) : bucket (modLink u (dropCopies b)) k = bucket s k := congrArg (sget Bucket.empty · k) hinsts
  have hwaiting : u.link.waiting = s.link.waiting := by rw [hlink]
  rw [freeBucket_armed (by rwa [hbucket]) (by rwa [hbucket]), reopen_none (by simpa [dropCopies, hwaiting] using hnone),
    hbucket]
  exact {
    empty := sget_sset_same ..
    others := fun k hk => (sget_sset_other _ _ _ _ hk).trans (hbucket k)
    released := fun k hk => by simp [dropCopies, hlink, sget_poolsWithout _ _ hk]
    quiet := by simp [dropCopies, hlink]
    engines := fun ⟨hops, hcombines⟩ => by
      simp only [enginesArmed, modLink_link, dropCopies, hlink]
      exact ⟨fun x hx => hops x (ho hx), hcombines⟩
    stalled := hstalled
    rest := sameBut_then (modLink_sameBut ..) (by decide) (sameBut_then (modLink_sameBut ..) (by decide)
      (sameBut_then (modLink_sameBut ..) (by decide) hrest)) }

theorem exec_lnkBktCancel (hb : b < 4096) (hup : hostBlock s = true) :
    exec (.lnkBktCancel b) s = .next (settle s (armEngines (cancelBucket b s))) :=
  (if_pos (decide_eq_true hb)).trans (congrArg Host.Outcome.next (if_pos hup))

end

/-- Settles O42: each of the commands is one change of the links, or the completion of the descriptors that it names. -/
theorem copiesAndEntries : Obligations.CopiesAndEntries := by
  unfold Obligations.CopiesAndEntries
  refine fun s => ⟨fun c hb => ?_, fun b n hb hheld => ?_, fun b i q r z hb hshadow hrec hwin hopen => ?_,
    fun v hup hv hclear => ?_, fun b hup hb harmed hfree hwait hcommit hnone => ?_⟩
  · rw [exec_backupCopyReceive hb]
    refine ⟨fun hidle hfirst => congrArg Host.Outcome.next (receiveCopy_first hidle hfirst), fun hidle hagain => ?_,
      fun harmed hfits => ?_, fun harmed hmisfits => ?_⟩
    · rw [receiveCopy_again hidle (by simpa using hagain)]
      exact ⟨_, rfl, rfl, count_sameBut ..⟩
    · rw [receiveCopy_armed harmed, takeCopy_fits hfits]
      exact ⟨_, rfl, bucket_setBucket .., setBucket_sameBut ..⟩
    · rw [receiveCopy_armed harmed, takeCopy_misfits hmisfits]
      obtain ⟨hreg, hrest⟩ := count_after (setBucket_sameBut c.bucket (asked c.sender (bucket s c.bucket)) s) rfl
        (linkBase (treeTile (bucket s c.bucket).plan 0) + 0x2004) 1
      have hbucket := (bucket_congr ((count_sameBut (linkBase (treeTile (bucket s c.bucket).plan 0) + 0x2004) 1
        (setBucket s c.bucket (asked c.sender (bucket s c.bucket)))).part .link (by decide)) c.bucket).trans
          (bucket_setBucket ..)
      exact ⟨_, rfl, by rw [hbucket]; rfl, by rw [hbucket]; rfl, hreg, hrest⟩
  · have hexec : exec (.copyHoldExpire b n) s = .next (expireCopy b n s) := if_pos (decide_eq_true hb)
    rw [hexec, expireCopy, if_pos hheld]
    obtain ⟨hreg, hrest⟩ := count_after (modLink_sameBut (fun l => { l with
      heldCopies := l.heldCopies.filter (fun d => !(d.bucket == b && d.standIn == n)) }) s) rfl (linkBase 0 + 0x2028) 1
    exact ⟨_, rfl, (count_sameBut ..).part .link (by decide), hreg, hrest⟩
  · obtain ⟨hfind, hgone, hset, hkept, hrest⟩ := shadowTrailer_completes (z := z) hshadow hrec hwin hopen
    have hsettle := settle_sameBut s (shadowTrailer b z s)
    have hlink : (settle s (shadowTrailer b z s)).link = _ := hsettle.part .link (by decide)
    have hstep : (settle s (shadowTrailer b z s)).step = _ := hsettle.part .stepGuard (by decide)
    refine ⟨_, completed stOK 0 0 CFlags.none r, exec_shadowTrailerReceive hb, (findRec_settle ..).trans hfind, rfl, rfl,
      by rwa [hlink], fun hz => ?_,
      fun hz => hstep.trans (hkept hz), sameBut_then hsettle (by decide) (sameBut_mono hrest (by decide))⟩
    rw [stepFlag, hstep]
    exact hset hz
  · rw [exec_lnkBktWrite v hup, writeLnkBkt_eq hclear]
    have hheld : sameBut [.link, .held] s (selected v s) := sameBut_mono (setReg4_sameBut ..) (by decide)
    have hselected (f : LinkSt → LinkSt) : sameBut [.link, .held] s (modLink (selected v s) f) :=
      sameBut_then (modLink_sameBut ..) (by decide) hheld
    refine ⟨fun hread => ?_, fun hwrite hbusy => ?_, fun hwrite hfree => ?_⟩
    · rw [if_pos hread]
      exact ⟨_, ⟨rfl, selected_reg v s, hheld⟩, rfl⟩
    · rw [if_neg (by simp [hwrite]), if_pos hbusy]
      exact ⟨_, ⟨rfl, selected_reg v s, hselected _⟩, rfl⟩
    · rw [if_neg (by simp [hwrite]), if_neg (by simp [hfree])]
      exact ⟨_, ⟨rfl, selected_reg v s, hselected _⟩, rfl⟩
  · have hcancelled := cancelBucket_cancels hb hfree hwait hcommit (by simpa using hnone)
    have hsettle := settle_sameBut s (cancelBucket b s)
    have hlink : (settle s (cancelBucket b s)).link = _ := hsettle.part .link (by decide)
    rw [exec_lnkBktCancel hb hup, armEngines_armed (hcancelled.engines harmed)]
    refine ⟨_, rfl, (bucket_congr hlink b).trans hcancelled.empty,
      fun k hk => (bucket_congr hlink k).trans (hcancelled.others k hk), fun k hk => ?_, ?_,
      sameBut_then hsettle (by decide) (sameBut_mono hcancelled.rest (by decide)), fun l hl hgone r hr hq hopen => ?_⟩
    · rw [hlink, hcancelled.released k hk]
    · rw [hlink, hcancelled.quiet]
    · rw [stream_settle]
      exact hcancelled.stalled l (List.mem_filter.mpr ⟨hl, by simp [hgone]⟩) r hr hq hopen

end Sys2Proof.Machine
end

section
/-! The actions of STREAM_CTRL (R176, R193, R214, R420): the five that act, and what an abort stalls, skips and leaves. -/

namespace Sys2Proof.Machine

section
variable {s t u : State} {i j q no : Nat} {x : Stream} {r : Rec} {z : Nat × Rec}

/-! ### One action -/

theorem streamAction_refused {a : Nat} (hup : hostBlock s = true) (h : actsIn a (stream s i).state = false) :
    streamAction a i s = modStream s i (fun x => { x with cfgErr := true }) := by
  simp only [streamAction, hup, h, Bool.not_true, Bool.not_false, Bool.false_eq_true, if_false, if_true]

theorem streamAction_acts {a : Nat} (hup : hostBlock s = true) (h : actsIn a (stream s i).state = true)
    (hready : a = 0 → s.safe.ready = true) : streamAction a i s = settle s (act a i s) := by
  have hnow : ¬ (a = 0 ∧ (!s.safe.ready) = true) := fun ⟨ha, hr⟩ => by simp [hready ha] at hr
  simp only [streamAction, hup, h, Bool.not_true, Bool.false_eq_true, if_false, if_neg hnow]

/-- What an action that is refused leaves. -/
theorem refused_leaves {a : Nat} (hup : hostBlock s = true) (h : actsIn a (stream s i).state = false) :
    stream (streamAction a i s) i = { stream s i with cfgErr := true }
      ∧ (∀ j, j ≠ i → stream (streamAction a i s) j = stream s j) ∧ sameBut [.streams] s (streamAction a i s) := by
  rw [streamAction_refused hup h]
  exact ⟨stream_modStream .., fun _ hj => stream_modStream_other _ _ hj, modStream_sameBut ..⟩

/-- What an action that changes its stream alone leaves. -/
theorem acted_leaves {a : Nat} {f : Stream → Stream} (hup : hostBlock s = true) (h : actsIn a (stream s i).state = true)
    (hready : a = 0 → s.safe.ready = true) (hact : act a i s = modStream s i f) :
    stream (streamAction a i s) i = f (stream s i) ∧ (∀ j, j ≠ i → stream (streamAction a i s) j = stream s j)
      ∧ sameBut (.streams :: settleParts) s (streamAction a i s) := by
  rw [streamAction_acts hup h hready, hact]
  refine ⟨?_, fun _ hj => ?_, sameBut_then (settle_sameBut ..) (by decide) (sameBut_mono (modStream_sameBut ..) (by decide))⟩
  · rw [stream_settle, stream_modStream]
  · rw [stream_settle, stream_modStream_other _ _ hj]

/-! ### The records of a stream and those of the others -/

theorem mem_sset {α : Type} [DecidableEq α] {d v : α} {l : Sparse α} {k : Nat} {p : Nat × α} (h : p ∈ sset d l k v) :
    p = (k, v) ∨ (p ∈ l ∧ p.1 ≠ k) := by
  unfold sset at h
  simp only [List.mem_append, List.mem_filter, decide_eq_true_eq] at h
  obtain (⟨hl, hk⟩ | hv) | ⟨hl, hk⟩ := h
  · exact .inr ⟨hl, hk.ne⟩
  · split at hv
    · cases hv
    · exact .inl (List.mem_singleton.mp hv)
  · exact .inr ⟨hl, hk.ne'⟩

/-- Every record of a stream, callers of its lists among them. -/
def recsOf (x : Stream) : List Rec := x.window ++ x.calls.map (·.caller)

theorem mem_allRecs_iff : z ∈ allRecs s ↔ ∃ p ∈ s.host.streams, p.1 = z.1 ∧ z.2 ∈ recsOf p.2 := by
  obtain ⟨k, r⟩ := z
  simp only [allRecs, List.mem_flatMap, List.mem_map, recsOf, Prod.mk.injEq]
  constructor
  · rintro ⟨p, hp, y, hy, hk, rfl⟩
    exact ⟨p, hp, hk, hy⟩
  · rintro ⟨p, hp, hk, hy⟩
    exact ⟨p, hp, r, hy, hk, rfl⟩

/-- A change of stream `i` leaves the records of the others; its own are those that it now holds. -/
theorem mem_allRecs_modStream {f : Stream → Stream} (h : z ∈ allRecs (modStream s i f)) :
    (z.1 = i ∧ z.2 ∈ recsOf (f (stream s i))) ∨ (z.1 ≠ i ∧ z ∈ allRecs s) := by
  obtain ⟨p, hp, hk, hr⟩ := mem_allRecs_iff.mp h
  obtain rfl | ⟨hl, hne⟩ := mem_sset hp
  · exact .inl ⟨hk.symm, hr⟩
  · exact .inr ⟨hk ▸ hne, mem_allRecs_iff.mpr ⟨p, hl, hk, hr⟩⟩

/-- Every record of stream `i` is complete. -/
def AllDone (i : Nat) (s : State) : Prop := ∀ z ∈ allRecs s, z.1 = i → z.2.life = .done

/-- From `s` to `t` stream `i` stands, and what it holds is complete in `t` where it was in `s`. -/
structure Still (i : Nat) (s t : State) : Prop where
  stream : stream t i = stream s i
  done : AllDone i s → AllDone i t

namespace Still

theorem refl : Still i s s := ⟨rfl, id⟩

theorem trans (h : Still i s t) (k : Still i t u) : Still i s u := ⟨k.stream.trans h.stream, k.done ∘ h.done⟩

theorem of_streams (h : t.host.streams = s.host.streams) : Still i s t :=
  ⟨stream_congr h i, by unfold AllDone allRecs; rw [h]; exact id⟩

theorem modStream (hj : j ≠ i) (f : Stream → Stream) : Still i s (modStream s j f) where
  stream := stream_modStream_other _ _ hj.symm
  done hdone z hz hi := by
    obtain ⟨hk, -⟩ | ⟨-, hold⟩ := mem_allRecs_modStream hz
    · exact absurd (hk.symm.trans hi) hj
    · exact hdone z hold hi

theorem modRec (hj : j ≠ i) (q : Nat) (f : Rec → Rec) : Still i s (modRec j q f s) := .modStream hj _

theorem foldl {α : Type} {f : State → α → State} {l : List α} (h : ∀ a ∈ l, ∀ t, Still i t (f t a)) :
    Still i s (l.foldl f s) := by
  induction l generalizing s with
  | nil => exact .refl
  | cons a l ih => exact (h a List.mem_cons_self s).trans (ih fun b hb => h b (List.mem_cons_of_mem _ hb))

/-- Steps of which each needs that stream `i` is complete. -/
theorem foldl_done {α : Type} {f : State → α → State} (hf : ∀ t a, AllDone i t → Still i t (f t a)) (l : List α)
    (h : AllDone i s) : Still i s (l.foldl f s) := by
  induction l generalizing s with
  | nil => exact .refl
  | cons a l ih => exact (hf s a h).trans (ih ((hf s a h).done h))

end Still

/-! ### Skipping and refilling leave a stream that is complete -/

theorem skipUpdate_of_done (h : z.2.life = .done) (no : Nat) (t : State) : skipUpdate no t z = t := by
  unfold skipUpdate
  split
  · exact if_neg fun hrun => Life.noConfusion (h.symm.trans hrun.1)
  · rfl

theorem still_skipUpdates (h : AllDone i s) (no : Nat) : Still i s (skipUpdates no s) := by
  rw [skipUpdates_eq]
  refine .foldl fun z hz t => ?_
  by_cases hi : z.1 = i
  · rw [skipUpdate_of_done (h z hz hi)]
    exact .refl
  · obtain hsame | ⟨b, -, hstep⟩ := skipUpdate_cases no t z
    · rw [hsame]
      exact .refl
    · rw [hstep]
      exact .trans (t := endUpdate b.weightId z.1 z.2.seq t) (.of_streams rfl) (.modRec hi _ _)

theorem still_cutRec (hj : j ≠ i) (q : Nat) (first : Bool) (s : State) : Still i s (cutRec j q first s) := by
  obtain hsame | ⟨u, cuts, hu, hcut⟩ := cutRec_cases j q first s
  · rw [hsame]
    exact .refl
  · rw [hcut]
    exact .trans (.of_streams (hu.rest.part .streams (by decide))) (.modRec hj _ _)

theorem uncut_of_done (h : r.life = .done) : uncut r = false := by simp [uncut, h]

theorem still_refill (h : AllDone i s) : Still i s (refill s) := by
  refine .foldl fun z hz t => still_cutRec (fun hi => ?_) _ _ t
  rw [List.mem_mergeSort, List.mem_filter] at hz
  rw [uncut_of_done (h z hz.1 hi)] at hz
  exact Bool.false_ne_true hz.2

/-- With everything cut nothing is left to refill. -/
theorem refill_allCut (h : allCut s) : refill s = s := by
  have hnone : (allRecs s).filter (fun x => uncut x.2) = [] := List.filter_eq_nil_iff.mpr fun x hx => by simp [h x hx]
  simp only [refill, hnone, List.mergeSort_nil, List.foldl_nil]

/-! ### An UPDATE that is skipped -/

/-- A record of number `q` in stream `j` is complete and skipped. -/
def SkippedAt (j q : Nat) (s : State) : Prop :=
  ∃ x ∈ (stream s j).window, x.seq = q ∧ x.life = .done ∧ x.flags.skipped = true

theorem skippedAt_of_skippedRec (h : skippedRec r ∈ (stream s j).window) : SkippedAt j r.seq s :=
  ⟨skippedRec r, h, rfl, rfl, Bool.or_true _⟩

/-- Cutting moves the notes of what is cut alone. -/
theorem SkippedAt.cutRec (h : SkippedAt j q s) (k n : Nat) (first : Bool) : SkippedAt j q (cutRec k n first s) := by
  obtain hsame | ⟨u, cuts, hu, hcut⟩ := cutRec_cases k n first s
  · rwa [hsame]
  · obtain ⟨y, hy, hseq, hdone, hskip⟩ := h
    have hy' : y ∈ (stream u j).window := by rwa [stream_congr (hu.rest.part .streams (by decide))]
    rw [hcut]
    by_cases hk : j = k
    · subst hk
      refine ⟨_, mem_window_modRec hy', ?_⟩
      unfold modRecIn
      split
      · exact ⟨hseq, hdone, hskip⟩
      · exact ⟨hseq, hdone, hskip⟩
    · exact ⟨y, by rwa [modRec, stream_modStream_other _ _ hk], hseq, hdone, hskip⟩

theorem SkippedAt.refill (h : SkippedAt j q s) : SkippedAt j q (refill s) := by
  unfold Machine.refill
  generalize ((allRecs s).filter _).mergeSort _ = l
  induction l generalizing s with
  | nil => exact h
  | cons x l ih => exact ih (h.cutRec ..)

/-- The skipping of one STEP_COMMIT's UPDATEs leaves a record that runs, or makes it skipped. -/
theorem mem_window_or_skipped (hopen : r.life ≠ .done)
    (h : r ∈ (stream s j).window ∨ skippedRec r ∈ (stream s j).window) (no : Nat) :
    r ∈ (stream (skipUpdates no s) j).window ∨ skippedRec r ∈ (stream (skipUpdates no s) j).window := by
  rw [skipUpdates_eq]
  generalize allRecs s = zs
  induction zs generalizing s with
  | nil => exact h
  | cons z zs ih =>
    refine ih (h.elim (mem_window_turn z · hopen) fun hskipped => .inr ?_)
    exact mem_window_skipUpdate z hskipped fun _ _ _ => rfl

/-- Of several STEP_COMMITs, one that the UPDATE waits for skips it. -/
theorem skippedRec_of_commits {l : List Commit} {c : Commit} (hc : c ∈ l)
    (h : r ∈ (stream s j).window ∨ skippedRec r ∈ (stream s j).window) (hupdate : ∃ d, r.desc = .update d)
    (hrun : r.life = .running) (hno : r.commitNo = c.no) :
    skippedRec r ∈ (stream (l.foldl (fun u k => skipUpdates k.no u) s) j).window := by
  have hopen : r.life ≠ .done := hrun ▸ Life.noConfusion
  have hstays {v : State} (hv : skippedRec r ∈ (stream v j).window) (no : Nat) :
      skippedRec r ∈ (stream (skipUpdates no v) j).window := mem_window_skipUpdates _ hv fun _ _ _ _ _ => rfl
  have hstays' {v : State} (l : List Commit) (hv : skippedRec r ∈ (stream v j).window) :
      skippedRec r ∈ (stream (l.foldl (fun u k => skipUpdates k.no u) v) j).window := by
    induction l generalizing v with
    | nil => exact hv
    | cons k l ih => exact ih (hstays hv k.no)
  induction l generalizing s with
  | nil => cases hc
  | cons k l ih =>
    obtain rfl | hc := List.mem_cons.mp hc
    · refine hstays' l (h.elim (fun hr => ?_) (hstays · c.no))
      exact skipped_of_mem _ hr (mem_allRecs hr) hupdate hrun hno
    · exact ih hc (mem_window_or_skipped hopen h k.no)

/-! ### What an abort cancels and stalls -/

theorem discardTiles_sameBut (f : Nat × Nat × Tile → Bool) (s : State) : sameBut [.comp] s (discardTiles f s) :=
  sameBut_foldl (f := fun t (x : Nat × Nat × Tile) => discardTile t x.1 x.2.1)
    (fun t x => discardTile_sameBut x.1 x.2.1 t) ((allTiles s).filter f) s

/-- The STEP_COMMITs of stream `i` end. -/
def endCommits (i : Nat) (x : StepSt) : StepSt :=
  { x with commits := x.commits.map (fun k => if k.stream = i ∧ !k.finished then { k with finished := true } else k) }

/-- What the links hold for stream `i` goes. -/
def dropLinks (i : Nat) (l : LinkSt) : LinkSt :=
  { l with
    insts := l.insts.map (fun b => (b.1, withdraw i b.2)), waiting := l.waiting.filter (fun w => w.loc.stream != i)
    shadows := l.shadows.filter (fun w => w.2.1 != i), lowrank := l.lowrank.filter (fun w => w.stream != i)
    ops := l.ops.filter (fun o => o.stream != i), combines := l.combines.filter (fun o => o.stream != i) }

/-- The cancel of a stream's work changes the compute tiles, its STEP_COMMITs, and what the links hold for it. -/
theorem cancelWork_eq (i : Nat) (s : State) :
    ∃ t, sameBut [.comp] s t ∧ cancelWork i s = modLink (modStep t (endCommits i)) (dropLinks i) := by
  refine ⟨_, ?_, rfl⟩
  exact sameBut_then (modComp_sameBut ..) (by decide) (sameBut_then (modComp_sameBut ..) (by decide)
    (sameBut_then (modComp_sameBut ..) (by decide) (discardTiles_sameBut ..)))

/-- Streams, memory and the step flags stand, and no operation of the engine comes to wait. -/
theorem cancelWork_keeps (i : Nat) (s : State) : sameBut [.comp, .stepGuard, .link] s (cancelWork i s)
    ∧ (cancelWork i s).step.flags = s.step.flags ∧ (enginesArmed s → enginesArmed (cancelWork i s)) := by
  obtain ⟨t, ht, heq⟩ := cancelWork_eq i s
  have hlink : t.link = s.link := ht.part .link (by decide)
  have hstep : t.step = s.step := ht.part .stepGuard (by decide)
  rw [heq]
  refine ⟨?_, by rw [modLink_step, modStep_step, hstep, endCommits], fun ⟨hops, hcombines⟩ => ?_⟩
  · exact sameBut_then (modLink_sameBut ..) (by decide) (sameBut_then (modStep_sameBut ..) (by decide)
      (sameBut_mono ht (by decide)))
  · unfold enginesArmed
    rw [modLink_link, modStep_link, hlink, dropLinks]
    exact ⟨fun o ho => hops o (List.mem_of_mem_filter ho), fun o ho => hcombines o (List.mem_of_mem_filter ho)⟩

theorem stallRecs_done (h : r ∈ stallRecs x) : r.life = .done ∧ (r.status = stStall ∨ r ∈ recsOf x) := by
  obtain ⟨y, hy, rfl⟩ := List.mem_map.mp h
  rw [List.mem_mergeSort] at hy
  split
  next hdone => exact ⟨hdone, .inr hy⟩
  next => exact ⟨rfl, .inl rfl⟩

theorem length_stallRecs (x : Stream) : (stallRecs x).length = x.window.length + x.calls.length := by
  simp [stallRecs]

/-- Stream `x` as its abort leaves it, with a ring of `n` slots. -/
def stalledAs (n : Nat) (x y : Stream) : Stream :=
  { y with
    state := .aborted, window := stallRecs x, calls := []
    produced := if n < sub32 x.produced x.retired then (x.retired + n) % 2 ^ 32 else x.produced
    heldTo := none
    cancelledFrom := match x.cancelledFrom with
      | some c => some c
      | none => firstOpen x
    shared := [], kept := [] }

/-- The state in which the work of stream `i` is cancelled and what it had taken has stalled. -/
def stalledState (i : Nat) (s : State) : State := modStream (cancelWork i s) i (stalledAs (sqSize s i) (stream s i))

/-- The STEP_COMMITs of a stream that are not finished. -/
def openCommits (i : Nat) (s : State) : List Commit := s.step.commits.filter (fun k => k.stream == i && !k.finished)

/-- The UPDATEs that wait for them are skipped. -/
def skippedState (i : Nat) (s : State) : State := (openCommits i s).foldl (fun u k => skipUpdates k.no u) (stalledState i s)

theorem abortStream_eq (i : Nat) (s : State) : abortStream i s = refill (skippedState i s) := rfl

theorem streams_cancelWork (i : Nat) (s : State) : (cancelWork i s).host.streams = s.host.streams :=
  (cancelWork_keeps i s).1.part .streams (by decide)

theorem stream_stalledState (i : Nat) (s : State) :
    stream (stalledState i s) i = stalledAs (sqSize s i) (stream s i) (stream s i) := by
  rw [stalledState, stream_modStream, stream_congr (streams_cancelWork i s)]

theorem stream_stalledState_other (h : j ≠ i) : stream (stalledState i s) j = stream s j := by
  rw [stalledState, stream_modStream_other _ _ h, stream_congr (streams_cancelWork i s)]

theorem mem_allRecs_stalledState (h : z ∈ allRecs (stalledState i s)) :
    (z.1 = i ∧ z.2.life = .done) ∨ (z.1 ≠ i ∧ z ∈ allRecs s) := by
  obtain ⟨hi, hr⟩ | ⟨hi, hz⟩ := mem_allRecs_modStream h
  · obtain hr | hr := List.mem_append.mp hr
    · exact .inl ⟨hi, (stallRecs_done hr).1⟩
    · cases hr
  · rw [allRecs_congr (streams_cancelWork i s)] at hz
    exact .inr ⟨hi, hz⟩

theorem allDone_stalledState (i : Nat) (s : State) : AllDone i (stalledState i s) := fun _ hz hi =>
  (mem_allRecs_stalledState hz).elim (·.2) fun h => absurd hi h.1

theorem still_abort (i : Nat) (s : State) : Still i (stalledState i s) (abortStream i s) := by
  have hskip : Still i (stalledState i s) (skippedState i s) :=
    .foldl_done (fun _ k h => still_skipUpdates h k.no) _ (allDone_stalledState i s)
  exact hskip.trans (still_refill (hskip.done (allDone_stalledState i s)))

/-- What an abort leaves. -/
structure Aborted (i : Nat) (s t : State) : Prop where
  self : stream t i = stalledAs (sqSize s i) (stream s i) (stream s i)
  others : allCut s → (∀ c ∈ s.step.commits, c.stream = i → c.finished = true) → ∀ j, j ≠ i → stream t j = stream s j
  skips : ∀ c ∈ s.step.commits, c.stream = i → c.finished = false → ∀ j, j ≠ i → ∀ r ∈ (stream s j).window,
    (∃ d, r.desc = .update d) → r.life = .running → r.commitNo = c.no → SkippedAt j r.seq t
  mem : t.mem = s.mem
  flags : t.step.flags = s.step.flags
  engines : enginesArmed s → enginesArmed t

theorem abortStream_aborts (i : Nat) (s : State) : Aborted i s (abortStream i s) := by
  obtain ⟨hcancel, hflags, hengines⟩ := cancelWork_keeps i s
  have hstall : sameBut [.streams] (cancelWork i s) (stalledState i s) := modStream_sameBut ..
  have hskip : sameBut [.comp, .streams] (stalledState i s) (skippedState i s) :=
    sameBut_foldl (fun t (k : Commit) => (keepsModel_skipUpdates k.no t).rest) (openCommits i s) (stalledState i s)
  have hrefill : sameBut cutParts (skippedState i s) (abortStream i s) := Within.refill.rest
  have hafter : sameBut cutParts (cancelWork i s) (abortStream i s) :=
    sameBut_trans (sameBut_mono hstall (by decide)) (sameBut_trans (sameBut_mono hskip (by decide)) hrefill)
  have hlink : (abortStream i s).link = (cancelWork i s).link := hafter.part .link (by decide)
  exact {
    self := (still_abort i s).stream.trans (stream_stalledState i s)
    others := fun hcut hfinished j hj => by
      have hnone : openCommits i s = [] := List.filter_eq_nil_iff.mpr fun c hc => by
        simpa using fun hi => hfinished c hc hi
      have hskipped : skippedState i s = stalledState i s := by rw [skippedState, hnone, List.foldl_nil]
      have hcut' : allCut (stalledState i s) := fun z hz =>
        (mem_allRecs_stalledState hz).elim (fun h => uncut_of_done h.2) fun h => hcut z h.2
      rw [abortStream_eq, hskipped, refill_allCut hcut', stream_stalledState_other hj]
    skips := fun c hc hi hopen j hj r hr hupdate hrun hno => by
      have hwin : r ∈ (stream (stalledState i s) j).window := by rwa [stream_stalledState_other hj]
      have hskipped : skippedRec r ∈ (stream (skippedState i s) j).window :=
        skippedRec_of_commits (List.mem_filter.mpr ⟨hc, by simp [hi, hopen]⟩) (.inl hwin) hupdate hrun hno
      exact (skippedAt_of_skippedRec hskipped).refill
    mem := (hafter.part .mem (by decide)).trans (hcancel.part .mem (by decide))
    flags := (congrArg StepSt.flags (hafter.part .stepGuard (by decide))).trans hflags
    engines := fun h => by
      unfold enginesArmed
      rw [hlink]
      exact hengines h }

theorem exec_streamAbort (hi : i < 64) (hup : hostBlock s = true) (h : actsIn 3 (stream s i).state = true) :
    exec (.streamAbort i) s = .next (settle s (armEngines (abortStream i s))) :=
  (if_pos (decide_eq_true hi)).trans (congrArg Host.Outcome.next (streamAction_acts (a := 3) hup h fun h0 => absurd h0 (by decide)))

end

/-- Settles O16: an action that acts changes its stream alone, but for the abort, whose cancellation, skipping and refilling
each leave the streams that they do not name. -/
theorem streamActions : Obligations.StreamActions := by
  unfold Obligations.StreamActions
  intro s i hi hup
  have hunit (t : State) : onUnit (decide (i < 64)) t = .next t := if_pos (decide_eq_true hi)
  refine ⟨fun h hready => ⟨⟨_, hunit _, acted_leaves (a := 0) (f := enabled) hup (by simp [actsIn, h]) (fun _ => hready) rfl⟩,
      rfl, rfl, rfl, rfl, rfl, rfl⟩,
    fun h => ⟨_, hunit _, acted_leaves (a := 1) (f := fun x => { x with state := .disabled }) hup (by simp [actsIn, h])
      (fun h0 => absurd h0 (by decide)) rfl⟩,
    fun h => ⟨_, hunit _, acted_leaves (a := 2) (f := fun x => { x with state := .active }) hup (by simp [actsIn, h])
      (fun h0 => absurd h0 (by decide)) rfl⟩,
    fun h => ⟨_, hunit _, acted_leaves (a := 4) (f := fun x => { x with state := .disabled }) hup (by simp [actsIn, h])
      (fun h0 => absurd h0 (by decide)) rfl⟩,
    fun h => ⟨_, exec_streamAbort hi hup (by simpa [actsIn, or_assoc] using h), fun harmed => ?_⟩,
    fun h => ⟨_, hunit _, refused_leaves (a := 0) hup (by simp [actsIn, h])⟩,
    fun h => ⟨_, hunit _, refused_leaves (a := 1) hup (by simp [actsIn, h])⟩,
    fun h => ⟨_, hunit _, refused_leaves (a := 2) hup (by simp [actsIn, h])⟩,
    fun h => ⟨_, hunit _, refused_leaves (a := 4) hup (by simp [actsIn, h])⟩,
    fun h => ⟨_, hunit _, refused_leaves (a := 3) hup (by obtain h | h := h <;> simp [actsIn, h])⟩⟩
  have haborted := abortStream_aborts i s
  have hsettle := settle_sameBut s (abortStream i s)
  have hstep := hsettle.part .stepGuard (by decide)
  rw [armEngines_armed (haborted.engines harmed)]
  simp only [stream_settle, haborted.self]
  refine ⟨rfl, rfl, fun r hr => ?_, length_stallRecs _, rfl, haborted.others, haborted.skips,
    (hsettle.part .mem (by decide)).trans haborted.mem, (congrArg StepSt.flags hstep).trans haborted.flags⟩
  obtain ⟨hdone, hstatus⟩ := stallRecs_done hr
  exact ⟨hdone, hstatus.imp_right List.mem_append.mp⟩

end Sys2Proof.Machine
end

section
/-! The stall detector (R213, R214): two streams abort, one after the other. -/

namespace Sys2Proof.Machine

section
variable {s t : State} {i j : Nat}

/-- What is complete stays complete and stands as it was while another stream is aborted. -/
theorem still_abort_other (h : AllDone i s) (hij : i ≠ j) : Still i s (abortStream j s) := by
  have hstall : Still i s (stalledState j s) :=
    .trans (t := cancelWork j s) (.of_streams (streams_cancelWork j s)) (.modStream hij.symm _)
  have hskip : Still i (stalledState j s) (skippedState j s) :=
    .foldl_done (fun _ k h => still_skipUpdates h k.no) _ (hstall.done h)
  have hskipped := hstall.trans hskip
  exact hskipped.trans (still_refill (hskipped.done h))

theorem allDone_abort (i : Nat) (s : State) : AllDone i (abortStream i s) :=
  (still_abort i s).done (allDone_stalledState i s)

/-- With everything cut, and no STEP_COMMIT of the stream open, an abort only stalls what its stream had taken. -/
theorem abortStream_allCut (hcut : allCut s) (hfinished : ∀ c ∈ s.step.commits, c.stream = i → c.finished = true) :
    abortStream i s = stalledState i s := by
  have hnone : openCommits i s = [] := List.filter_eq_nil_iff.mpr fun c hc => by simpa using fun hi => hfinished c hc hi
  have hcut' : allCut (stalledState i s) := fun z hz =>
    (mem_allRecs_stalledState hz).elim (fun h => uncut_of_done h.2) fun h => hcut z h.2
  rw [abortStream_eq, skippedState, hnone, List.foldl_nil, refill_allCut hcut']

theorem allCut_stalledState (hcut : allCut s) (i : Nat) : allCut (stalledState i s) := fun z hz =>
  (mem_allRecs_stalledState hz).elim (fun h => uncut_of_done h.2) fun h => hcut z h.2

/-- An abort opens no STEP_COMMIT. -/
theorem finished_stalledState (h : ∀ c ∈ s.step.commits, c.stream = j → c.finished = true) :
    ∀ c ∈ (stalledState i s).step.commits, c.stream = j → c.finished = true := by
  obtain ⟨t, ht, heq⟩ := cancelWork_eq i s
  have hstep : t.step = s.step := ht.part .stepGuard (by decide)
  have hcommits : (stalledState i s).step.commits = (endCommits i s.step).commits := by
    rw [stalledState, modStream_step, heq, modLink_step, modStep_step, hstep]
  rw [hcommits]
  intro c hc hj
  obtain ⟨k, hk, rfl⟩ := List.mem_map.mp hc
  split
  · rfl
  next hopen => exact h k hk (by rwa [if_neg hopen] at hj)

/-- What the aborts of two streams leave. -/
structure AbortedBoth (i j : Nat) (s t : State) : Prop where
  first : (stream t i).state = .aborted ∧ ∀ r ∈ (stream t i).window, r.life = .done
  second : (stream t j).state = .aborted ∧ ∀ r ∈ (stream t j).window, r.life = .done
  others : allCut s → (∀ c ∈ s.step.commits, c.stream = i ∨ c.stream = j → c.finished = true) →
    ∀ k, k ≠ i → k ≠ j → stream t k = stream s k
  mem : t.mem = s.mem
  engines : enginesArmed s → enginesArmed t

theorem Aborted.window_done (h : Aborted i s t) : (stream t i).state = .aborted ∧ ∀ r ∈ (stream t i).window, r.life = .done := by
  rw [h.self]
  exact ⟨rfl, fun _ hr => (stallRecs_done hr).1⟩

theorem abortBoth (hij : i ≠ j) (s : State) : AbortedBoth i j s (abortStream j (abortStream i s)) := by
  have hi := abortStream_aborts i s
  have hj := abortStream_aborts j (abortStream i s)
  exact {
    first := by
      rw [(still_abort_other (allDone_abort i s) hij).stream]
      exact hi.window_done
    second := hj.window_done
    others := fun hcut hfinished k hki hkj => by
      have hfirst := abortStream_allCut hcut fun c hc h => hfinished c hc (.inl h)
      have hrest := hj.others
      rw [hfirst] at hrest ⊢
      exact (hrest (allCut_stalledState hcut i) (finished_stalledState fun c hc h => hfinished c hc (.inr h)) k hkj).trans
        (stream_stalledState_other hki)
    mem := hj.mem.trans hi.mem
    engines := hj.engines ∘ hi.engines }

/-- STREAM_STALL, raised before the two streams abort. -/
def stallEvent (i j q : Nat) : Ev := { code := 0x05, arg0 := i, arg1 := j, arg2 := q }

theorem stallFire_watched {q : Nat} (hwatch : watched s i j = true) (hwait : waitsFor s i j = some q) :
    stallFire i j s = armEngines (abortStream j (abortStream i (raiseEv (stallEvent i j q) s))) := by
  simp only [stallFire, hwatch, if_true, hwait, stallEvent]

theorem ne_of_watched (h : watched s i j = true) : i ≠ j := by
  simp only [watched, Bool.and_eq_true, decide_eq_true_eq] at h
  tauto

end

/-- Settles O17: the abort of the second stream leaves the first, since that one has nothing left to skip or to refill. -/
theorem stallDetector : Obligations.StallDetector := by
  unfold Obligations.StallDetector
  intro s i j q hi hj hwatch hwait
  have hexec : exec (.stallDetect i j) s = .next (settle s (stallFire i j s)) := if_pos (by simp [hi, hj])
  rw [hexec, stallFire_watched hwatch hwait]
  have hevent := raiseEv_sameBut (stallEvent i j q) s
  generalize raiseEv (stallEvent i j q) s = u at hevent
  have hstreams := hevent.part .streams (by decide)
  have hlink : u.link = s.link := hevent.part .link (by decide)
  have hboth := abortBoth (ne_of_watched hwatch) u
  refine ⟨_, rfl, fun harmed => ?_⟩
  have harmed' : enginesArmed u := by
    unfold enginesArmed
    rwa [hlink]
  rw [armEngines_armed (hboth.engines harmed')]
  simp only [stream_settle, settle_mem]
  obtain ⟨haborted, hdone⟩ := hboth.first
  obtain ⟨haborted', hdone'⟩ := hboth.second
  refine ⟨haborted, haborted', hdone, hdone', fun hcut hfinished k hki hkj => ?_, hboth.mem.trans (hevent.part .mem (by decide))⟩
  have hcut' : allCut u := by
    unfold allCut
    rwa [allRecs_congr hstreams]
  have hstep : u.step = s.step := hevent.part .stepGuard (by decide)
  exact (hboth.others hcut' (hstep ▸ hfinished) k hki hkj).trans (stream_congr hstreams k)

end Sys2Proof.Machine
end

section
/-! The registers of the schedule (R210, R215, R216, R405): each write is one change of the host block. -/

namespace Sys2Proof.Machine

section
variable {s : State} {k v : Nat}

/-- A split whose shares add up to 32 waits; err stands, but that bit 31 clears it. -/
theorem writeBwsplit_good (h : bitsAt v 5 0 + bitsAt v 13 8 + bitsAt v 21 16 = 32) : writeBwsplit v s = { s with
    host := { s.host with
      bwPending := some ⟨bitsAt v 5 0, bitsAt v 13 8, bitsAt v 21 16⟩, bwErr := s.host.bwErr && !bitAt v 31 } } := by
  simp only [writeBwsplit, if_pos h]
  cases bitAt v 31
  · simp [modHost]
  · simp [modHost]

theorem writeBwsplit_bad (h : bitsAt v 5 0 + bitsAt v 13 8 + bitsAt v 21 16 ≠ 32) :
    writeBwsplit v s = { s with host := { s.host with bwErr := true } } := by
  simp only [writeBwsplit, if_neg h]
  cases bitAt v 31
  · rfl
  · rfl

/-- SLOT_LEN `k` set to `x`. -/
def setSlotLen (k : Nat) (x : SlotLen) (s : State) : State :=
  modHost s (fun h => { h with slotLen := sset SlotLen.reset h.slotLen k x })

theorem setSlotLen_sets (k : Nat) (x : SlotLen) (s : State) : slotLen (setSlotLen k x s) k = x
    ∧ (∀ j, j ≠ k → slotLen (setSlotLen k x s) j = slotLen s j) ∧ sameBut [.hostLink] s (setSlotLen k x s) :=
  ⟨sget_sset_same .., fun _ hj => sget_sset_other _ _ _ _ hj, rfl, fun p hp => by cases p <;> simp_all [Part.same, setSlotLen]⟩

theorem writeSlotLen_good (h : 1 ≤ bitsAt v 20 0 ∧ bitsAt v 20 0 ≤ 1048576) :
    writeSlotLen k v s = setSlotLen k ⟨bitsAt v 20 0, false, (slotLen s k).err && !bitAt v 31⟩ s := if_pos h

theorem writeSlotLen_bad (h : bitsAt v 20 0 = 0 ∨ 1048576 < bitsAt v 20 0) :
    writeSlotLen k v s = setSlotLen k { slotLen s k with err := true } s := if_neg (by omega)

theorem exec_slotLenWrite (hk : k < 4) (hup : hostBlock s = true) : exec (.slotLenWrite k v) s = .next (writeSlotLen k v s) :=
  (if_pos (decide_eq_true hk)).trans (congrArg Host.Outcome.next (if_pos hup))

end

/-- Settles O21: each write is one change of its field, which the value written decides. -/
theorem scheduleRegisters : Obligations.ScheduleRegisters := by
  unfold Obligations.ScheduleRegisters
  intro s v k b hup
  have hsplit : exec (.schedBwsplitWrite v) s = .next (writeBwsplit v s) := congrArg Host.Outcome.next (if_pos hup)
  refine ⟨fun h => ?_, fun h => ?_, fun hk => ⟨fun h => ?_, fun h => ?_⟩, congrArg Host.Outcome.next (if_pos hup)⟩
  · rw [hsplit, writeBwsplit_good h]
  · rw [hsplit, writeBwsplit_bad h]
  · rw [exec_slotLenWrite hk hup, writeSlotLen_good h]
    exact ⟨_, rfl, setSlotLen_sets ..⟩
  · rw [exec_slotLenWrite hk hup, writeSlotLen_bad h]
    exact ⟨_, rfl, setSlotLen_sets ..⟩

end Sys2Proof.Machine
end

section
/-! NOP, GATE, DEPEND and BARRIER as they are taken, and the release of a GATE (R193, R206, R207, R233, R236). -/

namespace Sys2Proof.Machine

section
variable {s t u v : State} {i : Nat} {h : Header} {d : Desc} {r : Rec}

/-! ### Taken -/

theorem takeDesc_ok (hcall : ∀ b, d ≠ .call b)
    (htake : takeChecks i (taken i h d s) (stream s i).afterBarrier0 (pushRec i (taken i h d s) s) = (.ok (), v)) :
    takeDesc i false none h d s = dispatchNext i v := by
  have hrun := runDesc_ok htake i (taken i h d s).seq
  unfold taken at hrun
  simp only [takeDesc, hrun]
  split
  · exact absurd rfl (hcall _)
  · rfl

/-- A descriptor whose take passes and changes nothing, and that waits for nothing, is dispatched at once; a BARRIER then notes
what it waits for. -/
theorem offerDesc_dispatched (hc : clearStream s i) (hcall : ∀ b, d ≠ .call b)
    (htake : takeChecks i (taken i h d s) (stream s i).afterBarrier0 (pushRec i (taken i h d s) s)
      = (.ok (), pushRec i (taken i h d s) s))
    (hready : kindReady (pushRec i (taken i h d s) s) i (taken i h d s) = true)
    (hchk : dispatchChecks i (taken i h d s) (atWork i h d s) = (.ok (), atWork i h d s))
    (ht : Holds i r s t) (hkind : dispatchKind i (keyed i h d s) (atWork i h d s) = t) :
    offerDesc i h d s = settle s (noteHead i t) := by
  rw [offerDesc, if_pos hc.2.1, takeDesc_ok hcall htake, dispatchNext, (holds_pushRec hc h d).nextHeld rfl hready]
  simp only [dispatchRec_eq hc hchk, hkind, ht.popFrames]

/-- What a command leaves of a descriptor that it took into the record `r`. -/
theorem took_settled (ht : Holds i r s t) (hframe : sameBut [.streams] s t) (hh : r.hdr = h) (hd : r.desc = d)
    (hst : r.status = stOK) :
    tookOne i h d r.life s (settle s t) ∧ sameBut (.streams :: settleParts) s (settle s t) :=
  ⟨(ht.congr (settle_streams s t)).tookOne hh hd hst,
    sameBut_then (settle_sameBut s t) (by decide) (sameBut_mono hframe (by decide))⟩

/-! ### Descriptors that read no table -/

theorem forM_ok {α : Type} {f : α → MM Unit} (hf : ∀ a, f a s = (.ok (), s)) (l : List α) : l.forM f s = (.ok (), s) := by
  induction l with
  | nil => rfl
  | cons a l ih => exact (mm_bind (hf a) _).trans ih

/-- A descriptor that names no group, no slot and no entry of a table passes the checks before its kind's own. -/
theorem dispatchChecks_untabled (hg : usesGroup r.desc = false) (hn : namesSlot r.desc = false)
    (ht : tableReads r.desc r.hdr = []) (s : State) : dispatchChecks i r s = (.ok (), s) := by
  have htables : readTables r s = (.ok (), s) := by
    simp only [readTables, mm_bind (mGet_apply s), hg, ht]
    split
    · rfl
    · exact forM_ok (fun _ => rfl) _
  simp only [dispatchChecks, mm_bind (mGet_apply s), mm_bind htables, hg, hn, Bool.false_and, mm_bind (mGuard_false _ _ s)]
  rfl

/-- A BARRIER for a group that has cloves passes them, where memory holds no error. -/
theorem dispatchChecks_barrier (hd : r.desc = .barrier) (hgroup : badGroup s r.hdr.group = false) (hf : s.mem.faults = []) :
    dispatchChecks i r s = (.ok (), s) := by
  have htables : readTables r s = (.ok (), s) := by simp [readTables, mm_bind (mGet_apply s), hf]
  simp only [dispatchChecks, mm_bind (mGet_apply s), mm_bind htables, hd, hgroup, Bool.and_false, mm_bind (mGuard_false _ _ s)]
  rfl

/-! ### The checks at the take -/

theorem far_false (hpos : r.hdr.pos < 2 ^ 20) : decide (2 ^ 20 ≤ r.hdr.pos) = false := decide_eq_false (Nat.not_le.mpr hpos)

theorem takeChecks_free (hpos : r.hdr.pos < 2 ^ 20) (hd : r.desc = .nop ∨ r.desc = .barrier) (after : Bool) (s : State) :
    takeChecks i r after s = (.ok (), s) := by
  obtain hd | hd := hd <;> simp only [takeChecks, hd, far_false hpos, mm_bind (mGuard_false _ _ s), mm_pure]

/-- A GATE, while the tally is not OFF: with PASS in LOST it completes at its take (R236). -/
theorem takeChecks_gate {b : GateBody} (hpos : r.hdr.pos < 2 ^ 20) (hd : r.desc = .gate b) (hoff : s.tally.state ≠ .off)
    (after : Bool) : takeChecks i r after s = (.ok (), if b.pass ∧ s.tally.state = .lost then
      complete i r.seq stTallyLost 0 0 CFlags.none s else s) := by
  simp only [takeChecks, hd, far_false hpos, mm_bind (mGuard_false _ _ s), mm_bind (mGet_apply s), hoff, decide_false]
  split
  · rfl
  · rfl

/-- A DEPEND with a valid wait, and none on a later descriptor of its own stream. -/
theorem takeChecks_depend {ws : List Wait} (hpos : r.hdr.pos < 2 ^ 20) (hd : r.desc = .depend ws)
    (hvalid : ws.any (·.valid) = true) (hself : ∀ w ∈ ws, selfWait i r.seq w = false) (after : Bool) (s : State) :
    takeChecks i r after s = (.ok (), s) := by
  have hnone : ws.zipIdx.find? (fun w => selfWait i r.seq w.1) = none := List.find?_eq_none.mpr fun w hw => by
    simp [hself w.1 (List.fst_mem_of_mem_zipIdx hw)]
  simp only [takeChecks, hd, far_false hpos, mm_bind (mGuard_false _ _ s), hvalid, Bool.not_true, hnone, mm_pure]

/-! ### Dispatched -/

theorem waiting_sameBut (i q : Nat) (f : Rec → Rec) (h : Header) (d : Desc) (s : State) :
    sameBut [.streams] s (modRec i q f (atWork i h d s)) :=
  sameBut_trans (atWork_sameBut i h d s) (modRec_sameBut ..)

/-- A record that waits. -/
def waitingRec (r : Rec) : Rec := { r with life := .waiting }

theorem holds_waiting (hc : clearStream s i) (h : Header) (d : Desc) :
    Holds i (waitingRec (keyed i h d s)) s (modRec i (keyed i h d s).seq waitingRec (atWork i h d s)) :=
  (holds_atWork hc h d).modRec rfl

/-- A BARRIER at the head of its stream notes the items handed to its group (R207). -/
theorem Holds.noteHead_barrier (hu : Holds i r s u) (hd : r.desc = .barrier) (hsnap : r.snap = none) (hl : r.life ≠ .done) :
    ∃ l, Machine.noteHead i u = Machine.modRec i r.seq (fun x => { x with snap := some l }) u := by
  simp only [Machine.noteHead, hu.window, hd, hsnap, if_neg hl]
  exact ⟨_, rfl⟩

/-- A NOP is complete at once. -/
theorem offerDesc_nop (hc : clearStream s i) (hpos : h.pos < 2 ^ 20) :
    tookOne i h .nop .done s (offerDesc i h .nop s) ∧ sameBut (.streams :: settleParts) s (offerDesc i h .nop s) := by
  have hdone := (holds_atWork hc h .nop).complete Life.noConfusion stOK 0 0 CFlags.none
  rw [offerDesc_dispatched hc (fun _ => Desc.noConfusion) (takeChecks_free hpos (.inl rfl) _ _) rfl
    (dispatchChecks_untabled rfl rfl rfl _) hdone rfl, hdone.noteHead Desc.noConfusion]
  exact took_settled hdone (sameBut_trans (atWork_sameBut ..) (complete_sameBut ..)) rfl rfl rfl

/-- A descriptor that reads no table, and that its dispatch leaves waiting. -/
theorem offerDesc_waits (hc : clearStream s i) (hd : (∃ b, d = .gate b) ∨ ∃ ws, d = .depend ws)
    (htake : takeChecks i (taken i h d s) (stream s i).afterBarrier0 (pushRec i (taken i h d s) s)
      = (.ok (), pushRec i (taken i h d s) s))
    (hkind : dispatchKind i (keyed i h d s) (atWork i h d s)
      = modRec i (keyed i h d s).seq waitingRec (atWork i h d s)) :
    tookOne i h d .waiting s (offerDesc i h d s) ∧ sameBut (.streams :: settleParts) s (offerDesc i h d s) := by
  have hwaits := holds_waiting hc h d
  have hchk : dispatchChecks i (taken i h d s) (atWork i h d s) = (.ok (), atWork i h d s) := by
    obtain ⟨b, rfl⟩ | ⟨ws, rfl⟩ := hd <;> exact dispatchChecks_untabled rfl rfl rfl _
  have hready : kindReady (pushRec i (taken i h d s) s) i (taken i h d s) = true := by
    obtain ⟨b, rfl⟩ | ⟨ws, rfl⟩ := hd <;> rfl
  have hbar : d ≠ .barrier := by obtain ⟨b, rfl⟩ | ⟨ws, rfl⟩ := hd <;> exact Desc.noConfusion
  have hcall : ∀ b, d ≠ .call b := by obtain ⟨b, rfl⟩ | ⟨ws, rfl⟩ := hd <;> exact fun _ => Desc.noConfusion
  rw [offerDesc_dispatched hc hcall htake hready hchk hwaits hkind, hwaits.noteHead hbar]
  exact took_settled hwaits (waiting_sameBut ..) rfl rfl rfl

/-- A GATE waits for its mark, but with PASS in LOST. -/
theorem offerDesc_gate {b : GateBody} (hc : clearStream s i) (hpos : h.pos < 2 ^ 20) (hoff : s.tally.state ≠ .off)
    (hpass : ¬ (b.pass = true ∧ s.tally.state = .lost)) : tookOne i h (.gate b) .waiting s (offerDesc i h (.gate b) s)
      ∧ sameBut (.streams :: settleParts) s (offerDesc i h (.gate b) s) := by
  refine offerDesc_waits hc (.inl ⟨b, rfl⟩) ((takeChecks_gate (s := pushRec i (taken i h (.gate b) s) s) hpos rfl hoff _).trans ?_) ?_
  · exact congrArg (Prod.mk _) (if_neg hpass)
  · have hgo : ¬ (b.pass = true ∧ (s.tally.state = .lost ∨ s.tally.state = .off)) := by tauto
    exact if_neg hgo

/-- With PASS in LOST it completes with TALLY_LOST at its take, and is not dispatched. -/
theorem offerDesc_gate_passes {b : GateBody} (hc : clearStream s i) (hpos : h.pos < 2 ^ 20) (hpass : b.pass = true)
    (hlost : s.tally.state = .lost) :
    Holds i (completed stTallyLost 0 0 CFlags.none (taken i h (.gate b) s)) s (offerDesc i h (.gate b) s)
      ∧ sameBut (.streams :: settleParts) s (offerDesc i h (.gate b) s) := by
  have hdone := (holds_pushRec hc h (.gate b)).complete Life.noConfusion stTallyLost 0 0 CFlags.none
  have htake : takeChecks i (taken i h (.gate b) s) (stream s i).afterBarrier0 (pushRec i (taken i h (.gate b) s) s) = _ :=
    (takeChecks_gate hpos rfl (by rw [show (pushRec i _ s).tally = s.tally from rfl, hlost]; exact TState.noConfusion) _).trans
      (congrArg (Prod.mk _) (if_pos ⟨hpass, hlost⟩))
  rw [offerDesc, if_pos hc.2.1, takeDesc_ok (fun _ => Desc.noConfusion) htake, dispatchNext,
    nextHeld_none hdone Life.noConfusion]
  simp only [hdone.popFrames, hdone.noteHead Desc.noConfusion]
  exact ⟨hdone.congr (settle_streams ..), sameBut_then (settle_sameBut ..) (by decide)
    (sameBut_mono (sameBut_trans (pushRec_sameBut ..) (complete_sameBut ..)) (by decide))⟩

/-- A BARRIER waits, and has noted the items handed to its group. -/
theorem offerDesc_barrier (hc : clearStream s i) (hpos : h.pos < 2 ^ 20) (hgroup : badGroup s h.group = false)
    (hf : s.mem.faults = []) : tookOne i h .barrier .waiting s (offerDesc i h .barrier s)
      ∧ sameBut (.streams :: settleParts) s (offerDesc i h .barrier s) := by
  have hwaits := holds_waiting hc h .barrier
  obtain ⟨l, hnote⟩ := hwaits.noteHead_barrier rfl rfl Life.noConfusion
  have hnoted := hwaits.modRec (f := fun x => { x with snap := some l }) rfl
  rw [offerDesc_dispatched hc (fun _ => Desc.noConfusion) (takeChecks_free hpos (.inr rfl) _ _) rfl
    (dispatchChecks_barrier rfl hgroup hf) hwaits rfl, hnote]
  exact took_settled hnoted (sameBut_trans (waiting_sameBut ..) (modRec_sameBut ..)) rfl rfl rfl

/-! ### A GATE is released -/

theorem CFlags.or_none (f : CFlags) : CFlags.or f CFlags.none = f := by simp [CFlags.or, CFlags.none]

/-- A record that waits, completed with status OK. -/
theorem completed_ok (r : Rec) :
    completed stOK 0 0 CFlags.none r = { r with life := .done, status := stOK, detail := 0, value := 0 } := by
  simp only [completed, CFlags.or_none]

theorem gate_of_gateDue (h : gateDue s r = true) : r.life = .waiting ∧ ∃ b, r.desc = .gate b := by
  simp only [gateDue, Bool.and_eq_true, decide_eq_true_eq] at h
  obtain ⟨⟨hl, -⟩, hd⟩ := h
  refine ⟨hl, ?_⟩
  split at hd
  next b hb => exact ⟨b, hb⟩
  next => exact absurd hd Bool.false_ne_true

/-- The release of a GATE that its stream holds alone completes it, and nothing else moves. -/
theorem releaseGate_completes (hwin : (stream s i).window = [r]) (hcalls : (stream s i).calls = [])
    (hdue : gateDue s r = true) : releaseGate i s = completeOK i r.seq s
      ∧ (stream (completeOK i r.seq s) i).window = [completed stOK 0 0 CFlags.none r] := by
  obtain ⟨hwaiting, b, hgate⟩ := gate_of_gateDue hdue
  have hopen : r.life ≠ .done := hwaiting ▸ Life.noConfusion
  have hwin' : (stream (completeOK i r.seq s) i).window = [completed stOK 0 0 CFlags.none r] := by
    simp [completeOK, complete, modRec, modRecIn, hwin, hopen, completed]
  have hcalls' : (stream (completeOK i r.seq s) i).calls = [] := by simp [completeOK, complete, modRec, hcalls]
  have hnone : nextHeld (completeOK i r.seq s) i = none := by simp [nextHeld, hwin', mayDispatch, completed]
  have hpop : popFrames 16 i (completeOK i r.seq s) = completeOK i r.seq s := by simp [popFrames, hcalls']
  have hnote : noteHead i (completeOK i r.seq s) = completeOK i r.seq s := by simp [noteHead, hwin', completed, hgate]
  refine ⟨?_, hwin'⟩
  simp only [releaseGate, hwin, List.find?_cons, hdue, dispatchNext, hnone, hpop, hnote]

end

/-- Settles O22: each of the four passes its checks and is dispatched, or completes at its take; a GATE that is released is
completed alone. -/
theorem controlDescriptors : Obligations.ControlDescriptors := by
  unfold Obligations.ControlDescriptors
  refine ⟨fun s i h hc hpos => ?_, fun s i r hi hwin hcalls hdue hturn => ?_⟩
  · refine ⟨⟨_, onUnit_stream hc _, offerDesc_nop hc hpos⟩, fun b hoff => ⟨fun hpass => ?_, fun hpass hlost => ?_⟩,
      fun ws hvalid hself => ?_, fun hgroup hf => ⟨_, onUnit_stream hc _, offerDesc_barrier hc hpos hgroup hf⟩⟩
    · exact ⟨_, onUnit_stream hc _, offerDesc_gate hc hpos hoff hpass⟩
    · obtain ⟨hdone, hrest⟩ := offerDesc_gate_passes hc hpos hpass hlost
      exact ⟨_, _, onUnit_stream hc _, hdone.window, rfl, rfl, rfl, hrest⟩
    · have hself' (w) (hw : w ∈ ws) : selfWait i (stream s i).seqNext w = false := by
        simpa using List.all_eq_true.mp hself w hw
      exact ⟨_, onUnit_stream hc _, offerDesc_waits hc (.inr ⟨ws, rfl⟩) (takeChecks_depend hpos rfl hvalid hself' _ _) rfl⟩
  · obtain ⟨hrelease, hdone⟩ := releaseGate_completes hwin hcalls hdue
    have hexec : exec (.gateRelease i) s = .next (settle s (completeOK i r.seq s)) := by
      rw [← hrelease]
      exact (if_pos (decide_eq_true hi)).trans (congrArg (Host.Outcome.next ∘ settle s) (if_pos hturn))
    refine ⟨_, hexec, by rw [stream_settle, hdone, completed_ok], fun j hj => ?_, ?_⟩
    · rw [stream_settle]
      exact stream_modStream_other _ _ hj
    · exact sameBut_then (settle_sameBut ..) (by decide) (sameBut_mono (complete_sameBut ..) (by decide))

end Sys2Proof.Machine
end

section
/-! Refutation of O49: a ring descriptor of the wrong phase may be a STEP_COMMIT, and a STEP_COMMIT that fails at its take has been
issued all the same (R176). The clause on a wrong phase lets only streams, events and what the settling moves differ. -/

namespace Sys2Proof.Machine

/-- A module that runs, and one descriptor in the ring of stream 0, of one slot: a STEP_COMMIT whose phase bit is 0, where the
first round of a ring expects 1 (R248). -/
def staleCommit : State :=
  modHost (setStream hostedState 0 { Stream.empty with state := .active, produced := 1 }) (fun h => { h with mem := [(0, 0x10#8)] })

theorem clearStream_staleCommit : clearStream staleCommit 0 := ⟨by decide, by decide, by decide, by decide, by decide⟩

theorem ringReady_staleCommit : ringReady staleCommit 0 = true := by decide

/-- What stream 0 takes there is issued, by R176, and fails. -/
theorem issued_staleCommit : (streamStep 0 staleCommit).step.issued = 1
    ∧ (stream (streamStep 0 staleCommit) 0).window.map (fun r => (opcodeOf r.desc, r.status, r.detail)) = [(0x10, stDescError, 2)] := by
  decide

/-- Refutes O49: DESCRIPTOR_TAKE of that descriptor counts one more STEP_COMMIT issued, where the clause on a wrong phase holds
the step guard fixed. -/
theorem not_ringsAndLists : ¬ Obligations.RingsAndLists := by
  unfold Obligations.RingsAndLists
  intro h
  obtain ⟨hclear, -⟩ := h staleCommit 0
  obtain ⟨-, -, hring⟩ := hclear clearStream_staleCommit
  obtain ⟨hphase, -⟩ := hring ringReady_staleCommit rfl
  obtain ⟨t, r, he, -, -, -, -, -, -, hframe⟩ := hphase (by decide)
  have hexec : exec (.descriptorTake 0) staleCommit = .next (settle staleCommit (streamStep 0 staleCommit)) := rfl
  obtain rfl := Host.Outcome.next.inj (hexec.symm.trans he)
  have hsettle : (settle staleCommit (streamStep 0 staleCommit)).step = (streamStep 0 staleCommit).step :=
    (settle_sameBut ..).part .stepGuard (by decide)
  have hstep : (settle staleCommit (streamStep 0 staleCommit)).step = staleCommit.step := hframe.part .stepGuard (by decide)
  have hissued : staleCommit.step.issued = 1 := by
    rw [← hstep, hsettle]
    exact issued_staleCommit.1
  exact absurd hissued (by decide)

end Sys2Proof.Machine
end

section
/-! What the dispatch of a REDUCE, a DISPATCH or a COMBINE reads, in a memory that meets no error (R254, R298, R312, R317). -/

namespace Sys2Proof.Machine

section
variable {α β : Type} {s t u : State} {l : List Part}

/-! ### Work that has succeeded -/

/-- Work that only reads has answered, and what follows goes on from the same state. -/
theorem ok_of_reads {w : MM α} {f : α → MM β} {b : β} (h : (w >>= f) s = (.ok b, t)) (hw : WithinM [] w) (hc : cleanMem s) :
    ∃ a, w s = (.ok a, s) ∧ f a s = (.ok b, t) := by
  obtain ⟨a, u, hu, ht⟩ := ok_of_bind h
  obtain rfl := hw.eq hc hu
  exact ⟨a, hu, ht⟩

/-- A guard that lets pass has found nothing. -/
theorem of_mGuard_ok {bad : Bool} {d : Detail} {off : Nat} {x : Unit} (h : mGuard bad d off s = (.ok x, t)) : bad = false := by
  cases bad with
  | false => rfl
  | true => cases h

/-- A read has answered the bytes of memory. -/
theorem bytes_of_mRead_ok {a n req : Nat} {bs : List Byte} (hc : cleanMem s) (h : mRead a n req s = (.ok bs, t)) :
    bs = memBytes s a n := by
  simp only [mRead, readMem, checkRead_clean hc, readBad_clean hc] at h
  cases ha : access s a n with
  | ok => simp only [ha] at h; cases h; rfl
  | addr => simp only [ha] at h; cases h
  | lost => simp only [ha] at h; cases h

/-- An entry that is read is the one that lies in the table. -/
theorem peekTE_of_readTE {g n off : Nat} {e : TEntry} (hc : cleanMem s) (h : readTE g n off s = (.ok (some e), t)) :
    peekTE s n = some e := by
  unfold readTE at h
  split at h
  · cases h
  · obtain ⟨_, hget, h⟩ := ok_of_reads h .mGet hc
    cases hget
    obtain ⟨_, hin, h⟩ := ok_of_reads h .mGuard hc
    obtain ⟨bs, hbs, h⟩ := ok_of_reads h .mRead hc
    generalize hp : teOf bs = p at h
    obtain ⟨valid, y⟩ := p
    obtain ⟨_, hvalid, h⟩ := ok_of_reads h .mGuard hc
    cases h
    have hin' := of_decide_eq_false (of_mGuard_ok hin)
    have hvalid' : valid = true := by simpa using of_mGuard_ok hvalid
    simp only [peekTE, if_neg hin', ← bytes_of_mRead_ok hc hbs, hp, hvalid', if_true]

theorem peekTE_of_needTE {g n off : Nat} {e : TEntry} (hc : cleanMem s) (h : needTE g n off s = (.ok e, t)) :
    peekTE s n = some e := by
  obtain ⟨x, hx, h⟩ := ok_of_reads h .readTE hc
  cases x with
  | none => cases h
  | some y =>
    cases h
    exact peekTE_of_readTE hc hx

/-! ### Reads that move nothing -/

theorem WithinM.readPlanBytes {n off} : WithinM l (readPlanBytes n off) :=
  .bind .mGuard fun _ => .bind .mGet fun _ => .mRead

theorem WithinM.readPlan {kinds n off} : WithinM l (readPlan kinds n off) :=
  .bind .readPlanBytes fun _ => .bind .mGuard fun _ => .ite .pure (.bind .mGuard fun _ => .pure)

theorem WithinM.readDispPlan {n off} : WithinM l (readDispPlan n off) :=
  .bind .readPlanBytes fun _ => .bind .mGuard fun _ => .bind .mGuard fun _ => .pure

theorem WithinM.readElements {e req} : WithinM l (readElements e req) :=
  .ite .readRun (.bind (.mapM fun _ => .mRead) fun _ => .pure)

theorem WithinM.readMat {e req} : WithinM l (readMat e req) := .mapM fun _ => .readRow

theorem WithinM.readDeferred {a d} : WithinM l (readDeferred a d) := .mapM fun _ => .bind .mRead fun _ => .pure

/-- A COMBINE that goes on has lost no output. -/
theorem WithinM.mGuardLost {p} : WithinM l (mGuardLost p) := by
  refine .bind .mGet fun s => .ite (fun u a t _ h => ?_) .pure
  obtain ⟨_, _, -, hfail⟩ := ok_of_bind h
  cases hfail

/-- A dispatch plan reads alike where memory and the held registers are the same. -/
theorem reads_readDispPlan (hclean : cleanMem s) (hm : t.mem = s.mem) (hc : t.comp = s.comp) (hr : t.reg.held = s.reg.held)
    (n off : Nat) : Reads (readDispPlan n off) s t := by
  have haddr : planAddr t n = planAddr s n := by simp only [planAddr, reg8, reg4_congr hr]
  have hbytes : Reads (readPlanBytes n off) s t := by
    refine .bind .mGuard fun _ => ?_
    obtain ⟨x, hs, ht⟩ := reads_mRead hclean hm (by rw [hc]) (by rw [hc]) (planAddr s n) 128 (reqLink 0)
    exact ⟨x, (mm_bind (mGet_apply s) _).trans hs, (mm_bind (mGet_apply t) _).trans (haddr ▸ ht)⟩
  exact .bind hbytes fun _ => .bind .mGuard fun _ => .bind .mGuard fun _ => .pure

/-- The answer of work that reads alike. -/
theorem Reads.answer {w : MM α} {a : α} (h : Reads w s t) (ha : (w s).1 = .ok a) : w t = (.ok a, t) := by
  obtain ⟨x, hs, ht⟩ := h
  rw [ht, ← ha, hs]

/-- What one answers, the other does too. -/
theorem Reads.unique {w : MM α} {a b : α} (h : Reads w s t) (ha : (w s).1 = .ok a) (hb : w t = (.ok b, u)) : b = a := by
  have hba := (h.answer ha).symm.trans hb
  cases hba
  rfl

/-- The defer records that a list in memory holds (R315). -/
def heldIn (s : State) (a : Nat) (l : List Deferred) (x : Deferred × Nat) : Deferred :=
  let bs := memBytes s (deferAt a l x.2) (16 + x.1.data.length)
  { x.1 with tok := tokenOf bs, data := bs.drop 16 }

theorem readDeferred_ok {a : Nat} {l ds : List Deferred} (hc : cleanMem s) (h : readDeferred a l s = (.ok ds, t)) :
    ds = l.zipIdx.map (heldIn s a l) := by
  unfold readDeferred at h
  generalize l.zipIdx = xs at h ⊢
  induction xs generalizing ds t with
  | nil => cases h; rfl
  | cons x xs ih =>
    rw [List.mapM_cons] at h
    obtain ⟨d, hd, h⟩ := ok_of_reads h (.bind .mRead fun _ => .pure) hc
    obtain ⟨bs, hbs, hd⟩ := ok_of_reads hd .mRead hc
    obtain ⟨rest, hrest, h⟩ := ok_of_reads h (.mapM fun _ => .bind .mRead fun _ => .pure) hc
    cases hd
    cases h
    rw [List.map_cons, ih hrest, bytes_of_mRead_ok hc hbs]
    rfl

end
end Sys2Proof.Machine
end

section
/-! A contribution that opens its bucket (R297): what the bucket then holds, and what else moves. -/

namespace Sys2Proof.Machine

section
variable {s t u : State} {o : Offer} {b : Nat} {l : LocalIn}

/-- Contribution `k` is `l`, its words and counts apart. -/
structure SameLocal (l k : LocalIn) : Prop where
  stream : k.stream = l.stream
  seq : k.seq = l.seq
  backup : k.backup = l.backup
  dst : k.dst = l.dst

theorem convertLocal_same (op : Nat) (word : Bool) (n trees : Nat) (e : Int) (l : LocalIn) :
    SameLocal l (convertLocal op word n trees e l) := by
  unfold convertLocal
  split
  · exact ⟨rfl, rfl, rfl, rfl⟩
  · split
    · exact ⟨rfl, rfl, rfl, rfl⟩
    · exact ⟨rfl, rfl, rfl, rfl⟩
    · exact ⟨rfl, rfl, rfl, rfl⟩

theorem countClips_sameBut (x : Bucket) (l : LocalIn) (s : State) : sameBut [.counters] s (countClips x l s) :=
  sameBut_trans (sameBut_foldl (fun t (y : Nat × Nat) => count_sameBut (linkBase (treeTile x.plan y.2) + 0x2000) y.1 t) _ s)
    (sameBut_foldl (fun t (y : Nat × Nat) => count_sameBut (portBase (treePort x.plan y.2) + 0x20) y.1 t) _ _)

/-- Contribution `l` as it joins bucket `x`, no tree of which has passed its deadline. -/
def joinedLocal (x : Bucket) (l : LocalIn) : LocalIn :=
  match x.e with
  | some e => convertLocal x.op x.word x.plan.expected x.plan.trees e { l with missed := [] }
  | none => { l with missed := [] }

theorem joinedLocal_same (x : Bucket) (l : LocalIn) : SameLocal l (joinedLocal x l) := by
  unfold joinedLocal
  split
  next e _ =>
    obtain ⟨hstream, hseq, hbackup, hdst⟩ := convertLocal_same x.op x.word x.plan.expected x.plan.trees e { l with missed := [] }
    exact ⟨hstream, hseq, hbackup, hdst⟩
  next => exact ⟨rfl, rfl, rfl, rfl⟩

/-- It is the last of the locals there, and what it clips is counted where the exponent is known. -/
theorem joinLocal_unfired (h : unfired (bucket s b)) : joinLocal b l s
    = setBucket (if (bucket s b).e.isSome then countClips (bucket s b) (joinedLocal (bucket s b) l) s else s) b
        { bucket s b with locals := (bucket s b).locals ++ [joinedLocal (bucket s b) l] } := by
  have hfired (k : Nat) : (treeOf (bucket s b) k).fired = false := h k
  cases he : (bucket s b).e with
  | none => simp [joinLocal, hfired, joinedLocal, he]
  | some e => simp [joinLocal, hfired, joinedLocal, he]

/-- The bucket that a contribution opens, with the exponent `e` that it starts from, less the contribution. -/
def openedWith (e : Option Int) (o : Offer) : Bucket := { openedVote o with twoPhase := e.isNone, e := e }

theorem unfired_openedWith (e : Option Int) (o : Offer) : unfired (openedWith e o) := unfired_openedVote o

/-- A contribution has opened its bucket and is its only one; counters besides, nothing else of the links. -/
structure Opens (o : Offer) (s t : State) : Prop where
  bucket : ∃ e k, bucket t o.bucket = { openedWith e o with locals := [k] } ∧ SameLocal o.loc k
  others : ∀ b, b ≠ o.bucket → Machine.bucket t b = Machine.bucket s b
  link : ∃ m, t.link = { s.link with insts := m }
  rest : sameBut [.link, .counters] s t

theorem offer_opens (hfree : (bucket s o.bucket).state = .free) : Opens o s (offer o s) := by
  let e := if o.use = BucketUse.count then some 0 else entryExp s o.bucket o.op o.word o.plan.expected
  let w := setBucket s o.bucket (openedWith e o)
  have hopen : offer o s = joinLocal o.bucket o.loc w := by
    simp only [offer, hfree, if_true]
    rfl
  have hw : bucket w o.bucket = openedWith e o := bucket_setBucket ..
  have hjoin := joinLocal_unfired (s := w) (b := o.bucket) (l := o.loc) (hw ▸ unfired_openedWith e o)
  have hcount := sameBut_ite (c := (bucket w o.bucket).e.isSome) (countClips_sameBut (bucket w o.bucket)
    (joinedLocal (bucket w o.bucket) o.loc) w) (sameBut_refl _ w)
  generalize (if (bucket w o.bucket).e.isSome then _ else _) = v at hjoin hcount
  have hlink : v.link = w.link := hcount.part .link (by decide)
  have hrest : sameBut [.link, .counters] s v :=
    sameBut_then hcount (by decide) (sameBut_mono (setBucket_sameBut ..) (by decide))
  rw [hopen, hjoin, hw]
  exact {
    bucket := ⟨e, _, bucket_setBucket .., joinedLocal_same ..⟩
    others := fun b hb => (bucket_setBucket_other _ _ hb).trans ((bucket_congr hlink b).trans (bucket_setBucket_other _ _ hb))
    link := ⟨_, by rw [setBucket, modLink_link, hlink]; rfl⟩
    rest := sameBut_then (setBucket_sameBut ..) (by decide) hrest }

/-- The bucket that it opens waits to be armed, and goes no further. -/
theorem Opens.moveBucket (h : Opens o s t) : moveBucket o.bucket t = t := by
  obtain ⟨e, k, hb, -⟩ := h.bucket
  exact moveBucket_waitArm (by rw [hb]; rfl)

/-- What came before the offer in the links and the counters. -/
theorem Opens.of_before (h : Opens o u t) (hu : sameBut [.link, .counters] s u) : sameBut [.link, .counters] s t :=
  sameBut_trans hu h.rest

end
end Sys2Proof.Machine
end

section
/-! A REDUCE that opens its bucket (R292, R295, R297, R306, R310). -/

namespace Sys2Proof.Machine

section
variable {s t u v : State} {i q : Nat} {h : Header} {d : Desc} {r r' : Rec} {b : ReduceBody} {p : Plan}

/-! ### Taken, and running -/

/-- A REDUCE, a DISPATCH or a COMBINE. -/
def exchanges (d : Desc) : Prop := (∃ b, d = .reduce b) ∨ (∃ b, d = .dispatch b) ∨ ∃ b, d = .combine b

/-- Of these only the position is checked at the take. -/
theorem takeChecks_exchanges (hd : exchanges r.desc) (hpos : r.hdr.pos < 2 ^ 20) (after : Bool) (s : State) :
    takeChecks i r after s = (.ok (), s) := by
  have hnear : decide (2 ^ 20 ≤ r.hdr.pos) = false := decide_eq_false (Nat.not_le.mpr hpos)
  obtain ⟨b, hd⟩ | ⟨b, hd⟩ | ⟨b, hd⟩ := hd <;> simp only [takeChecks, hd, hnear, mm_bind (mGuard_false _ _ s), mm_pure]

/-- Record `q` of stream `i` runs. -/
def runs (i q : Nat) (s : State) : State := modRec i q (fun x => { x with life := .running }) s

theorem runs_sameBut (i q : Nat) (s : State) : sameBut [.streams] s (runs i q s) := modRec_sameBut ..

/-- One that starts at once and whose work leaves it running, having moved nothing but links and counters. -/
theorem offerDesc_runs (hclean : cleanMem s) (hs : startsNow i h d s) (hd : exchanges d)
    (hkind : dispatchKind i (keyed i h d s) (atWork i h d s) = t)
    (ht : sameBut [.link, .counters] (runs i (stream s i).seqNext (atWork i h d s)) t) :
    tookOne i h d .running s (offerDesc i h d s)
      ∧ sameBut (.link :: .streams :: settleParts) s (offerDesc i h d s) ∧ (offerDesc i h d s).link = t.link := by
  have hcall : ∀ b, d ≠ .call b := by obtain ⟨b, rfl⟩ | ⟨b, rfl⟩ | ⟨b, rfl⟩ := hd <;> exact fun _ => Desc.noConfusion
  have hbar : d ≠ .barrier := by obtain ⟨b, rfl⟩ | ⟨b, rfl⟩ | ⟨b, rfl⟩ := hd <;> exact Desc.noConfusion
  have hrun : Holds i { keyed i h d s with life := .running } s (runs i (stream s i).seqNext (atWork i h d s)) :=
    (holds_atWork hs.1 h d).modRec (f := fun x => { x with life := .running }) rfl
  have hholds := hrun.congr (ht.part .streams (by decide))
  have hsettle := settle_sameBut s t
  rw [offerDesc_startsNow hclean hs (takeChecks_exchanges hd hs.2.1 _) hcall hkind hholds hbar]
  refine ⟨(hholds.congr (settle_streams s t)).tookOne rfl rfl rfl, ?_, hsettle.part .link (by decide)⟩
  exact sameBut_then hsettle (by decide) (sameBut_then ht (by decide)
    (sameBut_mono (sameBut_trans (atWork_sameBut ..) (runs_sameBut ..)) (by decide)))

/-! ### What it contributes -/

/-- The deadline that a REDUCE names. -/
def deadlineOf (b : ReduceBody) : Option Stamp := if b.deadlineEn then some ⟨b.deadline, b.deadlineFrac⟩ else none

/-- Offer `o` is the contribution of the REDUCE `q` of stream `i`, under plan `p`. -/
structure ReduceOffer (i q : Nat) (b : ReduceBody) (p : Plan) (s : State) (o : Offer) : Prop where
  bucket : o.bucket = b.bucket
  planNo : o.planNo = b.plan
  plan : o.plan = p
  op : o.op = b.op
  word : o.word = b.word
  deadline : o.deadline = deadlineOf b
  use : o.use = if b.rank = 0 then .reduce else .lowrank
  stream : o.loc.stream = i
  seq : o.loc.seq = q
  backup : o.loc.backup = if b.backupEn then some b.backup else none
  dst : b.rank = 0 → o.loc.dst = some b.dst
  elements : b.rank = 0 → ∃ e, peekTE s b.src = some e ∧ o.elements = e.rows * e.cols

/-- Exchange `x` is that of the REDUCE `q` of stream `i`, under plan `p`. -/
structure LowOf (i q : Nat) (b : ReduceBody) (p : Plan) (x : LowRank) : Prop where
  stream : x.stream = i
  seq : x.seq = q
  planNo : x.planNo = b.plan
  plan : x.plan = p
  word : x.word = b.word
  deadline : x.deadline = deadlineOf b
  backup : x.backup = if b.backupEn then some b.backup else none

/-- The links note an exchange in progress. -/
def noteLow (x : LowRank) (s : State) : State := modLink s (fun l => { l with lowrank := l.lowrank ++ [x] })

/-- The first half of a low-rank REDUCE counts, notes its exchange, and offers P (R310). -/
theorem startLow_leads (i q : Nat) (r : Rec) (b : ReduceBody) (p : Plan) (e : TEntry) :
    Leads (fun s t => ∃ u x raw, sameBut [.counters] s u ∧ LowOf i q b p x ∧ t = offerLow x b.bucket raw (noteLow x u))
      (startLow i q r b p e) := by
  refine .check .mGet fun _ => .check .checkRange fun _ => .check .mGuard fun _ =>
    .check (.forM fun _ => .bind .mGuard fun _ => .checkRange) fun _ => .check .readMat fun _ => .check .readMat fun _ => .ite
      (.check .readMat fun _ => fun s _ t _ ht => ?_) (.check .pure fun _ => fun s _ t _ ht => ?_)
  all_goals
    cases ht
    exact ⟨_, _, _, countIn_sameBut .., ⟨rfl, rfl, rfl, rfl, rfl, rfl, rfl⟩, rfl⟩

/-- It offers as its record is found. -/
theorem offerLow_eq {x : LowRank} {raw : List Nat} (hx : LowOf i q b p x) (hop : b.op = 0) (hrank : b.rank ≠ 0)
    (hfound : findRec s i q = some r) (s₀ : State) :
    ∃ o, ReduceOffer i q b p s₀ o ∧ offerLow x b.bucket raw s = offer o s := by
  rw [← hx.stream, ← hx.seq] at hfound
  simp only [offerLow, hfound]
  exact ⟨_, ⟨rfl, hx.planNo, hx.plan, hop.symm, hx.word, hx.deadline, (if_neg hrank).symm, hx.stream, hx.seq, hx.backup,
    fun h => absurd h hrank, fun h => absurd h hrank⟩, rfl⟩

/-- The work of a REDUCE of a reduction or a low-rank plan makes it run, and offers its contribution, links and counters apart
from the buckets at most moving before it. -/
theorem dispatchReduce_ok {x : Unit} (hc : cleanMem s) (hkind : p.kind ≠ 1) (hfound : findRec (runs i q s) i q = some r')
    (hplan : ∀ y u, readPlan (if b.rank = 0 then [0, 1] else [2]) b.plan 0x14 s = (.ok y, u) → y = p)
    (h : dispatchReduce i q r b s = (.ok x, t)) : ∃ o u, ReduceOffer i q b p s o ∧ t = moveBucket b.bucket (offer o u)
      ∧ sameBut [.link, .counters] (runs i q s) u ∧ ∀ k, bucket u k = bucket s k := by
  unfold dispatchReduce at h
  obtain ⟨_, -, h⟩ := ok_of_reads h .mGuard hc
  obtain ⟨_, -, h⟩ := ok_of_reads h .mGuard hc
  obtain ⟨e, he, h⟩ := ok_of_reads h .needTE hc
  obtain ⟨_, -, h⟩ := ok_of_reads h .mGuard hc
  obtain ⟨_, -, h⟩ := ok_of_reads h .checkIn hc
  obtain ⟨y, hy, h⟩ := ok_of_reads h .readPlan hc
  obtain rfl := hplan y s hy
  rw [if_neg hkind] at h
  obtain ⟨_, -, h⟩ := ok_of_reads h .mGuard hc
  obtain ⟨_, hop, h⟩ := ok_of_reads h .mGuard hc
  obtain ⟨_, u, hu, h⟩ := ok_of_bind h
  cases hu
  have hrun : cleanMem (runs i q s) := hc
  by_cases hrank : b.rank = 0
  · rw [if_pos hrank] at h
    obtain ⟨_, -, h⟩ := ok_of_reads h .checkRange hrun
    obtain ⟨raw, -, h⟩ := ok_of_reads h .readElements hrun
    cases h
    exact ⟨_, runs i q s, ⟨rfl, rfl, rfl, rfl, rfl, rfl, (if_pos hrank).symm, rfl, rfl, rfl, fun _ => rfl,
      fun _ => ⟨e, peekTE_of_needTE hc he, rfl⟩⟩, rfl, sameBut_refl .., fun _ => rfl⟩
  · rw [if_neg hrank] at h
    have hsum : b.op = 0 := by simpa [hrank] using of_mGuard_ok hop
    obtain ⟨_, v, hv, h⟩ := ok_of_bind h
    cases h
    obtain ⟨u, z, raw, hu, hz, rfl⟩ := startLow_leads _ _ _ _ _ _ hrun hv
    have hnoted : sameBut [.link, .counters] (runs i q s) (noteLow z u) :=
      sameBut_then (modLink_sameBut ..) (by decide) (sameBut_mono hu (by decide))
    obtain ⟨o, ho, hoffer⟩ := offerLow_eq (s := noteLow z u) (raw := raw) hz hsum hrank
      ((findRec_congr (hnoted.part .streams (by decide)) i q).trans hfound) s
    have hlink : u.link = s.link := hu.part .link (by decide)
    refine ⟨o, noteLow z u, ho, by rw [hoffer], hnoted, fun k => ?_⟩
    exact congrArg (sget Bucket.empty · k) (show (noteLow z u).link.insts = s.link.insts by rw [noteLow, modLink_link, hlink])

/-! ### The bucket that it opens -/

/-- What the command of a REDUCE leaves whose bucket is FREE. -/
theorem offerDesc_reduce (hclean : cleanMem s) (hkind : p.kind ≠ 1) (hfree : (bucket s b.bucket).state = .free)
    (hplan : (readPlan (if b.rank = 0 then [0, 1] else [2]) b.plan 0x14 s).1 = .ok p) (hs : startsNow i h (.reduce b) s)
    (hp : passes (dispatchReduce i (stream s i).seqNext (keyed i h (.reduce b) s) b) (atWork i h (.reduce b) s) = true) :
    tookOne i h (.reduce b) .running s (offerDesc i h (.reduce b) s)
      ∧ sameBut (.link :: .streams :: settleParts) s (offerDesc i h (.reduce b) s)
      ∧ (∃ o e k, ReduceOffer i (stream s i).seqNext b p (atWork i h (.reduce b) s) o ∧ SameLocal o.loc k
        ∧ bucket (offerDesc i h (.reduce b) s) b.bucket = { openedWith e o with locals := [k] })
      ∧ ∀ c, c ≠ b.bucket → bucket (offerDesc i h (.reduce b) s) c = bucket s c := by
  have hat := atWork_sameBut i h (.reduce b) s
  have hcomp := comp_atWork i h (.reduce b) s
  have hreads := reads_readPlan (t := atWork i h (.reduce b) s) hclean (hat.part .mem (by decide)) (by rw [hcomp])
    (by rw [hcomp]) (hat.part .held (by decide)) (if b.rank = 0 then [0, 1] else [2]) b.plan 0x14
  obtain ⟨_, t, hrun⟩ := ok_of_passes hp
  have hfound := ((holds_atWork hs.1 h (.reduce b)).modRec (f := fun x => { x with life := .running }) rfl).findRec
  obtain ⟨o, u, ho, rfl, hu, hbuckets⟩ := dispatchReduce_ok (cleanMem_atWork hclean i h _) hkind hfound
    (fun _ _ => hreads.unique hplan) hrun
  have hopens := offer_opens (o := o) (s := u) (by rw [hbuckets, ho.bucket]; exact hfree)
  have hmove : moveBucket b.bucket (offer o u) = offer o u := ho.bucket ▸ hopens.moveBucket
  rw [hmove] at hrun
  obtain ⟨htook, hrest, hlink⟩ := offerDesc_runs hclean hs (.inl ⟨b, rfl⟩) (runDesc_ok hrun i _) (sameBut_trans hu hopens.rest)
  obtain ⟨e, k, hbucket, hk⟩ := hopens.bucket
  refine ⟨htook, hrest, ⟨o, e, k, ho, hk, ?_⟩, fun c hc => ?_⟩
  · rw [bucket_congr hlink, ← ho.bucket, hbucket]
  · rw [bucket_congr hlink, hopens.others c (ho.bucket ▸ hc), hbuckets]
    rfl

end
end Sys2Proof.Machine
end

section
/-! A DISPATCH that starts: its receive buffer, and the count bucket of its first round (R212, R312, R314, R315). -/

namespace Sys2Proof.Machine

section
variable {s t u v : State} {i q : Nat} {h : Header} {r : Rec} {b : DispatchBody} {p : DispPlan} {k : Plan} {o : DispOp}

/-! ### Operations in progress -/

theorem findOp_congr (h : t.link.ops = s.link.ops) (i q : Nat) : findOp t i q = findOp s i q := by simp only [findOp, h]

theorem of_findOp (h : findOp s i q = some o) : o.stream = i ∧ o.seq = q := by simpa using List.find?_some h

/-- A change of an operation that keeps its descriptor is found. -/
theorem findOp_modOp {f : DispOp → DispOp} (h : findOp s i q = some o) (hf : ∀ x, x.stream = i → x.seq = q →
    (f x).stream = i ∧ (f x).seq = q) : findOp (modOp i q f s) i q = some (f o) := by
  obtain ⟨hi, hq⟩ := of_findOp h
  have hsame : ((fun x : DispOp => x.stream == i && x.seq == q) ∘ fun x => if x.stream = i ∧ x.seq = q then f x else x)
      = fun x => x.stream == i && x.seq == q := by
    funext x
    by_cases hx : x.stream = i ∧ x.seq = q
    · obtain ⟨hi', hq'⟩ := hf x hx.1 hx.2
      simp [hx.1, hx.2, hi', hq']
    · simp [hx]
  have hmap : (modOp i q f s).link.ops = s.link.ops.map fun x => if x.stream = i ∧ x.seq = q then f x else x := rfl
  rw [findOp, hmap, List.find?_map, hsame]
  rw [findOp] at h
  rw [h, Option.map_some, if_pos ⟨hi, hq⟩]

/-- The operation that is added last is found where none of its descriptor was in progress. -/
theorem findOp_append (hnone : findOp s i q = none) (hi : o.stream = i) (hq : o.seq = q) (ht : t.link.ops = s.link.ops ++ [o]) :
    findOp t i q = some o := by
  rw [findOp] at hnone
  simp [findOp, ht, List.find?_append, hnone, hi, hq]

theorem modOp_sameBut (i q : Nat) (f : DispOp → DispOp) (s : State) : sameBut [.link] s (modOp i q f s) := modLink_sameBut _ s

/-! ### Receive buffers -/

/-- An operation that is not armed holds no buffer. -/
theorem bufferFits_congr (hheld : t.reg.held = s.reg.held) (hports : t.ports = s.ports)
    (hused : ∀ n, dispUsed t n = dispUsed s n) (l : List Nat) : bufferFits t l = bufferFits s l := by
  have hpool (n : Nat) : dispPool t n = dispPool s n := by
    have hcredit : creditOf t = creditOf s := by funext a c; simp only [creditOf, reg4_congr hheld]
    have hport : port t = port s := by funext a; simp only [port, hports]
    simp only [dispPool, creditBytes, enabledPorts, hcredit, hport, reg8, reg4_congr hheld]
  simp only [bufferFits, hused, hpool]

/-- The operations that wait for a buffer, where one is new and no other waits: it alone arms, if it fits (R212). -/
theorem armEngines_op (harmed : enginesArmed s) (hops : t.link.ops = s.link.ops ++ [o]) (ho : o.armed = false)
    (hcombines : t.link.combines = s.link.combines) :
    armEngines t = if bufferFits t o.buffers then armDispatch o t else t := by
  have hwaiting : t.link.ops.filter (fun o => !o.armed) = [o] := by
    have hold : s.link.ops.filter (fun o => !o.armed) = [] := List.filter_eq_nil_iff.mpr fun x hx => by simp [harmed.1 x hx]
    simp [hops, List.filter_append, hold, ho]
  have hnone : t.link.combines.filter (fun o => !o.armed) = [] :=
    List.filter_eq_nil_iff.mpr fun x hx => by simp [harmed.2 x (hcombines ▸ hx)]
  simp only [armEngines, hwaiting, hnone, List.foldl_cons, List.foldl_nil]

/-! ### The first round -/

/-- The choices that drop out as a round begins are counted, and nothing else of the operation changes. -/
theorem dropUnhomed_keeps (o : DispOp) (s : State) :
    (∃ l, (dropUnhomed o s).1 = { o with choices := l }) ∧ sameBut [.counters] s (dropUnhomed o s).2 := by
  unfold dropUnhomed
  refine List.foldlRecOn (motive := fun (acc : DispOp × State) => (∃ l, acc.1 = { o with choices := l }) ∧ sameBut [.counters] s acc.2)
    _ _ ⟨⟨o.choices, rfl⟩, sameBut_refl _ s⟩ fun acc hacc c _ => ?_
  obtain ⟨⟨l, hl⟩, hcount⟩ := hacc
  have hchoice (y : Choice) : ∃ l, setChoice y acc.1 = { o with choices := l } := by rw [hl]; exact ⟨_, rfl⟩
  split
  · exact ⟨hchoice _, sameBut_trans hcount (count_sameBut ..)⟩
  · split
    · exact ⟨hchoice _, sameBut_trans hcount (count_sameBut ..)⟩
    · exact ⟨⟨l, hl⟩, hcount⟩

/-- What round 1 of an operation sends to its count bucket: 1 for each expert that it requests (R314). -/
def countOffer (i q : Nat) (r : Rec) (k : Plan) (o : DispOp) : Offer :=
  { bucket := o.plan.countBucket, planNo := o.plan.countPlan, plan := k, op := 0, word := false
    elements := o.plan.experts, use := .count, deadline := none, tag := r.step
    loc := { (default : LocalIn) with
      stream := i, seq := q, layer := r.hdr.layer, tensor := r.hdr.tensorId
      words := (List.range o.plan.experts).map (fun n =>
        if (choicesOf o .waiting).any (fun c => c.expert == o.plan.firstExpert + n) then (1 : Int) else 0) } }

/-- Round 1 of operation `o` has begun: its count bucket waits to be armed, and its choices apart it is as it was. -/
structure Begins (i q : Nat) (o : DispOp) (k : Plan) (s t : State) : Prop where
  op : ∃ l, findOp t i q = some { o with choices := l }
  bucket : ∃ r e x l, Machine.bucket t o.plan.countBucket
    = { openedWith e (countOffer i q r k { o with choices := l }) with locals := [x] }
  others : ∀ b, b ≠ o.plan.countBucket → Machine.bucket t b = Machine.bucket s b
  deferred : t.link.deferred = s.link.deferred
  rest : sameBut [.link, .counters] s t

theorem startRound_begins (hclean : cleanMem s) (hop : findOp s i q = some o) (hrec : findRec s i q = some r)
    (hplan : (readPlan [0] o.plan.countPlan 0x1C s).1 = .ok k) (hfree : (bucket s o.plan.countBucket).state = .free) :
    Begins i q o k s (startRound i q s) := by
  obtain ⟨⟨l, hl⟩, hcount⟩ := dropUnhomed_keeps o s
  have hround : startRound i q s = runEngine i q (do
      let p ← readPlan [0] (dropUnhomed o s).1.plan.countPlan 0x1C
      mMod (fun t => moveBucket (dropUnhomed o s).1.plan.countBucket (offer (countOffer i q r p (dropUnhomed o s).1) t)))
      (modOp i q (fun _ => (dropUnhomed o s).1) (dropUnhomed o s).2) := by
    simp only [startRound, hop, hrec]
    rfl
  rw [hl] at hround
  generalize (dropUnhomed o s).2 = u at hcount hround
  let v := modOp i q (fun _ => { o with choices := l }) u
  have hv : sameBut [.link, .counters] s v := sameBut_then (modOp_sameBut ..) (by decide) (sameBut_mono hcount (by decide))
  have hlink : u.link = s.link := hcount.part .link (by decide)
  have hcomp : v.comp = s.comp := hv.part .comp (by decide)
  have hread : readPlan [0] o.plan.countPlan 0x1C v = (.ok k, v) := (reads_readPlan hclean (hv.part .mem (by decide))
    (by rw [hcomp]) (by rw [hcomp]) (hv.part .held (by decide)) [0] o.plan.countPlan 0x1C).answer hplan
  have hbuckets (b : Nat) : bucket v b = bucket s b :=
    congrArg (sget Bucket.empty · b) (show v.link.insts = s.link.insts by rw [show v.link.insts = u.link.insts from rfl, hlink])
  have hopens := offer_opens (s := v) (o := countOffer i q r k { o with choices := l }) (by rw [hbuckets]; exact hfree)
  have hrun : startRound i q s = offer (countOffer i q r k { o with choices := l }) v := by
    rw [hround, runEngine, mm_bind hread]
    exact hopens.moveBucket
  obtain ⟨e, x, hbucket, -⟩ := hopens.bucket
  obtain ⟨m, hinsts⟩ := hopens.link
  have hown := of_findOp hop
  rw [hrun]
  exact {
    op := ⟨l, (findOp_congr (s := v) (by rw [hinsts]) i q).trans
      (findOp_modOp ((findOp_congr (by rw [hlink]) i q).trans hop) fun _ _ _ => hown)⟩
    bucket := ⟨r, e, x, l, hbucket⟩
    others := fun b hb => (hopens.others b hb).trans (hbuckets b)
    deferred := by rw [hinsts, ← hlink]; rfl
    rest := hopens.of_before hv }

end
end Sys2Proof.Machine
end

section
/-! What a DISPATCH leaves as it starts (R212, R312, R314, R315). -/

namespace Sys2Proof.Machine

section
variable {s t u v : State} {i q : Nat} {h : Header} {r : Rec} {b : DispatchBody} {p : DispPlan} {k : Plan} {o : DispOp}

/-- Operation `o` is that of the DISPATCH `q` of stream `i`, under plan `p`, and is not armed. -/
structure DispatchOf (i q : Nat) (b : DispatchBody) (p : DispPlan) (s : State) (o : DispOp) : Prop where
  stream : o.stream = i
  seq : o.seq = q
  planNo : o.planNo = b.plan
  plan : o.plan = p
  round : o.round = 1
  k : o.k = b.k
  capacity : o.capacity = b.capacity
  policy : o.policy = b.policy
  expects : o.expects = none
  armed : o.armed = false
  held : o.held = (sget [] s.link.deferred b.plan).zipIdx.map (heldIn s p.defer (sget [] s.link.deferred b.plan))
  buffers : ∃ e, peekTE s b.tokens = some e
    ∧ o.buffers = receiveBuffer s e ((layerSlots s p).map fun n => (slotExpert (slotReg s n), b.capacity))

/-- The links take the operation up, and the defer records of its plan are taken. -/
def noteOp (o : DispOp) (s : State) : State :=
  modLink s (fun l => { l with ops := l.ops ++ [o], deferred := sset [] l.deferred o.planNo [] })

theorem noteOp_sameBut (o : DispOp) (s : State) : sameBut [.link] s (noteOp o s) := modLink_sameBut ..

/-- The work of a DISPATCH makes it run, takes up its operation, and arms what fits. -/
theorem dispatchDispatch_ok {x : Unit} (hc : cleanMem s)
    (hplan : ∀ y u, readDispPlan b.plan 0x1C s = (.ok y, u) → y = p) (h : dispatchDispatch i q r b s = (.ok x, t)) :
    ∃ o, DispatchOf i q b p s o ∧ t = armEngines (noteOp o (runs i q s)) := by
  unfold dispatchDispatch at h
  obtain ⟨e, he, h⟩ := ok_of_reads h .needTE hc
  obtain ⟨_, -, h⟩ := ok_of_reads h .needTE hc
  obtain ⟨_, -, h⟩ := ok_of_reads h .checkIn hc
  obtain ⟨_, -, h⟩ := ok_of_reads h .checkIn hc
  obtain ⟨_, -, h⟩ := ok_of_reads h .mGuard hc
  obtain ⟨w, -, h⟩ := ok_of_reads h .readTE hc
  obtain ⟨_, -, h⟩ := ok_of_reads h (by cases w with
    | none => exact .pure
    | some y => exact .bind .checkIn fun _ => .mGuard) hc
  obtain ⟨_, -, h⟩ := ok_of_reads h .mGuard hc
  obtain ⟨_, -, h⟩ := ok_of_reads h .mGuard hc
  obtain ⟨y, hy, h⟩ := ok_of_reads h .readDispPlan hc
  obtain rfl := hplan y s hy
  obtain ⟨_, hget, h⟩ := ok_of_reads h .mGet hc
  cases hget
  obtain ⟨_, -, h⟩ := ok_of_reads h (.forM fun _ => .bind .needTE fun _ => .bind .checkOut fun _ => .mGuard) hc
  obtain ⟨route, -, h⟩ := ok_of_reads h (.mapM fun _ => .readRow) hc
  obtain ⟨held, hheld, h⟩ := ok_of_reads h .readDeferred hc
  cases h
  exact ⟨_, ⟨rfl, rfl, rfl, rfl, rfl, rfl, rfl, rfl, rfl, rfl, readDeferred_ok hc hheld, e, peekTE_of_needTE hc he, rfl⟩, rfl⟩

/-! ### Waiting, or begun -/

/-- Operation `o` is in progress, its choices apart, `armed` or not, and the defer records of its plan are taken. -/
structure TakenUp (i q : Nat) (o : DispOp) (armed : Bool) (s t : State) : Prop where
  op : ∃ l, findOp t i q = some { o with armed := armed, choices := l }
  deferred : sget [] t.link.deferred o.planNo = []
  rest : sameBut [.link, .counters] s t

section
variable (harmed : enginesArmed s) (hnone : findOp s i q = none) (hi : o.stream = i) (hq : o.seq = q) (ho : o.armed = false)
include harmed ho

/-- It arms if its buffer fits beside those that are held already (R212). -/
theorem armEngines_noteOp : armEngines (noteOp o s) = if bufferFits s o.buffers then armDispatch o (noteOp o s) else noteOp o s := by
  have hused (n : Nat) : dispUsed (noteOp o s) n = dispUsed s n := by simp [dispUsed, noteOp, ho]
  rw [armEngines_op (t := noteOp o s) harmed rfl ho rfl, bufferFits_congr (t := noteOp o s) (s := s) rfl rfl hused]

include hnone hi hq

theorem takenUp_waits (hfits : bufferFits s o.buffers = false) : TakenUp i q o false s (armEngines (noteOp o s))
    ∧ ∀ n, bucket (armEngines (noteOp o s)) n = bucket s n := by
  rw [armEngines_noteOp harmed ho, hfits, if_neg Bool.false_ne_true]
  refine ⟨⟨⟨o.choices, ?_⟩, sget_sset_same .., sameBut_mono (noteOp_sameBut ..) (by decide)⟩, fun n => rfl⟩
  rw [← ho]
  exact findOp_append hnone hi hq rfl

theorem takenUp_begins (hclean : cleanMem s) (hrec : findRec s i q = some r) (hfits : bufferFits s o.buffers = true)
    (hplan : (readPlan [0] o.plan.countPlan 0x1C s).1 = .ok k) (hfree : (bucket s o.plan.countBucket).state = .free) :
    TakenUp i q o true s (armEngines (noteOp o s))
      ∧ (∃ r e x l, bucket (armEngines (noteOp o s)) o.plan.countBucket
        = { openedWith e (countOffer i q r k { o with armed := true, choices := l }) with locals := [x] })
      ∧ ∀ n, n ≠ o.plan.countBucket → bucket (armEngines (noteOp o s)) n = bucket s n := by
  let u := modOp i q (fun x => { x with armed := true }) (noteOp o s)
  have hu : sameBut [.link] s u := sameBut_trans (noteOp_sameBut ..) (modOp_sameBut ..)
  have harm : armEngines (noteOp o s) = startRound i q u := by
    rw [armEngines_noteOp harmed ho, if_pos hfits, armDispatch, hi, hq]
  have hop : findOp u i q = some { o with armed := true } := findOp_modOp (findOp_append hnone hi hq rfl) fun _ hx hy => ⟨hx, hy⟩
  have hread := (reads_readPlan (t := u) hclean (hu.part .mem (by decide)) rfl rfl (hu.part .held (by decide)) [0]
    o.plan.countPlan 0x1C).answer hplan
  rw [harm]
  obtain ⟨⟨l, hfound⟩, hbucket, hothers, hdeferred, hrest⟩ := startRound_begins (s := u) hclean hop
    (by rwa [findRec_congr (hu.part .streams (by decide))]) (by rw [hread]) hfree
  refine ⟨⟨⟨l, hfound⟩, ?_, sameBut_then hrest (by decide) (sameBut_mono hu (by decide))⟩, hbucket, hothers⟩
  rw [hdeferred]
  exact sget_sset_same ..

end

/-! ### Its command -/

/-- The stream has its new descriptor, and that runs. -/
def underway (i : Nat) (h : Header) (d : Desc) (s : State) : State := runs i (stream s i).seqNext (atWork i h d s)

theorem underway_sameBut (i : Nat) (h : Header) (d : Desc) (s : State) : sameBut [.streams] s (underway i h d s) :=
  sameBut_trans (atWork_sameBut ..) (runs_sameBut ..)

theorem findRec_underway {d : Desc} (hs : startsNow i h d s) :
    findRec (underway i h d s) i (stream s i).seqNext = some { keyed i h d s with life := .running } :=
  ((holds_atWork hs.1 h d).modRec (f := fun x => { x with life := .running }) rfl).findRec

theorem readPlan_underway {d : Desc} {l : List Nat} {n off : Nat} (hclean : cleanMem s) (h' : (readPlan l n off s).1 = .ok k) :
    readPlan l n off (underway i h d s) = (.ok k, underway i h d s) :=
  have hu := underway_sameBut i h d s
  (reads_readPlan hclean (hu.part .mem (by decide)) rfl rfl (hu.part .held (by decide)) l n off).answer h'

/-- An operation taken up as the command of a DISPATCH leaves it. -/
theorem TakenUp.offered {armed : Bool} (hclean : cleanMem s) (hs : startsNow i h (.dispatch b) s)
    (hrun : dispatchDispatch i (stream s i).seqNext (keyed i h (.dispatch b) s) b (atWork i h (.dispatch b) s) = (.ok (), t))
    (ho : DispatchOf i (stream s i).seqNext b p (atWork i h (.dispatch b) s) o)
    (ht : TakenUp i (stream s i).seqNext o armed (underway i h (.dispatch b) s) t) :
    tookOne i h (.dispatch b) .running s (offerDesc i h (.dispatch b) s)
      ∧ sameBut (.link :: .streams :: settleParts) s (offerDesc i h (.dispatch b) s)
      ∧ (offerDesc i h (.dispatch b) s).link = t.link ∧ sget [] (offerDesc i h (.dispatch b) s).link.deferred b.plan = []
      ∧ ∃ l, findOp (offerDesc i h (.dispatch b) s) i (stream s i).seqNext = some { o with armed := armed, choices := l } := by
  obtain ⟨htook, hrest, hlink⟩ := offerDesc_runs hclean hs (.inr (.inl ⟨b, rfl⟩)) (runDesc_ok hrun i _) ht.rest
  obtain ⟨l, hop⟩ := ht.op
  exact ⟨htook, hrest, hlink, by rw [hlink, ← ho.planNo, ht.deferred], l, (findOp_congr (by rw [hlink]) ..).trans hop⟩

/-- The work of a DISPATCH takes its operation up in the state that it starts from. -/
theorem dispatchDispatch_atWork (hclean : cleanMem s) (hplan : (readDispPlan b.plan 0x1C s).1 = .ok p)
    (hp : passes (dispatchDispatch i (stream s i).seqNext (keyed i h (.dispatch b) s) b) (atWork i h (.dispatch b) s) = true) :
    ∃ o, DispatchOf i (stream s i).seqNext b p (atWork i h (.dispatch b) s) o
      ∧ dispatchDispatch i (stream s i).seqNext (keyed i h (.dispatch b) s) b (atWork i h (.dispatch b) s)
        = (.ok (), armEngines (noteOp o (underway i h (.dispatch b) s))) := by
  have hat := atWork_sameBut i h (.dispatch b) s
  have hreads := reads_readDispPlan hclean (hat.part .mem (by decide)) (comp_atWork i h _ s) (hat.part .held (by decide))
    b.plan 0x1C
  obtain ⟨_, t, hrun⟩ := ok_of_passes hp
  obtain ⟨o, ho, rfl⟩ := dispatchDispatch_ok (cleanMem_atWork hclean i h _) (fun _ _ => hreads.unique hplan) hrun
  exact ⟨o, ho, hrun⟩

end
end Sys2Proof.Machine
end

section
/-! A COMBINE that waits for the outputs of its choices (R212, R317), and the three exchanges together. -/

namespace Sys2Proof.Machine

section
variable {s t u v : State} {i q : Nat} {h : Header} {r : Rec} {b : DispatchBody} {p : DispPlan} {o : CombOp}

/-! ### Its operation -/

/-- What the DISPATCH of plan `n` has kept for its COMBINE. -/
def keptOf (s : State) (n : Nat) : Placed := sget Placed.empty s.link.placed n

/-- Operation `o` is that of the COMBINE `q` of stream `i`, and is not armed. -/
structure CombineOf (i q : Nat) (b : DispatchBody) (s : State) (o : CombOp) : Prop where
  stream : o.stream = i
  seq : o.seq = q
  planNo : o.planNo = b.plan
  placed : o.placed = keptOf s b.plan
  rows : s.link.earlyOuts = [] → o.rows = []
  armed : o.armed = false
  buffers : ∃ e, peekTE s b.tokens = some e ∧ o.buffers = receiveBuffer s e
    (((keptOf s b.plan).choices.filter fun c => decide (c.state = .sent)).map fun c => (c.expert, 1))

/-- The links take the operation up, with what its DISPATCH kept and the outputs of its layer that are there. -/
def noteCombine (o : CombOp) (s : State) : State :=
  modLink s (fun l => { l with
    combines := l.combines ++ [o], placed := sset Placed.empty l.placed o.planNo Placed.empty
    earlyOuts := l.earlyOuts.filter (fun x => !inLayer o.plan x.tok.expert) })

theorem noteCombine_sameBut (o : CombOp) (s : State) : sameBut [.link] s (noteCombine o s) := modLink_sameBut ..

/-- The work of a COMBINE makes it run, takes up its operation, and arms what fits. -/
theorem dispatchCombine_ok {x : Unit} (hc : cleanMem s)
    (h : dispatchCombine i q r b s = (.ok x, t)) : ∃ o, CombineOf i q b s o ∧ t = armEngines (noteCombine o (runs i q s)) := by
  unfold dispatchCombine at h
  obtain ⟨e, he, h⟩ := ok_of_reads h .needTE hc
  obtain ⟨_, -, h⟩ := ok_of_reads h .checkIn hc
  obtain ⟨w, -, h⟩ := ok_of_reads h .needTE hc
  obtain ⟨out, -, h⟩ := ok_of_reads h .needTE hc
  obtain ⟨_, -, h⟩ := ok_of_reads h .checkIn hc
  obtain ⟨_, -, h⟩ := ok_of_reads h .checkOut hc
  obtain ⟨_, -, h⟩ := ok_of_reads h .mGuard hc
  obtain ⟨_, -, h⟩ := ok_of_reads h .mGuard hc
  obtain ⟨p, -, h⟩ := ok_of_reads h .readDispPlan hc
  obtain ⟨_, hget, h⟩ := ok_of_reads h .mGet hc
  cases hget
  obtain ⟨_, -, h⟩ := ok_of_reads h (.forM fun _ => .bind .needTE fun _ => .bind .checkIn fun _ => .mGuard) hc
  obtain ⟨_, -, h⟩ := ok_of_reads h .mGuardLost hc
  cases h
  exact ⟨_, ⟨rfl, rfl, rfl, rfl, fun h => by simp only [h, List.filter_nil], rfl, e,
    peekTE_of_needTE hc he, rfl⟩, rfl⟩

/-- Engine work that succeeds leaves what it has made. -/
theorem runEngine_ok {w : MM Unit} {x : Unit} (h : w s = (.ok x, t)) (i q : Nat) : runEngine i q w s = t := by
  rw [runEngine, h]

/-! ### Waiting for its choices -/

/-- Of no row no choice is the output. -/
theorem outputOf_nil (d : Placed) (c : Choice) : outputOf d [] c = none := by simp [outputOf]

/-- While a choice that was sent has not returned, it waits. -/
theorem allReturned_sent (hrows : o.rows = []) (hsent : o.placed.choices.any (fun c => decide (c.state = .sent)) = true) :
    allReturned o = false := by
  obtain ⟨c, hc, hstate⟩ := List.any_eq_true.mp hsent
  refine List.all_eq_false.mpr ⟨c, hc, ?_⟩
  simp [hrows, outputOf_nil, of_decide_eq_true hstate]

/-- It sends nothing where its DISPATCH placed nothing in slots here. -/
theorem armCombine_waits (hslots : o.placed.slots = []) (hwait : allReturned o = false) (hown : t.link.combines = [o]) :
    armCombine o t = modLink t (fun l => { l with combines := [{ o with armed := true }] }) := by
  have harm : (modLink t fun l => { l with combines := l.combines.map fun x =>
      if x.stream = o.stream ∧ x.seq = o.seq then { x with armed := true } else x })
      = modLink t fun l => { l with combines := [{ o with armed := true }] } := by simp [modLink, hown]
  have hfinish (u : State) : finishCombine { o with armed := true } u = u :=
    if_pos (by rw [show allReturned { o with armed := true } = false from hwait]; rfl)
  simp only [armCombine, harm, hslots, runEngine]
  exact hfinish _

/-- The operation alone of its kind, armed exactly where its buffer fits beside those that are held (R212). -/
theorem armEngines_noteCombine (harmed : enginesArmed s) (hcombines : s.link.combines = []) (ho : o.armed = false)
    (hslots : o.placed.slots = []) (hwait : allReturned o = false) :
    (armEngines (noteCombine o s)).link.combines = [{ o with armed := bufferFits s o.buffers }]
      ∧ sget Placed.empty (armEngines (noteCombine o s)).link.placed o.planNo = Placed.empty
      ∧ sameBut [.link] s (armEngines (noteCombine o s)) := by
  have hown : (noteCombine o s).link.combines = [o] := by simp [noteCombine, hcombines]
  have hops : (noteCombine o s).link.ops.filter (fun o => !o.armed) = [] :=
    List.filter_eq_nil_iff.mpr fun x hx => by simp [harmed.1 x hx]
  have hused (n : Nat) : dispUsed (noteCombine o s) n = dispUsed s n := by simp [dispUsed, noteCombine, hcombines, ho]
  have harm : armEngines (noteCombine o s)
      = if bufferFits s o.buffers then armCombine o (noteCombine o s) else noteCombine o s := by
    rw [← bufferFits_congr (t := noteCombine o s) (s := s) rfl rfl hused]
    simp [armEngines, hops, hown, ho]
  rw [harm]
  cases bufferFits s o.buffers with
  | true =>
    rw [if_pos rfl, armCombine_waits hslots hwait hown]
    exact ⟨rfl, sget_sset_same .., sameBut_trans (noteCombine_sameBut ..) (modLink_sameBut ..)⟩
  | false =>
    rw [if_neg Bool.false_ne_true, hown, ← ho]
    exact ⟨rfl, sget_sset_same .., noteCombine_sameBut ..⟩

/-- What the command of such a COMBINE leaves. -/
theorem offerDesc_combine (hclean : cleanMem s) (harmed : enginesArmed s) (hcombines : s.link.combines = [])
    (hearly : s.link.earlyOuts = []) (hslots : (keptOf s b.plan).slots = [])
    (hsent : (keptOf s b.plan).choices.any (fun c => decide (c.state = .sent)) = true) (hs : startsNow i h (.combine b) s)
    (hp : passes (dispatchCombine i (stream s i).seqNext (keyed i h (.combine b) s) b) (atWork i h (.combine b) s) = true) :
    tookOne i h (.combine b) .running s (offerDesc i h (.combine b) s)
      ∧ sameBut (.link :: .streams :: settleParts) s (offerDesc i h (.combine b) s)
      ∧ (∃ o, CombineOf i (stream s i).seqNext b s o
        ∧ (offerDesc i h (.combine b) s).link.combines = [{ o with armed := bufferFits s o.buffers }])
      ∧ keptOf (offerDesc i h (.combine b) s) b.plan = Placed.empty := by
  obtain ⟨_, t, hrun⟩ := ok_of_passes hp
  obtain ⟨o, ho, rfl⟩ := dispatchCombine_ok (cleanMem_atWork hclean i h _) hrun
  have ho' : CombineOf i (stream s i).seqNext b s o := ⟨ho.stream, ho.seq, ho.planNo, ho.placed, ho.rows, ho.armed, ho.buffers⟩
  have hwait : allReturned o = false := allReturned_sent (ho'.rows hearly) (ho'.placed ▸ hsent)
  obtain ⟨hown, hplaced, hlinks⟩ := armEngines_noteCombine (s := underway i h (.combine b) s)
    harmed hcombines ho.armed (ho'.placed ▸ hslots) hwait
  have hkind : dispatchKind i (keyed i h (.combine b) s) (atWork i h (.combine b) s)
      = armEngines (noteCombine o (underway i h (.combine b) s)) :=
    runEngine_ok hrun i (stream s i).seqNext
  obtain ⟨htook, hrest, hlink⟩ := offerDesc_runs hclean hs (.inr (.inr ⟨b, rfl⟩)) hkind (sameBut_mono hlinks (by decide))
  refine ⟨htook, hrest, ⟨o, ho', ?_⟩, ?_⟩
  · rw [hlink, hown]
    rfl
  · rw [keptOf, hlink, ← ho.planNo, hplaced]

end

/-- Settles O46: each passes its checks and runs. A REDUCE offers to its FREE bucket; a DISPATCH and a COMBINE take up their
operation, which arms if its buffer fits, and a DISPATCH that arms offers to the count bucket of its first round. -/
theorem exchangesStart : Obligations.ExchangesStart := by
  unfold Obligations.ExchangesStart
  intro s i h hclean harmed
  refine ⟨fun b p hfree hkind hplan hs hp => ?_, fun b p k hplan hcount hnone =>
    ⟨fun hfree hfits hs hp => ?_, fun hfits hs hp => ?_⟩, fun b hcombines hearly hslots hsent hs hp => ?_⟩
  · obtain ⟨htook, hrest, ⟨o, e, l, ho, hl, hb⟩, hothers⟩ := offerDesc_reduce hclean hkind hfree hplan hs hp
    refine ⟨_, onUnit_stream hs.1 _, htook, hrest, ?_⟩
    simp only [hb]
    exact ⟨rfl, ho.plan, ho.planNo, ho.op, ho.word, ho.deadline, ho.use, ⟨l, rfl, hl.stream.trans ho.stream,
      hl.seq.trans ho.seq, hl.backup.trans ho.backup, fun hrank => hl.dst.trans (ho.dst hrank)⟩, ho.elements, hothers⟩
  · obtain ⟨o, ho, hrun⟩ := dispatchDispatch_atWork hclean hplan hp
    obtain rfl := ho.plan
    obtain ⟨e, he, hbuffers⟩ := ho.buffers
    obtain ⟨htaken, ⟨r, x, y, l, hb⟩, hothers⟩ := takenUp_begins (s := underway i h (.dispatch b) s) harmed hnone ho.stream
      ho.seq ho.armed hclean (findRec_underway hs) (hbuffers ▸ hfits e he) (by rw [readPlan_underway hclean hcount]) hfree
    obtain ⟨htook, hrest, hlink, hdeferred, m, hop⟩ := htaken.offered hclean hs hrun ho
    refine ⟨_, onUnit_stream hs.1 _, htook, hrest, ⟨hdeferred, _, hop, ho.planNo, rfl, ho.round, ho.k, ho.capacity,
      ho.policy, ho.expects, rfl, ho.held⟩, ?_⟩
    simp only [bucket_congr hlink, hb]
    exact ⟨rfl, rfl, rfl, rfl, rfl, hothers⟩
  · obtain ⟨o, ho, hrun⟩ := dispatchDispatch_atWork hclean hplan hp
    obtain ⟨e, he, hbuffers⟩ := ho.buffers
    obtain ⟨htaken, hbuckets⟩ := takenUp_waits (s := underway i h (.dispatch b) s)
      harmed hnone ho.stream ho.seq ho.armed (hbuffers ▸ hfits e he)
    obtain ⟨htook, hrest, hlink, hdeferred, m, hop⟩ := htaken.offered hclean hs hrun ho
    exact ⟨_, onUnit_stream hs.1 _, htook, hrest, ⟨hdeferred, _, hop, ho.planNo, ho.plan, ho.round, ho.k, ho.capacity,
      ho.policy, ho.expects, rfl, ho.held⟩, fun n => (bucket_congr hlink n).trans (hbuckets n)⟩
  · obtain ⟨htook, hrest, ⟨o, ho, hown⟩, hplaced⟩ := offerDesc_combine hclean harmed hcombines hearly hslots hsent hs hp
    obtain ⟨e, he, hbuffers⟩ := ho.buffers
    refine ⟨_, onUnit_stream hs.1 _, htook, hrest, ⟨_, hown, ho.stream, ho.seq, ho.planNo, ho.placed, ho.rows hearly,
      fun y hy => ?_⟩, hplaced⟩
    obtain rfl : e = y := Option.some.inj (he.symm.trans hy)
    exact congrArg (bufferFits s) hbuffers

end Sys2Proof.Machine
end

section
/-! What the operations of the tally leave of the state, and what each of them makes of the tally (R219 to R231). -/

namespace Sys2Proof.Machine

/-- The parts that following a source moves: the tally, its events, and what a command settles last. -/
abbrev tallyParts : List Part := .tally :: .ring :: settleParts

section
variable {s t u : State}

/-! ### Settling -/

theorem modTally_sameBut (f : TallySt → TallySt) (s : State) : sameBut [.tally] s (modTally s f) :=
  ⟨rfl, fun p hp => by cases p <;> simp_all [Part.same]⟩

theorem modTally_parts (f : TallySt → TallySt) (s : State) : sameBut tallyParts s (modTally s f) :=
  sameBut_mono (modTally_sameBut f s) (by decide)

/-- No stream changed, so no status line did (R249). -/
theorem settle_of_streams (h : t.host.streams = s.host.streams) : settle s t = settlePhases t := by
  have hline (i : Nat) : statusLine s t i = t := by
    simp [statusLine, lineBytes_congr (stream_congr h i)]
  unfold settle statusLines
  generalize (t.host.streams.map (·.1) ++ s.host.streams.map (·.1)).dedup = l
  induction l with
  | nil => rfl
  | cons i l ih => rw [List.foldl_cons, hline, ih]

@[simp] theorem settle_tally (old s : State) : (settle old s).tally = s.tally :=
  (settle_sameBut old s).part .tally (by decide)

@[simp] theorem settle_held (old s : State) : (settle old s).reg.held = s.reg.held :=
  (settle_sameBut old s).part .held (by decide)

@[simp] theorem settlePhases_ctr (s : State) : (settlePhases s).reg.ctr = s.reg.ctr :=
  ((settlePhases_phases s).part .counters (by decide)).1

/-- A command of the tally ends with the settling: its frame takes the settled parts in. -/
theorem settled {l : List Part} (old : State) (h : sameBut l s t) (hl : ∀ p ∈ settleParts, p ∈ l) :
    sameBut l s (settle old t) :=
  sameBut_then (settle_sameBut old t) hl h

/-! ### Events -/

@[simp] theorem raiseEv_tally (e : Ev) (s : State) : (raiseEv e s).tally = s.tally :=
  (raiseEv_sameBut e s).part .tally (by decide)

@[simp] theorem raiseEv_held (e : Ev) (s : State) : (raiseEv e s).reg.held = s.reg.held :=
  (raiseEv_sameBut e s).part .held (by decide)

/-! ### Registers of the tally -/

theorem tctl_congr (h : t.reg.held = s.reg.held) : tctl t = tctl s := reg4_congr h _

theorem tsrc_congr (h : t.reg.held = s.reg.held) : tsrc t = tsrc s := by simp only [tsrc, tctl_congr h]

theorem holdTicks_congr (h : t.reg.held = s.reg.held) : holdTicks t = holdTicks s := by
  simp only [holdTicks, reg4_congr h]

theorem bidir_congr (h : t.reg.held = s.reg.held) : bidir t = bidir s := by simp only [bidir, tctl_congr h]

theorem zRealign_congr (h : t.reg.held = s.reg.held) : zRealign t = zRealign s := by simp only [zRealign, tctl_congr h]

theorem cpi_congr (h : t.reg.held = s.reg.held) : cpi t = cpi s := reg4_congr h _

theorem zoff_congr (h : t.reg.held = s.reg.held) : zoff t = zoff s := reg4_congr h _

/-! ### The present stamp -/

/-- Bringing the tally to the present tick moves its stamp alone. -/
theorem refresh_eq (s : State) : refresh s = modTally s (fun y => { y with now := (refresh s).tally.now }) := by
  unfold refresh
  dsimp only
  split
  · split
    · split
      · rfl
      · rfl
    · rfl
  · rfl
  · rfl

theorem refresh_sameBut (s : State) : sameBut [.tally] s (refresh s) := by
  rw [refresh_eq]
  exact modTally_sameBut _ s

theorem refresh_tally (s : State) : (refresh s).tally = { s.tally with now := (refresh s).tally.now } :=
  congrArg State.tally (refresh_eq s)

@[simp] theorem refresh_time (s : State) : (refresh s).time = s.time := (refresh_sameBut s).part .time (by decide)

@[simp] theorem refresh_state (s : State) : (refresh s).tally.state = s.tally.state :=
  (congrArg TallySt.state (refresh_tally s) :)
@[simp] theorem refresh_behind (s : State) : (refresh s).tally.behind = s.tally.behind :=
  (congrArg TallySt.behind (refresh_tally s) :)
@[simp] theorem refresh_faultA (s : State) : (refresh s).tally.faultA = s.tally.faultA :=
  (congrArg TallySt.faultA (refresh_tally s) :)
@[simp] theorem refresh_faultB (s : State) : (refresh s).tally.faultB = s.tally.faultB :=
  (congrArg TallySt.faultB (refresh_tally s) :)
@[simp] theorem refresh_cause (s : State) : (refresh s).tally.cause = s.tally.cause :=
  (congrArg TallySt.cause (refresh_tally s) :)
@[simp] theorem refresh_since (s : State) : (refresh s).tally.since = s.tally.since :=
  (congrArg TallySt.since (refresh_tally s) :)
@[simp] theorem refresh_failing (s : State) : (refresh s).tally.failing = s.tally.failing :=
  (congrArg TallySt.failing (refresh_tally s) :)
@[simp] theorem refresh_testBusy (s : State) : (refresh s).tally.testBusy = s.tally.testBusy :=
  (congrArg TallySt.testBusy (refresh_tally s) :)
@[simp] theorem refresh_testPass (s : State) : (refresh s).tally.testPass = s.tally.testPass :=
  (congrArg TallySt.testPass (refresh_tally s) :)

@[simp] theorem tsrc_refresh (s : State) : tsrc (refresh s) = tsrc s := tsrc_congr (by rw [refresh_reg])
@[simp] theorem bidir_refresh (s : State) : bidir (refresh s) = bidir s := bidir_congr (by rw [refresh_reg])

/-- A tally that neither tracks nor holds over stands. -/
theorem refresh_still (htrack : s.tally.state ≠ .tracking) (hhold : s.tally.state ≠ .holdover) : refresh s = s := by
  unfold refresh
  dsimp only
  split
  next h => exact absurd h htrack
  next h => exact absurd h hhold
  next => rfl

/-- A decoder's tally keeps its pair between counts, whether it counts or holds (R222). -/
theorem refresh_pair (hsrc : tsrc s = 1) (hhold : s.tally.state ≠ .holdover) :
    (refresh s).tally.now.pair = s.tally.now.pair := by
  unfold refresh
  dsimp only
  split
  · rw [if_pos hsrc]
    split
    · rfl
    · rfl
  next h => exact absurd h hhold
  next => rfl

/-- The decoder and the receivers see J20 under main power alone. -/
theorem main_of_tallyLive (h : tallyLive s = true) : s.power.main = true := by
  simp only [tallyLive, Bool.and_eq_true] at h
  exact h.1

/-! ### Changes of state -/

theorem enter_sameBut (x : TState) (s : State) : sameBut [.tally] s (enter x s) := modTally_sameBut _ s

@[simp] theorem enter_state (x : TState) (s : State) : (enter x s).tally.state = x := rfl
@[simp] theorem enter_now (x : TState) (s : State) : (enter x s).tally.now = s.tally.now := rfl

theorem reversed_sameBut (s : State) : sameBut tallyParts s (reversed s) :=
  sameBut_mono (raiseEv_sameBut _ s) (by decide)

@[simp] theorem reversed_tally (s : State) : (reversed s).tally = s.tally := raiseEv_tally _ s

theorem enterReverse_sameBut (d : Nat) (s : State) : sameBut tallyParts s (enterReverse d s) := by
  refine sameBut_trans ?_ (reversed_sameBut _)
  exact sameBut_mono (sameBut_trans (modTally_sameBut _ s) (enter_sameBut _ _)) (by decide)

/-- A new episode of REVERSE_HOLD holds the pair with fraction 0, at depth `d` (R228). -/
theorem enterReverse_tally (d : Nat) (s : State) : (enterReverse d s).tally = { s.tally with
    state := .reverseHold, since := s.time.refTicks, depth := d, revDepth := min d max32, now := ⟨s.tally.now.pair, 0⟩ } := by
  simp [enterReverse, enter]

end
end Sys2Proof.Machine
end

section
/-! The edges of A and B (R220, R222, R228): when one counts, and what its count makes of the tally. -/

namespace Sys2Proof.Machine

section
variable {s u v : State} {a b : Bool}

/-! ### Counts -/

theorem countUp_tracking (hstate : u.tally.state = .tracking) (hbehind : u.tally.behind = 0)
    (hpair : u.tally.now.pair < lastPair) :
    countUp u = modTally u (fun z => { z with now := ⟨u.tally.now.pair + 1, 0⟩, zeroRaised := false }) := by
  unfold countUp
  rw [if_neg (by simp [hstate, hbehind]), if_neg (Nat.ne_of_lt hpair)]

/-- In REVERSE_HOLD a count up is one of those that are missing, and the last of them ends the hold (R228). -/
theorem countUp_held (hstate : u.tally.state = .reverseHold) :
    let t := modTally u (fun z => { z with behind := u.tally.behind - 1, depth := u.tally.depth - 1 })
    countUp u = if u.tally.behind ≤ 1 then enter .tracking t else t := by
  simp only [countUp, hstate, true_or, if_true, and_true]

theorem countDown_held (hstate : u.tally.state = .reverseHold) : countDown u = modTally u (fun z => { z with
    behind := u.tally.behind + 1, depth := u.tally.depth + 1
    revDepth := min (max u.tally.revDepth (u.tally.depth + 1).toNat) max32 }) := by
  unfold countDown
  exact if_pos hstate

theorem countDown_monotonic (hstate : u.tally.state ≠ .reverseHold) (hmode : bidir u = false) :
    countDown u = enterReverse 1 (modTally u (fun z => { z with behind := u.tally.behind + 1 })) := by
  simp only [countDown, hstate, hmode, if_false, Bool.not_false, if_true]

theorem countDown_bidir (hstate : u.tally.state ≠ .reverseHold) (hmode : bidir u = true) (hpair : 0 < u.tally.now.pair) :
    countDown u = modTally u (fun z => { z with now := ⟨u.tally.now.pair - 1, 0⟩ }) := by
  simp only [countDown, hstate, hmode, if_false, Bool.not_true, Bool.false_eq_true, Nat.ne_of_gt hpair]

/-- At pair 0 a count down is held there, and TALLY_REVERSED is raised once (R220). -/
theorem countDown_zero (hstate : u.tally.state ≠ .reverseHold) (hmode : bidir u = true) (hpair : u.tally.now.pair = 0) :
    let t := modTally u (fun z => { z with now := ⟨0, 0⟩, zeroRaised := true })
    countDown u = if u.tally.zeroRaised then t else reversed t := by
  simp only [countDown, hstate, hmode, if_false, Bool.not_true, Bool.false_eq_true, hpair, if_true]

/-! ### Edges -/

/-- The direction of an edge from (a0, b0): up in the sequence 00, 10, 11, 01, with A and B exchanged where `dir` is set. -/
def rises (s : State) (a b : Bool) : Bool :=
  decide ((s.tally.a, s.tally.b, a, b)
    ∈ [(false, false, true, false), (true, false, true, true), (true, true, false, true), (false, true, false, false)])
    != bitAt (tctl s) 3

/-- `u` is `s` with the new levels of A and B accepted, and their count noted for the rate and the index. -/
structure Accepted (a b : Bool) (s u : State) : Prop where
  a : u.tally.a = a
  b : u.tally.b = b
  state : u.tally.state = s.tally.state
  behind : u.tally.behind = s.tally.behind
  now : u.tally.now = (refresh s).tally.now
  mode : bidir u = bidir s
  rest : sameBut [.tally] s u

theorem accepted_noteCount (a b : Bool) (d : Int) (s : State) :
    Accepted a b s (noteCount d (modTally (refresh s) (fun z => { z with a := a, b := b }))) where
  a := rfl
  b := rfl
  state := refresh_state s
  behind := refresh_behind s
  now := rfl
  mode := bidir_refresh s
  rest := sameBut_trans (refresh_sameBut s) (sameBut_trans (modTally_sameBut _ _) (modTally_sameBut _ _))

/-- Of the two inputs one alone changes: A leads where A comes to differ from B, or B to equal A (R222). -/
theorem leads_iff (x y a b : Bool) (hone : x = a ↔ y ≠ b) : (if x ≠ a then decide (a ≠ b) else decide (a = b))
    = decide ((x, y, a, b) ∈ [(false, false, true, false), (true, false, true, true), (true, true, false, true),
      (false, true, false, false)]) := by
  revert x y a b
  decide

theorem quadCount_counts (up : Bool) (hfollow : following s = true) (hA : s.tally.faultA = false)
    (hB : s.tally.faultB = false) : quadCount up s
      = if up then countUp (noteCount (if up then 1 else -1) s) else countDown (noteCount (if up then 1 else -1) s) := by
  simp only [quadCount, hfollow, hA, hB, Bool.not_true, Bool.or_self, Bool.false_eq_true, if_false]

/-- An edge of one input counts once where the tally follows a sound pair (R222). -/
theorem quadEdge_counts (hlive : tallyLive s = true) (hsrc : tsrc s = 1) (hA : s.tally.faultA = false)
    (hB : s.tally.faultB = false) (hfollow : following s = true) (hone : s.tally.a = a ↔ s.tally.b ≠ b) :
    ∃ u, Accepted a b s u ∧ (rises s a b = true → quadEdge a b s = countUp u)
      ∧ (rises s a b = false → quadEdge a b s = countDown u) := by
  have hedge : quadEdge a b s = quadCount (rises s a b) (modTally (refresh s) (fun z => { z with a := a, b := b })) := by
    unfold quadEdge
    dsimp only
    rw [if_neg (by simp [hlive, hsrc]), if_neg (by tauto), if_neg (by tauto), leads_iff _ _ _ _ hone]
    rfl
  have hcount := hedge.trans (quadCount_counts _ (by simpa [following] using hfollow) ((refresh_faultA s).trans hA)
    ((refresh_faultB s).trans hB))
  exact ⟨_, accepted_noteCount a b (if rises s a b then 1 else -1) s, fun h => hcount.trans (if_pos h),
    fun h => hcount.trans (if_neg (by simp [h]))⟩

/-- Both inputs at once: an error, which is counted, and no count (R222). -/
theorem quadEdge_both (hlive : tallyLive s = true) (hsrc : tsrc s = 1) (ha : s.tally.a ≠ a) (hb : s.tally.b ≠ b) :
    ∃ l, quadEdge a b s = count (tallyBase + 0x40) 1 (modTally (refresh s) (fun z => { z with
      a := a, b := b, quadErr := true, illegal := l })) := by
  refine ⟨s.time.refTicks :: (refresh s).tally.illegal.filter (fun u => decide (s.time.refTicks < u + rateSpan)), ?_⟩
  unfold quadEdge
  dsimp only
  rw [if_neg (by simp [hlive, hsrc]), if_pos ⟨ha, hb⟩]
  rfl

/-- What counting an accepted edge leaves, when its count moves no more than the tally and its events. -/
theorem Accepted.counted (hu : Accepted a b s u) (hq : quadEdge a b s = v) (ha : v.tally.a = u.tally.a)
    (hb : v.tally.b = u.tally.b) (hv : sameBut tallyParts u v) :
    exec (.quadEdge a b) s = .next (settle s v) ∧ (settle s v).tally.a = a ∧ (settle s v).tally.b = b
      ∧ sameBut tallyParts s (settle s v) := by
  refine ⟨congrArg (Host.Outcome.next <| settle s ·) hq, ?_, ?_, settled s ?_ (by decide)⟩
  · rw [settle_tally, ha, hu.a]
  · rw [settle_tally, hb, hu.b]
  · exact sameBut_trans (sameBut_mono hu.rest (by decide)) hv

end

/-- Settles O27: an edge of one input is accepted and then counted up or down, as the tally's state and mode have it; of two
at once only the error is counted. -/
theorem quadratureCounts : Obligations.QuadratureCounts := by
  unfold Obligations.QuadratureCounts
  intro s a b hlive hsrc hA hB
  refine ⟨fun hone hstate hbehind => ?_, fun hone hstate hbehind => ?_, fun ha hb => ?_⟩
  · obtain ⟨u, hu, hup, hdown⟩ := quadEdge_counts hlive hsrc hA hB (by simp [following, hstate]) hone
    have hustate : u.tally.state = .tracking := hu.state.trans hstate
    have hpair : u.tally.now.pair = s.tally.now.pair := by rw [hu.now, refresh_pair hsrc (by simp [hstate])]
    have hfree : u.tally.state ≠ .reverseHold := by simp [hustate]
    refine ⟨fun hrise hlast => ?_, fun hrise hmode hpos => ?_, fun hrise hmode hzero => ?_, fun hrise hmode => ?_⟩
    · have hq := (hup hrise).trans (countUp_tracking hustate (hu.behind.trans hbehind) (hpair ▸ hlast))
      exact ⟨_, hu.counted hq rfl rfl (modTally_parts _ u), by simp [hpair], by simp [hustate]⟩
    · have hq := (hdown hrise).trans (countDown_bidir hfree (hu.mode.trans hmode) (hpair ▸ hpos))
      exact ⟨_, hu.counted hq rfl rfl (modTally_parts _ u), by simp [hpair], by simp [hustate]⟩
    · have hq := (hdown hrise).trans (countDown_zero hfree (hu.mode.trans hmode) (hpair.trans hzero))
      split at hq
      · exact ⟨_, hu.counted hq rfl rfl (modTally_parts _ u), by simp, by simp [hustate], by simp⟩
      · exact ⟨_, hu.counted hq (by simp) (by simp) (sameBut_trans (modTally_parts _ u) (reversed_sameBut _)), by simp,
          by simp [hustate], by simp⟩
    · have hq := (hdown hrise).trans (countDown_monotonic hfree (hu.mode.trans hmode))
      exact ⟨_, hu.counted hq (by simp [enterReverse_tally]) (by simp [enterReverse_tally])
        (sameBut_trans (modTally_parts _ u) (enterReverse_sameBut _ _)), by simp [enterReverse_tally, hpair],
        by simp [enterReverse_tally], by simp [enterReverse_tally, hu.behind, hbehind],
        by simp [enterReverse_tally, max32]⟩
  · obtain ⟨u, hu, hup, hdown⟩ := quadEdge_counts hlive hsrc hA hB (by simp [following, hstate]) hone
    have hustate : u.tally.state = .reverseHold := hu.state.trans hstate
    have hnow : u.tally.now = s.tally.now := by rw [hu.now, refresh_still (by simp [hstate]) (by simp [hstate])]
    refine ⟨fun hrise => ?_, fun hrise => ?_⟩
    · have hq := (hup hrise).trans (countUp_held hustate)
      rw [hu.behind] at hq
      split at hq
      next hlast =>
        exact ⟨_, hu.counted hq rfl rfl (sameBut_trans (modTally_parts _ u) (modTally_parts _ _)), by simp [hnow],
          by simp [enter], by simp; omega⟩
      next hmore =>
        exact ⟨_, hu.counted hq rfl rfl (modTally_parts _ u), by simp [hnow], by simp, by simp [hustate]; omega⟩
    · have hq := (hdown hrise).trans (countDown_held hustate)
      exact ⟨_, hu.counted hq rfl rfl (modTally_parts _ u), by simp [hnow], by simp [hu.behind], by simp [hustate]⟩
  · obtain ⟨l, hq⟩ := quadEdge_both hlive hsrc ha hb
    have hrest : sameBut tallyParts s (quadEdge a b s) := by
      rw [hq]
      exact sameBut_then (count_sameBut _ _ _) (by decide)
        (sameBut_mono (sameBut_trans (refresh_sameBut s) (modTally_sameBut _ _)) (by decide))
    have hstreams : (quadEdge a b s).host.streams = s.host.streams := hrest.part .streams (by decide)
    refine ⟨_, ⟨rfl, ?_, ?_, settled s hrest (by decide)⟩, ?_, ?_, ?_, ?_, fun hmax _ => ?_⟩
    · simp [hq]
    · simp [hq]
    · simp [hq]
    · simp [hq]
    · simp [hq]
    · simp [hq]
    · have hctr : ctr (modTally (refresh s) (fun z => { z with a := a, b := b, quadErr := true, illegal := l }))
          (tallyBase + 0x40) = ctr s (tallyBase + 0x40) := by simp [ctr]
      rw [settle_of_streams hstreams, settlePhases_ctr, hq, count, hctr, if_neg (by simp; omega), if_pos (by omega)]
      simp

end Sys2Proof.Machine
end

section
/-! The index of the encoder (R221, R223): the check of a pulse of Z, the realignment that it makes, and a run without it. -/

namespace Sys2Proof.Machine

/-! ### The nearest count of the index -/

section
variable {n z p q : Nat}

/-- How far above `p` the next count of the index lies. -/
def gapUp (p n z : Nat) : Nat := (z + n - p % n) % n

/-- How far below `p` the last count of the index lies, if there is one. -/
def gapDown (p n z : Nat) : Nat := (p % n + n - z) % n

theorem gapUp_modEq (hz : z < n) : p + gapUp p n z ≡ z [MOD n] := by
  have hp : p % n < n := Nat.mod_lt _ (by omega)
  have hsum : p % n + (z + n - p % n) = z + n := by omega
  calc p + gapUp p n z ≡ p % n + (z + n - p % n) [MOD n] := (Nat.mod_modEq p n).symm.add (Nat.mod_modEq _ n)
    _ ≡ z [MOD n] := by rw [hsum]; exact Nat.add_modEq_right

theorem gapDown_modEq (hz : z < n) : z + gapDown p n z ≡ p [MOD n] := by
  have hsum : z + (p % n + n - z) = p % n + n := by omega
  calc z + gapDown p n z ≡ z + (p % n + n - z) [MOD n] := (Nat.ModEq.refl z).add (Nat.mod_modEq _ n)
    _ ≡ p [MOD n] := by rw [hsum]; exact Nat.add_modEq_right.trans (Nat.mod_modEq p n)

theorem add_gapUp_mod (hz : z < n) : (p + gapUp p n z) % n = z := Eq.trans (gapUp_modEq hz) (Nat.mod_eq_of_lt hz)

theorem sub_gapDown_mod (hz : z < n) (h : gapDown p n z ≤ p) : (p - gapDown p n z) % n = z := by
  have hcancel : p - gapDown p n z + gapDown p n z ≡ z + gapDown p n z [MOD n] := by
    rw [Nat.sub_add_cancel h]
    exact (gapDown_modEq hz).symm
  exact Eq.trans (Nat.ModEq.add_right_cancel' _ hcancel) (Nat.mod_eq_of_lt hz)

/-- A remainder is at most any number with that remainder. -/
theorem le_of_modEq {k j : Nat} (h : k ≡ j [MOD n]) (hk : k < n) : k ≤ j := by
  have hkj : k = j % n := (Nat.mod_eq_of_lt hk).symm.trans h
  exact hkj ▸ Nat.mod_le j n

theorem gapUp_le (hz : z < n) (hq : q % n = z) (hle : p ≤ q) : gapUp p n z ≤ q - p := by
  have hsame : p + gapUp p n z ≡ p + (q - p) [MOD n] := by
    rw [Nat.add_sub_cancel' hle]
    exact (gapUp_modEq hz).trans (hq ▸ Nat.mod_modEq q n)
  exact le_of_modEq (Nat.ModEq.add_left_cancel' p hsame) (Nat.mod_lt _ (by omega))

theorem gapDown_le (hz : z < n) (hq : q % n = z) (hle : q ≤ p) : gapDown p n z ≤ p - q := by
  have hsame : q + gapDown p n z ≡ q + (p - q) [MOD n] := by
    rw [Nat.add_sub_cancel' hle]
    exact ((hq ▸ (Nat.mod_modEq q n).symm : q ≡ z [MOD n]).add_right _).trans (gapDown_modEq hz)
  exact le_of_modEq (Nat.ModEq.add_left_cancel' q hsame) (Nat.mod_lt _ (by omega))

/-- `d` is a count of the index nearest to `p`, the upper of two (R223). -/
def NearestIndex (p n z d : Nat) : Prop :=
  d % n = z ∧ (∀ q, q % n = z → ((d : Int) - p).natAbs ≤ ((q : Int) - p).natAbs)
    ∧ ∀ q, q % n = z → ((q : Int) - p).natAbs = ((d : Int) - p).natAbs → q ≤ d

/-- Between the two there is no other count of the index. -/
theorem index_outside (hz : z < n) (hq : q % n = z) : p + gapUp p n z ≤ q ∨ q + gapDown p n z ≤ p := by
  rcases Nat.le_total p q with hle | hle
  · have := gapUp_le hz hq hle
    omega
  · have := gapDown_le hz hq hle
    omega

/-- Up, unless the index lies nearer below. -/
theorem nearest_up (hz : z < n) (h : gapUp p n z ≤ gapDown p n z ∨ p < gapDown p n z) :
    NearestIndex p n z (p + gapUp p n z) := by
  refine ⟨add_gapUp_mod hz, fun q hq => ?_, fun q hq hsame => ?_⟩
  · have := index_outside (p := p) hz hq
    omega
  · have := index_outside (p := p) hz hq
    omega

theorem nearest_down (hz : z < n) (h : gapDown p n z < gapUp p n z) (hp : gapDown p n z ≤ p) :
    NearestIndex p n z (p - gapDown p n z) := by
  refine ⟨sub_gapDown_mod hz hp, fun q hq => ?_, fun q hq hsame => ?_⟩
  · have := index_outside (p := p) hz hq
    omega
  · have := index_outside (p := p) hz hq
    omega

/-- Within the lower half of an epoch the model's move is to the nearest count of the index. -/
theorem realignBy_nearest (hz : z < n) (hn : n < 2 ^ 32) (hp : p < 2 ^ 47) :
    ∃ d up down : Nat, realignBy p n z = (up, down) ∧ (p : Int) + up - down = d ∧ NearestIndex p n z d
      ∧ d ≤ lastPair ∧ (up = 0 ∧ down = 0 → d = p) := by
  have hmod : ((p : Int) % 2 ^ 48).toNat = p := by omega
  have hgap : gapUp p n z < n := Nat.mod_lt _ (by omega)
  have hup : indexUp p n z = gapUp p n z := by
    simp only [indexUp, Nat.mod_eq_of_lt hz]
    exact if_pos (by simp only [gapUp] at hgap; omega)
  have hdown : gapDown p n z ≤ p ∧ indexDown p n z = gapDown p n z ∨ p < gapDown p n z ∧ p < indexDown p n z := by
    simp only [indexDown, Nat.mod_eq_of_lt hz]
    split
    next h => exact .inl ⟨h, rfl⟩
    next h => exact .inr ⟨by simpa [gapDown] using h, by omega⟩
  simp only [realignBy, hmod, hup]
  split
  next h =>
    exact ⟨p + gapUp p n z, _, _, rfl, by omega, nearest_up hz (by omega), by omega, by omega⟩
  next h =>
    have hbelow : gapDown p n z ≤ p ∧ indexDown p n z = gapDown p n z := by
      simp only [lastPair] at h
      omega
    rw [hbelow.2, if_pos (by omega)]
    have hnear : gapDown p n z < gapUp p n z := by
      simp only [lastPair] at h
      omega
    exact ⟨p - gapDown p n z, _, _, rfl, by omega, nearest_down hz hnear hbelow.1, by
      simp only [lastPair]
      omega, by omega⟩

end

/-! ### A pulse of Z -/

section
variable {s t u : State}

/-- The tally as a pulse of Z finds it: at the present tick, the counts since the last pulse begun anew. -/
def atPulse (s : State) : State := modTally (refresh s) (fun y => { y with sinceZ := 0 })

theorem atPulse_eq (s : State) :
    atPulse s = modTally s (fun y => { y with now := (refresh s).tally.now, sinceZ := 0 }) :=
  congrArg (modTally · (fun y => { y with sinceZ := 0 })) (refresh_eq s)

theorem atPulse_sameBut (s : State) : sameBut (.tally :: settleParts) s (atPulse s) := by
  rw [atPulse_eq]
  exact sameBut_mono (modTally_sameBut _ s) (by decide)

@[simp] theorem atPulse_state (s : State) : (atPulse s).tally.state = s.tally.state := refresh_state s
@[simp] theorem atPulse_sinceZ (s : State) : (atPulse s).tally.sinceZ = 0 := rfl
@[simp] theorem atPulse_behind (s : State) : (atPulse s).tally.behind = s.tally.behind := refresh_behind s
@[simp] theorem atPulse_resync (s : State) : (atPulse s).tally.resync = s.tally.resync := by rw [atPulse_eq]; rfl
@[simp] theorem atPulse_preset (s : State) : (atPulse s).tally.preset = s.tally.preset := by rw [atPulse_eq]; rfl
theorem atPulse_held (s : State) : (atPulse s).reg.held = s.reg.held := by rw [atPulse_eq]; rfl
@[simp] theorem zRealign_atPulse (s : State) : zRealign (atPulse s) = zRealign s := zRealign_congr (atPulse_held s)
@[simp] theorem cpi_atPulse (s : State) : cpi (atPulse s) = cpi s := cpi_congr (atPulse_held s)
@[simp] theorem zoff_atPulse (s : State) : zoff (atPulse s) = zoff s := zoff_congr (atPulse_held s)

theorem zPulse_live (h : tallyLive s = true) : zPulse s = checkZ (loadPreset (atPulse s)) := by
  unfold zPulse
  rw [if_neg (by simp [h])]
  rfl

/-- Z checks run for a decoder that tracks or holds, and its pair is sound (R229, R421). -/
theorem of_zChecks (h : zChecks s = true) :
    tallyLive s = true ∧ tsrc s = 1 ∧ (s.tally.state = .tracking ∨ s.tally.state = .reverseHold) := by
  simp only [zChecks, following, Bool.and_eq_true, Bool.or_eq_true, decide_eq_true_eq] at h
  tauto

theorem zChecks_atPulse (s : State) : zChecks (atPulse s) = zChecks s := by
  rw [atPulse_eq]
  rfl

/-- A pulse finds the decoder's count as it is: between counts its pair stands. -/
theorem decodedCount_atPulse (hsrc : tsrc s = 1) (hhold : s.tally.state ≠ .holdover) :
    decodedCount (atPulse s).tally = decodedCount s.tally := by
  rw [atPulse_eq]
  simp only [decodedCount, decoded, modTally_tally, refresh_pair hsrc hhold]

theorem zError_tally (s : State) : (zError s).tally = { s.tally with resync := true } := count_tally ..

theorem zError_sameBut (s : State) : sameBut [.tally, .counters] s (zError s) :=
  sameBut_then (count_sameBut _ _ _) (by simp) (sameBut_mono (modTally_sameBut _ s) (by simp))

/-- Without a realignment the check does no more than to note a Z error. -/
theorem checkZ_keeps (h : ¬ (zRealign s = true ∧ s.tally.resync = true)) :
    checkZ s = if zChecks s = true ∧ decodedCount s.tally % cpi s ≠ zoff s then zError s else s := by
  unfold checkZ
  by_cases hchecks : zChecks s = true
  · simp [hchecks, h]
  · simp [hchecks]

/-- With z_realign and resync_needed the pulse realigns, counted as an error or not. -/
theorem checkZ_realigns (hchecks : zChecks s = true) (hrealign : zRealign s = true) (hresync : s.tally.resync = true) :
    ∃ v, checkZ s = realign v ∧ v.tally = s.tally ∧ v.reg.held = s.reg.held ∧ sameBut [.tally, .counters] s v := by
  have herror : (zError s).tally = s.tally := by rw [zError_tally, ← hresync]
  unfold checkZ
  simp only [hchecks, hrealign, hresync, Bool.not_true, Bool.false_eq_true, if_false, and_self, if_true]
  split
  · exact ⟨_, rfl, herror, (zError_sameBut s).part .held (by decide), zError_sameBut s⟩
  · exact ⟨_, rfl, rfl, rfl, sameBut_refl _ s⟩

/-! ### Presets -/

theorem applyPreset_sameBut (p : Nat) (s : State) : sameBut [.tally] s (applyPreset p s) := by
  unfold applyPreset
  exact sameBut_ite (modTally_sameBut _ s)
    (sameBut_ite (sameBut_trans (modTally_sameBut _ s) (enter_sameBut _ _)) (modTally_sameBut _ s))

/-- A preset that is not below the present pair sets it with fraction 0; only a REVERSE_HOLD ends by it (R221). -/
theorem applyPreset_sets {p : Nat} (h : s.tally.now.pair ≤ p) : (applyPreset p s).tally.now = ⟨p, 0⟩
    ∧ (s.tally.state ≠ .reverseHold → (applyPreset p s).tally.state = s.tally.state)
    ∧ (applyPreset p s).tally.preset = s.tally.preset ∧ (applyPreset p s).tally.resync = s.tally.resync
    ∧ (applyPreset p s).tally.sinceZ = s.tally.sinceZ := by
  unfold applyPreset
  rw [if_neg (by omega)]
  split
  next hhold => exact ⟨rfl, fun hfree => absurd hhold hfree, rfl, rfl, rfl⟩
  next => exact ⟨rfl, fun _ => rfl, rfl, rfl, rfl⟩

theorem loadPreset_none (h : s.tally.preset = none) : loadPreset s = s := by
  unfold loadPreset
  rw [h]

theorem loadPreset_some {p : Nat} (h : s.tally.preset = some p) (hstate : s.tally.state ≠ .off) :
    loadPreset s = applyPreset p (modTally s (fun y => { y with preset := none })) := by
  unfold loadPreset
  simp only [h, hstate, if_false]

/-- A preset of a tally that tracks is loaded by the pulse, and waits no more. -/
theorem loadPreset_sets {p : Nat} (hsome : s.tally.preset = some p) (htrack : s.tally.state = .tracking)
    (hp : s.tally.now.pair ≤ p) : ∃ w, loadPreset s = w ∧ w.tally.now = ⟨p, 0⟩ ∧ w.tally.state = s.tally.state
      ∧ w.tally.preset = none ∧ w.tally.resync = s.tally.resync ∧ w.tally.sinceZ = s.tally.sinceZ ∧ sameBut [.tally] s w := by
  obtain ⟨hnow, hstate, hnone, hresync, hsince⟩ := applyPreset_sets (p := p)
    (s := modTally s (fun y => { y with preset := none })) hp
  exact ⟨_, loadPreset_some hsome (by simp [htrack]), hnow, hstate (by simp [htrack]), hnone, hresync, hsince,
    sameBut_trans (modTally_sameBut _ s) (applyPreset_sameBut p _)⟩

/-! ### The pulse -/

/-- Without a preset and without a realignment the pulse is checked, and no more. -/
theorem zPulse_keeps (hchecks : zChecks s = true) (hpreset : s.tally.preset = none)
    (hkeep : ¬ (zRealign s = true ∧ s.tally.resync = true)) :
    zPulse s = if decodedCount s.tally % cpi s ≠ zoff s then zError (atPulse s) else atPulse s := by
  obtain ⟨hlive, hsrc, hfollow⟩ := of_zChecks hchecks
  have hhold : s.tally.state ≠ .holdover := by rcases hfollow with h | h <;> simp [h]
  rw [zPulse_live hlive, loadPreset_none (by simpa using hpreset), checkZ_keeps (by simpa using hkeep)]
  simp [zChecks_atPulse, hchecks, decodedCount_atPulse hsrc hhold]

theorem zPulse_realigns (hchecks : zChecks s = true) (hpreset : s.tally.preset = none) (hrealign : zRealign s = true)
    (hresync : s.tally.resync = true) : ∃ v, zPulse s = realign v ∧ v.tally = (atPulse s).tally
      ∧ v.reg.held = s.reg.held ∧ sameBut (.tally :: settleParts) s v := by
  obtain ⟨hlive, -, -⟩ := of_zChecks hchecks
  obtain ⟨v, hcheck, htally, hheld, hv⟩ := checkZ_realigns (s := atPulse s) (by simpa [zChecks_atPulse] using hchecks)
    (by simpa using hrealign) (by simpa using hresync)
  exact ⟨v, by rw [zPulse_live hlive, loadPreset_none (by simpa using hpreset), hcheck], htally,
    hheld.trans (atPulse_held s), sameBut_trans (atPulse_sameBut s) (sameBut_mono hv (by decide))⟩

/-- A pulse that loads a preset `w`, and does not realign, checks the count that it has loaded (log 123). -/
theorem zPulse_loads {w : State} (hlive : tallyLive s = true) (hload : loadPreset (atPulse s) = w)
    (hkeep : ¬ (zRealign w = true ∧ w.tally.resync = true)) : zPulse s = w ∨ zPulse s = zError w := by
  rw [zPulse_live hlive, hload, checkZ_keeps hkeep]
  split
  · exact .inr rfl
  · exact .inl rfl

theorem zError_parts (s : State) : sameBut (.tally :: settleParts) s (zError s) := sameBut_mono (zError_sameBut s) (by decide)

/-- What a pulse leaves that moves the tally and counters, and neither the tally's state nor the count begun anew. -/
theorem pulsed (hz : zPulse s = t) (hstate : t.tally.state = s.tally.state) (hsince : t.tally.sinceZ = 0)
    (ht : sameBut (.tally :: settleParts) s t) :
    exec .zPulse s = .next (settle s t) ∧ (settle s t).tally.state = s.tally.state ∧ (settle s t).tally.sinceZ = 0
      ∧ sameBut (.tally :: settleParts) s (settle s t) :=
  ⟨congrArg (Host.Outcome.next <| settle s ·) hz, by rw [settle_tally, hstate], by rw [settle_tally, hsince],
    settled s ht (by decide)⟩

/-! ### A realignment -/

theorem moveCount_sameBut (d : Int) (s : State) : sameBut [.tally] s (moveCount d s) := by
  unfold moveCount
  dsimp only
  split
  · exact sameBut_ite (sameBut_trans (modTally_sameBut _ s) (enter_sameBut _ _)) (modTally_sameBut _ s)
  · exact modTally_sameBut _ s

theorem realign_sameBut (s : State) : sameBut [.tally] s (realign s) := by
  unfold realign
  exact sameBut_ite (modTally_sameBut _ s) (sameBut_trans (modTally_sameBut _ s) (moveCount_sameBut _ _))

/-- A tally that does not hold goes with its decoder up, and in bidirectional mode down; else it holds its pair. -/
theorem moveCount_tracking {d : Nat} (hstate : s.tally.state ≠ .reverseHold) (hd : d ≤ lastPair) :
    ∃ x r, (moveCount d s).tally = { s.tally with
      now := ⟨if bidir s then d else max s.tally.now.pair d, 0⟩, depth := x, zeroRaised := r
      behind := (if bidir s then d else max s.tally.now.pair d) - d } := by
  have hcast : (max 0 (min (d : Int) lastPair)).toNat = d := by omega
  unfold moveCount
  simp only [hcast, hstate, if_false]
  split
  next h =>
    have hpair : (if bidir s = true then d else max s.tally.now.pair d) = d := by
      split
      next => rfl
      next hmode => exact max_eq_right (by simpa [hmode] using h)
    rw [hpair, Nat.sub_self]
    exact ⟨_, _, rfl⟩
  next h =>
    obtain ⟨hbelow, hmode⟩ := not_or.mp h
    have hpair : max s.tally.now.pair d = s.tally.now.pair := max_eq_left (by omega)
    rw [if_neg hmode, hpair, show ((s.tally.now.pair : Int) - d).toNat = s.tally.now.pair - d by omega]
    exact ⟨_, _, rfl⟩

/-- The realignment of a tally that tracks, in the lower half of an epoch (R223). -/
theorem realign_tracking (hstate : s.tally.state = .tracking) (hbehind : s.tally.behind = 0)
    (hpair : s.tally.now.pair < 2 ^ 47) (hz : zoff s < cpi s) :
    ∃ d, NearestIndex s.tally.now.pair (cpi s) (zoff s) d ∧ (realign s).tally.resync = false
      ∧ (realign s).tally.now.pair = (if bidir s then d else max s.tally.now.pair d)
      ∧ (realign s).tally.behind = (realign s).tally.now.pair - d
      ∧ (realign s).tally.state = s.tally.state ∧ (realign s).tally.sinceZ = s.tally.sinceZ := by
  have hdecoded : decoded s.tally = s.tally.now.pair := by simp [decoded, hbehind]
  obtain ⟨d, up, down, hmove, hd, hnear, hlast, hstay⟩ := realignBy_nearest hz (reg4_lt _ _) hpair
  refine ⟨d, hnear, ?_⟩
  simp only [realign, hdecoded, hmove, hd]
  split
  next h => simp [hstay h, hbehind]
  next =>
    obtain ⟨x, r, hmoved⟩ := moveCount_tracking (s := modTally s (fun z => { z with resync := false }))
      (by simp [hstate]) hlast
    rw [hmoved]
    exact ⟨rfl, rfl, rfl, rfl, rfl⟩

end

/-- Settles O28: what a pulse of Z makes of the tally depends on the check of the index and on the realignment asked for. -/
theorem indexChecks : Obligations.IndexChecks := by
  unfold Obligations.IndexChecks
  intro s
  have hparts := atPulse_sameBut s
  refine ⟨fun hchecks hpreset hkeep => ?_, fun hchecks hpreset hrealign hresync hz htrack hbehind hp => ?_,
    fun hchecks hrun => ?_, fun hrun => ?_, fun v hlive hsrc hpreset hv htrack hkeep => ?_⟩
  · obtain ⟨-, hsrc, hfollow⟩ := of_zChecks hchecks
    have hpair : (atPulse s).tally.now.pair = s.tally.now.pair :=
      refresh_pair hsrc (by rcases hfollow with h | h <;> simp [h])
    have hpulse := zPulse_keeps hchecks hpreset hkeep
    refine ⟨fun hgood => ?_, fun hbad => ?_⟩
    · rw [if_neg (by simpa using hgood)] at hpulse
      exact ⟨_, pulsed hpulse (by simp) rfl hparts, by simpa using hpair, by simp⟩
    · rw [if_pos hbad] at hpulse
      exact ⟨_, pulsed hpulse (by simp [zError_tally]) (by simp [zError_tally]) (sameBut_trans hparts (zError_parts _)),
        by simpa [zError_tally] using hpair, by simp [zError_tally]⟩
  · obtain ⟨-, hsrc, -⟩ := of_zChecks hchecks
    have hpair : (atPulse s).tally.now.pair = s.tally.now.pair := refresh_pair hsrc (by simp [htrack])
    obtain ⟨v, hpulse, htally, hheld, hv⟩ := zPulse_realigns hchecks hpreset hrealign hresync
    obtain ⟨d, hd, hresync', hmoved, hbehind', hstate, hsince⟩ := realign_tracking (s := v) (by simpa [htally] using htrack)
      (by simpa [htally] using hbehind) (by rwa [htally, hpair]) (by rwa [cpi_congr hheld, zoff_congr hheld])
    rw [htally, hpair, cpi_congr hheld, zoff_congr hheld] at hd
    rw [htally, hpair, bidir_congr hheld] at hmoved
    obtain ⟨hmod, hnear, hupper⟩ := hd
    exact ⟨_, pulsed hpulse (hstate.trans (by simp [htally])) (hsince.trans (by simp [htally]))
      (sameBut_trans hv (sameBut_mono (realign_sameBut v) (by decide))),
      by simpa using hresync', d, hmod, hnear, hupper, by simpa using hmoved, by simpa using hbehind'⟩
  · exact ⟨_, congrArg Host.Outcome.next (if_pos ⟨hchecks, hrun⟩), zError_tally _,
      sameBut_trans (sameBut_mono (modTally_sameBut _ s) (by simp)) (zError_sameBut _)⟩
  · exact congrArg Host.Outcome.next (if_neg (by omega))
  · have hpair : (atPulse s).tally.now.pair = s.tally.now.pair := refresh_pair hsrc (by simp [htrack])
    obtain ⟨w, hload, hnow, hstate, hnone, hresync, hsince, hrest⟩ := loadPreset_sets (s := atPulse s)
      (by simpa using hpreset) (by simpa using htrack) (by rwa [hpair])
    have hw : sameBut (.tally :: settleParts) s w := sameBut_trans hparts (sameBut_mono hrest (by decide))
    have hstate' : w.tally.state = s.tally.state := hstate.trans (atPulse_state s)
    have hkeep' : ¬ (zRealign w = true ∧ w.tally.resync = true) := by
      rwa [zRealign_congr (hw.part .held (by decide)), hresync, atPulse_resync]
    rcases zPulse_loads hlive hload hkeep' with hpulse | hpulse
    · exact ⟨_, pulsed hpulse hstate' hsince hw, by simpa using hnow, by simpa using hnone⟩
    · exact ⟨_, pulsed hpulse (by simpa [zError_tally] using hstate') (by simpa [zError_tally] using hsince)
        (sameBut_trans hw (zError_parts w)), by simpa [zError_tally] using hnow, by simpa [zError_tally] using hnone⟩

end Sys2Proof.Machine
end

section
/-! Serial frames and fabric TICKs (R224 to R226, R228): what an accepted stamp makes of the tally, and a rejected one. -/

namespace Sys2Proof.Machine

section
variable {s t u : State} {st : Stamp} {l : List (Nat × Stamp)}

/-! ### What accepting a stamp leaves -/

/-- From `s` to `t` a stamp has moved the tally, its events and counters alone, and nothing that a message tells of its source. -/
structure Heard (s t : State) : Prop where
  rest : sameBut tallyParts s t
  hop : t.tally.hop = s.tally.hop
  master : t.tally.master = s.tally.master
  upstream : t.tally.upstream = s.tally.upstream
  upReverse : t.tally.upReverse = s.tally.upReverse

namespace Heard

theorem refl (s : State) : Heard s s := ⟨sameBut_refl _ s, rfl, rfl, rfl, rfl⟩

theorem trans (h : Heard s t) (k : Heard t u) : Heard s u where
  rest := sameBut_trans h.rest k.rest
  hop := k.hop.trans h.hop
  master := k.master.trans h.master
  upstream := k.upstream.trans h.upstream
  upReverse := k.upReverse.trans h.upReverse

theorem of_tally (hrest : sameBut tallyParts s t) (h : t.tally = s.tally) : Heard s t :=
  ⟨hrest, by rw [h], by rw [h], by rw [h], by rw [h]⟩

end Heard

theorem heard_refresh (s : State) : Heard s (refresh s) := by
  rw [refresh_eq]
  exact ⟨modTally_parts _ s, rfl, rfl, rfl, rfl⟩

theorem heard_raiseEv (e : Ev) (s : State) : Heard s (raiseEv e s) :=
  .of_tally (sameBut_mono (raiseEv_sameBut e s) (by decide)) (raiseEv_tally e s)

theorem heard_setStamp (st : Stamp) (s : State) : Heard s (setStamp st s) := by
  unfold setStamp
  dsimp only
  split
  · exact ⟨modTally_parts _ s, rfl, rfl, rfl, rfl⟩
  · exact ⟨sameBut_trans (modTally_parts _ s) (modTally_parts _ _), rfl, rfl, rfl, rfl⟩

theorem heard_takeStamp (st : Stamp) (s : State) : Heard s (takeStamp st s) := by
  unfold takeStamp
  dsimp only
  split
  · exact heard_setStamp st s
  · split
    · exact ⟨modTally_parts _ s, rfl, rfl, rfl, rfl⟩
    · exact ⟨enterReverse_sameBut _ s, by simp [enterReverse_tally], by simp [enterReverse_tally],
        by simp [enterReverse_tally], by simp [enterReverse_tally]⟩

/-- The advance of a tally that follows is noted for its rate alone (R227). -/
theorem noteStamp_eq (st : Stamp) (s : State) : ∃ c, noteStamp st s = modTally s (fun y => { y with counts := c }) := by
  unfold noteStamp
  dsimp only
  split
  · exact ⟨_, rfl⟩
  · split
    · exact ⟨s.tally.counts, rfl⟩
    · exact ⟨_, rfl⟩

theorem heard_noteStamp (st : Stamp) (s : State) : Heard s (noteStamp st s) := by
  obtain ⟨c, h⟩ := noteStamp_eq st s
  rw [h]
  exact ⟨modTally_parts _ s, rfl, rfl, rfl, rfl⟩

/-- A stamp that is accepted, noted for the prediction of the next (R224, R225). -/
def noted (st : Stamp) (s u : State) : State := modTally u (fun z => { z with
  stamps := (s.time.refTicks, st) :: s.tally.stamps.take 1, failing := [], accepted := s.tally.accepted + 1 })

theorem heard_noted (st : Stamp) (s u : State) : Heard u (noted st s u) := ⟨modTally_parts _ u, rfl, rfl, rfl, rfl⟩

/-- The branches of `acceptStamp`: a tally that follows takes the stamp; one that does not takes the third in a row. -/
theorem acceptStamp_eq (st : Stamp) (s : State) : acceptStamp st s =
    if following s then takeStamp st (noted st s (noteStamp st s))
    else if s.tally.accepted + 1 < 3 then noted st s s
    else if s.tally.state = .acquiring then takeStamp st (noted st s s)
    else takeStamp st (raiseEv { code := 0x0B, arg0 := 6 } (modTally (noted st s s) (fun z => { z with cause := 0 }))) := rfl

theorem heard_acceptStamp (st : Stamp) (s : State) : Heard s (acceptStamp st s) := by
  rw [acceptStamp_eq]
  split
  · exact (heard_noteStamp st s).trans ((heard_noted st s _).trans (heard_takeStamp st _))
  · split
    · exact heard_noted st s s
    · split
      · exact (heard_noted st s s).trans (heard_takeStamp st _)
      · exact (heard_noted st s s).trans ((⟨modTally_parts _ _, rfl, rfl, rfl, rfl⟩ : Heard _ _).trans
          ((heard_raiseEv _ _).trans (heard_takeStamp st _)))

/-! ### What an accepted stamp makes of the tally -/

theorem takeStamp_sets (h : stampGe st s.tally.now = true ∨ bidir s = true) : takeStamp st s = setStamp st s := if_pos h

theorem setStamp_tally (st : Stamp) (s : State) :
    (setStamp st s).tally.now = st ∧ (s.tally.state = .tracking → (setStamp st s).tally.state = .tracking) := by
  unfold setStamp
  dsimp only
  split
  next h => exact ⟨rfl, fun _ => h⟩
  next => exact ⟨rfl, fun _ => rfl⟩

/-- The branch of a tally that tracks: the stamp is noted, and taken from the present stamp on. -/
theorem acceptStamp_tracking (hstate : s.tally.state = .tracking) : ∃ v, acceptStamp st s = takeStamp st v
    ∧ v.tally.state = .tracking ∧ v.tally.now = s.tally.now ∧ bidir v = bidir s := by
  obtain ⟨c, hnote⟩ := noteStamp_eq st s
  rw [acceptStamp_eq, if_pos (by simp [following, hstate]), hnote]
  exact ⟨_, rfl, hstate, rfl, rfl⟩

theorem acceptStamp_sets (hstate : s.tally.state = .tracking) (h : bidir s = true ∨ stampGe st s.tally.now = true) :
    (acceptStamp st s).tally.state = .tracking ∧ (acceptStamp st s).tally.now = st := by
  obtain ⟨v, haccept, hv, hnow, hmode⟩ := acceptStamp_tracking (st := st) hstate
  rw [haccept, takeStamp_sets (by rw [hnow, hmode]; exact h.symm)]
  exact ⟨(setStamp_tally st v).2 hv, (setStamp_tally st v).1⟩

/-- Below the tally in monotonic mode: REVERSE_HOLD, as deep as the stamp lies below (R228). -/
theorem acceptStamp_below (hstate : s.tally.state = .tracking) (hmode : bidir s = false)
    (h : stampGe st s.tally.now = false) : (acceptStamp st s).tally.state = .reverseHold
      ∧ (acceptStamp st s).tally.now = ⟨s.tally.now.pair, 0⟩
      ∧ (acceptStamp st s).tally.revDepth = min (s.tally.now.pair - st.pair) max32 := by
  obtain ⟨v, haccept, hv, hnow, hmode'⟩ := acceptStamp_tracking (st := st) hstate
  have htake : takeStamp st v = enterReverse (v.tally.now.pair - st.pair) v := by
    simp only [takeStamp, hnow, h, hmode', hmode, hv, Bool.false_eq_true, or_self, if_false, reduceCtorEq]
  rw [haccept, htake, enterReverse_tally, hnow]
  exact ⟨rfl, rfl, rfl⟩

/-- The third one accepted in ACQUIRING (R221). -/
theorem acceptStamp_third (hstate : s.tally.state = .acquiring) (haccepted : s.tally.accepted = 2)
    (h : bidir s = true ∨ stampGe st s.tally.now = true) :
    (acceptStamp st s).tally.state = .tracking ∧ (acceptStamp st s).tally.now = st := by
  rw [acceptStamp_eq, if_neg (by simp [following, hstate]), if_neg (by omega), if_pos hstate,
    takeStamp_sets (s := noted st s s) h.symm]
  refine ⟨?_, (setStamp_tally st _).1⟩
  simp [setStamp, noted, hstate]

/-! ### Received -/

/-- A stamp is within 2^20 counts of what the last two accepted ones predict for now (R224). -/
def nearPrediction (s : State) (st : Stamp) : Prop :=
  ((st.pair : Int) - ((predicted (refresh s).tally s.time.refTicks).getD (fine (refresh s).tally.now)) / 256).natAbs ≤ 2 ^ 20

theorem receiveStamp_near (h : nearPrediction s st) (heard : State → State) :
    receiveStamp true st heard s = acceptStamp st (heard (refresh s)) := by
  simp only [receiveStamp, Bool.not_true, Bool.false_eq_true, if_false, refresh_time]
  exact if_pos h

/-- The first of a row that fails only the prediction is rejected, and kept (R224). -/
theorem receiveStamp_far (h : ¬ nearPrediction s st) (hfailing : s.tally.failing = []) (heard : State → State) :
    receiveStamp true st heard s = rejectStamp [(s.time.refTicks, st)] (refresh s) := by
  have hnone : (refresh s).tally.failing = [] := (refresh_failing s).trans hfailing
  simp only [receiveStamp, Bool.not_true, Bool.false_eq_true, if_false, refresh_time]
  rw [hnone]
  exact if_neg h

theorem receiveStamp_unsound (st : Stamp) (heard : State → State) (s : State) :
    receiveStamp false st heard s = rejectStamp [] (refresh s) := rfl

theorem rejectStamp_tally (l : List (Nat × Stamp)) (s : State) :
    (rejectStamp l s).tally = { s.tally with failing := l, accepted := 0 } := count_tally ..

theorem rejectStamp_parts (l : List (Nat × Stamp)) (s : State) : sameBut tallyParts s (rejectStamp l (refresh s)) :=
  sameBut_then (count_sameBut _ _ _) (by decide) (sameBut_trans (heard_refresh s).rest (modTally_parts _ _))

/-- A rejected stamp counts one error, whatever else it finds (R225). -/
theorem ctr_rejectStamp (l : List (Nat × Stamp)) (s : State) :
    ctr (settle s (rejectStamp l (refresh s))) (tallyBase + 0x44)
      = ctr (count (tallyBase + 0x44) 1 s) (tallyBase + 0x44) := by
  have hstreams : (rejectStamp l (refresh s)).host.streams = s.host.streams :=
    (rejectStamp_parts l s).part .streams (by decide)
  have hreg : (rejectStamp l (refresh s)).reg = (count (tallyBase + 0x44) 1 s).reg :=
    count_reg_congr (by rw [modTally_reg, refresh_reg]) _ _
  rw [settle_of_streams hstreams]
  simp only [ctr, settlePhases_ctr, hreg]

end

section
variable {s v : State} {st : Stamp} {c : Instr}

/-- What command `c` leaves by a stamp near the prediction, in the states that R225 and R228 tell apart. -/
def Takes (c : Instr) (st : Stamp) (s : State) : Prop :=
  let y := (refresh s).tally
  let moves (t : State) : Prop := exec c s = .next t ∧ sameBut tallyParts s t
  (s.tally.state = .tracking → nearPrediction s st → (bidir s = true ∨ stampGe st y.now = true) →
    ∃ t, moves t ∧ t.tally.state = .tracking ∧ t.tally.now = st)
  ∧ (s.tally.state = .tracking → nearPrediction s st → bidir s = false → stampGe st y.now = false →
    ∃ t, moves t ∧ t.tally.state = .reverseHold ∧ t.tally.now = ⟨y.now.pair, 0⟩
      ∧ t.tally.revDepth = min (y.now.pair - st.pair) max32)
  ∧ (s.tally.state = .acquiring → nearPrediction s st → (bidir s = true ∨ stampGe st y.now = true) → y.accepted = 2 →
    ∃ t, moves t ∧ t.tally.state = .tracking ∧ t.tally.now = st)

/-- A command that accepts the stamp in a state `v` that has the present tally takes it. -/
theorem takes_of_accepts (hexec : nearPrediction s st → exec c s = .next (settle s (acceptStamp st v)))
    (hv : sameBut tallyParts s v) (hstate : v.tally.state = s.tally.state) (hnow : v.tally.now = (refresh s).tally.now)
    (haccepted : v.tally.accepted = (refresh s).tally.accepted) : Takes c st s := by
  have hmode : bidir v = bidir s := bidir_congr (hv.part .held (by decide))
  have hmoves (hnear : nearPrediction s st) : exec c s = .next (settle s (acceptStamp st v))
      ∧ sameBut tallyParts s (settle s (acceptStamp st v)) :=
    ⟨hexec hnear, settled s (sameBut_trans hv (heard_acceptStamp st v).rest) (by decide)⟩
  simp only [Takes, ← hnow, ← haccepted, ← hstate, ← hmode]
  refine ⟨fun htrack hnear h => ⟨_, hmoves hnear, ?_⟩, fun htrack hnear hm h => ⟨_, hmoves hnear, ?_⟩,
    fun hacquire hnear h h2 => ⟨_, hmoves hnear, ?_⟩⟩
  · rw [settle_tally]
    exact acceptStamp_sets htrack h
  · rw [settle_tally]
    exact acceptStamp_below htrack hm h
  · rw [settle_tally]
    exact acceptStamp_third hacquire h2 h

/-! ### Frames and TICKs -/

theorem serialFrame_received {ty fl ep n fr crc : Nat} (hlive : tallyLive s = true) (hsrc : tsrc s = 2)
    (hfault : s.tally.faultSer = false) : serialFrame ty fl ep n fr crc s
      = receiveStamp (decide (crc = frameCrc ty fl ep n fr) && decide (ty = 1))
          ⟨ep % 2 ^ 16 * 2 ^ 48 + n % 2 ^ 48, fr % 256⟩ id s := by
  unfold serialFrame
  exact if_neg (by simp [hlive, hsrc, hfault])

/-- A frame of good CRC and type, near the prediction, is accepted with its stamp (R224). -/
theorem serialFrame_near {ty fl ep n fr crc : Nat} (hlive : tallyLive s = true) (hsrc : tsrc s = 2)
    (hfault : s.tally.faultSer = false) (hcrc : crc = frameCrc ty fl ep n fr) (hty : ty = 1)
    (hnear : nearPrediction s ⟨ep % 2 ^ 16 * 2 ^ 48 + n % 2 ^ 48, fr % 256⟩) :
    serialFrame ty fl ep n fr crc s = acceptStamp ⟨ep % 2 ^ 16 * 2 ^ 48 + n % 2 ^ 48, fr % 256⟩ (refresh s) := by
  rw [serialFrame_received hlive hsrc hfault, decide_eq_true hcrc, decide_eq_true hty, Bool.and_true,
    receiveStamp_near hnear]
  rfl

theorem serialFrame_unsound {ty fl ep n fr crc : Nat} (hlive : tallyLive s = true) (hsrc : tsrc s = 2)
    (hfault : s.tally.faultSer = false) (hbad : crc ≠ frameCrc ty fl ep n fr ∨ ty ≠ 1) :
    serialFrame ty fl ep n fr crc s = rejectStamp [] (refresh s) := by
  have hunsound : (decide (crc = frameCrc ty fl ep n fr) && decide (ty = 1)) = false := by
    rcases hbad with hcrc | hty
    · rw [decide_eq_false hcrc, Bool.false_and]
    · rw [decide_eq_false hty, Bool.and_false]
  rw [serialFrame_received hlive hsrc hfault, hunsound, receiveStamp_unsound]

/-- What a message that is accepted tells of its source (R226). -/
def told (m : TallyMsg) (s : State) : State := modTally s (fun y => { y with
  upstream := bitAt m.flags 0, upReverse := bitAt m.flags 1, hop := m.hop, master := m.master })

/-- The stamp of a TICK, compensated by the smallest delay (R226). -/
def tickStamp (m : TallyMsg) (s : State) : Stamp := ofFine (fine ⟨m.pair, m.frac⟩ + rateOver m.rate (minDelay s))

theorem fabricTick_received {m : TallyMsg} (hmain : s.power.main = true) (hsrc : tsrc s = 3) (hop : m.hop ≤ 63) :
    fabricTick (fabricPort s) m s = receiveStamp true (tickStamp m s) (told m) s := by
  unfold fabricTick
  exact if_neg (by simp [hmain, hsrc, hop])

theorem exec_fabricTick {p : Nat} {m : TallyMsg} (hp : p < 48) :
    exec (.fabricTick p m) s = .next (settle s (fabricTick p m s)) := if_pos (decide_eq_true hp)

/-- A TICK near the prediction is accepted, from a state that has heard what it tells. -/
theorem exec_fabricTick_near {m : TallyMsg} (hp : fabricPort s < 48) (hmain : s.power.main = true) (hsrc : tsrc s = 3)
    (hop : m.hop ≤ 63) (hnear : nearPrediction s (tickStamp m s)) :
    exec (.fabricTick (fabricPort s) m) s = .next (settle s (acceptStamp (tickStamp m s) (told m (refresh s)))) := by
  rw [exec_fabricTick hp, fabricTick_received hmain hsrc hop, receiveStamp_near hnear]

theorem told_parts (m : TallyMsg) (s : State) : sameBut tallyParts s (told m (refresh s)) :=
  sameBut_trans (heard_refresh s).rest (modTally_parts _ _)

end

/-- Settles O29: a frame or TICK that is received is accepted near the prediction, in the state that the present tally has, and
rejected elsewhere. -/
theorem stampsAccepted : Obligations.StampsAccepted := by
  unfold Obligations.StampsAccepted
  intro s
  refine ⟨fun ty fl ep n fr crc hlive hsrc hfault => ⟨fun hcrc hty => ?_, fun hbad => ?_⟩,
    fun p m hp hmain hsrc => ⟨fun hport hhop => ⟨?_, fun hnear => ?_, fun hfar hfailing => ?_⟩, fun hother => ?_⟩⟩
  · exact takes_of_accepts (v := refresh s)
      (fun hnear => congrArg (Host.Outcome.next <| settle s ·) (serialFrame_near hlive hsrc hfault hcrc hty hnear))
      (heard_refresh s).rest (refresh_state s) rfl rfl
  · exact ⟨_, ⟨congrArg (Host.Outcome.next <| settle s ·) (serialFrame_unsound hlive hsrc hfault hbad),
      settled s (rejectStamp_parts [] s) (by decide)⟩, by rw [settle_tally, rejectStamp_tally],
      fun _ => ctr_rejectStamp [] s⟩
  · subst hport
    exact takes_of_accepts (v := told m (refresh s)) (exec_fabricTick_near hp hmain hsrc hhop) (told_parts m s)
      (refresh_state s) rfl rfl
  · subst hport
    have hheard := heard_acceptStamp (tickStamp m s) (told m (refresh s))
    refine ⟨_, ⟨exec_fabricTick_near hp hmain hsrc hhop hnear,
      settled s (sameBut_trans (told_parts m s) hheard.rest) (by decide)⟩, ?_⟩
    rw [settle_tally]
    exact ⟨hheard.hop, hheard.master, hheard.upstream, hheard.upReverse⟩
  · subst hport
    have hheard := heard_refresh s
    refine ⟨_, ⟨?_, settled s (rejectStamp_parts [(s.time.refTicks, tickStamp m s)] s) (by decide)⟩, ?_⟩
    · rw [exec_fabricTick hp, fabricTick_received hmain hsrc hhop, receiveStamp_far (st := tickStamp m s) hfar hfailing]
    · rw [settle_tally, rejectStamp_tally]
      exact ⟨hheard.hop, hheard.master, hheard.upstream, rfl, rfl⟩
  · have hstill : fabricTick p m s = s := if_pos (by simp only [Bool.or_eq_true, decide_eq_true_eq]; tauto)
    refine ⟨_, exec_fabricTick hp, ?_⟩
    rw [hstill]
    exact settle_sameBut s s

end Sys2Proof.Machine
end

section
/-! PING, ECHO and TICK messages of the tally (R226): which are sent, on which ports, and what they measure. -/

namespace Sys2Proof.Machine

section
variable {s t : State}

/-- From `s` to `t` the messages `l` were sent, and nothing but the tally moved besides. -/
def Sends (l : List Msg) (s t : State) : Prop :=
  t.link = { s.link with msgs := s.link.msgs ++ l } ∧ sameBut [.tally, .link] s t

theorem sends_of_tally (h : sameBut [.tally] s t) : Sends [] s t :=
  ⟨(h.part .link (by decide)).trans (by rw [List.append_nil]), sameBut_mono h (by decide)⟩

@[simp] theorem sendTally_tally (p kind : Nat) (m : TallyMsg) (s : State) : (sendTally p kind m s).tally = s.tally := rfl

/-- A message is sent after those sent before it. -/
theorem Sends.sendTally {l : List Msg} (h : Sends l s t) (p kind : Nat) (m : TallyMsg) :
    Sends (l ++ [⟨5, (port s p).farNode, some p, 0, .tally kind m⟩]) s (sendTally p kind m t) := by
  obtain ⟨hlink, hrest⟩ := h
  have hport : port t p = port s p := by unfold port; rw [hrest.part .ports (by decide)]
  refine ⟨?_, sameBut_trans hrest ⟨rfl, fun p hp => by cases p <;> simp_all [Part.same, Machine.sendTally, sendMsg]⟩⟩
  simp only [Machine.sendTally, sendMsg, modLink_link, hlink, hport, List.append_assoc]

/-- One message on each of the ports listed, in their order. -/
theorem Sends.foldl (kind : Nat) (m : TallyMsg) (ps : List Nat) {l : List Msg} (h : Sends l s t) :
    Sends (l ++ ps.map (fun p => ⟨5, (port s p).farNode, some p, 0, .tally kind m⟩)) s
        (ps.foldl (fun u p => Machine.sendTally p kind m u) t)
      ∧ (ps.foldl (fun u p => Machine.sendTally p kind m u) t).tally = t.tally := by
  induction ps generalizing t l with
  | nil => exact ⟨by simpa using h, rfl⟩
  | cons p ps ih => simpa using ih (h.sendTally p kind m)

end

section
variable {s : State} {p : Nat} {m : TallyMsg}

theorem exec_fabricPing (hp : p < 48) (hmain : s.power.main = true) (hop : m.hop ≤ 63) : exec (.fabricPing p m) s
    = .next (sendTally p kindEcho (tallyMsg (refresh s) 0 s.time.refTicks s.time.refTicks) (refresh s)) := by
  have hanswer : answerPing p m s = _ := if_neg (by simp [hmain, hop])
  exact (if_pos (decide_eq_true hp)).trans (congrArg Host.Outcome.next hanswer)

theorem exec_fabricEcho {t1 : Nat} (hp : p < 48) (hmain : s.power.main = true) (hsrc : tsrc s = 3)
    (hport : p = fabricPort s) (hop : m.hop ≤ 63) (hping : s.tally.pingAt = some t1) : exec (.fabricEcho p m) s
    = .next (modTally s (fun y => { y with
        delays := ((s.time.refTicks - t1 - (m.t3 - m.t2)) :: y.delays).take 8, pingAt := none })) := by
  have htake : takeEcho p m s = modTally s (fun y => { y with
      delays := ((s.time.refTicks - t1 - (m.t3 - m.t2)) :: y.delays).take 8, pingAt := none }) := by
    unfold takeEcho
    rw [hping]
    exact if_neg (by simp [hsrc, hport, hop])
  exact (if_pos (decide_eq_true hp)).trans (congrArg Host.Outcome.next ((if_pos hmain).trans htake))

theorem exec_pingTimer (hmain : s.power.main = true) (hsrc : tsrc s = 3) : exec .pingTimer s
    = .next (sendTally (fabricPort s) kindPing (tallyMsg (refresh s) 0 0 0)
        (modTally (refresh s) (fun y => { y with pingAt := some s.time.refTicks }))) :=
  congrArg Host.Outcome.next (if_neg (by simp [hmain, hsrc]))

/-- A master, and a relay whose source is acquired, send while the tally forms stamps (R226). -/
theorem exec_tickSendTimer (hmain : s.power.main = true) (hmarks : marksFire s = true)
    (hsends : tMaster s = true ∨ tsrc s = 3 ∧ s.tally.state ≠ .acquiring) : exec .tickSendTimer s
    = .next ((relayPorts s).foldl (fun u p => sendTally p kindTick
        (tallyMsg (refresh s) (if tMaster s then 0 else s.tally.hop + 1) 0 0) u) (refresh s)) := by
  refine congrArg Host.Outcome.next (if_neg ?_)
  rcases hsends with hmaster | ⟨hsrc, hstate⟩
  · simp [hmain, hmarks, hmaster]
  · simp [hmain, hmarks, hsrc, hstate]

end

/-- Settles O30: each command of the fabric sends its messages after those that wait, with the present tally. -/
theorem tallyMessages : Obligations.TallyMessages := by
  unfold Obligations.TallyMessages
  intro s hmain
  have hnone := sends_of_tally (refresh_sameBut s)
  refine ⟨fun p m hp hop => ⟨_, exec_fabricPing hp hmain hop, rfl, hnone.sendTally ..⟩,
    fun p t1 m hp hsrc hport hop hping => exec_fabricEcho hp hmain hsrc hport hop hping,
    fun hsrc => ⟨_, exec_pingTimer hmain hsrc, rfl, ?_⟩, fun hmarks hmaster => ?_, fun hmarks hrelay hsrc hstate => ?_⟩
  · exact (sends_of_tally (sameBut_trans (refresh_sameBut s) (modTally_sameBut _ _))).sendTally ..
  · obtain ⟨hsends, htally⟩ := hnone.foldl kindTick (tallyMsg (refresh s) 0 0 0) (relayPorts s)
    have hexec := exec_tickSendTimer hmain hmarks (.inl hmaster)
    rw [if_pos hmaster] at hexec
    exact ⟨_, hexec, htally, hsends⟩
  · obtain ⟨hsends, htally⟩ := hnone.foldl kindTick (tallyMsg (refresh s) (s.tally.hop + 1) 0 0) (relayPorts s)
    have hexec := exec_tickSendTimer hmain hmarks (.inr ⟨hsrc, hstate⟩)
    rw [if_neg (by simp [hrelay])] at hexec
    exact ⟨_, hexec, htally, hsends⟩

end Sys2Proof.Machine
end

section
/-! Faults of the inputs, HOLDOVER and its end, and recovery (R229 to R231). -/

namespace Sys2Proof.Machine

section
variable {s t u w : State} {cause at_ r k : Nat} {a : Stamp}

/-! ### HOLDOVER -/

/-- From `s` to `t` the tally has entered HOLDOVER by this cause, and nothing moved but that, events and counters. -/
structure EntersHoldover (cause : Nat) (s t : State) : Prop where
  state : t.tally.state = .holdover
  cause : t.tally.cause = cause
  since : t.tally.since = s.time.refTicks
  rest : sameBut tallyParts s t

theorem EntersHoldover.after (h : sameBut [.tally] s t) (k : EntersHoldover cause t u) : EntersHoldover cause s u where
  state := k.state
  cause := k.cause
  since := by rw [k.since, h.part .time (by decide)]
  rest := sameBut_trans (sameBut_mono h (by decide)) k.rest

/-- With a holdover time above 0 the tally holds over, and is not lost at once (R230). -/
theorem enterHoldover_enters (hticks : holdTicks s ≠ 0) : EntersHoldover cause s (enterHoldover cause at_ r a s) := by
  unfold enterHoldover
  rcases rateAt r s with ⟨n, d⟩
  simp only [if_neg hticks]
  constructor
  case rest =>
    exact sameBut_then (refresh_sameBut _) (by decide) (sameBut_then (raiseEv_sameBut _ _) (by decide)
      (sameBut_then (count_sameBut _ _ _) (by decide) (sameBut_trans (modTally_parts _ s) (modTally_parts _ _))))
  all_goals simp [enter]

/-! ### Faults -/

/-- The tally with a pair marked faulty. -/
def markFault (k : Nat) (y : TallySt) : TallySt :=
  match k with
  | 0 => { y with faultA := true }
  | 1 => { y with faultB := true }
  | 2 => { y with faultZ := true }
  | _ => { y with faultSer := true }

theorem pairFault_eq (hlive : tallyLive s = true) (hfollow : following s = true) (k : Nat) :
    let u := modTally (refresh s) (markFault k)
    pairFault k s =
      if k ≤ 1 ∧ tsrc s = 1 then
        enterHoldover (k + 1) (lastSound (refresh s)).1 (u.time.refTicks - 800) (lastSound (refresh s)).2 (dropCounts u)
      else if k = 3 ∧ tsrc s = 2 then
        enterHoldover 3 (holdStart (refresh s)).1 u.time.refTicks (holdStart (refresh s)).2 u
      else u := by
  unfold pairFault
  simp only [hlive, hfollow, Bool.not_true, Bool.or_self, Bool.false_eq_true, if_false]
  rfl

theorem exec_pairFault (hk : k < 4) (hlive : tallyLive s = true) :
    exec (.pairFault k) s = .next (settle s (pairFault k s)) :=
  (if_pos (decide_eq_true hk)).trans (congrArg (Host.Outcome.next <| settle s ·) (if_pos (main_of_tallyLive hlive)))

theorem markFault_sameBut (k : Nat) (s : State) : sameBut [.tally] s (modTally (refresh s) (markFault k)) :=
  sameBut_trans (refresh_sameBut s) (modTally_sameBut _ _)

/-- A fault of A or B with source QUAD, after the counts of its last microsecond are dropped (R229). -/
theorem pairFault_quad (hlive : tallyLive s = true) (hfollow : following s = true) (hsrc : tsrc s = 1)
    (hticks : holdTicks s ≠ 0) (hk : k ≤ 1) : EntersHoldover (k + 1) s (pairFault k s) := by
  have hdrop : sameBut [.tally] s (dropCounts (modTally (refresh s) (markFault k))) :=
    sameBut_trans (markFault_sameBut k s) (modTally_sameBut _ _)
  rw [pairFault_eq hlive hfollow, if_pos ⟨hk, hsrc⟩]
  exact .after hdrop (enterHoldover_enters (by rwa [holdTicks_congr (hdrop.part .held (by decide))]))

/-- A fault of SER with source SERIAL (R229). -/
theorem pairFault_serial (hlive : tallyLive s = true) (hfollow : following s = true) (hsrc : tsrc s = 2)
    (hticks : holdTicks s ≠ 0) : EntersHoldover 3 s (pairFault 3 s) := by
  have hmark := markFault_sameBut 3 s
  rw [pairFault_eq hlive hfollow, if_neg (by omega), if_pos ⟨rfl, hsrc⟩]
  exact .after hmark (enterHoldover_enters (by rwa [holdTicks_congr (hmark.part .held (by decide))]))

theorem illegalLimit_enters (hlive : tallyLive s = true) (hfollow : following s = true) (hsrc : tsrc s = 1)
    (hticks : holdTicks s ≠ 0) (hmany : 16 < illegalNow s) : EntersHoldover 4 s (illegalLimit s) := by
  unfold illegalLimit
  rw [if_neg (by simp [hlive, hsrc, hfollow, hmany])]
  exact enterHoldover_enters hticks

theorem illegalLimit_few (hfew : illegalNow s ≤ 16) : illegalLimit s = s := if_pos (by simp [hfew])

theorem framesTimeout_enters (hlive : tallyLive s = true) (hfollow : following s = true) (hsrc : 2 ≤ tsrc s)
    (hticks : holdTicks s ≠ 0) : EntersHoldover 5 s (framesTimeout s) := by
  unfold framesTimeout
  rw [if_neg (by simp [hlive, hfollow, Nat.not_lt.mpr hsrc])]
  exact enterHoldover_enters hticks

/-- A command that enters HOLDOVER, and settles. -/
theorem EntersHoldover.settled (h : EntersHoldover cause s t) {c : Instr} (hc : exec c s = .next (settle s t)) :
    ∃ t, (exec c s = .next t ∧ sameBut tallyParts s t) ∧ t.tally.state = .holdover ∧ t.tally.cause = cause
      ∧ t.tally.since = s.time.refTicks :=
  ⟨_, ⟨hc, Machine.settled s h.rest (by decide)⟩, by rw [settle_tally, h.state], by rw [settle_tally, h.cause],
    by rw [settle_tally, h.since]⟩

/-! ### LOST and OFF end what they find -/

/-- GATEs that pass move streams alone. -/
theorem passGates_sameBut (s : State) : sameBut [.streams] s (passGates s) := by
  refine sameBut_foldl (fun t x => ?_) _ s
  split
  · exact sameBut_ite (complete_sameBut _ _ _ _ _ _ t) (sameBut_refl _ t)
  · exact sameBut_refl _ t

/-- The end of a boost window disarms its alarms; of the tally it moves no more than what a preset had passed. -/
theorem endWindow_tally (r : Nat) (s : State) : ∃ l, (endWindow r s).tally = { s.tally with passedOff := l } := by
  unfold endWindow
  dsimp only
  split
  · exact ⟨s.tally.passedOff, rfl⟩
  · rw [(runSwitch_sameBut _).part .tally (by decide), raiseEv_tally, (allow_sameBut _ _).part .tally (by decide)]
    exact ⟨_, rfl⟩

theorem tally_endWindow_passGates (r : Nat) (s : State) :
    (endWindow r (passGates s)).tally.state = s.tally.state ∧ (endWindow r (passGates s)).tally.now = s.tally.now := by
  obtain ⟨l, h⟩ := endWindow_tally r (passGates s)
  rw [h, (passGates_sameBut s).part .tally (by decide)]
  exact ⟨rfl, rfl⟩

/-- LOST stops the tally at its present stamp (R230). -/
theorem enterLost_tally (s : State) :
    (enterLost s).tally.state = .lost ∧ (enterLost s).tally.now = (refresh s).tally.now := by
  obtain ⟨hstate, hnow⟩ := tally_endWindow_passGates 0x08
    (raiseEv { code := 0x09 } (count (tallyBase + 0x58) 1 (enter .lost (refresh s))))
  exact ⟨hstate.trans (by simp), hnow.trans (by simp)⟩

/-! ### Recovery -/

/-- From `s` to `t` the tally tracks again from its present stamp, and its index has to be found again (R231). -/
structure Recovers (s t : State) : Prop where
  state : t.tally.state = .tracking
  resync : t.tally.resync = true
  now : t.tally.now = (refresh s).tally.now
  rest : sameBut tallyParts s t

theorem quadRecovered_recovers (s : State) : Recovers s (quadRecovered s) where
  state := by simp [quadRecovered, recovered]
  resync := by simp [quadRecovered, recovered, enter]
  now := by simp [quadRecovered, recovered]
  rest := sameBut_then (raiseEv_sameBut _ _) (by decide) (sameBut_trans (sameBut_mono (refresh_sameBut s) (by decide))
    (sameBut_trans (modTally_parts _ _) (modTally_parts _ _)))

theorem Recovers.settled (h : Recovers s t) {c : Instr} (hc : exec c s = .next (settle s t)) :
    ∃ t, (exec c s = .next t ∧ sameBut tallyParts s t) ∧ t.tally.state = .tracking ∧ t.tally.resync = true
      ∧ t.tally.now = (refresh s).tally.now :=
  ⟨_, ⟨hc, Machine.settled s h.rest (by decide)⟩, by rw [settle_tally, h.state], by rw [settle_tally, h.resync],
    by rw [settle_tally, h.now]⟩

/-- The tally with a pair sound again. -/
def clearFault (k : Nat) (y : TallySt) : TallySt :=
  match k with
  | 0 => { y with faultA := false }
  | 1 => { y with faultB := false }
  | 2 => { y with faultZ := false }
  | _ => { y with faultSer := false }

theorem pairRestore_eq (k : Nat) (s : State) :
    let u := modTally s (clearFault k)
    pairRestore k s =
      if tsrc s ≠ 1 ∨ (clearFault k s.tally).faultA ∨ (clearFault k s.tally).faultB then u
      else if (clearFault k s.tally).state = .acquiring then enter .tracking u
      else if ((clearFault k s.tally).state = .holdover ∨ (clearFault k s.tally).state = .lost)
          ∧ ((clearFault k s.tally).cause = 1 ∨ (clearFault k s.tally).cause = 2) then quadRecovered u
      else u := rfl

theorem exec_pairRestore (hk : k < 4) (hlive : tallyLive s = true) :
    exec (.pairRestore k) s = .next (settle s (pairRestore k s)) :=
  (if_pos (decide_eq_true hk)).trans (congrArg (Host.Outcome.next <| settle s ·) (if_pos (main_of_tallyLive hlive)))

theorem clearFault_rest (y : TallySt) : ∀ k, (clearFault k y).state = y.state ∧ (clearFault k y).cause = y.cause
  | 0 => ⟨rfl, rfl⟩
  | 1 => ⟨rfl, rfl⟩
  | 2 => ⟨rfl, rfl⟩
  | _ + 3 => ⟨rfl, rfl⟩

theorem heldOver_clearFault (s : State) : ∀ k, heldOver (modTally s (clearFault k)) = heldOver s
  | 0 => rfl
  | 1 => rfl
  | 2 => rfl
  | _ + 3 => rfl

theorem refresh_holdover (h : s.tally.state = .holdover) : (refresh s).tally.now = heldOver s := by simp [refresh, h]

/-- In HOLDOVER the present stamp is that of the extrapolation, whichever pairs are sound. -/
theorem refresh_clearFault (h : s.tally.state = .holdover) (k : Nat) :
    (refresh (modTally s (clearFault k))).tally.now = (refresh s).tally.now := by
  rw [refresh_holdover h, refresh_holdover ((clearFault_rest s.tally k).1.trans h), heldOver_clearFault]

/-- A holdover of a faulty pair ends when both are sound (R231). -/
theorem pairRestore_recovers (hsrc : tsrc s = 1) (hstate : s.tally.state = .holdover)
    (hcause : s.tally.cause = 1 ∨ s.tally.cause = 2) (hA : (clearFault k s.tally).faultA = false)
    (hB : (clearFault k s.tally).faultB = false) : Recovers s (pairRestore k s) := by
  obtain ⟨hstate', hcause'⟩ := clearFault_rest s.tally k
  have hback : pairRestore k s = quadRecovered (modTally s (clearFault k)) := by
    rw [pairRestore_eq, if_neg (by simp [hsrc, hA, hB]), if_neg (by simp [hstate', hstate]),
      if_pos ⟨.inl (hstate'.trans hstate), hcause'.symm ▸ hcause⟩]
  have h := quadRecovered_recovers (modTally s (clearFault k))
  rw [hback]
  exact ⟨h.state, h.resync, h.now.trans (refresh_clearFault hstate k), sameBut_trans (modTally_parts _ s) h.rest⟩

/-- A holdover of illegal transitions ends after 1.024 ms with at most 16 (R231). -/
theorem illegalRecover_recovers (hlive : tallyLive s = true) (hstate : s.tally.state = .holdover) (hcause : s.tally.cause = 4)
    (hfew : illegalNow s ≤ 16) : Recovers s (illegalRecover s) := by
  have hback : illegalRecover s = quadRecovered s := if_pos ⟨hlive, .inl hstate, hcause, hfew⟩
  rw [hback]
  exact quadRecovered_recovers s

end

/-- Settles O31: each fault enters HOLDOVER with its cause, its end stops the tally, and each recovery tracks again. -/
theorem tallyFaults : Obligations.TallyFaults := by
  unfold Obligations.TallyFaults
  intro s hlive
  refine ⟨fun htrack hticks => ?_, fun hhold => ?_, fun hother => ?_, fun hsrc hhold => ⟨fun hcause hB => ?_,
    fun hcause hA => ?_, fun hcause hfew => ?_⟩⟩
  · have hfollow : following s = true := by simp [following, htrack]
    refine ⟨fun hsrc => ⟨?_, ?_, fun hmany => ?_, fun hfew => ?_⟩, fun hsrc => ?_, fun hsrc => ?_, ?_⟩
    · exact (pairFault_quad hlive hfollow hsrc hticks (by omega)).settled (exec_pairFault (by omega) hlive)
    · exact (pairFault_quad hlive hfollow hsrc hticks le_rfl).settled (exec_pairFault (by omega) hlive)
    · exact (illegalLimit_enters hlive hfollow hsrc hticks hmany).settled rfl
    · exact ⟨_, congrArg (Host.Outcome.next <| settle s ·) (illegalLimit_few hfew), settle_sameBut s s⟩
    · exact (pairFault_serial hlive hfollow hsrc hticks).settled (exec_pairFault (by omega) hlive)
    · exact (framesTimeout_enters hlive hfollow hsrc hticks).settled rfl
    · have hmark : pairFault 2 s = modTally (refresh s) (markFault 2) := by
        rw [pairFault_eq hlive hfollow, if_neg (by omega), if_neg (by omega)]
      refine ⟨_, ⟨exec_pairFault (by omega) hlive, settled s ?_ (by decide)⟩, ?_⟩
      · rw [hmark]
        exact sameBut_mono (markFault_sameBut 2 s) (by decide)
      · rw [settle_tally, hmark]
        rfl
  · have hlost : holdoverExpire s = enterLost s := if_pos hhold
    refine ⟨_, congrArg (Host.Outcome.next <| settle s ·) hlost, ?_⟩
    rw [settle_tally]
    exact enterLost_tally s
  · have hstill : holdoverExpire s = s := if_neg hother
    exact ⟨_, congrArg (Host.Outcome.next <| settle s ·) hstill, settle_sameBut s s⟩
  · exact (pairRestore_recovers (k := 0) hsrc hhold (.inl hcause) rfl hB).settled (exec_pairRestore (by omega) hlive)
  · exact (pairRestore_recovers (k := 1) hsrc hhold (.inr hcause) hA rfl).settled (exec_pairRestore (by omega) hlive)
  · exact (illegalRecover_recovers hlive hhold hcause hfew).settled rfl

end Sys2Proof.Machine
end

section
/-! The commands of the tally's registers: the source, presets, the latched stamp, the self-test and the tally bus (R221, R232,
R238, R241, R437). -/

namespace Sys2Proof.Machine

section
variable {s t : State} {v p n : Nat}

/-! ### The source -/

/-- TALLY_CTRL.src is `v`, and nothing of the source before stands (R221). -/
def sourced (v : Nat) (s : State) : State := modTally (setReg4 (refresh s) tallyBase (tctl s / 4 * 4 + v)) (fun y => { y with
  upstream := false, upReverse := false, behind := 0, depth := 0, stamps := [], failing := [], accepted := 0
  edges := [], counts := [], illegal := [], cause := 0, sinceZ := 0, delays := [], pingAt := none, hop := 0, master := 0
  passedOff := [] })

theorem setSrc_eq (h : v ≠ tsrc s) : setSrc v s =
    if v = 0 then endWindow 0x08 (passGates (enter .off (sourced v s)))
    else if v = 1 ∧ !(sourced v s).tally.faultA ∧ !(sourced v s).tally.faultB then enter .tracking (sourced v s)
    else enter .acquiring (sourced v s) := if_neg h

theorem tsrc_sourced (hv : v < 4) (s : State) : tsrc (sourced v s) = v := by
  have hreg : tctl (sourced v s) = (tctl s / 4 * 4 + v) % 2 ^ 32 := reg4_setReg4 ..
  simp only [tsrc, bitsAt, hreg, Nat.shiftRight_zero]
  omega

theorem sourced_sameBut (v : Nat) (s : State) : sameBut [.tally, .held] s (sourced v s) :=
  sameBut_then (modTally_sameBut _ _) (by simp) (sameBut_then (setReg4_sameBut _ _ _) (by simp)
    (sameBut_mono (refresh_sameBut s) (by simp)))

/-- From `s` to `t` the source `v` was selected, and the tally has come to state `x` at its present stamp. -/
structure Selects (v : Nat) (x : TState) (s t : State) : Prop where
  state : t.tally.state = x
  src : tsrc t = v
  now : t.tally.now = (refresh s).tally.now

theorem selects_enter (hv : v < 4) (x : TState) (s : State) : Selects v x s (enter x (sourced v s)) :=
  ⟨rfl, tsrc_sourced hv s, rfl⟩

theorem Selects.settle {x : TState} (h : Selects v x s t) (old : State) : Selects v x s (settle old t) :=
  ⟨by rw [settle_tally, h.state], (tsrc_congr (settle_held old t)).trans h.src, by rw [settle_tally, h.now]⟩

/-- QUAD with both pairs sound needs no acquisition (R221). -/
theorem setSrc_quad (h : tsrc s ≠ 1) (hA : s.tally.faultA = false) (hB : s.tally.faultB = false) :
    setSrc 1 s = enter .tracking (sourced 1 s) := by
  have hA' : (sourced 1 s).tally.faultA = false := (refresh_faultA s).trans hA
  have hB' : (sourced 1 s).tally.faultB = false := (refresh_faultB s).trans hB
  rw [setSrc_eq h.symm, if_neg (by omega), if_pos (by simp [hA', hB'])]

theorem setSrc_stamps (h : tsrc s ≠ v) (hv : 2 ≤ v) : setSrc v s = enter .acquiring (sourced v s) := by
  rw [setSrc_eq h.symm, if_neg (by omega), if_neg (by omega)]

/-- The end of a boost window leaves TALLY_CTRL. -/
theorem tctl_endWindow (r : Nat) (s : State) : tctl (endWindow r s) = tctl s := by
  have hdisarm (n : Nat) (s : State) : tctl (disarm n s) = tctl s :=
    reg4_setReg4_other (forget n s) _ (by simp only [almReg]; omega)
  have hclose (i st r : Nat) (s : State) : tctl (closePlan i st r s) = tctl s := by
    have hplan : tallyBase ≠ planReg i 0x10 := by
      simp only [planReg, tallyBase, govBase]
      omega
    exact (reg4_setReg4_other _ _ hplan).trans ((hdisarm _ _).trans (hdisarm _ s))
  unfold endWindow
  dsimp only
  split
  · rfl
  · rw [tctl_congr ((runSwitch_sameBut _).part .held (by decide)), tctl_congr (raiseEv_held _ _),
      tctl_congr ((allow_sameBut _ _).part .held (by decide))]
    exact (tctl_congr ((modBoost_sameBut _ _).part .held (by decide))).trans (hclose s.power.boost.entry 2 r s)

/-- Source NONE is OFF, which holds the stamp (R221). -/
theorem selects_none (h : tsrc s ≠ 0) : Selects 0 .off s (setSrc 0 s) := by
  have hoff := selects_enter (v := 0) (by omega) .off s
  rw [setSrc_eq h.symm, if_pos rfl]
  obtain ⟨hstate, hnow⟩ := tally_endWindow_passGates 0x08 (enter .off (sourced 0 s))
  refine ⟨hstate.trans hoff.state, ?_, hnow.trans hoff.now⟩
  rw [tsrc, tctl_endWindow, tctl_congr ((passGates_sameBut _).part .held (by decide))]
  exact hoff.src

theorem main_of_hostBlock (h : hostBlock s = true) : s.power.main = true := by
  simp only [hostBlock, hostUp, Bool.and_eq_true] at h
  tauto

theorem exec_tallyCtrlSrc (hup : hostBlock s = true) (hbusy : s.tally.testBusy = false) (hv : v < 4) :
    exec (.tallyCtrlSrc v) s = .next (settle s (setSrc v s)) := by
  have hwrite : writeSrc v s = setSrc v s := by
    unfold writeSrc
    rw [if_neg (by simp [hbusy]), Nat.mod_eq_of_lt hv]
  exact congrArg Host.Outcome.next ((if_pos hup).trans (congrArg (settle s) hwrite))

theorem exec_tallyCtrlSrc_busy (hup : hostBlock s = true) (hbusy : s.tally.testBusy = true) (hv : v < 4) :
    exec (.tallyCtrlSrc v) s = .next (settle s (modTally s (fun y => { y with srcPending := some v }))) := by
  have hwrite : writeSrc v s = modTally s (fun y => { y with srcPending := some v }) := by
    unfold writeSrc
    rw [if_pos hbusy, Nat.mod_eq_of_lt hv]
  exact congrArg Host.Outcome.next ((if_pos hup).trans (congrArg (settle s) hwrite))

/-- A source that is entered at once, from a tally without one. -/
theorem selects_from_none {x : TState} (hup : hostBlock s = true) (hbusy : s.tally.testBusy = false) (hv : v < 4)
    (hset : setSrc v s = enter x (sourced v s)) : ∃ t, exec (.tallyCtrlSrc v) s = .next t ∧ t.tally.state = x ∧ tsrc t = v
      ∧ t.tally.now = (refresh s).tally.now ∧ sameBut (.tally :: .held :: settleParts) s t := by
  have hsel := (selects_enter hv x s).settle s
  refine ⟨_, exec_tallyCtrlSrc hup hbusy hv, ?_⟩
  rw [hset]
  exact ⟨hsel.state, hsel.src, hsel.now, settled s (sameBut_mono (sameBut_then (enter_sameBut _ _) (by simp)
    (sourced_sameBut v s)) (by decide)) (by decide)⟩

/-! ### Presets -/

theorem exec_tallyPreset (hup : hostBlock s = true) (hp : p < 2 ^ 64) : exec (.tallyPreset p) s = .next (writePreset p s) := by
  refine congrArg Host.Outcome.next ((if_pos hup).trans ?_)
  rw [Nat.mod_eq_of_lt hp]

theorem writePreset_now (hnow : presetAtZ s = false) (hstate : s.tally.state ≠ .off) :
    writePreset p s = applyPreset p (refresh s) := by
  unfold writePreset
  simp only [hnow, hstate, Bool.false_eq_true, if_false]

theorem applyPreset_refused (hsrc : tsrc s ≠ 0) (hp : p < s.tally.now.pair) :
    applyPreset p s = modTally s (fun y => { y with presetErr := true }) := if_pos ⟨hsrc, hp⟩

/-- A preset that waits for the index is kept (R221). -/
theorem writePreset_index (hindex : presetAtZ s = true) (hp : (refresh s).tally.now.pair ≤ p) :
    writePreset p s = modTally (refresh s) (fun y => { y with preset := some p }) := by
  unfold writePreset
  simp only [hindex, if_true]
  exact if_neg (by omega)

/-! ### The latched stamp -/

theorem answer_sameBut (r : Resp) (s : State) : sameBut [.resp] s (answer r s) :=
  ⟨rfl, fun p hp => by cases p <;> simp_all [Part.same, answer]⟩

/-! ### The self-test -/

theorem exec_tallyTestGo (hup : hostBlock s = true) (hsrc : tsrc s = 0) :
    exec .tallyTestGo s = .next { s with tally := { s.tally with testBusy := true } } := by
  refine congrArg Host.Outcome.next ((if_pos hup).trans ?_)
  unfold testGo
  split
  next => rfl
  next h =>
    have hbusy : s.tally.testBusy = true := by simpa [hsrc] using h
    rw [← hbusy]

/-- The tally as the self-test ends with result `n`. -/
def tested (n : Nat) (s : State) : State :=
  modTally s (fun y => { y with testBusy := false, testPass := n, srcPending := none })

theorem testDone_none (hbusy : s.tally.testBusy = true) (hn : n < 16) (hnone : s.tally.srcPending = none) :
    testDone n s = tested n s := by
  simp only [testDone, hbusy, Bool.not_true, Bool.false_eq_true, if_false, hnone, Nat.mod_eq_of_lt hn]
  rfl

theorem testDone_some (hbusy : s.tally.testBusy = true) (hn : n < 16) (hsome : s.tally.srcPending = some v) :
    testDone n s = setSrc v (tested n s) := by
  simp only [testDone, hbusy, Bool.not_true, Bool.false_eq_true, if_false, hsome, Nat.mod_eq_of_lt hn]
  rfl

end

/-- Settles O32: each register command is one change of the tally's block, which the tally's source and state decide. -/
theorem tallyRegisters : Obligations.TallyRegisters := by
  unfold Obligations.TallyRegisters
  intro s hup
  refine ⟨fun hbusy hsrc => ⟨fun hA hB => ?_, fun v hv => ?_⟩, fun hbusy hsrc => ?_, fun hbusy v hv => ?_,
    fun p hp hnow hsrc hstate => ⟨fun habove => ?_, fun hbelow => ?_⟩, fun p hp hindex habove => ?_, ?_,
    exec_tallyTestGo hup, fun n hn hbusy => ⟨fun hnone => ?_, fun hsome hsrc => ?_⟩, fun hoff hlost => ?_, fun hstopped => ?_⟩
  · exact selects_from_none hup hbusy (by omega) (setSrc_quad (by omega) hA hB)
  · exact selects_from_none hup hbusy (by omega) (setSrc_stamps (by omega) (by omega))
  · have hsel := (selects_none hsrc).settle s
    exact ⟨_, exec_tallyCtrlSrc hup hbusy (by omega), hsel.state, hsel.src, hsel.now⟩
  · exact ⟨_, exec_tallyCtrlSrc_busy hup hbusy hv, settle_tally _ _,
      settled s (sameBut_mono (modTally_sameBut _ s) (by decide)) (by decide)⟩
  · refine ⟨_, exec_tallyPreset hup hp, ?_⟩
    rw [writePreset_now hnow hstate]
    exact ⟨(applyPreset_sets habove).1, sameBut_trans (refresh_sameBut s) (applyPreset_sameBut p _)⟩
  · refine ⟨_, exec_tallyPreset hup hp, ?_⟩
    rw [writePreset_now hnow hstate, applyPreset_refused (by rwa [tsrc_refresh]) hbelow]
    exact ⟨rfl, sameBut_trans (refresh_sameBut s) (modTally_sameBut _ _)⟩
  · refine ⟨_, exec_tallyPreset hup hp, ?_⟩
    rw [writePreset_index hindex habove]
    exact ⟨rfl, sameBut_trans (refresh_sameBut s) (modTally_sameBut _ _)⟩
  · refine ⟨_, congrArg Host.Outcome.next (if_pos hup), rfl, rfl, ?_⟩
    exact sameBut_then (answer_sameBut _ _) (by simp)
      (sameBut_mono (sameBut_trans (refresh_sameBut s) (modTally_sameBut _ _)) (by simp))
  · refine ⟨_, congrArg (Host.Outcome.next <| settle s ·) (testDone_none hbusy hn hnone), ?_, ?_⟩
    · rw [settle_tally, tested, modTally_tally, ← hnone]
    · exact settled s (sameBut_mono (modTally_sameBut _ s) (by decide)) (by decide)
  · have hset : setSrc 2 (tested n s) = enter .acquiring (sourced 2 (tested n s)) :=
      setSrc_stamps (s := tested n s) (by rw [show tsrc (tested n s) = 0 from hsrc]; omega) le_rfl
    have hsel := (selects_enter (by omega) .acquiring (tested n s)).settle (v := 2) s
    refine ⟨_, congrArg (Host.Outcome.next <| settle s ·) ((testDone_some hbusy hn hsome).trans hset), ?_, ?_, hsel.state,
      hsel.src⟩
    · rw [settle_tally]
      exact refresh_testPass (tested n s)
    · rw [settle_tally]
      exact refresh_testBusy (tested n s)
  · have hstamp : busStamp s = _ := if_pos ⟨main_of_hostBlock hup, hoff, hlost⟩
    exact ⟨_, congrArg Host.Outcome.next hstamp, rfl, sameBut_trans (refresh_sameBut s) (modTally_sameBut _ _)⟩
  · exact congrArg Host.Outcome.next (if_neg (by tauto))

end Sys2Proof.Machine
end

section
/-! The bits of ALM_CTRL (Table 9.3): single bits set, the word that a write makes, and its fields. -/

namespace Sys2Proof.Machine

section
variable {v w i j hi lo frac vec : Nat} {arm fired late irq : Bool}

/-- A power added where its bit is clear sets that bit alone. -/
theorem testBit_add_two_pow (h : v.testBit i = false) (j : Nat) :
    (v + 2 ^ i).testBit j = if j = i then true else v.testBit j := by
  rcases Nat.lt_trichotomy j i with hlt | rfl | hgt
  · rw [if_neg (by omega), Nat.add_comm, Nat.testBit_two_pow_add_gt hlt]
  · rw [if_pos rfl, Nat.add_comm, Nat.testBit_two_pow_add_eq, h, Bool.not_false]
  · have heven : v / 2 ^ i % 2 = 0 := by
      rw [Nat.testBit_eq_decide_div_mod_eq, decide_eq_false_iff_not] at h
      omega
    have hhigh : (v + 2 ^ i) / 2 ^ (i + 1) = v / 2 ^ (i + 1) := by
      rw [Nat.pow_succ, ← Nat.div_div_eq_div_mul, ← Nat.div_div_eq_div_mul, Nat.add_div_right _ (Nat.two_pow_pos i)]
      omega
    obtain ⟨k, rfl⟩ : ∃ k, j = k + (i + 1) := ⟨j - (i + 1), by omega⟩
    rw [if_neg (by omega), ← Nat.testBit_div_two_pow, hhigh, Nat.testBit_div_two_pow]

theorem bitAt_setBit (v i : Nat) (b : Bool) (j : Nat) : bitAt (setBit v i b) j = if j = i then b else bitAt v j := by
  unfold setBit
  split
  next h =>
    split
    next hj => exact hj ▸ h
    next => rfl
  next h =>
    cases b
    case true => exact testBit_add_two_pow (by simpa [bitAt] using h) j
    case false =>
      have hset : v.testBit i = true := by simpa [bitAt] using h
      have hle : 2 ^ i ≤ v := Nat.ge_two_pow_of_testBit hset
      obtain ⟨u, rfl⟩ : ∃ u, v = u + 2 ^ i := ⟨v - 2 ^ i, by omega⟩
      have hclear : u.testBit i = false := by
        rw [Nat.add_comm, Nat.testBit_two_pow_add_eq] at hset
        simpa using hset
      simp only [Bool.false_eq_true, if_false, Nat.add_sub_cancel, bitAt]
      split
      next hj => exact hj ▸ hclear
      next hj => rw [testBit_add_two_pow hclear, if_neg hj]

/-- A field is what its bits are. -/
theorem bitsAt_congr (h : ∀ j, lo ≤ j → j ≤ hi → bitAt v j = bitAt w j) : bitsAt v hi lo = bitsAt w hi lo := by
  refine Nat.eq_of_testBit_eq fun k => ?_
  simp only [bitsAt, Nat.testBit_mod_two_pow, Nat.testBit_shiftRight]
  by_cases hk : k < hi + 1 - lo
  · rw [show v.testBit (lo + k) = w.testBit (lo + k) from h (lo + k) (by omega) (by omega)]
  · simp [hk]

theorem bitsAt_setBit (b : Bool) (h : i < lo ∨ hi < i) : bitsAt (setBit v i b) hi lo = bitsAt v hi lo :=
  bitsAt_congr fun j hlo hhi => by rw [bitAt_setBit, if_neg (by omega)]

theorem bitsAt_low_byte (v : Nat) : bitsAt v 7 0 = v % 256 := rfl

/-- A word of 32 bits keeps 32 bits when one of them is set. -/
theorem setBit_lt (b : Bool) (hv : v < 2 ^ 32) (hi : i < 32) : setBit v i b < 2 ^ 32 := by
  refine Nat.lt_pow_two_of_testBit _ fun j hj => ?_
  rw [show (setBit v i b).testBit j = _ from bitAt_setBit v i b j, if_neg (by omega)]
  exact Nat.testBit_lt_two_pow (lt_of_lt_of_le hv (Nat.pow_le_pow_right (by omega) hj))

/-- The word of ALM_CTRL with these fields. -/
def almWord (frac : Nat) (arm fired late irq : Bool) (vec : Nat) : Nat :=
  frac + 2 ^ 8 * b2n arm + 2 ^ 9 * b2n fired + 2 ^ 11 * b2n irq + 2 ^ 16 * vec + 2 ^ 10 * b2n late

/-- Its fields read back. -/
structure AlmFields (w frac : Nat) (arm fired late irq : Bool) (vec : Nat) : Prop where
  frac : bitsAt w 7 0 = frac
  arm : bitAt w 8 = arm
  fired : bitAt w 9 = fired
  late : bitAt w 10 = late
  irq : bitAt w 11 = irq
  vec : bitsAt w 22 16 = vec
  word : w % 2 ^ 32 = w

theorem b2n_le_one (b : Bool) : b2n b ≤ 1 := by cases b <;> decide

theorem decide_b2n (b : Bool) : decide (b2n b = 1) = b := by cases b <;> decide

theorem almFields_almWord (hfrac : frac < 256) (hvec : vec < 128) (arm fired late irq : Bool) :
    AlmFields (almWord frac arm fired late irq vec) frac arm fired late irq vec := by
  have harm := b2n_le_one arm
  have hfired := b2n_le_one fired
  have hlate := b2n_le_one late
  have hirq := b2n_le_one irq
  have hbit {k : Nat} {b : Bool} (h : almWord frac arm fired late irq vec / 2 ^ k % 2 = b2n b) :
      bitAt (almWord frac arm fired late irq vec) k = b := by
    rw [bitAt, Nat.testBit_eq_decide_div_mod_eq, h, decide_b2n]
  constructor
  case frac =>
    rw [bitsAt_low_byte]
    unfold almWord
    omega
  case vec =>
    rw [bitsAt, Nat.shiftRight_eq_div_pow]
    unfold almWord
    omega
  case word =>
    unfold almWord
    omega
  all_goals
    apply hbit
    unfold almWord
    omega

end
end Sys2Proof.Machine
end

section
/-! Alarms (R233 to R237): what a write of software makes of one, how it fires, and that the others stand. -/

namespace Sys2Proof.Machine

section
variable {s t u : State} {n k v : Nat}

/-! ### What one alarm's change leaves -/

/-- From `s` to `t` no register word moved but ALM_CTRL of alarm `n`, and nothing that the marks of other alarms depend on. -/
structure OneAlarm (n : Nat) (s t : State) : Prop where
  words : ∀ a, a ≠ almReg n 8 → reg4 t a = reg4 s a
  power : t.power = s.power
  ports : t.ports = s.ports
  deferred : t.tally.deferRecal = s.tally.deferRecal

namespace OneAlarm

theorem trans (h : OneAlarm n s t) (k : OneAlarm n t u) : OneAlarm n s u where
  words a ha := (k.words a ha).trans (h.words a ha)
  power := k.power.trans h.power
  ports := k.ports.trans h.ports
  deferred := k.deferred.trans h.deferred

theorem setReg4 (n v : Nat) (s : State) : OneAlarm n s (setReg4 s (almReg n 8) v) :=
  ⟨fun _ ha => reg4_setReg4_other s v ha, rfl, rfl, rfl⟩

theorem forget (n : Nat) (s : State) : OneAlarm n s (forget n s) := ⟨fun _ _ => rfl, rfl, rfl, rfl⟩

theorem of_sameBut (n : Nat) (h : sameBut [.ring, .counters] s t) : OneAlarm n s t :=
  ⟨fun a _ => reg4_congr (h.part .held (by decide)) a, h.part .power (by decide), h.part .ports (by decide),
    congrArg TallySt.deferRecal (h.part .tally (by decide) : t.tally = s.tally)⟩

theorem ctrl (h : OneAlarm n s t) (hk : k ≠ n) : almCtrl t k = almCtrl s k :=
  h.words _ (by simp only [almReg]; omega)

/-- The pair of a mark lies in words of its own, and the recalibration of ports does not depend on ALM_CTRL. -/
theorem pair (h : OneAlarm n s t) (k : Nat) : almPair t k = almPair s k := by
  have hmark : reg8 t (almReg k 0) = reg8 s (almReg k 0) := by
    have hlow : almReg k 0 ≠ almReg n 8 := by simp only [almReg]; omega
    have hhigh : almReg k 0 + 4 ≠ almReg n 8 := by simp only [almReg]; omega
    simp only [reg8, h.words _ hlow, h.words _ hhigh]
  have hport (p : Nat) : reg4 t (portBase p) = reg4 s (portBase p) := h.words _ (by
    simp only [almReg, portBase, tallyBase]
    omega)
  have hrecal : recalArmed t = recalArmed s := by simp only [recalArmed, h.power, h.deferred, h.ports, hport]
  simp only [almPair, hmark, hrecal]

/-- Every other alarm stands. -/
theorem others (h : OneAlarm n s t) :
    ∀ k, k < 512 → k ≠ n → almCtrl t k = almCtrl s k ∧ almMark t k = almMark s k := fun k _ hk =>
  ⟨h.ctrl hk, by rw [almMark, almMark, h.ctrl hk, h.pair]⟩

end OneAlarm

theorem almArmed_software (hn : n < 448) (s : State) : almArmed s n = bitAt (almCtrl s n) 8 := if_neg (by omega)

theorem almPair_software (hn : n < 448) (s : State) : almPair s n = reg8 s (almReg n 0) := if_neg (by omega)

theorem almCtrl_lt (s : State) (n : Nat) : almCtrl s n < 2 ^ 32 := reg4_lt s _

/-! ### Firing -/

/-- ALM_CTRL of an alarm that has fired: disarmed, with fired set (R235). -/
def firedWord (c : Nat) : Nat := setBit (setBit c 8 false) 9 true

theorem fireAlarm_eq (n : Nat) (s : State) : fireAlarm n s =
    if bitAt (almCtrl s n) 11 ∧ bitsAt (almCtrl s n) 22 16 ≤ 64 then
      requestVector (bitsAt (almCtrl s n) 22 16) (setReg4 (forget n s) (almReg n 8) (firedWord (almCtrl s n)))
    else setReg4 (forget n s) (almReg n 8) (firedWord (almCtrl s n)) := rfl

theorem firedWord_fields (hc : v < 2 ^ 32) : bitAt (firedWord v) 8 = false ∧ bitAt (firedWord v) 9 = true
    ∧ bitsAt (firedWord v) 7 0 = bitsAt v 7 0 ∧ firedWord v % 2 ^ 32 = firedWord v := by
  refine ⟨?_, ?_, ?_, ?_⟩
  · simp [firedWord, bitAt_setBit]
  · simp [firedWord, bitAt_setBit]
  · rw [firedWord, bitsAt_setBit _ (by omega), bitsAt_setBit _ (by omega)]
  · exact Nat.mod_eq_of_lt (setBit_lt _ (setBit_lt _ hc (by omega)) (by omega))

/-- From `s` to `t` alarm `n` fired (R235). -/
structure Fires (n : Nat) (s t : State) : Prop where
  one : OneAlarm n s t
  ctrl : almCtrl t n = firedWord (almCtrl s n)
  rest : sameBut [.held, .tally, .ring, .counters] s t

theorem fires_fireAlarm (n : Nat) (s : State) : Fires n s (fireAlarm n s) := by
  have hword : almCtrl (setReg4 (forget n s) (almReg n 8) (firedWord (almCtrl s n))) n = firedWord (almCtrl s n) :=
    (reg4_setReg4 ..).trans (firedWord_fields (almCtrl_lt s n)).2.2.2
  have hone := (OneAlarm.forget n s).trans (.setReg4 n (firedWord (almCtrl s n)) _)
  have hrest : sameBut [.held, .tally] s (setReg4 (forget n s) (almReg n 8) (firedWord (almCtrl s n))) :=
    sameBut_then (setReg4_sameBut _ _ _) (by simp) (sameBut_mono (modTally_sameBut _ s) (by simp))
  rw [fireAlarm_eq]
  split
  · have hrequest := requestVector_sameBut (bitsAt (almCtrl s n) 22 16)
      (setReg4 (forget n s) (almReg n 8) (firedWord (almCtrl s n)))
    exact ⟨hone.trans (.of_sameBut n hrequest), (reg4_congr (hrequest.part .held (by decide)) _).trans hword,
      sameBut_then hrequest (by simp) (sameBut_mono hrest (by simp))⟩
  · exact ⟨hone, hword, sameBut_mono hrest (by simp)⟩

theorem Fires.disarmed (h : Fires n s t) (hn : n < 448) : almArmed t n = false := by
  rw [almArmed_software hn, h.ctrl]
  exact (firedWord_fields (almCtrl_lt s n)).1

theorem Fires.fired (h : Fires n s t) : bitAt (almCtrl t n) 9 = true := by
  rw [h.ctrl]
  exact (firedWord_fields (almCtrl_lt s n)).2.1

theorem Fires.mark (h : Fires n s t) : almMark t n = almMark s n := by
  rw [almMark, almMark, h.ctrl, (firedWord_fields (almCtrl_lt s n)).2.2.1, h.one.pair]

theorem setVector_host (h : t.host = s.host) (v : Nat) (x : Vector) : (setVector t v x).host = (setVector s v x).host := by
  simp only [setVector, modHost_host, h]

theorem sendVector_host (h : t.host = s.host) (hmask : masked t v = masked s v) :
    (sendVector v t).host = (sendVector v s).host := by
  have hvector : vector t v = vector s v := by unfold vector; rw [h]
  unfold sendVector
  simp only [hvector, hmask, h]
  split
  · exact setVector_host h ..
  · split
    · exact setVector_host h ..
    · rw [count_host, count_host]
      exact setVector_host h ..

/-- A vector's request depends on no register of the tally block. -/
theorem requestVector_host (hv : v ≤ 64) (h : t.host = s.host) (hwords : ∀ a, a < tallyBase → reg4 t a = reg4 s a) :
    (requestVector v t).host = (requestVector v s).host := by
  have hvector : vector t v = vector s v := by unfold vector; rw [h]
  have hmod : reg4 t (hostBase + 0x800 + 16 * v) = reg4 s (hostBase + 0x800 + 16 * v) := hwords _ (by
    simp only [hostBase, tallyBase]
    omega)
  have hmask : masked t v = masked s v := congrArg (bitAt · 0) (hwords _ (by
    simp only [hostBase, tallyBase]
    omega))
  have htimer : modTimer t v = modTimer s v := by simp only [modTimer, hmod]
  have hcount : modCount t v = modCount s v := by simp only [modCount, hmod]
  unfold requestVector
  simp only [hvector, htimer, hcount]
  split
  · exact sendVector_host (setVector_host h ..) hmask
  · exact setVector_host h ..

/-- A software alarm that fires asks for its vector where it has one, and leaves the host's side else (R235). -/
theorem fireAlarm_host (n : Nat) (s : State) :
    (bitAt (almCtrl s n) 11 = false ∨ 64 < bitsAt (almCtrl s n) 22 16 → (fireAlarm n s).host = s.host)
    ∧ (bitAt (almCtrl s n) 11 = true → bitsAt (almCtrl s n) 22 16 ≤ 64 →
      (fireAlarm n s).host.vectors = (requestVector (bitsAt (almCtrl s n) 22 16) s).host.vectors) := by
  refine ⟨fun hnone => ?_, fun hirq hvec => ?_⟩
  · rw [fireAlarm_eq, if_neg (by
      rintro ⟨hirq, hvec⟩
      rcases hnone with h | h
      · simp [h] at hirq
      · omega)]
    rfl
  · rw [fireAlarm_eq, if_pos ⟨hirq, hvec⟩]
    refine congrArg HostSt.vectors (requestVector_host hvec rfl fun a ha => reg4_setReg4_other (forget n s) _ ?_)
    simp only [almReg]
    omega

/-! ### Writes of software -/

/-- ALM_CTRL, from `c`, by a write of `v` that arms; `passed` is whether the tally bus has passed the mark (R233). -/
def armWord (c v : Nat) (passed : Bool) : Nat :=
  almWord (v % 256) true (bitAt c 9 && !bitAt v 9) ((bitAt c 10 && !bitAt v 10) || passed) (bitAt v 11) (bitsAt v 22 16)

/-- ALM_CTRL, from `c`, by a write of `v` that disarms (R234). -/
def disarmWord (c v : Nat) : Nat :=
  almWord (c % 256) false (bitAt c 9 && !bitAt v 9) (bitAt c 10 && !bitAt v 10) (bitAt v 11) (bitsAt v 22 16)

theorem armWord_fields (c v : Nat) (passed : Bool) : AlmFields (armWord c v passed) (v % 256) true
    (bitAt c 9 && !bitAt v 9) ((bitAt c 10 && !bitAt v 10) || passed) (bitAt v 11) (bitsAt v 22 16) :=
  almFields_almWord (Nat.mod_lt _ (by decide)) (Nat.mod_lt _ (by decide)) ..

theorem disarmWord_fields (c v : Nat) : AlmFields (disarmWord c v) (c % 256) false
    (bitAt c 9 && !bitAt v 9) (bitAt c 10 && !bitAt v 10) (bitAt v 11) (bitsAt v 22 16) :=
  almFields_almWord (Nat.mod_lt _ (by decide)) (Nat.mod_lt _ (by decide)) ..

/-- The word of an alarm that was written reads back, field by field. -/
theorem AlmFields.read {w frac vec : Nat} {arm fired late irq : Bool} (h : AlmFields w frac arm fired late irq vec)
    (n : Nat) (s : State) : AlmFields (almCtrl (setReg4 s (almReg n 8) w) n) frac arm fired late irq vec := by
  rw [almCtrl, reg4_setReg4, h.word]
  exact h

/-- The write that arms an alarm which is not armed. -/
theorem writeAlmCtrl_arms (hn : n < 448) (hidle : almArmed s n = false) : writeAlmCtrl n (setBit v 8 true) s
    = setReg4 s (almReg n 8) (armWord (almCtrl s n) v (passed s ⟨(almMark s n).pair, v % 256⟩)) := by
  have hwas : bitAt (almCtrl s n) 8 = false := almArmed_software hn s ▸ hidle
  have hfrac : setBit v 8 true % 256 = v % 256 := bitsAt_setBit (hi := 7) (lo := 0) true (by omega)
  unfold writeAlmCtrl
  rw [if_neg (by omega)]
  simp only [hwas, hfrac, bitAt_setBit, bitsAt_setBit (v := v) (i := 8) (hi := 22) (lo := 16) true (by omega), almMark,
    almPair_software hn, if_true, Bool.not_true, Bool.not_false, Bool.false_and, Bool.true_and, Bool.false_eq_true, if_false,
    Nat.reduceEqDiff, armWord, almWord]

/-- The write that disarms an armed alarm; one that is due fires. -/
theorem writeAlmCtrl_disarms (hn : n < 448) (harmed : almArmed s n = true) : writeAlmCtrl n (setBit v 8 false) s =
    let t := setReg4 (forget n s) (almReg n 8) (disarmWord (almCtrl s n) v)
    if almFires s n then fireAlarm n t else t := by
  have hwas : bitAt (almCtrl s n) 8 = true := almArmed_software hn s ▸ harmed
  unfold writeAlmCtrl
  rw [if_neg (by omega)]
  simp only [hwas, bitAt_setBit, bitsAt_setBit (v := v) (i := 8) (hi := 22) (lo := 16) false (by omega), if_true,
    Bool.not_false, Bool.false_and, Bool.true_and, Bool.or_false, Bool.false_eq_true, if_false, Nat.reduceEqDiff,
    disarmWord, almWord]

theorem exec_almArm (hn : n < 512) : exec (.almArm n v) s
    = .next (if hostBlock s then writeAlmCtrl n (setBit v 8 true) s else s) := if_pos (decide_eq_true hn)

theorem exec_almDisarm (hn : n < 512) : exec (.almDisarm n v) s
    = .next (if hostBlock s then writeAlmCtrl n (setBit v 8 false) s else s) := if_pos (decide_eq_true hn)

/-- Alarms of hardware take no write of software (R234). -/
theorem writeAlmCtrl_hardware (hn : 448 ≤ n) (v : Nat) (s : State) : writeAlmCtrl n v s = s := if_pos hn

/-! ### The alarm that fires next -/

theorem almFires_of_turn (h : almTurn s n = true) : almFires s n = true := by
  simp only [almTurn, Bool.and_eq_true, decide_eq_true_eq] at h
  have hdue : n ∈ dueAlarms s := List.mem_of_mem_head? h.1
  exact (List.mem_filter.mp (List.mem_mergeSort.mp hdue)).2

theorem exec_alarmFire_software (hn : n < 448) (hturn : almTurn s n = true) :
    exec (.alarmFire n) s = .next (fireAlarm n s) := by
  have hfire : alarmFire n s = fireAlarm n s := by
    unfold alarmFire fire
    rw [if_pos ⟨by simp [firesHere, hn], hturn⟩, if_neg (by omega), if_neg (by omega), if_neg (by omega)]
  exact (if_pos (decide_eq_true (by omega))).trans (congrArg Host.Outcome.next hfire)

theorem exec_alarmFire_still (hn : n < 512) (h : almFires s n = false) : exec (.alarmFire n) s = .next s := by
  have hstill : alarmFire n s = s := if_neg fun hfire => by simp [almFires_of_turn hfire.2] at h
  exact (if_pos (decide_eq_true hn)).trans (congrArg Host.Outcome.next hstill)

end

/-- Settles O33: a write of software makes the alarm's word, whose fields read back, and an alarm that fires is disarmed. -/
theorem alarms : Obligations.Alarms := by
  unfold Obligations.Alarms
  intro s n v hn
  refine ⟨fun hsoft hup hidle => ?_, fun hsoft hup harmed => ?_, fun hhard => ?_, fun hsoft hturn => ?_, fun hdue => ?_,
    fun hlost hforming => ?_⟩
  · have hfields := (armWord_fields (almCtrl s n) v (passed s ⟨(almMark s n).pair, v % 256⟩)).read n s
    have hone := OneAlarm.setReg4 n (armWord (almCtrl s n) v (passed s ⟨(almMark s n).pair, v % 256⟩)) s
    refine ⟨_, exec_almArm hn, ?_⟩
    rw [if_pos hup, writeAlmCtrl_arms hsoft hidle]
    exact ⟨(almArmed_software hsoft _).trans hfields.arm, congrArg₂ Stamp.mk (hone.pair n) hfields.frac, hfields.vec,
      hfields.irq, hfields.late, hone.others, setReg4_sameBut _ _ s⟩
  · have hfields := (disarmWord_fields (almCtrl s n) v).read n (forget n s)
    have hone := (OneAlarm.forget n s).trans (.setReg4 n (disarmWord (almCtrl s n) v) _)
    have hrest : sameBut [.held, .tally] s (setReg4 (forget n s) (almReg n 8) (disarmWord (almCtrl s n) v)) :=
      sameBut_then (setReg4_sameBut _ _ _) (by simp) (sameBut_mono (modTally_sameBut _ s) (by simp))
    have hexec := exec_almDisarm (s := s) (v := v) hn
    rw [if_pos hup, writeAlmCtrl_disarms hsoft harmed] at hexec
    generalize setReg4 (forget n s) (almReg n 8) (disarmWord (almCtrl s n) v) = u at *
    have hmark : almMark u n = almMark s n := congrArg₂ Stamp.mk (hone.pair n) hfields.frac
    refine ⟨_, hexec, ?_⟩
    dsimp only
    split
    next hfires =>
      have hfired := fires_fireAlarm n u
      exact ⟨hfired.disarmed hsoft, hfired.mark.trans hmark, (hone.trans hfired.one).others,
        fun _ => ⟨hfired.fired, sameBut_then hfired.rest (by simp) (sameBut_mono hrest (by simp))⟩,
        fun hnot => absurd hfires (by simp [hnot])⟩
    next hfires =>
      exact ⟨(almArmed_software hsoft u).trans hfields.arm, hmark, hone.others, fun hdue => absurd hdue hfires,
        fun _ => ⟨hfields.fired, hrest⟩⟩
  · rw [exec_almArm hn, exec_almDisarm hn, writeAlmCtrl_hardware hhard, writeAlmCtrl_hardware hhard, ite_self]
    exact ⟨rfl, rfl⟩
  · have hfires := fires_fireAlarm n s
    obtain ⟨hsilent, hvector⟩ := fireAlarm_host n s
    exact ⟨_, exec_alarmFire_software hsoft hturn, hfires.disarmed hsoft, hfires.fired, hfires.mark,
      fun k hk hkn => (hfires.one.others k hk hkn).1, hfires.rest, hsilent, hvector⟩
  · exact exec_alarmFire_still hn (by simp [almFires, hdue])
  · exact exec_alarmFire_still hn (by simp [almFires, marksFire, hlost, hforming])

end Sys2Proof.Machine
end

section
/-! The PCIe link and HOST_PERST_N (R242, R273, R402): each command is one change of the host block, and of ready. -/

namespace Sys2Proof.Machine

section
variable {s : State} {rate width : Nat}

/-- HOST_PERST_N rises: start-up decides on ready (Table 16.8). -/
theorem perst_rises (h : s.host.perstLow = true) :
    perst true s = setReady (started s) (modHost s (fun h => { h with perstLow := false })) := if_pos h

theorem linkKind_of (hlow : 1 ≤ rate) (hhigh : rate ≤ 4) (hwidth : width = 4 ∨ width = 8 ∨ width = 16) :
    linkKind rate width = true := by
  simp [linkKind, hlow, hhigh, hwidth]

theorem linkUp_trains (hmain : s.power.main = true) (hperst : s.host.perstLow = false) (hkind : linkKind rate width = true) :
    linkUp rate width s
      = modHost s (fun h => { h with linkUp := true, rate := rate, width := width, flit := decide (rate = 4) }) :=
  if_neg (by simp [hmain, hperst, hkind])

theorem linkDown_drops (h : s.host.linkUp = true) :
    linkDown s = setReady false (modHost (dropLink s) (fun h => { h with needReset := true })) := if_neg (by simp [h])

end

/-- Settles O14: a rise, a training and a loss of the link, each in the state that lets it act. -/
theorem hostLink : Obligations.HostLink := by
  unfold Obligations.HostLink
  intro s rate width
  refine ⟨fun hlow => ?_, fun hmain hperst hlow hhigh hwidth => ?_, fun hup => ?_⟩
  · exact congrArg Host.Outcome.next (perst_rises hlow)
  · exact congrArg Host.Outcome.next (linkUp_trains hmain hperst (linkKind_of hlow hhigh hwidth))
  · exact congrArg Host.Outcome.next (linkDown_drops hup)

end Sys2Proof.Machine
end

section
/-! Doorbells (R243, R250, R251, R268): what a write makes of the counts of its stream, and that the other streams stand. -/

namespace Sys2Proof.Machine

section
variable {s t : State} {i v : Nat} {x : Stream}

/-- From `s` to `t` stream `i` became `x`, and nothing else moved but what a command of streams settles and counts. -/
structure Rung (i : Nat) (x : Stream) (s t : State) : Prop where
  self : stream t i = x
  others : ∀ j, j ≠ i → stream t j = stream s j
  rest : sameBut (.streams :: settleParts) s t

/-- The stream once its produced count is `v`: an IDLE one is ACTIVE again. -/
def woken (v : Nat) (x : Stream) : Stream :=
  { x with produced := v, state := if x.state = .idle then .active else x.state }

namespace Rung

theorem refl (i : Nat) (s : State) : Rung i (stream s i) s s := ⟨rfl, fun _ _ => rfl, sameBut_refl _ s⟩

theorem modStream (h : Rung i x s t) (f : Stream → Stream) : Rung i (f x) s (modStream t i f) where
  self := by rw [stream_modStream, h.self]
  others j hj := (stream_modStream_other _ _ hj).trans (h.others j hj)
  rest := sameBut_then (modStream_sameBut ..) (by decide) h.rest

/-- A change of counters and of what is settled leaves the streams. -/
theorem counted {u : State} (h : Rung i x s t) (k : sameBut settleParts t u) : Rung i x s u where
  self := (stream_congr (k.part .streams (by decide)) i).trans h.self
  others j hj := (stream_congr (k.part .streams (by decide)) j).trans (h.others j hj)
  rest := sameBut_then k (by decide) h.rest

theorem count (h : Rung i x s t) (a n : Nat) : Rung i x s (count a n t) :=
  h.counted (sameBut_mono (count_sameBut ..) (by decide))

theorem settle (h : Rung i x s t) (old : State) : Rung i x s (settle old t) := h.counted (settle_sameBut ..)

theorem reached {c : Instr} (h : Rung i x s t) (hexec : exec c s = .next t) : ∃ t, exec c s = .next t ∧ stream t i = x
    ∧ (∀ j, j ≠ i → stream t j = stream s j) ∧ sameBut (.streams :: settleParts) s t :=
  ⟨t, hexec, h.self, h.others, h.rest⟩

/-- A count that runs back, or that names more descriptors than the ring holds, is a doorbell error (Table 10.7). -/
theorem sqDoorbell_refused (h : Rung i x s t) (hdisabled : x.state ≠ .disabled) (haborted : x.state ≠ .aborted)
    (hbad : 2 ^ 31 ≤ sub32 v x.produced ∨ sqSize t i < sub32 v x.taken) :
    Rung i { x with dbErr := true } s (sqDoorbell i v t) := by
  obtain rfl := h.self
  have herror : sqDoorbell i v t = dbError i t := (if_neg (by tauto)).trans (if_pos hbad)
  rw [herror]
  exact (h.modStream fun x => { x with dbErr := true }).count ..

/-- Another count becomes the produced count; it is held while slots that it names are busy (Table 10.7, R251). -/
theorem sqDoorbell_accepted (h : Rung i x s t) (hdisabled : x.state ≠ .disabled) (haborted : x.state ≠ .aborted)
    (hnew : v ≠ x.produced) (hforward : sub32 v x.produced < 2 ^ 31) (hfits : sub32 v x.taken ≤ sqSize t i) :
    Rung i { woken v x with heldTo := if sqSize t i < sub32 v x.retired then some v else x.heldTo } s
      (sqDoorbell i v t) := by
  obtain rfl := h.self
  have hwoken := h.modStream (woken v)
  have hdoorbell : sqDoorbell i v t = if sqSize t i < sub32 v (stream t i).retired then
      Machine.count (ringReg i 0x18) 1
        (Machine.modStream (Machine.modStream t i (woken v)) i fun y => { y with heldTo := some v })
      else Machine.modStream t i (woken v) :=
    (if_neg (by tauto)).trans ((if_neg (by omega)).trans (if_neg hnew))
  rw [hdoorbell]
  by_cases hbusy : sqSize t i < sub32 v (stream t i).retired
  · rw [if_pos hbusy, if_pos hbusy]
    exact (hwoken.modStream fun y => { y with heldTo := some v }).count ..
  · rw [if_neg hbusy, if_neg hbusy]
    exact hwoken

end Rung

theorem exec_sqDb (hi : i < 64) (hv : v < 2 ^ 32) (hready : hostReady s = true) : exec (.sqDb i v) s
    = .next (settle s (sqDoorbell i v (modStream s i (fun x => { x with sqDb := v })))) := by
  have hwrite : writeSqDb i v s
      = settle s (sqDoorbell i (v % 2 ^ 32) (modStream s i (fun x => { x with sqDb := v % 2 ^ 32 }))) := if_neg (by simp [hready])
  rw [Nat.mod_eq_of_lt hv] at hwrite
  exact (if_pos (decide_eq_true hi)).trans (congrArg Host.Outcome.next hwrite)

/-- Stream `i` after a write of CQ_DB: full stands only where the completion ring is full still (R265). -/
def cqRung (i v : Nat) (s : State) : State :=
  let t := modStream s i (fun x => { x with cqDb := v, cqConsumed := v })
  modStream t i (fun x => { x with full := x.full && cqFull t i })

theorem exec_cqDb (hi : i < 64) (hv : v < 2 ^ 32) (hready : hostReady s = true) :
    exec (.cqDb i v) s = .next (cqRung i v s) := by
  have hwrite : writeCqDb i v s = cqRung i (v % 2 ^ 32) s := if_neg (by simp [hready])
  rw [Nat.mod_eq_of_lt hv] at hwrite
  exact (if_pos (decide_eq_true hi)).trans (congrArg Host.Outcome.next hwrite)

theorem cqRung_leaves (i v : Nat) (s : State) : (stream (cqRung i v s) i).cqDb = v
    ∧ (stream (cqRung i v s) i).cqConsumed = v ∧ (stream (cqRung i v s) i).window = (stream s i).window
    ∧ (∀ j, j ≠ i → stream (cqRung i v s) j = stream s j) ∧ sameBut [.streams] s (cqRung i v s) := by
  unfold cqRung
  simp only [stream_modStream, true_and]
  exact ⟨fun j hj => by rw [stream_modStream_other _ _ hj, stream_modStream_other _ _ hj],
    sameBut_trans (modStream_sameBut ..) (modStream_sameBut ..)⟩

theorem exec_eqDb (hv : v < 2 ^ 32) (hready : hostReady s = true) :
    exec (.eqDb v) s = .next { s with host := { s.host with eqDb := v, eqConsumed := v } } := by
  have hwrite : writeEqDb v s = modHost s (fun h => { h with eqDb := v % 2 ^ 32, eqConsumed := v % 2 ^ 32 }) :=
    if_neg (by simp [hready])
  rw [Nat.mod_eq_of_lt hv] at hwrite
  exact congrArg Host.Outcome.next hwrite

end

/-- Settles O18: the register keeps what was written first; the checks of Table 10.7 then say whether the counts follow. -/
theorem doorbells : Obligations.Doorbells := by
  unfold Obligations.Doorbells
  intro s i v hi hv hready
  have hkept := (Rung.refl i s).modStream (fun x => { x with sqDb := v })
  refine ⟨fun hdisabled haborted hnew => ⟨fun hforward hfits => ?_, fun hbad => ?_⟩,
    ⟨_, exec_cqDb hi hv hready, cqRung_leaves i v s⟩, exec_eqDb hv hready⟩
  · exact ((hkept.sqDoorbell_accepted hdisabled haborted hnew hforward hfits).settle s).reached (exec_sqDb hi hv hready)
  · exact ((hkept.sqDoorbell_refused hdisabled haborted hbad).settle s).reached (exec_sqDb hi hv hready)

end Sys2Proof.Machine
end

section
/-! MSI-X vectors (R270, R271): a vector sends, or holds its message in its PBA bit while it is masked. -/

namespace Sys2Proof.Machine

section
variable {s t : State} {v w : Nat} {x : Vector}

/-- From `s` to `t` vector `v` became `x`, and nothing else moved but register words. -/
structure Vectored (v : Nat) (x : Vector) (s t : State) : Prop where
  self : vector t v = x
  others : ∀ k, k ≠ v → vector t k = vector s k
  produced : t.host.eqProduced = s.host.eqProduced
  rest : sameBut [.ring, .held] s t

/-- The state with the mask bit of vector `v` cleared. -/
def maskCleared (v : Nat) (s : State) : State :=
  setReg4 s (hostBase + 0x8000 + 16 * v + 12) (reg4 s (hostBase + 0x8000 + 16 * v + 12) / 2 * 2)

theorem masked_maskCleared (v : Nat) (s : State) : masked (maskCleared v s) v = false := by
  have heven : ((reg4 s (hostBase + 0x8000 + 16 * v + 12) / 2 * 2) % 2 ^ 32) % 2 = 0 := by omega
  rw [masked, maskCleared, reg4_setReg4, bitAt, Nat.testBit_zero, heven]
  rfl

namespace Vectored

theorem refl (v : Nat) (s : State) : Vectored v (vector s v) s s := ⟨rfl, fun _ _ => rfl, rfl, sameBut_refl _ s⟩

theorem maskCleared (h : Vectored v x s t) : Vectored v x s (maskCleared v t) :=
  ⟨h.self, h.others, h.produced, sameBut_then (setReg4_sameBut ..) (by decide) h.rest⟩

theorem setVector (h : Vectored v x s t) (y : Vector) : Vectored v y s (setVector t v y) where
  self := vector_setVector ..
  others k hk := (vector_setVector_other _ _ hk).trans (h.others k hk)
  produced := h.produced
  rest := sameBut_then (setVector_sameBut ..) (by decide) h.rest

theorem linkUp (h : Vectored v x s t) : t.host.linkUp = s.host.linkUp := by
  obtain ⟨-, -, -, -, -, hlink, -⟩ := h.rest.part .hostLink (by decide)
  exact hlink

theorem reached {c : Instr} (h : Vectored v x s t) (hexec : exec c s = .next t) : ∃ t, exec c s = .next t ∧ vector t v = x
    ∧ (∀ k, k ≠ v → vector t k = vector s k) ∧ t.host.eqProduced = s.host.eqProduced ∧ t.host.streams = s.host.streams
    ∧ sameBut [.ring, .held] s t :=
  ⟨t, hexec, h.self, h.others, h.produced, h.rest.part .streams (by decide), h.rest⟩

/-- With the link up an unmasked vector sends one message. -/
theorem sent (h : Vectored v x s t) (hlink : s.host.linkUp = true) (hmask : masked t v = false) :
    Vectored v { x with pending := 0, timing := false, sent := x.sent + 1 } s (sendVector v t) := by
  obtain rfl := h.self
  have hsend : sendVector v t = Machine.setVector t v
      { vector t v with pending := 0, timing := false, sent := (vector t v).sent + 1 } :=
    (if_neg (by simp [hmask])).trans (if_pos (h.linkUp.trans hlink))
  rw [hsend]
  exact h.setVector _

/-- A masked vector holds its message in its PBA bit. -/
theorem held (h : Vectored v x s t) (hmask : masked t v = true) :
    Vectored v { x with pending := 0, timing := false, pba := true } s (sendVector v t) := by
  obtain rfl := h.self
  have hsend : sendVector v t = Machine.setVector t v { vector t v with pending := 0, timing := false, pba := true } :=
    if_pos hmask
  rw [hsend]
  exact h.setVector _

end Vectored

theorem exec_msixModTimer (hv : v ≤ 64) (hpending : 0 < (vector s v).pending) (htiming : (vector s v).timing = true) :
    exec (.msixModTimer v) s = .next (sendVector v s) :=
  (if_pos (decide_eq_true hv)).trans (congrArg Host.Outcome.next (if_pos ⟨hpending, htiming⟩))

theorem exec_msixUnmask (hv : v ≤ 64) (hup : hostBlock s = true) (hpba : (vector s v).pba = true) : exec (.msixUnmask v) s
    = .next (sendVector v (setVector (maskCleared v s) v { vector s v with pba := false })) :=
  (if_pos (decide_eq_true hv)).trans (congrArg Host.Outcome.next ((if_pos hup).trans (if_pos hpba)))

/-- With no moderation timer a request sends at once. -/
theorem requestVector_untimed (h : modTimer s v = 0) : requestVector v s
    = sendVector v (setVector s v { vector s v with pending := (vector s v).pending + 1, timing := true }) := if_pos (.inl h)

theorem exec_glbIrqTest (hv : bitsAt w 6 0 ≤ 64) (hup : hostBlock s = true) (hgo : bitAt w 31 = true) :
    exec (.glbIrqTest w) s = .next (requestVector (bitsAt w 6 0) s) :=
  congrArg Host.Outcome.next ((if_pos hup).trans (if_pos ⟨hgo, hv⟩))

/-- A mask bit is a held bit: no message moves it. -/
theorem masked_congr (h : t.reg.held = s.reg.held) : masked t v = masked s v := congrArg (bitAt · 0) (reg4_congr h _)

theorem sendVector_held (v : Nat) (s : State) : (sendVector v s).reg.held = s.reg.held :=
  (sendVector_sameBut v s).part .held (by decide)

end

/-- Settles O19: each command reaches one message of its vector, which the mask bit sends or holds. -/
theorem interruptVectors : Obligations.InterruptVectors := by
  unfold Obligations.InterruptVectors
  intro s v w hv hlink
  have hstart := Vectored.refl v s
  refine ⟨fun hpending htiming => ⟨fun hmask => ?_, fun hmask => ?_⟩, fun hup hpba => ⟨?_, ?_⟩,
    fun hup hgo hnum htimer hmask => ?_⟩
  · exact (hstart.sent hlink hmask).reached (exec_msixModTimer hv hpending htiming)
  · exact (hstart.held hmask).reached (exec_msixModTimer hv hpending htiming)
  · have hcleared := hstart.maskCleared.setVector { vector s v with pba := false }
    exact (hcleared.sent hlink (masked_maskCleared v s)).reached (exec_msixUnmask hv hup hpba)
  · exact ⟨_, exec_msixUnmask hv hup hpba, (masked_congr (sendVector_held ..)).trans (masked_maskCleared v s)⟩
  · subst hnum
    have hasked := hstart.setVector { vector s (bitsAt w 6 0) with
      pending := (vector s (bitsAt w 6 0)).pending + 1, timing := true }
    have hexec := exec_glbIrqTest hv hup hgo
    rw [requestVector_untimed htimer] at hexec
    exact (hasked.sent hlink hmask).reached hexec

end Sys2Proof.Machine
end

section
/-! One port: what the operations on its lanes, its spare and its buffers make of it, and that nothing else moves (R274, R285 to
R288, R333, R334). -/

namespace Sys2Proof.Machine

section
variable {l m : List Part} {p n k u : Nat} {x y : Port} {s t v : State}

/-! ### The port that a command moves -/

/-- From `s` to `t` port `p` became `x`, and nothing else moved but the parts listed. -/
structure OnePort (p : Nat) (l : List Part) (x : Port) (s t : State) : Prop where
  self : port t p = x
  others : ∀ q, q ≠ p → port t q = port s q
  rest : sameBut (.ports :: l) s t

/-- A command moves port `p`, to one of which `f` holds, and nothing else but the parts listed: what the obligations say of it. -/
def Moves (s : State) (p : Nat) (c : Instr) (l : List Part) (f : Port → Prop) : Prop :=
  ∃ t, exec c s = .next t ∧ f (port t p) ∧ (∀ q, q ≠ p → port t q = port s q) ∧ sameBut (.ports :: l) s t

namespace OnePort

theorem refl (p : Nat) (l : List Part) (s : State) : OnePort p l (port s p) s s := ⟨rfl, fun _ _ => rfl, sameBut_refl _ s⟩

theorem set (h : OnePort p l x s t) (y : Port) : OnePort p l y s (setPort t p y) where
  self := port_setPort ..
  others q hq := (port_setPort_other t y hq).trans (h.others q hq)
  rest := sameBut_trans h.rest ⟨rfl, fun a ha => by cases a <;> simp_all [Part.same, setPort]⟩

theorem mod (h : OnePort p l x s t) (f : Port → Port) : OnePort p l (f x) s (modPort t p f) := by
  obtain rfl := h.self
  exact h.set _

/-- Another change of other parts than the ports. -/
theorem also (h : OnePort p l x s t) (k : sameBut m t v) (hm : ∀ a ∈ m, a ∈ l) (hports : .ports ∉ m := by decide) :
    OnePort p l x s v := by
  have hkept : v.ports = t.ports := k.part .ports hports
  have hport (q : Nat) : port v q = port t q := by rw [port, port, hkept]
  exact ⟨(hport p).trans h.self, fun q hq => (hport q).trans (h.others q hq),
    sameBut_then k (fun a ha => List.mem_cons_of_mem _ (hm a ha)) h.rest⟩

theorem trans (h : OnePort p l x s t) (k : OnePort p l y t v) : OnePort p l y s v :=
  ⟨k.self, fun q hq => (k.others q hq).trans (h.others q hq), sameBut_trans h.rest k.rest⟩

theorem mono (h : OnePort p l x s t) (hl : ∀ a ∈ l, a ∈ m) : OnePort p m x s t :=
  ⟨h.self, h.others, sameBut_mono h.rest fun a ha => by
    rcases List.mem_cons.mp ha with rfl | ha
    · exact List.mem_cons_self
    · exact List.mem_cons_of_mem _ (hl a ha)⟩

theorem part (h : OnePort p l x s t) (a : Part) (ha : a ∉ Part.ports :: l) : a.same s t := h.rest.part a ha

theorem clean (h : OnePort p l x s t) (hc : cleanMem s) (hmem : .mem ∉ Part.ports :: l := by decide) : cleanMem t :=
  cleanMem_congr (h.part .mem hmem) hc

theorem reached {c : Instr} {f : Port → Prop} (h : OnePort p l x s t) (hexec : exec c s = .next t) (hf : f x) :
    Moves s p c l f := ⟨t, hexec, h.self ▸ hf, h.others, h.rest⟩

theorem ite {c : Prop} [Decidable c] (ht : OnePort p l x s t) (hv : OnePort p l y s v) :
    OnePort p l (if c then x else y) s (if c then t else v) := by
  split
  · exact ht
  · exact hv

end OnePort

theorem count_ctr (a n : Nat) (s : State) : (count a n s).reg.ctr = if n = 0 ∨ ctr s a = max32 then s.reg.ctr
    else if ctr s a + n < max32 then sset 0 s.reg.ctr a (ctr s a + n) else sset 0 s.reg.ctr a max32 := by
  unfold count
  dsimp only
  split
  · rfl
  · split <;> rfl

/-- What a count makes of the counters depends on them alone. -/
theorem count_ctr_congr (h : t.reg.ctr = s.reg.ctr) (a n : Nat) : (count a n t).reg.ctr = (count a n s).reg.ctr := by
  rw [count_ctr, count_ctr, ctr, ctr, h]

/-! ### Lanes -/

/-- A port one of whose lanes is changed. -/
def onLane (n : Nat) (f : Lane → Lane) (x : Port) : Port := { x with lanes := smod (Lane.at_ n) x.lanes n f }

theorem OnePort.atLane (h : OnePort p l x s t) (n : Nat) (f : Lane → Lane) : OnePort p l (onLane n f x) s (modLane p n f t) :=
  h.mod (onLane n f)

@[simp] theorem lane_onLane (n : Nat) (f : Lane → Lane) (x : Port) : lane (onLane n f x) n = f (lane x n) := sget_sset_same ..

theorem lane_onLane_other (f : Lane → Lane) (x : Port) (h : k ≠ n) : lane (onLane n f x) k = lane x k :=
  sget_sset_other _ _ _ _ h

theorem lane_onLane_eq (n k : Nat) (f : Lane → Lane) (x : Port) :
    lane (onLane n f x) k = if k = n then f (lane x k) else lane x k := by
  split
  next h => rw [h, lane_onLane]
  next h => exact lane_onLane_other f x h

theorem lane_congr (h : y.lanes = x.lanes) (n : Nat) : lane y n = lane x n := by rw [lane, lane, h]

theorem mem_portLanes {f : Lane → Bool} : n ∈ portLanes f x ↔ n < 9 ∧ f (lane x n) = true := by simp [portLanes]

theorem portLanes_congr {f : Lane → Bool} (h : ∀ m, m < 9 → f (lane y m) = f (lane x m)) : portLanes f y = portLanes f x :=
  List.filter_congr fun m hm => h m (List.mem_range.mp hm)

theorem spareOf_some (h : spareOf x = some k) : k < 9 ∧ (lane x k).role = roleSpare := by
  simpa using mem_portLanes.mp (List.mem_of_mem_head? h)

theorem txSpareOf_some (h : txSpareOf x = some k) : k < 9 ∧ (lane x k).txRole = roleSpare := by
  simpa using mem_portLanes.mp (List.mem_of_mem_head? h)

/-- The spare stays the spare while other lanes change to other roles. -/
theorem spareOf_onLane {f : Lane → Lane} (hold : (lane x n).role ≠ roleSpare) (hnew : (f (lane x n)).role ≠ roleSpare) :
    spareOf (onLane n f x) = spareOf x := by
  refine congrArg List.head? (portLanes_congr fun m _ => ?_)
  rw [lane_onLane_eq]
  split
  next h => subst h; simp [hold, hnew]
  next => rfl

theorem txSpareOf_onLane {f : Lane → Lane} (hold : (lane x n).txRole ≠ roleSpare) (hnew : (f (lane x n)).txRole ≠ roleSpare) :
    txSpareOf (onLane n f x) = txSpareOf x := by
  refine congrArg List.head? (portLanes_congr fun m _ => ?_)
  rw [lane_onLane_eq]
  split
  next h => subst h; simp [hold, hnew]
  next => rfl

/-! ### LCTRL messages, events and the ledger -/

/-- The flit of an LCTRL message. -/
def lctrlFlit (s : State) (code n : Nat) : Flit :=
  ⟨2, 0, false, 0, 0, false, 0, 0, logicalNode s, 0, 2, 0, 0, 0, .lctrl code n, openBytes 10 [code, n] 2⟩

/-- A flit waits behind the LCTRL flits and before the rest (log 65). -/
def behindLctrl (f : Flit) (x : Port) : Port :=
  { x with moved := x.moved.takeWhile (fun g => g.kind == 2) ++ [f] ++ x.moved.dropWhile (fun g => g.kind == 2) }

theorem OnePort.lctrl (h : OnePort p l x s t) (code n : Nat) :
    OnePort p l (behindLctrl (lctrlFlit t code n) x) s (sendLctrl p code n t) := h.mod (behindLctrl (lctrlFlit t code n))

theorem mem_moved_behindLctrl {f g : Flit} : g ∈ (behindLctrl f x).moved ↔ g = f ∨ g ∈ x.moved := by
  have hsplit := List.takeWhile_append_dropWhile (p := fun g => g.kind == 2) (l := x.moved)
  have hmem : g ∈ x.moved ↔ g ∈ x.moved.takeWhile (fun g => g.kind == 2) ∨ g ∈ x.moved.dropWhile (fun g => g.kind == 2) := by
    rw [← List.mem_append, hsplit]
  simp only [behindLctrl, List.mem_append, List.mem_singleton, hmem]
  tauto

/-- PORT_STAT.spare_in_use of a port, from its lanes. -/
def spareNoted (x : Port) : Port := { x with spareInUse := spareCarries x }

theorem OnePort.noted (h : OnePort p l x s t) : OnePort p l (spareNoted x) s (noteSpare p t) := h.mod spareNoted

theorem modSafe_sameBut (f : SafeSt → SafeSt) (s : State) : sameBut [.safe] s (modSafe s f) :=
  ⟨rfl, fun a ha => by cases a <;> simp_all [Part.same]⟩

/-- A reason for replacement is noted in the ledger, with its event (R367). -/
theorem replaceReq_sameBut (b : Nat) (s : State) : sameBut (.safe :: eventParts) s (replaceReq b s) := by
  unfold replaceReq
  refine sameBut_ite (sameBut_refl _ s) ?_
  exact sameBut_then (raiseEv_sameBut ..) (by decide) (sameBut_mono (modSafe_sameBut _ s) (by decide))

theorem replaceReq_ledgerPorts (b : Nat) (s : State) : (replaceReq b s).safe.ledger.ports = s.safe.ledger.ports := by
  unfold replaceReq
  split
  · rfl
  · exact congrArg (·.ledger.ports) ((raiseEv_sameBut _ _).part .safe (by decide))

theorem recordPort_sameBut (p : Nat) (s : State) : sameBut (.safe :: eventParts) s (recordPort p s) := by
  have hnoted : sameBut (.safe :: eventParts) s
      (modSafe s (fun x => { x with ledger := { x.ledger with ports := (x.ledger.ports ++ [p]).dedup } })) :=
    sameBut_mono (modSafe_sameBut _ s) (by decide)
  exact sameBut_ite (sameBut_trans hnoted (replaceReq_sameBut 1 _)) hnoted

/-- The ledger keeps the port (R287). -/
theorem mem_ledger_recordPort (p : Nat) (s : State) : p ∈ (recordPort p s).safe.ledger.ports := by
  unfold recordPort
  dsimp only
  split
  · rw [replaceReq_ledgerPorts]
    simp
  · simp

/-! ### The spare takes a lane's place -/

theorem OnePort.event (h : OnePort p l x s t) (n : Nat) (hl : ∀ a ∈ eventParts, a ∈ l) : OnePort p l x s (laneEvent p n t) :=
  h.also (raiseEv_sameBut ..) hl

theorem OnePort.record (h : OnePort p l x s t) (hl : ∀ a ∈ Part.safe :: eventParts, a ∈ l) : OnePort p l x s (recordPort p t) :=
  h.also (recordPort_sameBut ..) hl

/-- The spare covers a failed lane, in the receive or in the send direction. -/
def covered (x : Port) : Port := spareNoted { x with spareFault := true }
def txCovered (x : Port) : Port := spareNoted { x with txFault := true }

theorem OnePort.covered (h : OnePort p l x s t) (hl : ∀ a ∈ Part.safe :: eventParts, a ∈ l) :
    OnePort p l (covered x) s (coverFault p t) :=
  ((h.mod fun x => { x with spareFault := true }).record hl).noted

theorem OnePort.txCovered (h : OnePort p l x s t) (hl : ∀ a ∈ Part.safe :: eventParts, a ∈ l) :
    OnePort p l (txCovered x) s (coverTx p t) :=
  ((h.mod fun x => { x with txFault := true }).record hl).noted

/-- A port whose Peppermill is changed on one lane. -/
def onPm (k : Nat) (f : Pm → Pm) (x : Port) : Port := { x with pm := smod Pm.empty x.pm k f }

/-- Peppermill gives lane `k` back where it owns it (R431). -/
def yielded (k : Nat) (x : Port) : Port :=
  if (pmOf x k).owned then onPm k (fun y => { y with owned := false, locked := false, preempted := true }) x else x

theorem OnePort.yielded (h : OnePort p l x s t) (k : Nat) (hl : ∀ a ∈ [Part.held], a ∈ l) :
    OnePort p l (yielded k x) s (preempt p k t) := by
  obtain rfl := h.self
  unfold Machine.yielded preempt
  by_cases howned : (pmOf (port t p) k).owned
  · rw [if_pos howned, if_pos howned]
    exact (h.mod (onPm k _)).also (setReg4_sameBut ..) hl
  · rw [if_neg howned, if_neg howned]
    exact h

theorem pm_yielded (k : Nat) (x : Port) : (pmOf (yielded k x) k).owned = false := by
  unfold yielded
  split
  · simp [pmOf, onPm, smod, sget_sset_same]
  next h => simpa using h

theorem lanes_yielded (k : Nat) (x : Port) : (yielded k x).lanes = x.lanes := by
  unfold yielded
  split <;> rfl

/-- Another field of the port is none of Peppermill's. -/
theorem yielded_field {α : Type} {g : Port → α} (hg : ∀ x pm, g { x with pm := pm } = g x) (k : Nat) (x : Port) :
    g (yielded k x) = g x := by
  unfold yielded
  split
  · exact hg ..
  · rfl

/-! ### Buffers of a memory that meets no error -/

theorem bufferWrite_clean (hc : cleanMem s) (p : Nat) : bufferWrite p s = (none, s) := by
  have hidle : bitAt 0 0 = false := Nat.zero_testBit 0
  simp [bufferWrite, faultsOf_clean hc, hc.2.2, sget, hidle]

theorem readLine_clean (hc : cleanMem s) (p a : Nat) (f : Flit) : readLine p a f s = (f, s) := by
  simp [readLine, faultsOf_clean hc]

theorem readKept_clean (hc : cleanMem s) (p n q : Nat) : readKept p n q s = s := by
  unfold readKept
  dsimp only
  split
  · rfl
  · split
    · rfl
    · simp [readLine_clean hc]

/-- The buffer lines of lane `n` are forgotten. -/
def unlined (n : Nat) (x : Port) : Port := { x with txLine := x.txLine.filter (fun z => z.1.1 != n) }

theorem readReplay_unlined (h : (port s p).txLine = []) (n : Nat) : readReplay p n s = s := by simp [readReplay, h]

theorem OnePort.unlined (h : OnePort p l x s t) (hc : cleanMem t) (n : Nat) : OnePort p l (unlined n x) s (readReplay p n t) := by
  obtain rfl := h.self
  by_cases hline : (port t p).txLine = []
  · have hsame : Machine.unlined n (port t p) = port t p := by
      unfold Machine.unlined
      rw [hline, List.filter_nil, ← hline]
    rw [readReplay_unlined hline, hsame]
    exact h
  · have hread : readReplay p n t = modPort t p (Machine.unlined n) := by
      have hkept (c : List Nat) : c.foldl (fun v q => readKept p n q v) t = t := List.foldl_fixed' (readKept_clean hc p n) c
      simp only [readReplay, List.isEmpty_iff, hline, if_false, hkept]
      rfl
    rw [hread]
    exact h.mod _

/-! ### Buffers of a memory with errors -/

/-- What an error of a link tile's buffer line may move: memory, the ledger and events. -/
abbrev faultParts : List Part := .mem :: .safe :: eventParts

theorem modMem_faultParts (f : MemSt → MemSt) (s : State) : sameBut faultParts s (modMem s f) :=
  sameBut_mono (modMem_sameBut f s) (by decide)

theorem raiseCE_sameBut (u a n : Nat) (s : State) : sameBut faultParts s (raiseCE u a n s) :=
  sameBut_ite (sameBut_refl _ s) (sameBut_then (raiseEv_sameBut ..) (by decide) (sameBut_mono (modMem_sameBut _ s) (by decide)))

theorem raiseUE_sameBut (u a req : Nat) (s : State) : sameBut faultParts s (raiseUE u a req s) :=
  sameBut_ite (sameBut_refl _ s) (sameBut_then (raiseEv_sameBut ..) (by decide) (sameBut_mono (modMem_sameBut _ s) (by decide)))

theorem countAt_faultParts (a : Option Nat) (n : Nat) (s : State) : sameBut faultParts s (countAt a n s) :=
  sameBut_mono (countAt_sameBut a n s) (by decide)

theorem reportUE_sameBut (u a req : Nat) (s : State) : sameBut faultParts s (reportUE u a req s) :=
  sameBut_trans (sameBut_trans (countAt_faultParts _ 1 s) (sameBut_foldl (fun t _ => modMem_faultParts _ t) _ _))
    (raiseUE_sameBut ..)

theorem heal_sameBut (u a : Nat) (s : State) : sameBut faultParts s (heal u a s) :=
  sameBut_ite (modMem_faultParts _ s) (sameBut_refl _ s)

theorem trackCE_sameBut (u a : Nat) (s : State) : sameBut faultParts s (trackCE u a s).1 := by
  have hcount := countAt_faultParts (ceCtr u) 1 s
  have hput (f : MemSt → MemSt) : sameBut faultParts s (modMem (countAt (ceCtr u) 1 s) f) :=
    sameBut_trans hcount (modMem_faultParts f _)
  unfold trackCE
  dsimp only
  split
  · split
    · exact hput _
    · split
      · exact hput _
      · exact hput _
  · split
    · exact sameBut_trans (hput _) (raiseCE_sameBut ..)
    · exact sameBut_trans (sameBut_trans (hput _) (countAt_faultParts ..)) (raiseCE_sameBut ..)

/-- A remap in a link tile's bank quarantines nothing (R341). -/
theorem remapTo_sameBut (hlow : 0x1000 ≤ u) (hhigh : u < 0x2000) (a : Nat) (s : State) :
    sameBut faultParts s (remapTo u a s).1 := by
  have hhbm : ¬ (0x2000 ≤ u ∧ u < 0x3000) := by omega
  have hclove : ¬ u < 0x1000 := by omega
  unfold remapTo
  dsimp only
  rw [if_neg hhbm, if_pos hhigh, if_neg hclove]
  split
  · exact sameBut_trans (modMem_faultParts _ s) (raiseCE_sameBut ..)
  · split
    · exact sameBut_trans (modMem_faultParts _ s) (raiseCE_sameBut ..)
    · exact sameBut_trans (sameBut_then (modSafe_sameBut ..) (by decide) (modMem_faultParts _ s)) (raiseCE_sameBut ..)

theorem copyFault_sameBut (u : Nat) (z : State × List Nat) (f : Nat × UnitFault) : sameBut faultParts z.1 (copyFault u z f).1 := by
  unfold copyFault
  split
  · exact sameBut_trans (heal_sameBut ..) (trackCE_sameBut ..)
  · exact sameBut_refl _ _
  · exact reportUE_sameBut ..

theorem copyUnits_sameBut (u : Nat) (f : Nat → Bool) (s : State) : sameBut faultParts s (copyUnits u f s).1 := by
  unfold copyUnits
  generalize faultsOf s.mem u f = fs
  suffices ∀ z : State × List Nat, sameBut faultParts z.1 (fs.foldl (copyFault u) z).1 from this (s, [])
  induction fs with
  | nil => exact fun z => sameBut_refl _ z.1
  | cons f fs ih => exact fun z => sameBut_trans (copyFault_sameBut u z f) (ih _)

theorem remapAddr_sameBut (hlow : 0x1000 ≤ u) (hhigh : u < 0x2000) (a : Nat) (s : State) :
    sameBut faultParts s (remapAddr u a s) := by
  have hmap := remapTo_sameBut hlow hhigh a s
  unfold remapAddr
  split
  next h => rwa [h] at hmap
  next f h =>
    rw [h] at hmap
    exact sameBut_trans (sameBut_trans hmap (copyUnits_sameBut u f _))
      (sameBut_foldl (fun t b => remapTo_sameBut hlow hhigh b t) _ _)

theorem reportCE_sameBut (hlow : 0x1000 ≤ u) (hhigh : u < 0x2000) (a : Nat) (s : State) :
    sameBut faultParts s (reportCE u a s) := by
  have hheal : sameBut faultParts s (if u < 0x2000 ∨ 0x3000 ≤ u then heal u a s else s) :=
    sameBut_ite (heal_sameBut ..) (sameBut_refl _ s)
  have htrack := sameBut_trans hheal (trackCE_sameBut u a _)
  exact sameBut_ite (sameBut_trans htrack (remapAddr_sameBut hlow hhigh a _)) htrack

/-- A flit is read from a buffer line (Table 13.4). -/
theorem readLine_sameBut (hp : p < 48) (a : Nat) (f : Flit) (s : State) : sameBut faultParts s (readLine p a f s).2 := by
  unfold readLine
  dsimp only
  split
  · exact sameBut_refl _ s
  · exact reportCE_sameBut (by omega) (by omega) a s
  · exact reportUE_sameBut ..

/-- A port that keeps its queues: reading a buffer changes kept flits and known lines alone. -/
def KeepsQueues (p : Nat) (s t : State) : Prop := OnePort p faultParts (port t p) s t ∧ (port t p).queues = (port s p).queues

theorem KeepsQueues.refl (p : Nat) (s : State) : KeepsQueues p s s := ⟨.refl .., rfl⟩

theorem KeepsQueues.trans (h : KeepsQueues p s t) (k : KeepsQueues p t v) : KeepsQueues p s v :=
  ⟨h.1.trans k.1, k.2.trans h.2⟩

theorem KeepsQueues.foldl {f : State → Nat → State} (h : ∀ s a, KeepsQueues p s (f s a)) (as : List Nat) (s : State) :
    KeepsQueues p s (as.foldl f s) := by
  induction as generalizing s with
  | nil => exact .refl p s
  | cons a as ih => exact (h s a).trans (ih _)

theorem OnePort.keepsQueues (h : OnePort p faultParts x s t) (hx : x.queues = (port s p).queues) : KeepsQueues p s t := by
  obtain rfl := h.self
  exact ⟨h, hx⟩

theorem readKept_keeps (hp : p < 48) (n q : Nat) (s : State) : KeepsQueues p s (readKept p n q s) := by
  unfold readKept
  dsimp only
  split
  · exact .refl p s
  next f _ =>
    split
    · exact .refl p s
    next z _ =>
      have hread := (OnePort.refl p faultParts s).also (readLine_sameBut hp z.2 f s) (fun _ h => h)
      split
      · exact hread.keepsQueues rfl
      · exact ((hread.atLane n _).mod _).keepsQueues rfl

theorem readReplay_keeps (hp : p < 48) (n : Nat) (s : State) : KeepsQueues p s (readReplay p n s) := by
  unfold readReplay
  split
  · exact .refl p s
  · have hread := KeepsQueues.foldl (fun s q => readKept_keeps hp n q s) (List.range (lane (port s p) n).replay.length) s
    exact (hread.1.mod _).keepsQueues hread.2

/-! ### A port that goes down -/

/-- Port `x` in DOWN keeps what it had to send and has no lanes (Table 11.11). -/
structure WentDown (x y : Port) : Prop where
  state : y.state = 1
  keeping : y.keeping = true
  lanes : y.lanes = []
  queues : y.queues = x.queues

/-- A port as it goes down: its lanes' flits move to `moved`, by VC and vc_seq. -/
def downed (x : Port) : Port := { x with
  state := 1, moved := (keptFlits x ++ x.moved.filter (fun f => decide (f.kind = 1))).mergeSort vcBefore
  lanes := [], keeping := true, spareFault := false, txFault := false, spareInUse := false, permuted := false
  order := [], txLine := [], recal := none, recalTx := none
  pm := x.pm.map (fun y => (y.1, { y.2 with owned := false, locked := false })) }

theorem portDown_eq (p : Nat) (s : State) :
    portDown p s = modPort ((List.range 9).foldl (fun t n => readReplay p n t) s) p downed := rfl

theorem portDown_goes (hp : p < 48) (s : State) :
    ∃ y, WentDown (port s p) y ∧ OnePort p faultParts y s (portDown p s) := by
  have hread := KeepsQueues.foldl (fun s n => readReplay_keeps hp n s) (List.range 9) s
  rw [portDown_eq]
  generalize (List.range 9).foldl (fun t n => readReplay p n t) s = t at hread
  exact ⟨downed (port t p), ⟨rfl, rfl, rfl, hread.2⟩, hread.1.mod downed⟩

/-- Where no buffer line is known nothing is read. -/
theorem portDown_unlined (h : (port s p).txLine = []) : sameBut [.ports] s (portDown p s) := by
  have hread : (List.range 9).foldl (fun t n => readReplay p n t) s = s :=
    List.foldl_fixed' (fun n => readReplay_unlined h n) _
  rw [portDown_eq, hread]
  exact ((OnePort.refl p [] s).mod downed).rest

/-- A port with a data lane in each direction stays up (R286). -/
theorem downIfDead_alive {m k : Nat} (hm : m < 9) (hdata : (lane (port s p) m).role = roleData) (hk : k < 9)
    (hsend : (lane (port s p) k).txRole = roleData) : downIfDead p s = s := by
  have hrx (hup : 3 ≤ (port s p).state) : (dataLanes (port s p)).isEmpty = false := by
    rw [dataLanes, if_pos hup, List.isEmpty_eq_false_iff]
    exact List.ne_nil_of_mem (mem_portLanes.mpr ⟨hm, by simp [hdata]⟩)
  have htx : (portLanes (fun l => decide (l.txRole = roleData)) (port s p)).isEmpty = false := by
    rw [List.isEmpty_eq_false_iff]
    exact List.ne_nil_of_mem (mem_portLanes.mpr ⟨hk, by simp [hsend]⟩)
  unfold downIfDead
  dsimp only
  rw [if_neg]
  rintro ⟨hup, hdead⟩
  rw [hrx hup, htx] at hdead
  simp at hdead

end

end Sys2Proof.Machine
end

section
/-! Port states from DISABLED to UP (R283 to R285, R422): what each command makes of its port. -/

namespace Sys2Proof.Machine

section
variable {l : List Part} {p n : Nat} {x y : Port} {s t : State}

/-! ### Commands of a port -/

theorem exec_portEnable (hp : p < 48) (hup : hostBlock s = true) : exec (.portEnable p) s = .next (enablePort p s) :=
  (if_pos (decide_eq_true hp)).trans (congrArg Host.Outcome.next (if_pos hup))

theorem exec_portDisable (hp : p < 48) (hup : hostBlock s = true) : exec (.portDisable p) s = .next (disablePort p s) :=
  (if_pos (decide_eq_true hp)).trans (congrArg Host.Outcome.next (if_pos hup))

theorem exec_portRetrain (hp : p < 48) (hup : hostBlock s = true) (hon : (port s p).state ≠ 0) :
    exec (.portRetrain p) s = .next (portDown p s) :=
  (if_pos (decide_eq_true hp)).trans (congrArg Host.Outcome.next ((if_pos hup).trans (if_neg hon)))

theorem exec_portDetect (hp : p < 48) (termination driver : Bool) :
    exec (.portDetect p termination driver) s = .next (detect p termination driver s) := if_pos (decide_eq_true hp)

theorem exec_portTrainDone (hp : p < 48) (trained inverted : Nat) (arrived : List Nat) :
    exec (.portTrainDone p trained inverted arrived) s = .next (trainDone p trained inverted arrived s) :=
  if_pos (decide_eq_true hp)

theorem exec_portAlignDone (hp : p < 48) (locked : Nat) : exec (.portAlignDone p locked) s = .next (alignDone p locked s) :=
  if_pos (decide_eq_true hp)

theorem exec_identExchange (hp : p < 48) (node far : Nat) :
    exec (.identExchange p node far) s = .next (identify p node far s) := if_pos (decide_eq_true hp)

theorem exec_portCreditDone (hp : p < 48) (credits : List Nat) :
    exec (.portCreditDone p credits) s = .next (creditDone p credits s) := if_pos (decide_eq_true hp)

theorem exec_portKeepExpire (hp : p < 48) : exec (.portKeepExpire p) s = .next (keepExpire p s) :=
  if_pos (decide_eq_true hp)

/-! ### Enabling and disabling -/

/-- PORT_CTRL.enable reads as it was set. -/
theorem enable_setReg4 (s : State) (p v : Nat) (b : Bool) :
    bitAt (pctl (setReg4 s (portBase p) (setBit v 0 b)) p) 0 = b := by
  have hbit : (setBit v 0 b).testBit 0 = b := (bitAt_setBit v 0 b 0).trans (if_pos rfl)
  rw [pctl, reg4_setReg4, bitAt, Nat.testBit_mod_two_pow, hbit]
  rfl

/-- A port in DOWN after its enable; Peppermill has given its lanes back. -/
def portEnabled (x : Port) : Port := { x with
  state := 1, pm := x.pm.map (fun y => (y.1, { y.2 with owned := false, locked := false })) }

theorem enablePort_fits (hoff : (port s p).state = 0) (hfits : creditsFit s p = true) :
    enablePort p s = setReg4 (modPort s p portEnabled) (portBase p) (setBit (pctl s p) 0 true) :=
  (if_neg (not_not.mpr hoff)).trans (if_pos hfits)

theorem enablePort_refused (hoff : (port s p).state = 0) (hfits : creditsFit s p = false) :
    enablePort p s = modLink s (fun l => { l with creditErr := (l.creditErr ++ [p / 6]).dedup }) :=
  (if_neg (not_not.mpr hoff)).trans (if_neg (by simp [hfits]))

theorem wipeLines_sameBut (p : Nat) (ls : List Nat) (s : State) : sameBut [.mem] s (wipeLines p ls s) :=
  sameBut_ite (sameBut_refl _ s) (sameBut_foldl (fun t _ => modMem_sameBut _ t) ls s)

theorem wipeLines_noFaults (hfaults : s.mem.faults = []) (p : Nat) (ls : List Nat) : wipeLines p ls s = s := by
  simp [wipeLines, hfaults]

theorem disablePort_eq (hon : (port s p).state ≠ 0) :
    disablePort p s = setReg4 (setPort (wipeLines p (linesOf (port s p)) s) p { Port.empty with pm := (port s p).pm })
      (portBase p) (setBit (pctl s p) 0 false) := if_neg hon

theorem disablePort_empties (hon : (port s p).state ≠ 0) :
    OnePort p [.held, .mem] { Port.empty with pm := (port s p).pm } s (disablePort p s) := by
  rw [disablePort_eq hon]
  exact (((OnePort.refl p _ s).also (wipeLines_sameBut ..) (by decide)).set _).also (setReg4_sameBut ..) (by decide)

theorem disablePort_noFaults (hon : (port s p).state ≠ 0) (hfaults : s.mem.faults = []) :
    OnePort p [.held] { Port.empty with pm := (port s p).pm } s (disablePort p s) := by
  rw [disablePort_eq hon, wipeLines_noFaults hfaults]
  exact ((OnePort.refl p _ s).set _).also (setReg4_sameBut ..) (by decide)

/-! ### DOWN -/

def sensed (driver : Bool) (x : Port) : Port := { x with txConflict := driver }

/-- A port that found a termination and no driver trains all its lanes. -/
def training (x : Port) : Port := { x with
  state := 2, lanes := lanesFrom (fun _ => { Lane.empty with role := roleTraining, txRole := roleTraining }) }

theorem detect_termination (hdown : (port s p).state = 1) (hrun : s.safe.stop = false) :
    detect p true false s = count (portBase p + 0x24) 1 (modPort (modPort s p (sensed false)) p training) :=
  (if_neg (by simp [hdown, hrun])).trans (if_neg (by decide))

theorem detect_driver (hdown : (port s p).state = 1) (hrun : s.safe.stop = false) (b : Bool) :
    detect p b true s = modPort s p (sensed true) := (if_neg (by simp [hdown, hrun])).trans (if_pos (.inl rfl))

/-! ### TRAIN -/

theorem sget_lanesFrom (f : Nat → Lane) (hn : n < 9) : sget (Lane.at_ n) (lanesFrom f) n = f n := by
  have hread (c : List Nat) : sget (Lane.at_ n) ((c.map (fun m => (m, f m))).filter (fun l => decide (l.2 ≠ Lane.at_ l.1))) n
      = if n ∈ c then f n else Lane.at_ n := by
    induction c with
    | nil => rfl
    | cons a c ih =>
      by_cases hlisted : f a = Lane.at_ a
      · rw [List.map_cons, List.filter_cons_of_neg (by simp [hlisted]), ih]
        by_cases ha : n = a
        · subst ha; simp [hlisted]
        · simp [ha]
      · rw [List.map_cons, List.filter_cons_of_pos (by simp [hlisted])]
        by_cases ha : a = n
        · subst ha; simp [sget]
        · simpa [sget, ha, Ne.symm ha] using ih
  exact (hread _).trans (if_pos (List.mem_range.mpr hn))

/-- Of the numbers that are picked, `n` is among the first `k` exactly when fewer than `k` come before it. -/
theorem mem_take_filter_range {f : Nat → Bool} {m k : Nat} (hn : n < m) (hf : f n = true) :
    n ∈ ((List.range m).filter f).take k ↔ ((List.range n).filter f).length < k := by
  obtain ⟨j, rfl⟩ : ∃ j, m = n + (j + 1) := ⟨m - n - 1, by omega⟩
  have hbefore : n ∉ (((List.range n).filter f).take k) := fun h => by
    have := List.mem_range.mp (List.mem_filter.mp (List.mem_of_mem_take h)).1
    omega
  rw [List.range_add, List.range_succ_eq_map, List.map_cons, List.filter_append, Nat.add_zero, List.filter_cons_of_pos hf,
    List.take_append, List.mem_append]
  rcases Nat.lt_or_ge ((List.range n).filter f).length k with hlt | hge
  · obtain ⟨i, hi⟩ : ∃ i, k - ((List.range n).filter f).length = i + 1 := ⟨_, (Nat.succ_pred (by omega)).symm⟩
    simp [hlt, hi]
  · simp only [Nat.sub_eq_zero_of_le hge, List.take_zero, List.not_mem_nil, or_false]
    exact iff_of_false hbefore (by omega)

/-- Roles at the end of training: the first eight trained lanes carry data, a ninth is the spare (R285). -/
theorem roleAt_trained (f : Nat → Bool) (hn : n < 9) : roleAt ((List.range 9).filter f) n
    = if f n = false then roleFailed else if ((List.range n).filter f).length < 8 then roleData else roleSpare := by
  cases hf : f n with
  | false => simp [roleAt, hf]
  | true =>
    have hin : ((List.range 9).filter f).contains n = true := by simp [hn, hf]
    have hfirst := mem_take_filter_range (k := 8) hn hf
    simp only [roleAt, hin, List.contains_iff_mem, hfirst]
    simp

/-- From `x` to `y` the lanes and the state stand, messages that wait do so still, and a LANE_FAIL waits for each lane of `bad`. -/
structure Told (bad : List Nat) (x y : Port) : Prop where
  state : y.state = x.state
  lanes : y.lanes = x.lanes
  kept : ∀ f ∈ x.moved, f ∈ y.moved
  told : ∀ n ∈ bad, ∃ f ∈ y.moved, f.kind = 2 ∧ f.payload = .lctrl 1 n

/-- Each lane that failed raises its event and is told (R285, R286). -/
theorem OnePort.told (bad : List Nat) (h : OnePort p l x s t) (hl : ∀ a ∈ eventParts, a ∈ l) :
    ∃ y, Told bad x y ∧ OnePort p l y s (bad.foldl (fun u n => sendLctrl p 1 n (laneEvent p n u)) t) := by
  induction bad generalizing x t with
  | nil => exact ⟨x, ⟨rfl, rfl, fun _ h => h, by simp⟩, h⟩
  | cons n bad ih =>
    obtain ⟨y, htold, hy⟩ := ih ((h.event n hl).lctrl 1 n)
    refine ⟨y, ⟨htold.state, htold.lanes, fun f hf => htold.kept f (mem_moved_behindLctrl.mpr (.inr hf)), fun m hm => ?_⟩, hy⟩
    rcases List.mem_cons.mp hm with rfl | hm
    · exact ⟨_, htold.kept _ (mem_moved_behindLctrl.mpr (.inl rfl)), rfl, rfl⟩
    · exact htold.told m hm

theorem OnePort.failed (h : OnePort p l x s t) (bad : List Nat) (c : Bool) (hl : ∀ a ∈ Part.safe :: eventParts, a ∈ l) :
    ∃ y, Told bad x y ∧ OnePort p l y s (lanesFailed p bad c t) := by
  have hevents : ∀ a ∈ eventParts, a ∈ l := fun a ha => hl a (List.mem_cons_of_mem _ ha)
  have hmarked := h.mod fun x => { x with spareFault := true }
  cases c with
  | false =>
    obtain ⟨y, htold, hy⟩ := h.told bad hevents
    exact ⟨spareNoted y, ⟨htold.state, htold.lanes, htold.kept, htold.told⟩, hy.noted⟩
  | true =>
    have hcover : OnePort p l { x with spareFault := true } s (if (port t p).spareFault
        then modPort t p (fun x => { x with spareFault := true })
        else recordPort p (modPort t p (fun x => { x with spareFault := true }))) := by
      split
      · exact hmarked
      · exact hmarked.record hl
    obtain ⟨y, htold, hy⟩ := hcover.told bad hevents
    exact ⟨spareNoted y, ⟨htold.state, htold.lanes, htold.kept, htold.told⟩, hy.noted⟩

/-- A lane at the end of training. -/
def trainedLane (trained inverted : Nat) (arrived : List Nat) (n : Nat) : Lane := { Lane.at_ n with
  role := roleAt ((List.range 9).filter (bitAt trained)) n, pair := arrived.getD n n % 16, inverted := bitAt inverted n }

/-- A port in ALIGN, its lanes as the training left them. -/
def trainedPort (trained inverted : Nat) (arrived : List Nat) (x : Port) : Port := { x with
  state := 3
  permuted := ((List.range 9).filter (bitAt trained)).any (fun n => decide (arrived.getD n n ≠ n))
  order := List.range 8
  lanes := lanesFrom (trainedLane trained inverted arrived) }

section
variable {trained inverted : Nat} {arrived : List Nat} (htrain : (port s p).state = 2)
include htrain

theorem trainDone_none (hnone : ∀ n, n < 9 → bitAt trained n = false) :
    trainDone p trained inverted arrived s = modPort s p (fun x => { x with state := 1, lanes := [] }) := by
  have hgood : (List.range 9).filter (bitAt trained) = [] :=
    List.filter_eq_nil_iff.mpr fun n hn => by simp [hnone n (List.mem_range.mp hn)]
  simp [trainDone, htrain, hgood]

theorem trainDone_some (hsome : ∃ n, n < 9 ∧ bitAt trained n = true) : trainDone p trained inverted arrived s
    = lanesFailed p ((List.range 9).filter (fun n => !bitAt trained n))
      (((List.range 9).filter (bitAt trained)).contains 8 && !((List.range 9).filter (fun n => !bitAt trained n)).isEmpty)
      (modPort s p (trainedPort trained inverted arrived)) := by
  obtain ⟨n, hn, hbit⟩ := hsome
  have hgood : ((List.range 9).filter (bitAt trained)).isEmpty = false :=
    List.isEmpty_eq_false_iff.mpr (List.ne_nil_of_mem (List.mem_filter.mpr ⟨List.mem_range.mpr hn, hbit⟩))
  unfold trainDone
  dsimp only
  rw [if_neg (not_not.mpr htrain), hgood, if_neg Bool.false_ne_true]
  rfl

theorem trainDone_all (hall : ∀ n, n < 9 → bitAt trained n = true) : trainDone p trained inverted arrived s
    = noteSpare p (modPort s p (trainedPort trained inverted arrived)) := by
  have hbad : (List.range 9).filter (fun n => !bitAt trained n) = [] :=
    List.filter_eq_nil_iff.mpr fun n hn => by simp [hall n (List.mem_range.mp hn)]
  rw [trainDone_some htrain ⟨0, by decide, hall 0 (by decide)⟩, hbad, List.isEmpty_nil, Bool.not_true, Bool.and_false]
  rfl

end

theorem lane_trainedPort (trained inverted : Nat) (arrived : List Nat) (x : Port) (hn : n < 9) :
    lane (trainedPort trained inverted arrived x) n = trainedLane trained inverted arrived n := sget_lanesFrom _ hn

/-! ### ALIGN -/

/-- A port in IDENT, the lanes of `good` in service. -/
def alignedPort (good : List Nat) (x : Port) : Port := { x with
  state := 4
  lanes := (List.range 9).foldl (fun l n => smod (Lane.at_ n) l n (fun v => { v with role := roleAt good n })) x.lanes }

theorem role_alignedPort (good : List Nat) (x : Port) (hn : n < 9) : (lane (alignedPort good x) n).role = roleAt good n := by
  have hread (c : List Nat) (l : Sparse Lane) : (sget (Lane.at_ n)
      (c.foldl (fun l m => smod (Lane.at_ m) l m (fun v => { v with role := roleAt good m })) l) n).role
      = if n ∈ c then roleAt good n else (sget (Lane.at_ n) l n).role := by
    induction c generalizing l with
    | nil => rfl
    | cons a c ih =>
      rw [List.foldl_cons, ih]
      by_cases hc : n ∈ c
      · simp [hc]
      · by_cases ha : n = a
        · subst ha; simp [hc, smod, sget_sset_same]
        · simp [hc, ha, smod, sget_sset_other]
  exact (hread _ _).trans (if_pos (List.mem_range.mpr hn))

/-- The lanes in service, where all of them lock. -/
def lockedLanes (x : Port) : List Nat := portLanes (fun l => decide (l.role ≠ roleFailed)) x

theorem alignDone_locks (halign : (port s p).state = 3) (hsome : ∃ n, n < 9 ∧ (lane (port s p) n).role ≠ roleFailed) :
    alignDone p 0x1FF s = lanesFailed p []
      ((spareOf (port s p)).any (fun k => decide (roleAt (lockedLanes (port s p)) k = roleData)))
      (modPort s p (alignedPort (lockedLanes (port s p)))) := by
  obtain ⟨n, hn, hrole⟩ := hsome
  have hbit : ∀ m, m < 9 → bitAt 0x1FF m = true := by decide
  have hlanes : ∀ m ∈ lockedLanes (port s p), m < 9 := fun m hm => (mem_portLanes.mp hm).1
  have hgood : (lockedLanes (port s p)).filter (bitAt 0x1FF) = lockedLanes (port s p) :=
    List.filter_eq_self.mpr fun m hm => hbit m (hlanes m hm)
  have hbad : (lockedLanes (port s p)).filter (fun m => !bitAt 0x1FF m) = [] :=
    List.filter_eq_nil_iff.mpr fun m hm => by simp [hbit m (hlanes m hm)]
  have hserves : (lockedLanes (port s p)).isEmpty = false :=
    List.isEmpty_eq_false_iff.mpr (List.ne_nil_of_mem (mem_portLanes.mpr ⟨hn, by simpa using hrole⟩))
  unfold lockedLanes at *
  unfold alignDone
  dsimp only
  rw [if_neg (not_not.mpr halign), hgood, hserves, if_neg Bool.false_ne_true, hbad]
  rfl

theorem roleAt_failed {good : List Nat} (h : n ∉ good) : roleAt good n = roleFailed := by simp [roleAt, h]

/-! ### IDENT, CREDIT and the end of the keeping -/

/-- A port that has discarded what it kept (Table 13.9). -/
def dropped (x : Port) : Port := { x with
  moved := x.moved.filter (fun f => decide (f.kind = 2)), reorder := [], vcSeqTx := [], vcSeqRx := [], credit := []
  freed := [], crSeen := [], keeping := false, broken := [], inflow := [], rxLine := [], txLine := [] }

theorem OnePort.dropped (h : OnePort p l x s t) (hl : ∀ a ∈ [Part.mem], a ∈ l) : OnePort p l (dropped x) s (dropKept p t) :=
  (h.also (wipeLines_sameBut ..) hl).mod Machine.dropped

/-- PORT_EXPECT matches the identity of the far side. -/
def expected (s : State) (p node far : Nat) : Bool :=
  let e := reg4 s (portBase p + 8)
  (decide (bitsAt e 15 0 = 0xFFFF) || decide (bitsAt e 15 0 = node))
    && (decide (bitsAt e 21 16 = 0x3F) || decide (bitsAt e 21 16 = far))

/-- A port that has exchanged identities: its own number and node are sent, the far side's are noted. -/
def identified (ok : Bool) (own : Nat × Nat) (node far : Nat) (x : Port) : Port := { x with
  sentIdent := some own, farNode := node, farPort := far, farValid := true, miscabled := !ok, state := if ok then 5 else 4 }

theorem identify_identifies (hident : (port s p).state = 4) (node far : Nat) :
    ∃ y, OnePort p [.mem] (identified (expected s p node far) (nodeId s, p) node far y) s (identify p node far s) := by
  have hkept := ((OnePort.refl p [.mem] s).dropped (by decide)).ite (OnePort.refl p [.mem] s)
    (c := (port s p).keeping ∧ (port s p).farValid ∧ ((port s p).farNode ≠ node ∨ (port s p).farPort ≠ far))
  unfold identify
  dsimp only
  rw [if_neg (not_not.mpr hident)]
  exact ⟨_, hkept.mod (identified (expected s p node far) (nodeId s, p) node far)⟩

/-- A port that is UP with the far side's pools. -/
def creditedPort (pools credits : List Nat) (x : Port) : Port := { x with
  state := 6, keeping := false, sentPools := pools, freed := [], crSeen := [], rotation := 0, ackRotation := 0, wrrLeft := 0
  credit := (List.range 8).foldl (fun l v =>
    sset 0 l v (credits.getD v 0 - (x.moved.filter (fun f => decide (f.kind = 1) && decide (f.vc = v))).length)) [] }

theorem creditDone_goesUp (hcredit : (port s p).state = 5) (hkeep : (port s p).keeping = false) (credits : List Nat) :
    OnePort p [.mem] (creditedPort ((List.range 8).map (creditOf s p)) credits (dropped (port s p))) s (creditDone p credits s) := by
  unfold creditDone
  dsimp only
  rw [if_neg (not_not.mpr hcredit), hkeep, if_neg Bool.false_ne_true]
  exact ((OnePort.refl p _ s).dropped (by decide)).mod (creditedPort _ credits)

/-- No DATA flit is left of what was dropped: every credit is free. -/
theorem credit_creditedPort (pools credits : List Nat) (x : Port) {v : Nat} (hv : v < 8) :
    sget 0 (creditedPort pools credits (dropped x)).credit v = credits.getD v 0 := by
  have hfree : ((dropped x).moved.filter (fun f => decide (f.kind = 1) && decide (f.vc = v))) = [] := by
    simp only [dropped, List.filter_filter, List.filter_eq_nil_iff]
    simp +contextual
  have hread := sget_foldl_sset 0 (fun v => credits.getD v 0
    - ((dropped x).moved.filter (fun f => decide (f.kind = 1) && decide (f.vc = v))).length) (List.range 8) [] v
  rw [if_pos (List.mem_range.mpr hv), hfree] at hread
  exact hread

theorem keepExpire_drops (hkeep : (port s p).keeping = true) (hup : (port s p).state ≠ 6) : keepExpire p s = dropKept p s :=
  if_pos ⟨hkeep, by simp [isUp, hup]⟩

end

/-- Settles O34: each command is one change of its port, with the ledger and the events of failed lanes and the buffer lines' errors. -/
theorem portStates : Obligations.PortStates := by
  unfold Obligations.PortStates
  intro s p hp x moves
  have hx : x = port s p := rfl
  have hmoves : moves = Moves s p := rfl
  clear_value x moves
  subst hx hmoves
  refine ⟨fun hup => ⟨fun hoff hfits => ⟨?_, ?_⟩, fun hoff hfits => ?_, fun hon => ⟨?_, fun hfaults => ?_, ?_⟩, fun hon => ?_⟩,
    fun hdown hrun => ⟨?_, ?_, fun b => ?_⟩, fun trained inverted arrived htrain => ⟨fun hnone => ?_, fun hsome => ?_, fun hall => ?_⟩,
    fun halign hsome => ?_, fun node far hident => ?_, fun credits hcredit hkeep => ?_, fun hkeep hup => ?_⟩
  · have hmoved := ((OnePort.refl p [.held] s).mod portEnabled).also
      (setReg4_sameBut (portBase p) (setBit (pctl s p) 0 true) _) (by decide)
    exact hmoved.reached ((exec_portEnable hp hup).trans (by rw [enablePort_fits hoff hfits])) rfl
  · exact ⟨_, exec_portEnable hp hup, by rw [enablePort_fits hoff hfits, enable_setReg4]⟩
  · rw [exec_portEnable hp hup, enablePort_refused hoff hfits]
    rfl
  · exact (disablePort_empties hon).reached (exec_portDisable hp hup) rfl
  · exact (disablePort_noFaults hon hfaults).reached (exec_portDisable hp hup) rfl
  · exact ⟨_, exec_portDisable hp hup, by rw [disablePort_eq hon, enable_setReg4]⟩
  · obtain ⟨y, hy, hmoved⟩ := portDown_goes hp s
    refine ⟨_, exec_portRetrain hp hup hon, ?_⟩
    rw [hmoved.self]
    exact ⟨hy.state, hy.keeping, hy.lanes, hy.queues, hmoved.others, portDown_unlined⟩
  · have hmoved := (((OnePort.refl p [.counters] s).mod (sensed false)).mod training).also
      (count_sameBut (portBase p + 0x24) 1 _) (by decide)
    exact hmoved.reached ((exec_portDetect hp ..).trans (by rw [detect_termination hdown hrun])) ⟨rfl, rfl⟩
  · refine ⟨_, exec_portDetect hp .., ?_⟩
    rw [detect_termination hdown hrun]
    exact congrArg (sget 0 · _) (count_ctr_congr (t := modPort (modPort s p (sensed false)) p training) (s := s) rfl _ _)
  · exact ((OnePort.refl p [] s).mod (sensed true)).reached ((exec_portDetect hp ..).trans (by rw [detect_driver hdown hrun])) rfl
  · exact ((OnePort.refl p [] s).mod _).reached ((exec_portTrainDone hp ..).trans (by rw [trainDone_none htrain hnone])) rfl
  · obtain ⟨y, htold, hmoved⟩ := ((OnePort.refl p (.safe :: eventParts) s).mod (trainedPort trained inverted arrived)).failed
      ((List.range 9).filter (fun n => !bitAt trained n)) (((List.range 9).filter (bitAt trained)).contains 8
        && !((List.range 9).filter (fun n => !bitAt trained n)).isEmpty) (fun _ h => h)
    refine hmoved.reached ((exec_portTrainDone hp ..).trans (by rw [trainDone_some htrain hsome]))
      ⟨htold.state, fun n hn => ?_, fun n hn hbit => htold.told n (by simp [hn, hbit])⟩
    rw [lane_congr htold.lanes, lane_trainedPort _ _ _ _ hn]
    exact ⟨rfl, rfl, roleAt_trained _ hn⟩
  · exact ((OnePort.refl p [] s).mod _).noted.reached ((exec_portTrainDone hp ..).trans (by rw [trainDone_all htrain hall])) ⟨rfl, rfl⟩
  · obtain ⟨y, htold, hmoved⟩ := ((OnePort.refl p (.safe :: eventParts) s).mod (alignedPort (lockedLanes (port s p)))).failed []
      ((spareOf (port s p)).any (fun k => decide (roleAt (lockedLanes (port s p)) k = roleData))) (fun _ h => h)
    refine hmoved.reached ((exec_portAlignDone hp _).trans (by rw [alignDone_locks halign hsome])) ⟨htold.state, fun n hn hfailed => ?_⟩
    rw [lane_congr htold.lanes, role_alignedPort _ _ hn]
    exact roleAt_failed fun h => by simpa [hfailed] using (mem_portLanes.mp h).2
  · obtain ⟨y, hmoved⟩ := identify_identifies hident node far
    refine hmoved.reached (exec_identExchange hp ..) ⟨rfl, rfl, rfl, rfl, fun hok => ?_, fun hno => ?_⟩
    · have hexpected : expected s p node far = true := by simpa [expected] using hok
      simp [identified, hexpected]
    · have hexpected : expected s p node far = false := by simpa [expected] using hno
      simp [identified, hexpected]
  · exact (creditDone_goesUp hcredit hkeep credits).reached (exec_portCreditDone hp _)
      ⟨rfl, rfl, fun v hv => credit_creditedPort _ _ _ hv⟩
  · exact ((OnePort.refl p [.mem] s).dropped (by decide)).reached
      ((exec_portKeepExpire hp).trans (by rw [keepExpire_drops hkeep hup])) rfl

end Sys2Proof.Machine
end

section
/-! Lanes that fail and recalibrate on an UP port (R274, R285 to R288, R431): the spare takes a lane's place, and gives it back. -/

namespace Sys2Proof.Machine

section
variable {l : List Part} {p n k : Nat} {x y : Port} {s t : State}

/-! ### Commands of a lane -/

theorem exec_laneFailure (hp : p < 48) (hn : n < 9) : exec (.laneFailure p n) s = .next (laneFailure p n s) :=
  if_pos (by simp [hp, hn])

theorem exec_laneFail (hp : p < 48) (hn : n < 9) : exec (.laneFail p n) s = .next (txLaneFail p n s) :=
  if_pos (by simp [hp, hn])

theorem exec_recalReq (hp : p < 48) (hn : n < 9) : exec (.recalReq p n) s = .next (recalReq p n s) :=
  if_pos (by simp [hp, hn])

theorem exec_recalAck (hp : p < 48) (hn : n < 9) : exec (.recalAck p n) s = .next (recalAck p n s) :=
  if_pos (by simp [hp, hn])

theorem exec_recalDone (hp : p < 48) (hn : n < 9) : exec (.recalDone p n) s = .next (recalDone p n s) :=
  if_pos (by simp [hp, hn])

theorem exec_eyeMonitor (hp : p < 48) (hn : n < 9) (height width : Nat) :
    exec (.eyeMonitorBelowMargin p n height width) s = .next (measureEye p n height width s) := if_pos (by simp [hp, hn])

theorem isUp_of (h : (port s p).state = 6) : (!isUp (port s p)) = false := by simp [isUp, h]

/-! ### A receive lane fails -/

/-- What a failure, or its cover by the spare, may move besides the port: PM_CTRL, the ledger and events. -/
abbrev spareParts : List Part := .held :: .safe :: eventParts

/-- A receive lane is made failed, or is put in service. -/
def failedLane (l : Lane) : Lane := { l with role := roleFailed, recalPending := false }
def dataLane (l : Lane) : Lane := { l with role := roleData }

/-- Lane `n` is made failed, with its event and its LANE_FAIL. -/
def laneOut (p n : Nat) (s : State) : State := sendLctrl p 1 n (laneEvent p n (modLane p n failedLane s))

theorem OnePort.out (h : OnePort p l x s t) (n : Nat) (hl : ∀ a ∈ eventParts, a ∈ l) :
    ∃ f, f.kind = 2 ∧ f.payload = .lctrl 1 n ∧ OnePort p l (behindLctrl f (onLane n failedLane x)) s (laneOut p n t) :=
  ⟨_, rfl, rfl, ((h.atLane n failedLane).event n hl).lctrl 1 n⟩

/-- A recalibration ends with its lane. -/
def recalOver (p : Nat) (mine : Bool) (t : State) : State := if mine then modPort t p (fun y => { y with recal := none }) else t

/-- What covers the failure of a lane in role `old`: the spare, where no recalibration has taken it, is put in service; a lane in
training has left it its place already (R286, R290). -/
def coverReceive (p old : Nat) (free : Bool) (t : State) : State :=
  if old = roleTraining then coverFault p t
  else if old = roleData ∧ free then
    match spareOf (port t p) with
    | some k => coverFault p (modLane p k dataLane (preempt p k t))
    | none => t
  else t

/-- A recalibration on port `x` is one of lane `n`. -/
def recalOf (n : Nat) (x : Port) : Bool := decide (x.recal.map (·.lane) = some n)

theorem laneFailure_live (hlive : ¬ ((port s p).state < 3 ∨ (lane (port s p) n).role = roleFailed)) :
    laneFailure p n s = downIfDead p (noteSpare p (coverReceive p (lane (port s p) n).role
      ((port s p).recal.isNone || recalOf n (port s p)) (recalOver p (recalOf n (port s p)) (laneOut p n s)))) := by
  unfold laneFailure coverReceive
  dsimp only
  rw [if_neg hlive]
  simp only [Bool.or_eq_true]
  rfl

theorem spareOf_congr (h : y.lanes = x.lanes) : spareOf y = spareOf x :=
  congrArg List.head? (portLanes_congr fun m _ => by rw [lane_congr h])

theorem mem_ledger_coverFault (p : Nat) (s : State) : p ∈ (noteSpare p (coverFault p s)).safe.ledger.ports := by
  rw [noteSpare, modPort_safe, coverFault, noteSpare, modPort_safe]
  exact mem_ledger_recordPort p _

/-- A port whose spare `k` carries data from now on, even from Peppermill. -/
def spareTakes (k : Nat) (x : Port) : Port := covered (onLane k dataLane (yielded k x))

theorem OnePort.spareTakes (h : OnePort p l x s t) (k : Nat) (hl : ∀ a ∈ spareParts, a ∈ l) :
    OnePort p l (spareTakes k x) s (coverFault p (modLane p k dataLane (preempt p k t))) :=
  ((h.yielded k fun a ha => hl a (by simp_all)).atLane k dataLane).covered fun a ha => hl a (List.mem_cons_of_mem _ ha)

theorem lane_spareTakes (k : Nat) (x : Port) (m : Nat) : lane (spareTakes k x) m = lane (onLane k dataLane x) m :=
  lane_congr (congrArg (smod (Lane.at_ k) · k dataLane) (lanes_yielded k x)) m

/-- A port on which the spare `k` has taken the place of receive lane `n`; `f` tells the far side. -/
def replacedPort (n k : Nat) (f : Flit) (x : Port) : Port :=
  spareNoted (spareTakes k (behindLctrl f (onLane n failedLane x)))

theorem lane_replacedPort (n k : Nat) (f : Flit) (x : Port) (m : Nat) :
    lane (replacedPort n k f x) m = lane (onLane k dataLane (onLane n failedLane x)) m := lane_spareTakes k _ m

/-- What else of that port the failure changes: its message waits, and PORT_STAT.spare_fault is set. -/
theorem replacedPort_rest (n k : Nat) (f : Flit) (x : Port) : (replacedPort n k f x).state = x.state
    ∧ (replacedPort n k f x).moved = (behindLctrl f x).moved ∧ (replacedPort n k f x).spareFault = true
    ∧ (replacedPort n k f x).txFault = x.txFault ∧ (pmOf (replacedPort n k f x) k).owned = false :=
  ⟨yielded_field (g := Port.state) (fun _ _ => rfl) k _, yielded_field (g := Port.moved) (fun _ _ => rfl) k _, rfl,
    yielded_field (g := Port.txFault) (fun _ _ => rfl) k _, pm_yielded k _⟩

theorem lane_replacedPort_other (f : Flit) (x : Port) {m : Nat} (hn : m ≠ n) (hk : m ≠ k) :
    lane (replacedPort n k f x) m = lane x m := by
  rw [lane_replacedPort, lane_onLane_other _ _ hk, lane_onLane_other _ _ hn]

section
variable (hup : (port s p).state = 6) (hrole : (lane (port s p) n).role = roleData) (hrecal : (port s p).recal = none)
  (hspare : spareOf (port s p) = some k)
include hup hrole hrecal hspare

theorem laneFailure_eq : laneFailure p n s
    = downIfDead p (noteSpare p (coverFault p (modLane p k dataLane (preempt p k (laneOut p n s))))) := by
  obtain ⟨f, -, -, hout⟩ := (OnePort.refl p eventParts s).out n (fun _ h => h)
  have hstands : spareOf (port (laneOut p n s) p) = some k := by
    rw [hout.self]
    exact (spareOf_congr rfl).trans ((spareOf_onLane (by rw [hrole]; decide) (by simp [failedLane, roleFailed, roleSpare])).trans hspare)
  have hlive : ¬ ((port s p).state < 3 ∨ (lane (port s p) n).role = roleFailed) := by rw [hup, hrole]; decide
  have hcover : coverReceive p roleData true (laneOut p n s)
      = coverFault p (modLane p k dataLane (preempt p k (laneOut p n s))) := by
    simp only [coverReceive, hstands]
    rfl
  rw [laneFailure_live hlive, hrole, recalOf, hrecal]
  exact congrArg (fun t => downIfDead p (noteSpare p t)) hcover

/-- The spare takes the place of a data lane that fails (R286, R287). -/
theorem laneFailure_replaces (hsend : ∃ m, m < 9 ∧ (lane (port s p) m).txRole = roleData) :
    (∃ f, f.kind = 2 ∧ f.payload = .lctrl 1 n ∧ OnePort p spareParts (replacedPort n k f (port s p)) s (laneFailure p n s))
      ∧ p ∈ (laneFailure p n s).safe.ledger.ports := by
  obtain ⟨f, hkind, htells, hout⟩ := (OnePort.refl p spareParts s).out n (by decide)
  have hnew : OnePort p spareParts (replacedPort n k f (port s p)) s
      (noteSpare p (coverFault p (modLane p k dataLane (preempt p k (laneOut p n s))))) :=
    (hout.spareTakes k (fun _ h => h)).noted
  have hrecord := mem_ledger_coverFault p (modLane p k dataLane (preempt p k (laneOut p n s)))
  obtain ⟨m, hm, hdata⟩ := hsend
  rw [laneFailure_eq hup hrole hrecal hspare]
  generalize noteSpare p (coverFault p (modLane p k dataLane (preempt p k (laneOut p n s)))) = t at hnew hrecord
  have hserves : (lane (port t p) k).role = roleData := by
    rw [hnew.self, lane_replacedPort, lane_onLane]
    rfl
  have hsends : (lane (port t p) m).txRole = roleData := by
    rw [hnew.self, lane_replacedPort, lane_onLane_eq, lane_onLane_eq]
    split <;> split <;> exact hdata
  rw [downIfDead_alive (spareOf_some hspare).1 hserves hm hsends]
  exact ⟨⟨f, hkind, htells, hnew⟩, hrecord⟩

end

/-! ### A send lane fails -/

def txFailedLane (l : Lane) : Lane := { l with txRole := roleFailed }
def txDataLane (l : Lane) : Lane := { l with txRole := roleData }
def emptiedLane (l : Lane) : Lane := { l with replay := [], again := 0, todo := [] }

/-- A lane that is to send flits of another after its own. -/
def takingFlits (fs : List Flit) (l : Lane) : Lane := { l with todo := l.todo ++ fs }

/-- A port on which lane `k` is to send what lane `n` held (R287). -/
def flitsMoved (n k : Nat) (x : Port) : Port :=
  onLane k (takingFlits (keptOn x n)) (onLane n emptiedLane (unlined n x))

theorem OnePort.flitsMoved (h : OnePort p l x s t) (hc : cleanMem t) (n k : Nat) :
    OnePort p l (flitsMoved n k x) s (moveFlits p n k t) := by
  have hread := h.unlined hc n
  have hkept : keptOn (port (readReplay p n t) p) n = keptOn x n := by
    rw [hread.self]
    rfl
  have hmoved := (hread.atLane n emptiedLane).atLane k (takingFlits (keptOn x n))
  rw [← hkept] at hmoved
  unfold Machine.flitsMoved
  rw [← hkept]
  exact hmoved

/-- What becomes of the flits of a send lane that leaves service: the spare `k` takes its place and them, or the other lanes do. -/
def coverSend (p n : Nat) (free : Bool) (t : State) : State :=
  match if free then txSpareOf (port t p) else none with
  | some k => moveFlits p n k (coverTx p (modPort (modLane p k txDataLane (preempt p k t)) p (takePlace n k)))
  | none => spreadFlits p n t

/-- A spare that had the lane's place for a recalibration covers it from now on, and the recalibration of the lane ends. -/
def coverTrained (p old : Nat) (mine : Bool) (t : State) : State :=
  let t := if old = roleTraining then coverTx p t else t
  if mine then modPort t p (fun y => { y with recalTx := none }) else t

theorem txLaneFail_live (hlive : ¬ ((!isUp (port s p)) = true ∨ (lane (port s p) n).txRole = roleFailed)) :
    txLaneFail p n s = downIfDead p (noteSpare p (coverTrained p (lane (port s p) n).txRole (decide ((port s p).recalTx = some n))
      (coverSend p n (decide ((lane (port s p) n).txRole = roleData) && (port s p).recalTx.isNone)
        (modLane p n txFailedLane s)))) := by
  unfold txLaneFail coverTrained coverSend
  dsimp only
  rw [if_neg hlive]
  simp only [Bool.and_eq_true, decide_eq_true_eq]
  rfl

/-- A port on which the spare `k` has taken send lane `n`'s place in the rotation and its flits. -/
def txReplacedPort (n k : Nat) (x : Port) : Port :=
  spareNoted (flitsMoved n k (txCovered (takePlace n k (onLane k txDataLane (yielded k (onLane n txFailedLane x))))))

theorem keptOn_congr (h : lane y n = lane x n) : keptOn y n = keptOn x n := by rw [keptOn, keptOn, h]

/-- The lanes of that port: lane `n` is failed and empty, and the spare has taken its flits. -/
theorem lane_txReplacedPort (n k : Nat) (x : Port) (m : Nat) : lane (txReplacedPort n k x) m
    = lane (onLane k (takingFlits (keptOn (onLane k txDataLane (onLane n txFailedLane x)) n))
        (onLane n emptiedLane (onLane k txDataLane (onLane n txFailedLane x)))) m := by
  have hyields : (onLane k txDataLane (yielded k (onLane n txFailedLane x))).lanes
      = (onLane k txDataLane (onLane n txFailedLane x)).lanes := congrArg (smod (Lane.at_ k) · k txDataLane) (lanes_yielded k _)
  have hkept := keptOn_congr (lane_congr hyields n)
  refine lane_congr ?_ m
  rw [← hkept]
  exact congrArg (fun ls => smod (Lane.at_ k) (smod (Lane.at_ n) ls n emptiedLane) k
    (takingFlits (keptOn (onLane k txDataLane (yielded k (onLane n txFailedLane x))) n))) hyields

theorem role_txReplacedPort (n k : Nat) (x : Port) (m : Nat) : (lane (txReplacedPort n k x) m).role = (lane x m).role := by
  simp only [lane_txReplacedPort, lane_onLane_eq]
  split <;> split <;> rfl

theorem lane_txReplacedPort_failed (hne : k ≠ n) (x : Port) :
    lane (txReplacedPort n k x) n = emptiedLane (txFailedLane (lane x n)) := by
  rw [lane_txReplacedPort, lane_onLane_other _ _ hne.symm, lane_onLane, lane_onLane_other _ _ hne.symm, lane_onLane]

theorem lane_txReplacedPort_spare (hne : k ≠ n) (x : Port) :
    lane (txReplacedPort n k x) k = takingFlits (keptOn x n) (txDataLane (lane x k)) := by
  have hkept : keptOn (onLane k txDataLane (onLane n txFailedLane x)) n = keptOn x n := by
    simp only [keptOn, lane_onLane_other _ _ hne.symm, lane_onLane]
    rfl
  rw [lane_txReplacedPort, lane_onLane, lane_onLane_other _ _ hne, lane_onLane, lane_onLane_other _ _ hne, hkept]

theorem txReplacedPort_rest (n k : Nat) (x : Port) : (txReplacedPort n k x).state = x.state
    ∧ (txReplacedPort n k x).moved = x.moved ∧ (txReplacedPort n k x).txFault = true
    ∧ (txReplacedPort n k x).spareFault = x.spareFault ∧ (txReplacedPort n k x).order = (takePlace n k x).order := by
  have horder : rotationOf (yielded k (onLane n txFailedLane x)) = rotationOf x :=
    yielded_field (g := rotationOf) (fun _ _ => rfl) k _
  exact ⟨yielded_field (g := Port.state) (fun _ _ => rfl) k _, yielded_field (g := Port.moved) (fun _ _ => rfl) k _, rfl,
    yielded_field (g := Port.spareFault) (fun _ _ => rfl) k _,
    congrArg (fun o => (o.filter (· != k)).map (fun m => if m = n then k else m)) horder⟩

section
variable (hup : (port s p).state = 6) (hrole : (lane (port s p) n).txRole = roleData) (hspare : txSpareOf (port s p) = some k)
include hup hrole hspare

theorem txLaneFail_eq (hrecal : (port s p).recalTx = none) : txLaneFail p n s = downIfDead p (noteSpare p
    (moveFlits p n k (coverTx p (modPort (modLane p k txDataLane (preempt p k (modLane p n txFailedLane s))) p (takePlace n k))))) := by
  have hstands : txSpareOf (port (modLane p n txFailedLane s) p) = some k := by
    rw [((OnePort.refl p [] s).atLane n txFailedLane).self]
    exact (txSpareOf_onLane (by rw [hrole]; decide) (by simp [txFailedLane, roleFailed, roleSpare])).trans hspare
  have hlive : ¬ ((!isUp (port s p)) = true ∨ (lane (port s p) n).txRole = roleFailed) := by rw [isUp_of hup, hrole]; decide
  have hcover : coverSend p n true (modLane p n txFailedLane s) = moveFlits p n k (coverTx p
      (modPort (modLane p k txDataLane (preempt p k (modLane p n txFailedLane s))) p (takePlace n k))) := by
    simp only [coverSend, hstands, if_true]
  rw [txLaneFail_live hlive, hrole, hrecal]
  exact congrArg (fun t => downIfDead p (noteSpare p t)) hcover

/-- The spare takes the place of a send lane that fails, and its flits (R287). -/
theorem txLaneFail_replaces (hc : cleanMem s) (hrecal : (port s p).recalTx = none)
    (hreceive : ∃ m, m < 9 ∧ (lane (port s p) m).role = roleData) (hne : k ≠ n) :
    OnePort p spareParts (txReplacedPort n k (port s p)) s (txLaneFail p n s) := by
  have hcovered := (((((OnePort.refl p spareParts s).atLane n txFailedLane).yielded k (by decide)).atLane k txDataLane).mod
    (takePlace n k)).txCovered (by decide)
  have hnew : OnePort p spareParts (txReplacedPort n k (port s p)) s (noteSpare p (moveFlits p n k (coverTx p
      (modPort (modLane p k txDataLane (preempt p k (modLane p n txFailedLane s))) p (takePlace n k))))) :=
    (hcovered.flitsMoved (hcovered.clean hc) n k).noted
  obtain ⟨m, hm, hdata⟩ := hreceive
  rw [txLaneFail_eq hup hrole hspare hrecal]
  generalize noteSpare p (moveFlits p n k (coverTx p (modPort (modLane p k txDataLane
    (preempt p k (modLane p n txFailedLane s))) p (takePlace n k)))) = t at hnew
  have hserves : (lane (port t p) m).role = roleData := by rw [hnew.self, role_txReplacedPort, hdata]
  have hsends : (lane (port t p) k).txRole = roleData := by
    rw [hnew.self, lane_txReplacedPort_spare hne]
    rfl
  rw [downIfDead_alive hm hserves (txSpareOf_some hspare).1 hsends]
  exact hnew

end

/-! ### Recalibration -/

/-- A lane trains, or is the spare again. -/
def txTrainingLane (l : Lane) : Lane := { l with txRole := roleTraining, todo := [] }
def trainingLane (l : Lane) : Lane := { l with role := roleTraining }
def txSpareLane (l : Lane) : Lane := { l with txRole := roleSpare }
def spareLane (l : Lane) : Lane := { l with role := roleSpare, recalPending := false }

/-- A send lane put in service that is to send other flits after its own. -/
def txDataLaneTaking (fs : List Flit) (l : Lane) : Lane := { l with txRole := roleData, todo := l.todo ++ fs }

/-- A port whose send lane `n` is emptied for a recalibration, the spare `k` in its place (R288). -/
def emptying (n k : Nat) (x : Port) : Port := spareNoted
  { onLane n txTrainingLane (takePlace n k (onLane k (txDataLaneTaking (lane x n).todo) x)) with recalTx := some n }

theorem lane_emptying (n k : Nat) (x : Port) (m : Nat) : lane (emptying n k x) m
    = lane (onLane n txTrainingLane (onLane k (txDataLaneTaking (lane x n).todo) x)) m := lane_congr rfl m

/-- Where a recalibration empties lane `n`, RECAL_ACK goes out when the lane holds no flit. -/
theorem ackIfEmpty_emptying (hrecal : (port s p).recalTx = some n) (hrole : (lane (port s p) n).txRole = roleTraining) :
    ackIfEmpty p s = if (lane (port s p) n).replay = [] then sendLctrl p 3 n (modPort s p (fun x => { x with recalTx := none }))
      else s := by
  simp only [ackIfEmpty, hrecal, hrole, List.isEmpty_iff, and_true]

theorem ackIfEmpty_none (hrecal : (port s p).recalTx = none) : ackIfEmpty p s = s := by simp only [ackIfEmpty, hrecal]

section
variable (hup : (port s p).state = 6)
include hup

theorem recalReq_eq (hrole : (lane (port s p) n).txRole = roleData) (hspare : txSpareOf (port s p) = some k) : recalReq p n s
    = ackIfEmpty p (noteSpare p (modPort (modLane p n txTrainingLane (modPort (modLane p k
      (txDataLaneTaking (lane (port s p) n).todo) s) p (takePlace n k))) p (fun y => { y with recalTx := some n }))) := by
  have hlive : ¬ ((!isUp (port s p)) = true ∨ (lane (port s p) n).txRole ≠ roleData) := by simp [isUp_of hup, hrole]
  unfold recalReq
  dsimp only
  rw [if_neg hlive, hspare]
  rfl

/-- RECAL_REQ: RECAL_ACK answers at once when the lane holds no flit (R288). -/
theorem recalReq_empties (hrole : (lane (port s p) n).txRole = roleData) (hspare : txSpareOf (port s p) = some k) (hne : k ≠ n) :
    ((lane (port s p) n).replay ≠ [] → OnePort p [] (emptying n k (port s p)) s (recalReq p n s))
      ∧ ((lane (port s p) n).replay = [] → ∃ f, f.kind = 2 ∧ f.payload = .lctrl 3 n
        ∧ OnePort p [] (behindLctrl f { emptying n k (port s p) with recalTx := none }) s (recalReq p n s)) := by
  have hmoved : OnePort p [] (emptying n k (port s p)) s (noteSpare p (modPort (modLane p n txTrainingLane (modPort (modLane p k
      (txDataLaneTaking (lane (port s p) n).todo) s) p (takePlace n k))) p (fun y => { y with recalTx := some n }))) :=
    (((((OnePort.refl p [] s).atLane k (txDataLaneTaking (lane (port s p) n).todo)).mod (takePlace n k)).atLane n txTrainingLane).mod
      (fun y => { y with recalTx := some n })).noted
  have hlane : lane (emptying n k (port s p)) n = txTrainingLane (lane (port s p) n) := by
    rw [lane_emptying, lane_onLane, lane_onLane_other _ _ hne.symm]
  rw [recalReq_eq hup hrole hspare]
  generalize noteSpare p (modPort (modLane p n txTrainingLane (modPort (modLane p k
    (txDataLaneTaking (lane (port s p) n).todo) s) p (takePlace n k))) p (fun y => { y with recalTx := some n })) = t at hmoved
  have hreplay : (lane (port t p) n).replay = (lane (port s p) n).replay := by rw [hmoved.self, hlane]; rfl
  rw [ackIfEmpty_emptying (n := n) (by rw [hmoved.self]; rfl) (by rw [hmoved.self, hlane]; rfl), hreplay]
  refine ⟨fun h => ?_, fun h => ?_⟩
  · rwa [if_neg h]
  · rw [if_pos h]
    exact ⟨_, rfl, rfl, (hmoved.mod fun x => { x with recalTx := none }).lctrl 3 n⟩

theorem recalAck_trains (hrecal : (port s p).recal = some ⟨n, 0⟩) (hspare : spareOf (port s p) = some k) : OnePort p []
    (spareNoted { onLane n trainingLane (onLane k dataLane (port s p)) with recal := some ⟨n, 1⟩ }) s (recalAck p n s) := by
  have hlive : ¬ ((!isUp (port s p)) = true ∨ (port s p).recal ≠ some ⟨n, 0⟩) := by simp [isUp_of hup, hrecal]
  unfold recalAck
  dsimp only
  rw [if_neg hlive, hspare]
  exact ((((OnePort.refl p [] s).atLane k dataLane).atLane n trainingLane).mod fun y => { y with recal := some ⟨n, 1⟩ }).noted

/-- The lane that has trained is the spare, with no lane failed that it could cover (R288). -/
theorem recalDone_trained (hrecal : (port s p).recal = some ⟨n, 1⟩)
    (hnone : ∀ m, m < 9 → (lane (port s p) m).role ≠ roleFailed) : ∃ f, f.kind = 2 ∧ f.payload = .lctrl 4 n
      ∧ OnePort p [] (behindLctrl f (spareNoted { onLane n spareLane (port s p) with recal := none })) s (recalDone p n s) := by
  have hfailed : portLanes (fun l => decide (l.role = roleFailed)) (port s p) = [] :=
    List.filter_eq_nil_iff.mpr fun m hm => by simpa using hnone m (List.mem_range.mp hm)
  have hcovered : uncovered (port s p) = false := by simp [uncovered, hfailed]
  unfold recalDone
  rw [isUp_of hup, if_neg Bool.false_ne_true, if_pos hrecal, recalTrained]
  dsimp only
  simp only [hcovered, Bool.false_eq_true, if_false]
  exact ⟨_, rfl, rfl, (((OnePort.refl p [] s).atLane n spareLane).mod fun y => { y with recal := none }).noted.lctrl 4 n⟩

/-- The sender's lane is the spare again, with no send lane failed that it could cover (R288). -/
theorem recalDone_ended (hrecal : (port s p).recal = none) (hrole : (lane (port s p) n).txRole = roleTraining)
    (hnone : ∀ m ∈ rotationOf (port s p), (lane (port s p) m).txRole ≠ roleFailed) :
    OnePort p [] (spareNoted (onLane n txSpareLane { port s p with recalTx := none })) s (recalDone p n s) := by
  have hcovered : txUncovered (port s p) = none := by
    unfold txUncovered
    split
    · rfl
    · exact List.find?_eq_none.mpr fun m hm => by simpa using hnone m hm
  unfold recalDone
  rw [isUp_of hup, if_neg Bool.false_ne_true, hrecal, if_neg (by simp), recalEnded]
  dsimp only
  rw [if_neg (not_not.mpr hrole), hcovered]
  exact (((OnePort.refl p [] s).mod fun y => { y with recalTx := none }).atLane n txSpareLane).noted

/-- The eye of a lane as measured; `low` makes recalibration pending. -/
def measuredLane (height width : Nat) (low : Bool) (l : Lane) : Lane :=
  { l with eyeHeight := height, eyeWidth := width, recalPending := l.recalPending || low }

theorem measureEye_measures (hrole : (lane (port s p) n).role = roleData) (height width : Nat) :
    OnePort p [] (onLane n (measuredLane height width
      (decide (height < bitsAt (reg4 s (portBase p + 0x14)) 7 0) || decide (width < bitsAt (reg4 s (portBase p + 0x14)) 15 8)))
      (port s p)) s (measureEye p n height width s) := by
  have hlive : ¬ ((lane (port s p) n).role ≠ roleData ∨ (!isUp (port s p)) = true) := by simp [isUp_of hup, hrole]
  unfold measureEye
  dsimp only
  rw [if_neg hlive]
  exact (OnePort.refl p [] s).atLane n _

end

end

/-- Settles O37: each command is one change of its port's lanes, and of the ledger and the events of a lane that failed. -/
theorem lanesReplaced : Obligations.LanesReplaced := by
  unfold Obligations.LanesReplaced
  intro s p n k hp hn hne hup hc x moves
  have hx : x = port s p := rfl
  have hmoves : moves = Moves s p := rfl
  clear_value x moves
  subst hx hmoves
  refine ⟨fun hrole hspare hsend hrecal => ?_, fun hrole hspare hreceive hrecal => ?_, fun hrole hspare => ⟨fun hheld => ?_, fun hempty => ?_⟩,
    fun hrecal hspare => ?_, fun hrecal hnone => ?_, fun hrecal hrole hnone => ?_, fun height width hrole => ?_⟩
  · obtain ⟨⟨f, hkind, htells, hmoved⟩, hledger⟩ := laneFailure_replaces hup hrole hrecal hspare hsend
    obtain ⟨hstate, hwaits, hfault, htx, howned⟩ := replacedPort_rest n k f (port s p)
    refine ⟨hmoved.reached (exec_laneFailure hp hn) ⟨hstate.trans hup, ⟨f, hkind, htells, hwaits⟩, ?_, ?_, hfault, htx, howned,
      fun m hmn hmk => lane_replacedPort_other f _ hmn hmk⟩, _, exec_laneFailure hp hn, hledger⟩
    · rw [lane_replacedPort, lane_onLane_other _ _ hne.symm, lane_onLane]
      rfl
    · rw [lane_replacedPort, lane_onLane]
      rfl
  · have hmoved := txLaneFail_replaces hup hrole hspare hc hrecal hreceive hne
    obtain ⟨hstate, hwaits, hfault, hrx, horder⟩ := txReplacedPort_rest n k (port s p)
    have hfailed := lane_txReplacedPort_failed hne (port s p)
    have hserves := lane_txReplacedPort_spare hne (port s p)
    refine hmoved.reached (exec_laneFail hp hn) ⟨hstate.trans hup, hwaits, ?_, ?_, ?_, ?_, hfault, hrx, horder,
      fun m _ => role_txReplacedPort n k _ m, ?_, ?_⟩
    · rw [hfailed]; rfl
    · rw [hfailed]; rfl
    · rw [hfailed]; rfl
    · rw [hserves]; rfl
    · rw [hserves]; rfl
    · rw [hserves, List.append_assoc]; rfl
  · refine ((recalReq_empties hup hrole hspare hne).1 hheld).reached (exec_recalReq hp hn) ⟨?_, ?_, rfl, rfl, rfl⟩
    · rw [lane_emptying, lane_onLane]; rfl
    · rw [lane_emptying, lane_onLane_other _ _ hne, lane_onLane]; rfl
  · obtain ⟨f, hkind, htells, hmoved⟩ := (recalReq_empties hup hrole hspare hne).2 hempty
    have hlane (m : Nat) : lane (behindLctrl f { emptying n k (port s p) with recalTx := none }) m
        = lane (emptying n k (port s p)) m := lane_congr rfl m
    refine hmoved.reached (exec_recalReq hp hn) ⟨?_, ?_, rfl, rfl, f, hkind, htells, rfl⟩
    · rw [hlane, lane_emptying, lane_onLane]; rfl
    · rw [hlane, lane_emptying, lane_onLane_other _ _ hne, lane_onLane]; rfl
  · have hlane (m : Nat) : lane (spareNoted { onLane n trainingLane (onLane k dataLane (port s p)) with recal := some ⟨n, 1⟩ }) m
        = lane (onLane n trainingLane (onLane k dataLane (port s p))) m := lane_congr rfl m
    refine (recalAck_trains hup hrecal hspare).reached (exec_recalAck hp hn) ⟨?_, ?_, rfl⟩
    · rw [hlane, lane_onLane]; rfl
    · rw [hlane, lane_onLane_other _ _ hne, lane_onLane]; rfl
  · obtain ⟨f, hkind, htells, hmoved⟩ := recalDone_trained hup hrecal hnone
    have hlane : lane (behindLctrl f (spareNoted { onLane n spareLane (port s p) with recal := none })) n
        = spareLane (lane (port s p) n) := (lane_congr rfl n).trans (lane_onLane n spareLane (port s p))
    refine hmoved.reached (exec_recalDone hp hn) ⟨?_, ?_, rfl, f, hkind, htells, rfl⟩
    · rw [hlane]; rfl
    · rw [hlane]; rfl
  · have hlane : lane (spareNoted (onLane n txSpareLane { port s p with recalTx := none })) n
        = txSpareLane (lane (port s p) n) := (lane_congr rfl n).trans (lane_onLane n txSpareLane (port s p))
    refine (recalDone_ended hup hrecal hrole hnone).reached (exec_recalDone hp hn) ⟨?_, rfl, rfl⟩
    rw [hlane]
    rfl
  · refine (measureEye_measures hup hrole height width).reached (exec_eyeMonitor hp hn height width) ?_
    simp only [lane_onLane, measuredLane, Bool.decide_or]

end Sys2Proof.Machine
end

section
/-! Lanes that fail on an UP port, in whatever role they are (R279, R286): the lane is failed, or the port has gone down. -/

namespace Sys2Proof.Machine

/-- What the failure of a lane may move besides its port, on a port that may go down. -/
abbrev failParts : List Part := .held :: .phases :: faultParts

section
variable {p n : Nat} {x : Port} {s t : State}

theorem OnePort.downIfDead (h : OnePort p failParts x s t) (hp : p < 48) :
    ∃ y, (y = x ∨ y.state = 1) ∧ OnePort p failParts y s (downIfDead p t) := by
  unfold Machine.downIfDead
  dsimp only
  split
  · obtain ⟨y, hy, hdown⟩ := portDown_goes hp t
    exact ⟨y, .inr hy.state, h.trans (hdown.mono (by decide))⟩
  · exact ⟨x, .inl rfl, h⟩

/-! ### A receive lane -/

theorem OnePort.recalOver {l : List Part} (h : OnePort p l x s t) (mine : Bool) :
    ∃ y, y.lanes = x.lanes ∧ OnePort p l y s (recalOver p mine t) := by
  cases mine with
  | false => exact ⟨x, rfl, h⟩
  | true => exact ⟨{ x with recal := none }, rfl, h.mod fun y => { y with recal := none }⟩

/-- The spare that covers a failed lane is another lane. -/
theorem OnePort.coverReceive (h : OnePort p failParts x s t) (hfailed : (lane x n).role = roleFailed) (old : Nat) (free : Bool) :
    ∃ y, (lane y n).role = roleFailed ∧ OnePort p failParts y s (coverReceive p old free t) := by
  unfold Machine.coverReceive
  split
  · exact ⟨Machine.covered x, hfailed, h.covered (by decide)⟩
  · split
    · split
      next k hspare =>
        have hne : n ≠ k := fun hnk => by
          have hrole := (spareOf_some hspare).2
          rw [h.self, ← hnk, hfailed] at hrole
          exact absurd hrole (by decide)
        refine ⟨Machine.spareTakes k x, ?_, h.spareTakes k (by decide)⟩
        rw [lane_spareTakes, lane_onLane_other _ _ hne, hfailed]
      next => exact ⟨x, hfailed, h⟩
    · exact ⟨x, hfailed, h⟩

/-- A receive lane in service that fails (R286). -/
theorem laneFailure_fails (hp : p < 48) (hup : (port s p).state = 6) (hrole : (lane (port s p) n).role ≠ roleFailed) :
    ∃ y, ((lane y n).role = roleFailed ∨ y.state = 1) ∧ OnePort p failParts y s (laneFailure p n s) := by
  obtain ⟨f, -, -, hout⟩ := (OnePort.refl p failParts s).out n (by decide)
  obtain ⟨y, hlanes, hended⟩ := hout.recalOver (recalOf n (port s p))
  have hfailed : (lane y n).role = roleFailed := by
    rw [lane_congr (x := onLane n failedLane (port s p)) hlanes, lane_onLane]
    rfl
  obtain ⟨z, hz, hcover⟩ := hended.coverReceive hfailed (lane (port s p) n).role ((port s p).recal.isNone || recalOf n (port s p))
  obtain ⟨w, hw, hdown⟩ := hcover.noted.downIfDead hp
  rw [laneFailure_live (by rw [hup]; exact not_or.mpr ⟨by decide, hrole⟩)]
  refine ⟨w, ?_, hdown⟩
  rcases hw with rfl | hw
  · exact .inl hz
  · exact .inr hw

/-! ### A send lane -/

theorem txRole_flitsMoved (n k : Nat) (x : Port) (m : Nat) : (lane (flitsMoved n k x) m).txRole = (lane x m).txRole := by
  have hlanes : lane (onLane n emptiedLane (unlined n x)) m = lane (onLane n emptiedLane x) m := lane_congr rfl m
  rw [flitsMoved, lane_onLane_eq, hlanes, lane_onLane_eq]
  split <;> split <;> rfl

/-- A port on which what lane `n` held waits to go out on any lane. -/
def flitsSpread (n : Nat) (x : Port) : Port :=
  { onLane n emptiedLane (unlined n x) with moved := x.moved ++ keptOn x n }

theorem OnePort.flitsSpread {l : List Part} (h : OnePort p l x s t) (hc : cleanMem t) (n : Nat) :
    OnePort p l (flitsSpread n x) s (spreadFlits p n t) := by
  have hread := h.unlined hc n
  have hkept : keptOn (port (readReplay p n t) p) n = keptOn x n := by
    rw [hread.self]
    rfl
  have hspread := (hread.atLane n emptiedLane).mod (fun y => { y with moved := y.moved ++ keptOn x n })
  unfold spreadFlits
  dsimp only
  rw [hkept]
  exact hspread

theorem txRole_flitsSpread (n : Nat) (x : Port) (m : Nat) : (lane (flitsSpread n x) m).txRole = (lane x m).txRole := by
  have hlanes : lane (flitsSpread n x) m = lane (onLane n emptiedLane x) m := lane_congr rfl m
  rw [hlanes, lane_onLane_eq]
  split <;> rfl

theorem OnePort.coverSend (h : OnePort p spareParts x s t) (hc : cleanMem s) (hfailed : (lane x n).txRole = roleFailed) (free : Bool) :
    ∃ y, (lane y n).txRole = roleFailed ∧ OnePort p spareParts y s (coverSend p n free t) := by
  unfold Machine.coverSend
  split
  next k hspare =>
    have hspare : txSpareOf (port t p) = some k := by
      cases free with
      | false => simp at hspare
      | true => exact hspare
    have hne : n ≠ k := fun hnk => by
      have hrole := (txSpareOf_some hspare).2
      rw [h.self, ← hnk, hfailed] at hrole
      exact absurd hrole (by decide)
    have hcovered := (((h.yielded k (by decide)).atLane k txDataLane).mod (takePlace n k)).txCovered (by decide)
    refine ⟨_, ?_, hcovered.flitsMoved (hcovered.clean hc) n k⟩
    have hlane : lane (Machine.txCovered (takePlace n k (onLane k txDataLane (Machine.yielded k x)))) n = lane (Machine.yielded k x) n :=
      (lane_congr rfl n).trans (lane_onLane_other txDataLane (Machine.yielded k x) hne)
    rw [txRole_flitsMoved, hlane, lane_congr (lanes_yielded k x), hfailed]
  next => exact ⟨Machine.flitsSpread n x, by rw [txRole_flitsSpread, hfailed], h.flitsSpread (h.clean hc) n⟩

theorem OnePort.coverTrained {l : List Part} (h : OnePort p l x s t) (hl : ∀ a ∈ Part.safe :: eventParts, a ∈ l) (old : Nat)
    (mine : Bool) : ∃ y, y.lanes = x.lanes ∧ OnePort p l y s (coverTrained p old mine t) := by
  have hcover : ∃ y, y.lanes = x.lanes ∧ OnePort p l y s (if old = roleTraining then coverTx p t else t) := by
    split
    · exact ⟨Machine.txCovered x, rfl, h.txCovered hl⟩
    · exact ⟨x, rfl, h⟩
  obtain ⟨y, hy, hcover⟩ := hcover
  cases mine with
  | false => exact ⟨y, hy, hcover⟩
  | true => exact ⟨{ y with recalTx := none }, hy, hcover.mod fun y => { y with recalTx := none }⟩

/-- A send lane that fails (R279, R287). -/
theorem txLaneFail_fails (hp : p < 48) (hc : cleanMem s) (hup : (port s p).state = 6) :
    (lane (port (txLaneFail p n s) p) n).txRole = roleFailed ∨ (port (txLaneFail p n s) p).state = 1 := by
  by_cases hrole : (lane (port s p) n).txRole = roleFailed
  · have hstill : txLaneFail p n s = s := if_pos (.inr hrole)
    rw [hstill]
    exact .inl hrole
  · obtain ⟨y, hfailed, hcover⟩ := ((OnePort.refl p spareParts s).atLane n txFailedLane).coverSend hc
      (congrArg Lane.txRole (lane_onLane n txFailedLane (port s p)))
      (decide ((lane (port s p) n).txRole = roleData) && (port s p).recalTx.isNone)
    obtain ⟨z, hlanes, htrained⟩ := hcover.coverTrained (by decide) (lane (port s p) n).txRole (decide ((port s p).recalTx = some n))
    obtain ⟨w, hw, hdown⟩ := (htrained.noted.mono (m := failParts) (by decide)).downIfDead hp
    rw [txLaneFail_live (by rw [isUp_of hup]; exact not_or.mpr ⟨Bool.false_ne_true, hrole⟩), hdown.self]
    rcases hw with rfl | hw
    · exact .inl ((congrArg Lane.txRole (lane_congr (y := spareNoted z) hlanes n)).trans hfailed)
    · exact .inr hw

end

end Sys2Proof.Machine
end

section
/-! Flits that arrive (R276, R277, R279, R281, R282, R422): what a header and a payload make of their port, and the timeout of the
replay buffer. -/

namespace Sys2Proof.Machine

section
variable {l : List Part} {p n m : Nat} {x : Port} {s t : State} {f g : Flit} {c : FlitCheck}

/-! ### Commands -/

theorem exec_flitReceive (hp : p < 48) (hn : n < 9) :
    exec (.flitReceive p n f c) s = .next (settleEngines s (receiveFlit p n f c s)) := if_pos (by simp [hp, hn])

theorem exec_replayTimeout (hp : p < 48) (hn : n < 9) : exec (.replayTimeout p n) s = .next (replayTimeout p n s) :=
  if_pos (by simp [hp, hn])

/-- Where no operation waits for a buffer, the engine arms none after a command that leaves the links alone. -/
theorem settleEngines_armed (harmed : enginesArmed s) (hlink : t.link = s.link) : settleEngines s t = settle s t := by
  have harmed' : enginesArmed t := by
    unfold enginesArmed at *
    rwa [hlink]
  rw [settleEngines, armEngines_armed harmed']

theorem OnePort.settled (h : OnePort p l x s t) (harmed : enginesArmed s) (hlink : .link ∉ Part.ports :: l)
    (hl : ∀ a ∈ settleParts, a ∈ l) : OnePort p l x s (settleEngines s t) := by
  rw [settleEngines_armed harmed (h.part .link hlink)]
  exact h.also (settle_sameBut ..) hl

/-! ### Bad flits -/

theorem receiveFlit_bad (hup : (port s p).state = 6) (hrole : (lane (port s p) n).role < 2) (hbad : badFlit f c = true) :
    receiveFlit p n f c s = discardFlit p n (countFec p n c s) :=
  (if_neg (by rw [isUp_of hup]; simp; omega)).trans (if_pos hbad)

theorem countFec_sameBut (p n : Nat) (c : FlitCheck) (s : State) : sameBut [.counters] s (countFec p n c s) :=
  sameBut_trans (count_sameBut ..) (count_sameBut ..)

/-- A NAK is due on a lane. -/
def nakDueLane (l : Lane) : Lane := { l with nakDue := true }

/-- A flit of lane `n` is discarded and counted (R277). -/
def discarded (p n : Nat) (s : State) : State := count (laneReg p n 0xC) 1 (modLane p n nakDueLane s)

theorem OnePort.discarded (h : OnePort p l x s t) (n : Nat) (hl : ∀ a ∈ [Part.counters], a ∈ l) :
    OnePort p l (onLane n nakDueLane x) s (discarded p n t) := (h.atLane n nakDueLane).also (count_sameBut ..) hl

theorem discardFlit_eq (p n : Nat) (s : State) : discardFlit p n s
    = if 4 ≤ (lane (port s p) n).naks then laneFailure p n (discarded p n s) else discarded p n s := rfl

theorem badFlit_of (h : crcGood f c = false ∨ c.codeword = false ∨ (2 < f.kind ∧ f.kind ≠ 15) ∨ 232 < f.length) :
    badFlit f c = true := by
  rcases h with h | h | ⟨hkind, hframe⟩ | h
  · simp [badFlit, h]
  · simp [badFlit, h]
  · simp [badFlit, hkind, hframe]
  · simp [badFlit, h]

section
variable (hup : (port s p).state = 6) (hrole : (lane (port s p) n).role < 2) (hbad : badFlit f c = true)
include hup hrole hbad

/-- A NAK is due after a bad flit (R279). -/
theorem receiveFlit_nak (hfew : (lane (port s p) n).naks < 4) :
    OnePort p settleParts (onLane n nakDueLane (port s p)) s (receiveFlit p n f c s)
      ∧ (receiveFlit p n f c s).reg.ctr = (count (laneReg p n 0xC) 1 (countFec p n c s)).reg.ctr := by
  have hcounted := (OnePort.refl p settleParts s).also (countFec_sameBut p n c s) (by decide)
  rw [receiveFlit_bad hup hrole hbad, discardFlit_eq, hcounted.self, if_neg (Nat.not_le.mpr hfew)]
  exact ⟨hcounted.discarded n (by decide),
    count_ctr_congr (t := modLane p n nakDueLane (countFec p n c s)) (s := countFec p n c s) rfl _ _⟩

/-- After four NAKs for the flit expected the next bad one makes the lane failed (R286, log 124). -/
theorem receiveFlit_fails (hp : p < 48) (hmany : 4 ≤ (lane (port s p) n).naks) :
    ∃ y, ((lane y n).role = roleFailed ∨ y.state = 1) ∧ OnePort p failParts y s (receiveFlit p n f c s) := by
  have hcounted := (OnePort.refl p failParts s).also (countFec_sameBut p n c s) (by decide)
  have hdiscarded := hcounted.discarded n (by decide)
  have hlive : (lane (port (discarded p n (countFec p n c s)) p) n).role ≠ roleFailed := by
    rw [hdiscarded.self, lane_onLane]
    exact Nat.ne_of_lt hrole
  obtain ⟨y, hy, hfails⟩ := laneFailure_fails hp (by rw [hdiscarded.self]; exact hup) hlive
  rw [receiveFlit_bad hup hrole hbad, discardFlit_eq, hcounted.self, if_pos hmany]
  exact ⟨y, hy, hdiscarded.trans hfails⟩

end

/-! ### Headers -/

theorem takeAck_nothing (h : (lane (port s p) m).replay = []) (e : Nat) (nak : Bool) : takeAck p m e nak s = s := by
  simp only [takeAck, h]

/-- A port one of whose lanes has `k` flits acknowledged. -/
def ackedLane (k : Nat) (l : Lane) : Lane :=
  { l with replay := l.replay.drop k, again := min l.again (l.replay.length - k), resends := 0 }

/-- The buffer lines of the first `k` flits that lane `m` keeps are forgotten. -/
def ackedLines (m k : Nat) (x : Port) : Port := { x with
  txLine := x.txLine.filter (fun z => !(z.1.1 == m && ((lane x m).replay.take k).any (fun g => g.laneSeq == z.1.2))) }

theorem takeAck_frees {gs : List Flit} {e : Nat} (hheld : (lane (port s p) m).replay = g :: gs)
    (hwithin : (e + 256 - g.laneSeq) % 256 ≤ gs.length + 1) : takeAck p m e false s = ackIfEmpty p
      (if (e + 256 - g.laneSeq) % 256 = 0 then s
        else modLane p m (ackedLane ((e + 256 - g.laneSeq) % 256)) (modPort s p (ackedLines m ((e + 256 - g.laneSeq) % 256)))) := by
  have hlen : ¬ (lane (port s p) m).replay.length < (e + 256 - g.laneSeq) % 256 := by
    rw [hheld, List.length_cons]
    omega
  have hlines : modPort s p (ackedLines m ((e + 256 - g.laneSeq) % 256)) = modPort s p (fun x => { x with
      txLine := x.txLine.filter (fun z => !(z.1.1 == m
        && ((lane (port s p) m).replay.take ((e + 256 - g.laneSeq) % 256)).any (fun g => g.laneSeq == z.1.2))) }) := rfl
  rw [hlines]
  unfold takeAck
  dsimp only
  split
  next h => rw [hheld] at h; cases h
  next g' gs' h =>
    rw [hheld] at h
    obtain ⟨rfl, rfl⟩ := List.cons.inj h
    rw [if_neg hlen]
    rfl

/-- What an acknowledgement of lane `m` leaves: its oldest `k` flits are gone, and nothing of credits or of what a lane expects moved. -/
structure Acked (m k : Nat) (x y : Port) : Prop where
  replay : (lane y m).replay = (lane x m).replay.drop k
  expects : ∀ n, (lane y n).rxNext = (lane x n).rxNext
  credit : y.credit = x.credit
  crSeen : y.crSeen = x.crSeen

theorem OnePort.acked {gs : List Flit} {e : Nat} (h : OnePort p l x s t) (hrecal : x.recalTx = none)
    (hheld : (lane x m).replay = g :: gs) (hwithin : (e + 256 - g.laneSeq) % 256 ≤ gs.length + 1) :
    ∃ y, Acked m ((e + 256 - g.laneSeq) % 256) x y ∧ OnePort p l y s (takeAck p m e false t) := by
  obtain rfl := h.self
  rw [takeAck_frees hheld hwithin]
  split
  next hzero =>
    rw [ackIfEmpty_none hrecal, hzero]
    exact ⟨_, ⟨rfl, fun _ => rfl, rfl, rfl⟩, h⟩
  next =>
    generalize (e + 256 - g.laneSeq) % 256 = k
    have hmoved := (h.mod (ackedLines m k)).atLane m (ackedLane k)
    rw [ackIfEmpty_none (by rw [hmoved.self]; exact hrecal)]
    refine ⟨onLane m (ackedLane k) (ackedLines m k (port t p)), ⟨?_, fun n => ?_, rfl, rfl⟩, hmoved⟩
    · rw [lane_onLane, lane_congr (x := port t p) rfl]
      rfl
    · rw [lane_onLane_eq]
      split <;> rfl

/-- A port that has been returned credits. -/
def credited (v total : Nat) (x : Port) : Port := { x with
  credit := smod 0 x.credit v (· + (total + 4096 - sget 0 x.crSeen v) % 4096), crSeen := sset 0 x.crSeen v total }

theorem OnePort.credited (h : OnePort p l x s t) (v total : Nat) : OnePort p l (credited v total x) s (takeCredit p v total t) :=
  h.mod (Machine.credited v total)

theorem credit_credited (v total : Nat) (x : Port) :
    sget 0 (credited v total x).credit v = sget 0 x.credit v + (total + 4096 - sget 0 x.crSeen v) % 4096 := sget_sset_same ..

/-- What the header of a good flit does (R279, R282). -/
def headerTaken (p n : Nat) (f : Flit) (c : FlitCheck) (s : State) : State :=
  takeCredit p f.crVc f.crTotal (takeAck p f.ackLane f.ackSeq f.nak (countFec p n c s))

/-- A header that acknowledges a lane with nothing to acknowledge returns credits. -/
theorem headerTaken_credits (hidle : (lane (port s p) f.ackLane).replay = []) :
    OnePort p settleParts (credited f.crVc f.crTotal (port s p)) s (headerTaken p n f c s) := by
  have hcounted := (OnePort.refl p settleParts s).also (countFec_sameBut p n c s) (by decide)
  rw [headerTaken, takeAck_nothing (by rw [hcounted.self, hidle])]
  exact hcounted.credited _ _

/-! ### Good flits -/

/-- A good flit arrives on a lane in service of an UP port. -/
structure Arrives (s : State) (p n : Nat) (f : Flit) (c : FlitCheck) : Prop where
  up : (port s p).state = 6
  serves : (lane (port s p) n).role < 2
  good : badFlit f c = false

theorem badFlit_good (hcrc : crcGood f c = true) (hword : c.codeword = true) (hkind : f.kind ≤ 2 ∨ f.kind = 15)
    (hlen : f.length ≤ 232) : badFlit f c = false := by
  have hknown : (decide (f.kind ≤ 2) || decide (f.kind = 15)) = true := by simpa using hkind
  rw [badFlit, hcrc, hword, hknown, decide_eq_false (Nat.not_lt.mpr hlen)]
  rfl

/-- What the payload of a good flit does, once its header is taken: `x` is the port as the flit found it. -/
def payloadTaken (p n : Nat) (f : Flit) (x : Port) (t : State) : State :=
  match f.kind, f.payload with
  | 15, .frame k _ _ => if k = n then t else laneFailure p n t
  | 1, _ => if f.laneSeq ≠ (lane x n).rxNext ∨ !hasPlace x f then t else acceptData p f (nextExpected p n f t)
  | 2, .lctrl code k => if f.laneSeq ≠ (lane x n).rxNext then t else acceptLctrl p code k (nextExpected p n f t)
  | 2, _ => if f.laneSeq ≠ (lane x n).rxNext then t else nextExpected p n f t
  | _, _ => t

theorem Arrives.receive (h : Arrives s p n f c) :
    receiveFlit p n f c s = payloadTaken p n f (port s p) (headerTaken p n f c s) := by
  have hlive : ¬ ((!isUp (port s p)) = true ∨ 2 ≤ (lane (port s p) n).role) := by
    rw [isUp_of h.up]
    exact not_or.mpr ⟨Bool.false_ne_true, Nat.not_le.mpr h.serves⟩
  unfold receiveFlit
  dsimp only
  rw [if_neg hlive, h.good, if_neg Bool.false_ne_true]
  rfl

theorem Arrives.idle (h : Arrives s p n f c) (hkind : f.kind = 0) : receiveFlit p n f c s = headerTaken p n f c s := by
  rw [h.receive, payloadTaken, hkind]
  rfl

theorem Arrives.frame {q w : Nat} (h : Arrives s p n f c) (hkind : f.kind = 15) (hframe : f.payload = .frame n q w) :
    receiveFlit p n f c s = headerTaken p n f c s := by
  rw [h.receive, payloadTaken, hkind, hframe]
  exact if_pos rfl

theorem Arrives.data (h : Arrives s p n f c) (hkind : f.kind = 1) : receiveFlit p n f c s
    = if f.laneSeq ≠ (lane (port s p) n).rxNext ∨ !hasPlace (port s p) f then headerTaken p n f c s
      else acceptData p f (nextExpected p n f (headerTaken p n f c s)) := by
  rw [h.receive, payloadTaken, hkind]
  rfl

/-! ### DATA flits in the order of their VC -/

/-- The flit that a lane expects has come. -/
def expectingLane (f : Flit) (l : Lane) : Lane := { l with rxNext := (f.laneSeq + 1) % 256, naks := 0 }

theorem OnePort.expecting (h : OnePort p l x s t) (n : Nat) (f : Flit) :
    OnePort p l (onLane n (expectingLane f) x) s (nextExpected p n f t) := h.atLane n (expectingLane f)

/-- A flit waits in the reorder buffer. -/
def reordering (f : Flit) (x : Port) : Port := { x with reorder := x.reorder ++ [f] }

/-- A flit of the reorder buffer is the next of VC `v`, after `e` of them; its credit is freed; its message is over. -/
def inOrder (f : Flit) (v e : Nat) (x : Port) : Port := { x with
  reorder := x.reorder.erase f, vcSeqRx := sset 0 x.vcSeqRx v ((e + 1) % 65536), rxLine := x.rxLine.filter (fun z => z.1 != (v, e)) }
def creditFreed (v : Nat) (x : Port) : Port := { x with freed := smod 0 x.freed v (fun n => (n + 1) % 4096) }
def messageOver (f : Flit) (x : Port) : Port := { x with
  inflow := x.inflow.filter (fun z => z.1 != flowOf f), broken := x.broken.filter (· != flowOf f) }

/-- How far the vc_seq of a flit lies ahead of the one expected, modulo 65,536. -/
def aheadBy (x : Port) (f : Flit) : Nat := (f.vcSeq + 65536 - sget 0 x.vcSeqRx f.vc) % 65536

theorem hadFlit_empty (hreorder : x.reorder = []) : hadFlit x f = decide (32768 ≤ aheadBy x f) := by
  rw [hadFlit, hreorder]
  exact Bool.or_false _

theorem hasPlace_empty (hreorder : x.reorder = []) : hasPlace x f = true := by simp [hasPlace, hreorder]

theorem acceptData_had (hreorder : (port s p).reorder = []) (hbehind : 32768 ≤ aheadBy (port s p) f) : acceptData p f s = s :=
  if_pos (by rw [hadFlit_empty hreorder]; exact decide_eq_true hbehind)

theorem acceptData_new (hc : cleanMem s) (hreorder : (port s p).reorder = []) (hahead : aheadBy (port s p) f < 32768) :
    acceptData p f s = drainReorder p f.vc 1 (modPort s p (reordering f)) := by
  have hnew : ¬ (hadFlit (port s p) f = true) := by
    rw [hadFlit_empty hreorder]
    simpa using hahead
  unfold acceptData
  dsimp only
  rw [if_neg hnew, bufferWrite_clean hc, hreorder]
  rfl

/-- A flit whose vc_seq lies ahead waits (R281). -/
theorem drainReorder_waits (hreorder : (port s p).reorder = [f]) (hseq : f.vcSeq ≠ sget 0 (port s p).vcSeqRx f.vc) (k : Nat) :
    drainReorder p f.vc (k + 1) s = s := by
  have hnone : [f].find? (fun g => decide (g.vc = f.vc) && decide (g.vcSeq = sget 0 (port s p).vcSeqRx f.vc)) = none := by
    simp [hseq]
  unfold drainReorder
  dsimp only
  rw [hreorder, hnone]

/-- The flit expected leaves the buffer, and nothing follows it. -/
theorem drainReorder_next (hc : cleanMem s) (hreorder : (port s p).reorder = [f])
    (hseq : f.vcSeq = sget 0 (port s p).vcSeqRx f.vc) :
    drainReorder p f.vc 1 s = leaveBuffer p f (modPort s p (inOrder f f.vc f.vcSeq)) := by
  have hfound : [f].find? (fun g => decide (g.vc = f.vc) && decide (g.vcSeq = f.vcSeq)) = some f := by simp
  have hclean : cleanMem (modPort s p (inOrder f f.vc f.vcSeq)) := hc
  unfold drainReorder
  dsimp only
  rw [hreorder, ← hseq, hfound]
  generalize ((port s p).rxLine.find? (fun y => y.1 == (f.vc, f.vcSeq))).map (·.2) = line
  cases line with
  | none => rfl
  | some a =>
    change leaveBuffer p (readLine p a f (modPort s p (inOrder f f.vc f.vcSeq))).1
      (readLine p a f (modPort s p (inOrder f f.vc f.vcSeq))).2 = _
    rw [readLine_clean hclean]

/-- A flit for this module that is the whole rest of an unbroken message, and says no more than its bytes, is delivered. -/
theorem leaveBuffer_delivers {b : List Byte} (hdst : f.dst = nodeId s) (heom : f.eom = true) (hbytes : f.payload = .bytes b)
    (hwhole : (port s p).broken.contains (flowOf f) = false) :
    leaveBuffer p f s = modPort (modPort s p (creditFreed f.vc)) p (messageOver f) := by
  have hhere : forHere (modPort s p (creditFreed f.vc)) f = true := by
    have hnode : nodeId (modPort s p (creditFreed f.vc)) = nodeId s := rfl
    simp [forHere, hnode, hdst]
  have hkept : (port (modPort s p (creditFreed f.vc)) p).broken.contains (flowOf f) = false := by
    rw [port_modPort]
    exact hwhole
  have htake : takeFlit p f (modPort s p (creditFreed f.vc)) = modPort (modPort s p (creditFreed f.vc)) p (messageOver f) := by
    unfold takeFlit
    simp only [hbytes, heom, hkept, deliver]
    rfl
  exact (if_pos hhere).trans htake

/-! ### What an accepted DATA flit makes of its port -/

/-- The port as the header of `f` and its place in its lane's order leave it. -/
def arrived (n : Nat) (f : Flit) (x : Port) : Port := onLane n (expectingLane f) (credited f.crVc f.crTotal x)

/-- The port once `f`, the flit expected, is delivered. -/
def deliveredPort (n : Nat) (f : Flit) (x : Port) : Port :=
  messageOver f (creditFreed f.vc (inOrder f f.vc f.vcSeq (reordering f (arrived n f x))))

theorem rxNext_arrived {y : Port} (hlanes : y.lanes = (arrived n f x).lanes) : (lane y n).rxNext = (f.laneSeq + 1) % 256 := by
  rw [lane_congr (x := arrived n f x) hlanes, arrived, lane_onLane]
  rfl

/-- A good DATA flit arrives that acknowledges nothing, and no flit waits in the reorder buffer. -/
structure DataArrives (s : State) (p n : Nat) (f : Flit) (c : FlitCheck) : Prop extends Arrives s p n f c where
  kind : f.kind = 1
  nothing : (lane (port s p) f.ackLane).replay = []
  reorder : (port s p).reorder = []

namespace DataArrives

/-- A flit of another lane_seq is discarded, but for its header (R279). -/
theorem unexpected (h : DataArrives s p n f c) (hseq : f.laneSeq ≠ (lane (port s p) n).rxNext) :
    OnePort p settleParts (credited f.crVc f.crTotal (port s p)) s (receiveFlit p n f c s) := by
  rw [h.data h.kind, if_pos (.inl hseq)]
  exact headerTaken_credits h.nothing

theorem arrives (h : DataArrives s p n f c) :
    OnePort p settleParts (arrived n f (port s p)) s (nextExpected p n f (headerTaken p n f c s)) :=
  (headerTaken_credits h.nothing).expecting n f

theorem accepted (h : DataArrives s p n f c) (hseq : f.laneSeq = (lane (port s p) n).rxNext) :
    receiveFlit p n f c s = acceptData p f (nextExpected p n f (headerTaken p n f c s)) := by
  rw [h.data h.kind, if_neg (by simp [hseq, hasPlace_empty h.reorder])]

/-- A flit that the port has had is discarded (R281). -/
theorem had (h : DataArrives s p n f c) (hseq : f.laneSeq = (lane (port s p) n).rxNext) (hbehind : 32768 ≤ aheadBy (port s p) f) :
    OnePort p settleParts (arrived n f (port s p)) s (receiveFlit p n f c s) := by
  rw [h.accepted hseq, acceptData_had (by rw [h.arrives.self]; exact h.reorder) (by rw [h.arrives.self]; exact hbehind)]
  exact h.arrives

theorem waiting (h : DataArrives s p n f c) : (reordering f (arrived n f (port s p))).reorder = [f] :=
  congrArg (· ++ [f]) h.reorder

theorem new (h : DataArrives s p n f c) (hc : cleanMem s) (hseq : f.laneSeq = (lane (port s p) n).rxNext)
    (hahead : aheadBy (port s p) f < 32768) : ∃ t, OnePort p settleParts (reordering f (arrived n f (port s p))) s t
      ∧ receiveFlit p n f c s = drainReorder p f.vc 1 t := by
  refine ⟨_, h.arrives.mod (reordering f), ?_⟩
  rw [h.accepted hseq, acceptData_new (h.arrives.clean hc) (by rw [h.arrives.self]; exact h.reorder)
    (by rw [h.arrives.self]; exact hahead)]

/-- A flit whose vc_seq lies ahead waits in the reorder buffer (R281). -/
theorem ahead (h : DataArrives s p n f c) (hc : cleanMem s) (hseq : f.laneSeq = (lane (port s p) n).rxNext)
    (hahead : aheadBy (port s p) f < 32768) (hvc : f.vcSeq ≠ sget 0 (port s p).vcSeqRx f.vc) :
    OnePort p settleParts (reordering f (arrived n f (port s p))) s (receiveFlit p n f c s) := by
  obtain ⟨t, ht, hreceive⟩ := h.new hc hseq hahead
  rw [hreceive, drainReorder_waits (by rw [ht.self]; exact h.waiting) (by rw [ht.self]; exact hvc)]
  exact ht

/-- The flit that its lane and its VC expect is delivered (R279, R281, R282). -/
theorem delivered {b : List Byte} (h : DataArrives s p n f c) (hc : cleanMem s) (hseq : f.laneSeq = (lane (port s p) n).rxNext)
    (hahead : aheadBy (port s p) f < 32768) (hvc : f.vcSeq = sget 0 (port s p).vcSeqRx f.vc) (heom : f.eom = true)
    (hdst : f.dst = nodeId s) (hbytes : f.payload = .bytes b) (hwhole : (port s p).broken.contains (flowOf f) = false) :
    OnePort p settleParts (deliveredPort n f (port s p)) s (receiveFlit p n f c s) := by
  obtain ⟨t, ht, hreceive⟩ := h.new hc hseq hahead
  have hordered := ht.mod (inOrder f f.vc f.vcSeq)
  have hnode : nodeId (modPort t p (inOrder f f.vc f.vcSeq)) = nodeId s :=
    congrArg (bitsAt · 15 0) (reg4_congr (hordered.part .held (by decide)) _)
  rw [hreceive, drainReorder_next (ht.clean hc) (by rw [ht.self]; exact h.waiting) (by rw [ht.self]; exact hvc),
    leaveBuffer_delivers (hdst.trans hnode.symm) heom hbytes (by rw [hordered.self]; exact hwhole)]
  exact (hordered.mod (creditFreed f.vc)).mod (messageOver f)

end DataArrives

/-! ### The timeout of the replay buffer -/

/-- A lane all of whose flits are to be resent (R279). -/
def resendingLane (l : Lane) : Lane := { l with again := l.replay.length, resends := l.resends + 1 }

section
variable (hup : (port s p).state = 6) (hheld : (lane (port s p) n).replay ≠ [])
include hup hheld

theorem replayTimeout_eq : replayTimeout p n s
    = if 4 ≤ (lane (port s p) n).resends then txLaneFail p n s else modLane p n resendingLane s :=
  if_neg (by rw [isUp_of hup]; simpa using hheld)

theorem replayTimeout_resends (hfew : (lane (port s p) n).resends < 4) :
    OnePort p [] (onLane n resendingLane (port s p)) s (replayTimeout p n s) := by
  rw [replayTimeout_eq hup hheld, if_neg (Nat.not_le.mpr hfew)]
  exact (OnePort.refl p [] s).atLane n resendingLane

end

end

/-- Settles O36: a flit is one change of its port by its CRC, its header and its place in the order, and then the settling. -/
theorem flitsReceived : Obligations.FlitsReceived := by
  unfold Obligations.FlitsReceived
  intro s p n hp hn hup hrole hc harmed x moves
  have hx : x = port s p := rfl
  have hmoves : moves = Moves s p := rfl
  clear_value x moves
  subst hx hmoves
  intro credits
  have hend {y : Port} {t : State} (h : OnePort p settleParts y s t) : OnePort p settleParts y s (settleEngines s t) :=
    h.settled harmed (by decide) (fun _ h => h)
  refine ⟨fun f c hbad => ⟨fun hfew => ⟨?_, ?_⟩, fun hmany => ?_⟩,
    fun f g gs c hcrc hword hkind hlen hnak hrecal hheld hwithin => ?_, fun f b c hcrc hword hkind hlen hidle hbytes hreorder hlow hlow' => ?_,
    fun f q w c hcrc hword hkind hlen hidle hframe => ?_, fun hheld => ⟨fun hfew => ?_, fun hmany => ?_⟩⟩
  · refine (hend (receiveFlit_nak hup hrole (badFlit_of hbad) hfew).1).reached (exec_flitReceive hp hn) ⟨?_, ?_, rfl, rfl⟩
    · rw [lane_onLane]; rfl
    · rw [lane_onLane]; rfl
  · obtain ⟨hmoved, hctr⟩ := receiveFlit_nak hup hrole (badFlit_of hbad) hfew
    refine ⟨_, exec_flitReceive hp hn, ?_⟩
    rw [settleEngines_armed harmed (hmoved.part .link (by decide)), settle_of_streams (hmoved.part .streams (by decide)),
      settlePhases_ctr, hctr]
  · obtain ⟨y, hy, hmoved⟩ := receiveFlit_fails hup hrole (badFlit_of hbad) hp hmany
    refine ⟨_, exec_flitReceive hp hn, ?_⟩
    rw [(hmoved.settled harmed (by decide) (by decide)).self]
    exact hy
  · have harrives : Arrives s p n f c := ⟨hup, hrole, badFlit_good hcrc hword (.inl (by omega)) hlen⟩
    have hcounted := (OnePort.refl p settleParts s).also (countFec_sameBut p n c s) (by decide)
    obtain ⟨y, hacked, hmoved⟩ := hcounted.acked hrecal hheld hwithin
    have htaken := hmoved.credited f.crVc f.crTotal
    rw [← hnak] at htaken
    refine (hend htaken).reached ((exec_flitReceive hp hn).trans (by rw [harrives.idle hkind, headerTaken]))
      ⟨?_, ?_, hacked.expects n⟩
    · exact (credit_credited ..).trans (by rw [hacked.credit, hacked.crSeen])
    · exact hacked.replay.trans (by rw [hheld])
  · have harrives : DataArrives s p n f c :=
      ⟨⟨hup, hrole, badFlit_good hcrc hword (.inl (by omega)) hlen⟩, hkind, hidle, hreorder⟩
    have hcredit := credit_credited f.crVc f.crTotal (port s p)
    refine ⟨fun hseq hvc heom hdst hwhole => ?_, fun hseq hvc hahead => ?_, fun hseq hbehind => ?_, fun hseq => ?_⟩
    · have hahead : aheadBy (port s p) f < 32768 := by rw [aheadBy, hvc]; omega
      refine (hend (harrives.delivered hc hseq hahead hvc heom hdst hbytes hwhole)).reached (exec_flitReceive hp hn)
        ⟨hcredit, ?_, rxNext_arrived rfl, sget_sset_same .., sget_sset_same ..⟩
      change (reordering f (arrived n f (port s p))).reorder.erase f = []
      rw [harrives.waiting, List.erase_cons_head]
    · exact (hend (harrives.ahead hc hseq hahead hvc)).reached (exec_flitReceive hp hn)
        ⟨hcredit, harrives.waiting, rxNext_arrived rfl, rfl, rfl⟩
    · exact (hend (harrives.had hseq hbehind)).reached (exec_flitReceive hp hn)
        ⟨hcredit, hreorder, rxNext_arrived rfl, rfl, rfl⟩
    · exact (hend (harrives.unexpected hseq)).reached (exec_flitReceive hp hn) ⟨hcredit, hreorder, rfl, rfl, rfl⟩
  · have harrives : Arrives s p n f c := ⟨hup, hrole, badFlit_good hcrc hword (.inr hkind) hlen⟩
    exact (hend (headerTaken_credits hidle)).reached ((exec_flitReceive hp hn).trans (by rw [harrives.frame hkind hframe]))
      ⟨credit_credited .., rfl, rfl⟩
  · exact (replayTimeout_resends hup hheld hfew).reached (exec_replayTimeout hp hn) (lane_onLane ..)
  · refine ⟨_, exec_replayTimeout hp hn, ?_⟩
    rw [replayTimeout_eq hup hheld, if_pos hmany]
    exact txLaneFail_fails hp hc hup

end Sys2Proof.Machine
end

section
/-! Refutation of O35: a port may hold a FRAME flit among those that wait to be sent, and a lane that sends one begins its count of
slots again (R276). The clause on a new flit has the lane count one slot more, whatever the flit. -/

namespace Sys2Proof.Machine

section
variable {l : List Part} {p n v w k : Nat} {x : Port} {s t : State} {f : Flit}

/-! ### The slot of a new flit -/

theorem placeMsgs_none (hmsgs : s.link.msgs = []) : placeMsgs s = s := by
  have hsame : modLink s (fun l => { l with msgs := [] }) = s := by
    unfold modLink
    rw [← hmsgs]
  rw [placeMsgs, hmsgs, List.foldl_nil, hsame]

/-- The lane whose slot is next takes what is new, where it has nothing else to send (R281). -/
theorem pickLane_of_slotLane (hslot : slotLane x = some n) (hfree : laneFree (lane x n) = true) :
    pickLane x (fun _ => true) = some n := by
  have hagain : (lane x n).again = 0 := by
    rw [laneFree, Bool.and_eq_true, decide_eq_true_eq] at hfree
    exact hfree.1
  have hnone : x.recalTx.toList.filter (fun n => decide (0 < (lane x n).again)) = [] := by
    rcases hrecal : x.recalTx.toList.filter (fun n => decide (0 < (lane x n).again)) with _ | ⟨m, ms⟩
    · rfl
    · rw [slotLane, hrecal, List.cons_append, List.head?_cons] at hslot
      have hmem : m ∈ x.recalTx.toList.filter (fun n => decide (0 < (lane x n).again)) := by rw [hrecal]; exact List.mem_cons_self
      have hheld := (List.mem_filter.mp hmem).2
      rw [Option.some.inj hslot, hagain] at hheld
      exact absurd hheld (by decide)
  rw [slotLane, hnone, List.nil_append, List.head?_filter] at hslot
  obtain ⟨hopen, as, bs, horder, hbefore⟩ := List.find?_eq_some_iff_append.mp hslot
  refine List.find?_eq_some_iff_append.mpr ⟨?_, as, bs, horder, fun m hm => ?_⟩
  · simpa [hagain, hfree] using hopen
  · have hshut := hbefore m hm
    simp_all

/-- A port whose next flit of VC `v` leaves its queue, numbered. -/
def dequeued (v w k : Nat) (rest : List Flit) (x : Port) : Port := { x with
  queues := sset [] x.queues v rest, vcSeqTx := sset 0 x.vcSeqTx v ((sget 0 x.vcSeqTx v + 1) % 65536)
  credit := smod 0 x.credit v (· - 1), wrrVc := w, wrrLeft := k }

/-- With nothing else to send, the flit at the head of the queue goes out (R278 to R282). -/
theorem sendFlit_new {rest : List Flit} (hmsgs : s.link.msgs = []) (hup : (port s p).state = 6) (hmoved : (port s p).moved = [])
    (hdue : frameDue (port s p) n = false) (hvc : pickVc s p (port s p) = some (v, w, k)) (hslot : slotLane (port s p) = some n)
    (hfree : laneFree (lane (port s p) n) = true) (hqueue : sget [] (port s p).queues v = f :: rest) :
    sendFlit p s = sendOn p n { f with vcSeq := sget 0 (port s p).vcSeqTx v } (modPort s p (dequeued v w k rest)) := by
  have hisUp : isUp (port s p) = true := decide_eq_true hup
  have hlane := pickLane_of_slotLane hslot hfree
  unfold sendFlit
  dsimp only
  rw [placeMsgs_none hmsgs, if_pos hisUp]
  unfold sendSlotOf
  dsimp only
  rw [hslot]
  dsimp only
  rw [if_pos hfree]
  unfold sendNew
  dsimp only
  rw [hmoved]
  dsimp only
  rw [hvc, hlane]
  dsimp only
  rw [hqueue]
  exact if_neg (by rw [hdue]; exact Bool.false_ne_true)

/-- A port whose header has acknowledged a lane: a NAK that was due is sent. -/
def nakSentLane (l : Lane) : Lane := { l with nakDue := false, naks := l.naks + b2n l.nakDue }
def headed (x : Port) : Port := { onLane (ackLaneOf x) nakSentLane x with ackRotation := (x.ackRotation + 1) % 72 }

theorem OnePort.headed (h : OnePort p l x s t) (f : Flit) : OnePort p l (headed x) s (stampHeader f p t).2 := by
  obtain rfl := h.self
  exact (h.atLane (ackLaneOf (port t p)) nakSentLane).mod fun y => { y with ackRotation := ((port t p).ackRotation + 1) % 72 }

/-- A lane counts its slots from its last FRAME flit. -/
def slotLaneAfter (f : Flit) (l : Lane) : Lane := { l with slot := if f.kind = 15 then 0 else l.slot + 1 }

/-- The port that has put the flit `f` on lane `n`, sent as `g`. -/
def flitPut (n : Nat) (f g : Flit) (x : Port) : Port := { onLane n (slotLaneAfter f) (headed x) with
  rotation := ((rotationOf (onLane n (slotLaneAfter f) (headed x))).findIdx (· == n) + 1) %
    max 1 (rotationOf (onLane n (slotLaneAfter f) (headed x))).length
  sent := some (n, g), wire := flitBytes g }

/-- A flit that goes out is one slot more of its lane, and a FRAME flit the first (R276). -/
theorem slot_flitPut (n : Nat) (f g : Flit) (x : Port) :
    (lane (flitPut n f g x) n).slot = if f.kind = 15 then 0 else (lane x n).slot + 1 := by
  have hput : lane (flitPut n f g x) n = lane (onLane n (slotLaneAfter f) (headed x)) n := lane_congr rfl n
  have hheaded : lane (headed x) n = lane (onLane (ackLaneOf x) nakSentLane x) n := lane_congr rfl n
  have hslot : (lane (headed x) n).slot = (lane x n).slot := by
    rw [hheaded, lane_onLane_eq]
    split <;> rfl
  rw [hput, lane_onLane, ← hslot]
  rfl

theorem OnePort.putOn (h : OnePort p l x s t) (n : Nat) (f : Flit) :
    OnePort p l (flitPut n f (stampHeader f p t).1 x) s (putOn p n f t) :=
  ((h.headed f).atLane n (slotLaneAfter f)).mod fun y => { y with
    rotation := ((rotationOf y).findIdx (· == n) + 1) % max 1 (rotationOf y).length
    sent := some (n, (stampHeader f p t).1), wire := flitBytes (stampHeader f p t).1 }

/-- A lane that keeps the flit `g` until it is acknowledged (R281). -/
def keepLane (g : Flit) (l : Lane) : Lane := { l with txNext := (l.txNext + 1) % 256, replay := l.replay ++ [g] }

/-- The port after the flit `f`, sent as `g`, which its lane `n` keeps. -/
def flitSent (n : Nat) (f g : Flit) (x : Port) : Port := onLane n (keepLane g) (flitPut n f g x)

/-- A flit that is kept, in a memory without errors. -/
theorem OnePort.sendOn (h : OnePort p l x s t) (hc : cleanMem t) (n : Nat) (f : Flit) :
    ∃ f' g, f'.kind = f.kind ∧ OnePort p l (flitSent n f' g x) s (sendOn p n f t) := by
  have hput := h.putOn n { f with laneSeq := (Machine.lane (port t p) n).txNext }
  have hclean : cleanMem (Machine.putOn p n { f with laneSeq := (Machine.lane (port t p) n).txNext } t) := hc
  unfold Machine.sendOn
  dsimp only
  rw [bufferWrite_clean hclean, hput.self]
  exact ⟨_, _, rfl, (hput.atLane n _).mod id⟩

theorem slot_flitSent (n : Nat) (f g : Flit) (x : Port) :
    (lane (flitSent n f g x) n).slot = if f.kind = 15 then 0 else (lane x n).slot + 1 := by
  rw [flitSent, lane_onLane]
  exact slot_flitPut n f g x

end

/-- A FRAME flit in a queue of VC5, which no rule puts there. -/
def queuedFrame : Flit := ⟨15, 5, true, 0, 0, false, 0, 0, 9, 0, 0, 0, 0, 0, .idle, []⟩

/-- Port 7 is UP and has that flit, and a credit for it. -/
def frameQueued : State :=
  setPort State.reset 7 { Port.empty with state := 6, queues := [(5, [queuedFrame])], credit := [(5, 4)] }

/-- FLIT_SEND sends it on lane 0, whose slots begin again. -/
theorem slot_frameQueued : (lane (port (sendFlit 7 frameQueued) 7) 0).slot = 0 := by
  rw [sendFlit_new (v := 5) (w := 1) (k := 0) (n := 0) (f := queuedFrame) (rest := []) rfl (by decide) (by decide) (by decide)
    (by decide) (by decide) (by decide) (by decide)]
  obtain ⟨f, g, hkind, hsent⟩ := ((OnePort.refl 7 [] frameQueued).mod (dequeued 5 1 0 [])).sendOn ⟨rfl, rfl, rfl⟩ 0
    { queuedFrame with vcSeq := sget 0 (port frameQueued 7).vcSeqTx 5 }
  rw [hsent.self, slot_flitSent]
  exact if_pos hkind

/-- Refutes O35: every premise of the clause on a new flit holds in `frameQueued`, and the lane's count of slots is 0 after it, where
the clause says 1. A flit of another kind counts one slot more (`slot_flitSent`). -/
theorem not_flitsSent : ¬ Obligations.FlitsSent := by
  unfold Obligations.FlitsSent
  intro h
  obtain ⟨-, -, -, hnew, -⟩ := h frameQueued 7 (by decide) rfl (by decide)
  obtain ⟨t, g, hexec, -, -, -, -, -, -, -, -, -, -, -, -, -, -, -, -, -, -, hslot, -⟩ :=
    hnew 5 1 0 0 queuedFrame [] (by decide) (by decide) (by decide) (by decide) (by decide) (by decide) (by decide)
  have hsend : exec (.flitSend 7) frameQueued = .next (sendFlit 7 frameQueued) := rfl
  rw [← Host.Outcome.next.inj (hsend.symm.trans hexec), slot_frameQueued] at hslot
  exact absurd hslot (by decide)

end Sys2Proof.Machine
end
